-- ==== Sys2Proof/Word.lean ====
section
/-! DEFINITION. The word types of the ZX9 and their plainest arithmetic (R13, R159, R211). -/
namespace Sys2Proof

/-- A CP register or address (R159). -/
abbrev Word := BitVec 64
/-- One byte of memory, little-endian order is fixed in the memory operations (R13). -/
abbrev Byte := BitVec 8
/-- One 32-bit lane or instruction word (R37, R198). -/
abbrev W32 := BitVec 32
/-- One data-plane word (R37). -/
abbrev W256 := BitVec 256
/-- A register number g0 to g31 (R160). -/
abbrev Reg := BitVec 5

/-- A data-plane token: 256 bits and the sidebands LR, LS and K (R76). -/
structure Tok where
  bits : W256
  lr : Bool
  ls : Bool
  k : Bool
  deriving DecidableEq, Repr, Inhabited

/-- The zero token without sidebands. -/
def Tok.zero : Tok := ⟨0, false, false, false⟩

/-- The bubble word: zero bits, LR set, K set (R76). -/
def Tok.bubble : Tok := ⟨0, true, false, true⟩

/-- A core of the package and one of its two task slots (R1, R170). -/
structure CpId where
  core : Fin 256
  slot : Fin 2
  deriving DecidableEq, Repr, Inhabited

end Sys2Proof
end

