-- ==== Sys2Proof/Config.lean ====
section
/-! DEFINITION. What the spec leaves open: free values without a body, so that no proof can see them, and the constants of one package. -/
namespace Sys2Proof.Config

/-- A value the spec does not state, taken fresh for each use: `State.fresh` is the argument (entry 4).
Used for TVAL of the traps that name no value (entry 12) and the other unstated words. -/
opaque freeWord : Nat → BitVec 64

/-- An unstated 256-bit value, such as the content of a surface shadow after a failed copy (R260; entry 4). -/
opaque freeWord256 : Nat → BitVec 256

/-- A unit of HBM read under another key than it was written with: unpredictable bytes (R351; entry 4). -/
opaque garbledByte : Nat → Nat → BitVec 8

/-- A choice the spec leaves open, taken fresh for each use (entry 4). -/
opaque freeBool : Nat → Bool

/-- The energy in microjoule that an accounting sample gives: coefficients are set at test (R361; entry 14). -/
opaque energy : Nat → BitVec 64

/-- The 32 bytes from which die 0's ROM derives the identity key: what it takes from the fused seed (R411; entry 6). -/
opaque identitySeed : BitVec 256

/-- The certificate chain of the package identity (R411; entry 6). -/
opaque certificateChain : List (BitVec 8)

/-- Key material drawn by the firmware's DRBG (R412; entry 6). -/
opaque drawKey : Nat → BitVec 256

/-- ML-KEM-768 encapsulation of a partition key to an escrow endpoint (R418; entry 6). -/
opaque encapsulate : Nat → BitVec 256 → List (BitVec 8)

/-- ML-KEM-768 decapsulation by this package's firmware (R418; entry 6). -/
opaque decapsulate : List (BitVec 8) → BitVec 256

/-- What the boot ROM of a die holds, the management firmware that a die finds with its signature and the vendor key, the digest of that key in
the die's fuses, and the vendor's scheduler policy (R409; entry 6). -/
opaque bootRom : Nat → List (BitVec 8)
opaque firmwareImage : Nat → List (BitVec 8)
opaque firmwareSig : Nat → List (BitVec 8)
opaque vendorKey : Nat → List (BitVec 8)
opaque vendorDigest : Nat → List (BitVec 8)
opaque schedulerPolicy : List (BitVec 8)

/-- A register of a die's management core while its firmware runs (R333; entry 13). -/
opaque hartWord : Nat → Nat → BitVec 64

/-- The key that the management cores at the ends of a link agree in an SPDM session (R423; entry 29). -/
opaque linkKey : Nat → BitVec 256

/-- A partition key wrapped under the sealing key of the package, and a sealed image (R417; entry 27). -/
opaque sealedByte : Nat → Nat → BitVec 8

/-- The AtomicOp Requester Enable bit of a function, set by system software (R227; entry 15). -/
opaque atomicOpEnabled : Nat → Bool

/-- The bank and the row of an address of HBM: the spec gives the interleaving over pseudo-channels, and no more (R353, R354; entry 38). -/
opaque hbmBank : Nat → Nat
opaque hbmRow : Nat → Nat

end Sys2Proof.Config
end

