-- ==== Sys2Proof/Syntax.lean ====
section
/-! DEFINITION. The steps of the ZX9 as syntax: one constructor for each row of the opcode table, with the operands the step acts on. -/
namespace Sys2Proof

/-- The memories of the package and its surroundings (R159, R161, R316, R353, R363). -/
inductive Space where
  | loc (core : Fin 256)
  | scene (core : Fin 256)
  | stat (core : Fin 256)
  | cb (cluster : Fin 32)
  | hbm (die : Fin 4)
  | kv (chiplet : Fin 2)
  | host
  | peer (ep : BitVec 20)
  deriving DecidableEq, Repr, Inhabited

/-- One byte's place: a memory and a byte offset in it. -/
structure PAddr where
  space : Space
  off : Nat
  deriving DecidableEq, Repr, Inhabited

/-- One page of a partition's translation tables (R183, R221, R356). `part` is the owner of a peer page's tenant check. -/
structure PageMap where
  va : Nat
  size : Nat
  dest : PAddr
  rd : Bool
  wr : Bool
  /-- the surface record a compressed aperture binds to, when it is one (R356) -/
  surface : Option Nat
  deriving DecidableEq, Repr, Inhabited

/-- Where an element context or cue runs: the slot, its region, the physical element 16·row + column and the context or cue number. -/
structure ElemSite where
  cp : CpId
  region : Fin 4
  elem : Fin 256
  idx : BitVec 6
  deriving DecidableEq, Repr, Inhabited

/-- The fields of a context word other than OP (R86). -/
structure CtxFields where
  h : Bool
  pn : Bool
  ps : BitVec 3
  srcA : BitVec 5
  srcB : BitVec 5
  srcC : BitVec 5
  dw : BitVec 5
  fmt : BitVec 3
  mod : BitVec 8
  aux : BitVec 20
  deriving DecidableEq, Repr, Inhabited

/-- A data or credit flit as the link layer delivers it (R422): `tagOk` tells whether FEC and the tag accept it. -/
structure Flit where
  typ : BitVec 4
  dest : BitVec 20
  src : BitVec 20
  cp : CpId
  port : BitVec 5
  seq : BitVec 32
  toks : List Tok
  /-- the window a credit flit grants: count from `seq` on -/
  grant : Nat
  lseq : BitVec 24
  lack : BitVec 24
  tagOk : Bool
  deriving DecidableEq, Repr, Inhabited

/-- The PREPARE message of a gang launch (R430 to R432). -/
structure PrepareMsg where
  gid : Word
  slate : List Byte
  members : List (BitVec 20 × BitVec 12)
  index : Nat
  initiator : BitVec 20
  tkdig : List Byte
  wdogUs : Nat
  resume : Bool
  oldGid : Word
  deriving DecidableEq, Repr, Inhabited

/-- A far access that a peer package sends (R428). -/
structure PeerReq where
  ep : BitVec 20
  tag : Nat
  tkdig : List Byte
  die : Fin 4
  off : Nat
  write : Bool
  size : Nat
  data : List Byte
  deriving DecidableEq, Repr, Inhabited

/-- TDISP messages that move a TDI (R407); STOP_INTERFACE is a row of its own. -/
inductive TdispMsg where
  | lockInterface
  | startInterface
  | getState
  deriving DecidableEq, Repr, Inhabited

/-- Host AtomicOps (R406). -/
inductive HostAtomic where
  | fetchAdd (v : Word)
  | swap (v : Word)
  | cas (cmp new : Word)
  deriving DecidableEq, Repr, Inhabited

/-- What a ring member answers beside its parts: nothing, that a position of its range is not written for the layer, or that it has met an
uncorrectable error (R376). -/
inductive MemberFault where
  | none
  | unwritten
  | uncorrectable
  deriving DecidableEq, Repr, Inhabited

/-- The partial attention state a ring member returns for one query head row (R381). -/
structure RingPart where
  m : W32
  l : W32
  o : List W32
  deriving DecidableEq, Repr, Inhabited

/-- What comes from the other members of a collective (R440): their COP, CFMT and LEN, then their data, or an uncorrectable error that arose at
one of them. -/
inductive CollVerdict where
  | terms (l : List (Nat × Nat × Nat))
  | data
  | failed (member : Nat)
  deriving DecidableEq, Repr, Inhabited

/-- What an escrow session brings (R418): a ciphertext to store, a substitute's request for a stored key, an escrow package's answer before the
key goes to it, or the key for a partition that this package restores as a substitute, with the granules of its copy and its images: slot, WID
and gang. -/
inductive EscrowAct where
  | store
  | release
  | answer
  | deliver (granules : List (Fin 4 × Nat)) (images : List (CpId × Word × Word))
  deriving DecidableEq, Repr, Inhabited

/-- Who has not been heard of (R442): the neighbour of a port misses a heartbeat, or is heard again. -/
structure Heartbeat where
  port : Fin 18
  heard : Bool
  beyond : List (BitVec 20)
  deriving DecidableEq, Repr, Inhabited

/-- A source of fault records of a die (R302, R360). -/
inductive RecSource where
  | core (k : Fin 256)
  | hbm (d : Fin 4) (k : Fin 2)
  deriving DecidableEq, Repr, Inhabited

/-- The steps of the part, one constructor for each row of the opcode table. -/
inductive Instr where
  -- alu group and its constant forms (R212)
  | add (d a b : Reg)
  | sub (d a b : Reg)
  | and (d a b : Reg)
  | or (d a b : Reg)
  | xor (d a b : Reg)
  | andn (d a b : Reg)
  | shl (d a b : Reg)
  | shr (d a b : Reg)
  | sar (d a b : Reg)
  | slt (d a b : Reg)
  | sltu (d a b : Reg)
  | min (d a b : Reg)
  | max (d a b : Reg)
  | clz (d a : Reg)
  | ctz (d a : Reg)
  | popc (d a : Reg)
  | addImm (d a : Reg) (i : BitVec 15)
  | andImm (d a : Reg) (i : BitVec 15)
  | orImm (d a : Reg) (i : BitVec 15)
  | xorImm (d a : Reg) (i : BitVec 15)
  | sltImm (d a : Reg) (i : BitVec 15)
  | sltuImm (d a : Reg) (i : BitVec 15)
  | minImm (d a : Reg) (i : BitVec 15)
  | maxImm (d a : Reg) (i : BitVec 15)
  | shlImm (d a : Reg) (s : BitVec 6)
  | shrImm (d a : Reg) (s : BitVec 6)
  | sarImm (d a : Reg) (s : BitVec 6)
  -- muldiv group (R213)
  | mul (d a b : Reg)
  | mulh (d a b : Reg)
  | mulhu (d a b : Reg)
  | div (d a b : Reg)
  | divu (d a b : Reg)
  | rem (d a b : Reg)
  | remu (d a b : Reg)
  -- bit fields and constants (R214, R215)
  | bfx (d a : Reg) (p w : BitVec 6)
  | bfxu (d a : Reg) (p w : BitVec 6)
  | bfi (d a : Reg) (p w : BitVec 6)
  | movi (d : Reg) (i : BitVec 20)
  | movh (d : Reg) (q : BitVec 2) (i : BitVec 16)
  -- branches and jumps (R216, R217)
  | bEq (a b : Reg) (o : BitVec 15)
  | bNe (a b : Reg) (o : BitVec 15)
  | bLt (a b : Reg) (o : BitVec 15)
  | bGe (a b : Reg) (o : BitVec 15)
  | bLtu (a b : Reg) (o : BitVec 15)
  | bGeu (a b : Reg) (o : BitVec 15)
  | jmp (o : BitVec 25)
  | call (o : BitVec 25)
  | jmpReg (a : Reg)
  | callReg (a : Reg)
  | ret
  -- loads and stores, fences, prefetch (R219 to R225)
  | ld (d a : Reg) (z : BitVec 3) (i : BitVec 12)
  | st (d a : Reg) (z : BitVec 3) (i : BitVec 12)
  | ldf (d a : Reg) (z : BitVec 3) (i : BitVec 12)
  | stf (d a : Reg) (z : BitVec 3) (i : BitVec 12)
  | fenceLd
  | fenceSt
  | fenceAll
  | fenceEng
  | pref (a : Reg) (i : BitVec 12)
  -- atomics (R226)
  | amoAdd (d a b : Reg)
  | amoSwp (d a b : Reg)
  | amoCas (d a b c : Reg)
  | amoMax (d a b : Reg)
  | amoMin (d a b : Reg)
  | amoAnd (d a b : Reg)
  | amoOr (d a b : Reg)
  -- system (R229 to R233)
  | trap (c : BitVec 15)
  | tret
  | wait (a : Reg) (m : BitVec 5)
  | bkpt (c : BitVec 15)
  | syscVerify (d a : Reg)
  | syscFused (d a : Reg)
  | syscEnergy (d a : Reg)
  | csrr (d : Reg) (c : BitVec 12)
  | csrw (a : Reg) (c : BitVec 12)
  | csrs (d a : Reg) (c : BitVec 12)
  | csrc (d a : Reg) (c : BitVec 12)
  | illegalWord (w : W32)
  -- reel commands (R243 to R250)
  | rload (a b : Reg) (r : BitVec 2)
  | rarm (a : Reg) (r : BitVec 2)
  | rgo (r : BitVec 2)
  | rstop (r : BitVec 2)
  | rstatState (x : Reg) (r : BitVec 2)
  | rstatLoadrep (x : Reg) (r : BitVec 2)
  | rstatFlags (x : Reg) (r : BitVec 2)
  | rstatTclap (x : Reg) (r : BitVec 2)
  | rstatHeld (x : Reg) (r : BitVec 2)
  | rstatCycles (x : Reg) (r : BitVec 2)
  | rstatEnergy (x : Reg) (r : BitVec 2)
  | rstatFault (x : Reg) (r : BitVec 2)
  | rstatOrigin (x : Reg) (r : BitVec 2)
  | rsave (a : Reg) (r : BitVec 2)
  | rrest (a : Reg) (r : BitVec 2)
  -- streams, copies, stages (R251 to R264)
  | spat (a : Reg) (k : BitVec 4)
  | sbind (p : BitVec 5) (k : BitVec 4)
  | sbindt (a : Reg) (p : BitVec 5) (k : BitVec 4)
  | sstop (p : BitVec 5)
  | cpy (a : Reg)
  | cpyg (a : Reg)
  | stgdef (a : Reg) (j : BitVec 4)
  | stgrel (a : Reg) (j : BitVec 4)
  -- synchronisation (R265 to R274)
  | sig (a b : Reg) (s : BitVec 3)
  | waitge (a b : Reg) (s : BitVec 3)
  | pub (a b : Reg) (n : BitVec 7) (s : BitVec 3)
  | bind (x a b : Reg)
  | unbind (a : Reg)
  | trig
  | launch (a b : Reg)
  | tinv (a b : Reg)
  -- cluster (R324, R329)
  | cbarArr (n : BitVec 4)
  | cbarWait (n : BitVec 4)
  | cpeer (a : Reg) (p : BitVec 3)
  -- attention chiplet and masks (R374 to R382, R396, R397)
  | attn (a : Reg)
  | kvapp (x a b : Reg)
  | kvlook (x a b : Reg)
  | kvfork (x a b : Reg)
  | kvrel (a : Reg)
  | mload (a : Reg) (k : BitVec 4)
  | mstatFull (x a : Reg)
  | mstatPart (x a : Reg)
  | mstatEmpty (x a : Reg)
  | mstatSkipb (x a : Reg)
  | ringset (a : Reg) (r : BitVec 8)
  | kvpool (a : Reg)
  -- fabric (R439 to R441)
  | glaunch (a b : Reg)
  | coll (a : Reg)
  | gstat (x a : Reg)
  -- events of a CP and its command queue
  | landing (c : CpId) (id : Nat)
  | fetchMissFill (c : CpId)
  | commandQueueAdvance (c : CpId)
  -- events of a region
  | reelLoadComplete (c : CpId) (r : Fin 4)
  | regionCycle (c : CpId) (r : Fin 4)
  | takeLastLapEnd (c : CpId) (r : Fin 4)
  | takeEnded (c : CpId) (r : Fin 4)
  | resultLand (c : CpId) (r : Fin 4)
  | cueRun (x : ElemSite) (ctx : BitVec 5)
  | cueStart (x : ElemSite) (port : BitVec 5)
  | cueStop (x : ElemSite) (port : BitVec 5)
  | cueDrain (x : ElemSite) (acc : BitVec 2) (port : BitVec 5) (peer : Bool) (pb : BitVec 3) (strm : BitVec 2) (clr : Bool)
  | cueSig (x : ElemSite) (ctr : BitVec 4) (scope : BitVec 3) (inc : BitVec 32)
  | cueWait (x : ElemSite) (ctr : BitVec 4) (scope : BitVec 3) (step : BitVec 32)
  | cueBegin (x : ElemSite)
  | cueEnd (x : ElemSite)
  | cueEndtake (x : ElemSite)
  -- element contexts: lane instructions
  | elemNop (x : ElemSite) (w : CtxFields)
  | iadd (x : ElemSite) (w : CtxFields)
  | isub (x : ElemSite) (w : CtxFields)
  | imul (x : ElemSite) (w : CtxFields)
  | imad (x : ElemSite) (w : CtxFields)
  | imin (x : ElemSite) (w : CtxFields)
  | imax (x : ElemSite) (w : CtxFields)
  | iabs (x : ElemSite) (w : CtxFields)
  | elemAnd (x : ElemSite) (w : CtxFields)
  | elemOr (x : ElemSite) (w : CtxFields)
  | elemXor (x : ElemSite) (w : CtxFields)
  | elemShl (x : ElemSite) (w : CtxFields)
  | elemShr (x : ElemSite) (w : CtxFields)
  | sra (x : ElemSite) (w : CtxFields)
  | icmp (x : ElemSite) (w : CtxFields)
  | sel (x : ElemSite) (w : CtxFields)
  | fadd (x : ElemSite) (w : CtxFields)
  | fsub (x : ElemSite) (w : CtxFields)
  | fmul (x : ElemSite) (w : CtxFields)
  | fma (x : ElemSite) (w : CtxFields)
  | fmin (x : ElemSite) (w : CtxFields)
  | fmax (x : ElemSite) (w : CtxFields)
  | fabs (x : ElemSite) (w : CtxFields)
  | fneg (x : ElemSite) (w : CtxFields)
  | fcmp (x : ElemSite) (w : CtxFields)
  | rcps (x : ElemSite) (w : CtxFields)
  | rsqs (x : ElemSite) (w : CtxFields)
  | exp2 (x : ElemSite) (w : CtxFields)
  | act (x : ElemSite) (w : CtxFields)
  | dact (x : ElemSite) (w : CtxFields)
  | cvt (x : ElemSite) (w : CtxFields)
  | sdenc (x : ElemSite) (w : CtxFields)
  | sddec (x : ElemSite) (w : CtxFields)
  | qnt (x : ElemSite) (w : CtxFields)
  | mov (x : ElemSite) (w : CtxFields)
  | rep (x : ElemSite) (w : CtxFields)
  | perm (x : ElemSite) (w : CtxFields)
  | pack (x : ElemSite) (w : CtxFields)
  | unpk (x : ElemSite) (w : CtxFields)
  | lsum (x : ElemSite) (w : CtxFields)
  | lmax (x : ElemSite) (w : CtxFields)
  | tap (x : ElemSite) (w : CtxFields)
  | put (x : ElemSite) (w : CtxFields)
  -- element contexts: contraction instructions
  | trix (x : ElemSite) (w : CtxFields)
  | trixb (x : ElemSite) (w : CtxFields)
  | trixi (x : ElemSite) (w : CtxFields)
  | trixg (x : ElemSite) (w : CtxFields)
  | sptrix (x : ElemSite) (w : CtxFields)
  | scac (x : ElemSite) (w : CtxFields)
  | accz (x : ElemSite) (w : CtxFields)
  | drn (x : ElemSite) (w : CtxFields)
  | drna (x : ElemSite) (w : CtxFields)
  | cmpr (x : ElemSite) (w : CtxFields)
  | spx (x : ElemSite) (w : CtxFields)
  | wld (x : ElemSite) (w : CtxFields)
  | wldt (x : ElemSite) (w : CtxFields)
  -- streams, translation, copies, tiles, counters
  | streamReadIssue (c : CpId) (p : BitVec 5)
  | tokenArriveTap (c : CpId) (id : Nat)
  | streamWriteStore (c : CpId) (id : Nat)
  | dispatchedStreamStart (c : CpId) (p : BitVec 5)
  | stampedStreamStart (c : CpId) (p : BitVec 5)
  | edgeTlbWalkReturn (c : CpId) (p : BitVec 5)
  | copyStart (c : CpId)
  | copyComplete (c : CpId)
  | tileArrive (id : Nat)
  | counterAddArrive (id : Nat)
  | faultRecordOffer (x : RecSource)
  | fbctlHeadWrite (d : Fin 4) (v : W32)
  -- dispatch and firmware
  | slotSwapDone (core : Fin 256)
  | wqTailWrite (fn : BitVec 8) (q : Fin 4096) (v : W32)
  | wqRingWrite (fn : BitVec 8) (q : Fin 4096) (wid : Word)
  | taskRetire (c : CpId)
  | cmdBind (c : CpId) (cfg : Word)
  | cmdSwap (c : CpId) (cfg : Word)
  | cmdUnbind (c : CpId) (cfg : Word)
  | cmdRing (c : CpId) (cfg : Word)
  | spctlGo (d : Fin 4) (k : Fin 2) (v : Word)
  | crossingChannelOpen (a : CpId) (p : BitVec 5) (b : CpId) (q : BitVec 5)
  | windowGrant (c : CpId) (p : BitVec 5)
  | einjWrite (core : Fin 256) (v : Word)
  | cbinjWrite (cl : Fin 32) (v : Word)
  | hinjWrite (d : Fin 4) (k : Fin 2) (v : Word)
  | kvinjWrite (ch : Fin 2) (v : Word)
  | cbarcfgWrite (cl : Fin 32) (b : BitVec 4) (v : Word)
  | kvpoolWrite (ch : Fin 2) (p : BitVec 6) (v : Word)
  | schedulerQuantum (core : Fin 256)
  | taskStart (launch : Nat) (wid : Word) (c : CpId)
  -- attention calls
  | attnCallStart (c : CpId) (p : BitVec 5)
  | attnInputToken (c : CpId) (p : BitVec 5) (t : Tok)
  | attnCallComplete (c : CpId) (p : BitVec 5)
  | debugStep (fn : BitVec 8)
  | debugRun (fn : BitVec 8)
  -- fabric
  | fabricChannelOpen (c : CpId) (p : BitVec 5)
  | clapperTime (gid : Word)
  | gangWatchdog (gid : Word)
  | readyTimeout (gid : Word)
  | gangReplyTimeout (gid : Word)
  | gangForget (gid : Word)
  | postedStorePerformed (c : CpId) (id : Nat)
  | registerWrite (off : Nat) (v : Word)
  -- what comes from outside the part, from firmware and from the fabric, and resets
  | collComplete (c : CpId) (id : Nat) (shards : List (List Byte)) (v : CollVerdict)
  | tdispMessage (fn : BitVec 8) (m : TdispMsg)
  | stopInterface (fn : BitVec 8)
  | getVersion (fn : BitVec 8) (msg : List Byte)
  | getCapabilities (fn : BitVec 8) (msg : List Byte)
  | negotiateAlgorithms (fn : BitVec 8) (msg : List Byte)
  | getDigests (fn : BitVec 8) (msg : List Byte)
  | getCertificate (fn : BitVec 8) (msg : List Byte)
  | challenge (fn : BitVec 8) (msg : List Byte)
  | getMeasurements (fn : BitVec 8) (msg : List Byte)
  | keyExchange (fn : BitVec 8) (msg : List Byte)
  | finish (fn : BitVec 8) (msg : List Byte)
  | endSession (fn : BitVec 8) (msg : List Byte)
  -- the key of a Selective IDE stream, or of the interface's Link IDE when no stream is named (R408)
  | ideKm (fn : BitVec 8) (hif : Fin 2) (stream : Option (BitVec 8)) (key : BitVec 256)
  -- BAR 7 of a host write stands for the host's own memory, which no BAR holds (entry 18)
  | hostWrite (fn : BitVec 8) (hif : Fin 2) (ide : Option (BitVec 8)) (bar : BitVec 3) (off : Nat) (data : List Byte)
  | hostRead (fn : BitVec 8) (hif : Fin 2) (ide : Option (BitVec 8)) (bar : BitVec 3) (off : Nat) (len : Nat)
  | hostAtomicop (fn : BitVec 8) (hif : Fin 2) (ide : Option (BitVec 8)) (bar : BitVec 3) (off : Nat) (size : Nat) (op : HostAtomic)
  | laneFail (port : Fin 18)
  | dataFlit (port : Fin 18) (f : Flit)
  | creditFlit (port : Fin 18) (f : Flit)
  | linkDown (port : Fin 18) (beyond : List (BitVec 20))
  | linkRekey (port : Fin 18)
  | heartbeatLoss (h : Heartbeat)
  | ptpSync (offset : Int) (grandmaster : Word)
  | peerAccess (r : PeerReq)
  | escrowHandover (ep : BitVec 20) (part : BitVec 5) (ciphertext : List Byte) (act : EscrowAct) (meas : List (List Byte))
  | prepare (m : PrepareMsg)
  | ack (gid : Word) (member : Nat)
  | nak (gid : Word) (member : Nat) (reason : BitVec 8)
  | clapper (gid : Word) (ts : Word)
  | commitAck (gid : Word) (member : Nat)
  | confirmed (gid : Word)
  | abort (gid : Word) (reason : BitVec 8)
  | stop (gid : Word) (sender : Nat)
  | ringMemberPartial (c : CpId) (p : BitVec 5) (member : Nat) (parts : List RingPart) (bad : MemberFault)
  | ringMemberSilent (c : CpId) (p : BitVec 5)
  | energySample (d : Fin 4) (uj : Word)
  | powerControlWindow (d : Fin 4) (pmw : BitVec 24) (temp : BitVec 8) (skip : BitVec 16)
  | extentRewrite (part : BitVec 5) (base : Word) (len : Word) (pages : List PageMap)
  | parkRelease (d : Fin 4) (k : Fin 2)
  | slateTake (q : Fin 4096)
  | deferredTrap (c : CpId)
  | waitTimeout (c : CpId)
  | dependenceRead (launch : Nat) (i : Fin 4)
  | spareRowCopy (d : Fin 4) (k : Fin 2)
  | create
  | destroy
  | cores
  | queue
  | escrow
  | checkpoint
  | restore
  | power
  | coldReset
  | warmReset
  deriving DecidableEq, Repr, Inhabited

end Sys2Proof
end

