-- ==== Sys2Proof/WellFormed.lean ====
section
/-! DEFINITION. Which instructions are well-formed: the limits that R101 to R105 and R199 to R207 put on the fields of a word. -/
namespace Sys2Proof

/-- The CSR numbers that exist (R234). -/
def csrExists (c : BitVec 12) : Bool :=
  let n := c.toNat
  n == 0x000 || n == 0x001 || n == 0x004 || n == 0x005 || n == 0x006 || n == 0x008
    || (0x010 ≤ n && n ≤ 0x013) || (0x020 ≤ n && n ≤ 0x025) || (0x030 ≤ n && n ≤ 0x035)
    || (0x040 ≤ n && n ≤ 0x05F)

/-- A bit field of WM1 + 1 bits from POS stays inside the register (R203). -/
def fieldFits (p w : BitVec 6) : Bool := p.toNat + w.toNat + 1 ≤ 64

/-- A port 0 to 23 (R206). -/
def portOk (p : BitVec 5) : Bool := p.toNat ≤ 23

/-- A scope level 0 to 5 (R84, R206). -/
def scopeOk (s : BitVec 3) : Bool := s.toNat ≤ 5

/-- No field of a context word holds a code that R87, R88 and R92 reserve. -/
def CtxFields.ok (w : CtxFields) : Bool :=
  w.srcA != 31 && w.srcB != 31 && w.srcC != 31 && decide (w.dw.toNat ≤ 28) && w.aux.extractLsb' 9 2 != 3

/-- The limits on an instruction's fields. Steps that are no words have none. -/
def Instr.wf : Instr → Bool
  | .bfx _ _ p w | .bfxu _ _ p w | .bfi _ _ p w => fieldFits p w
  | .ld _ _ z _ | .ldf _ _ z _ => decide (z.toNat ≤ 6)
  | .st _ _ z _ | .stf _ _ z _ => decide (z.toNat ≤ 3)
  | .csrr _ c | .csrw _ c | .csrs _ _ c | .csrc _ _ c => csrExists c
  | .sbind p _ | .sbindt _ p _ | .sstop p => portOk p
  | .sig _ _ s | .waitge _ _ s | .pub _ _ _ s => scopeOk s
  | .cueStart _ p | .cueStop _ p => portOk p
  | .cueDrain _ _ p peer _ _ _ => if peer then p == 0 else portOk p
  | .cueSig _ _ s _ | .cueWait _ _ s _ => scopeOk s
  | .elemNop _ w | .iadd _ w | .isub _ w | .imul _ w | .imad _ w | .imin _ w | .imax _ w | .iabs _ w
  | .elemAnd _ w | .elemOr _ w | .elemXor _ w | .elemShl _ w | .elemShr _ w | .sra _ w | .icmp _ w | .sel _ w
  | .fadd _ w | .fsub _ w | .fmul _ w | .fma _ w | .fmin _ w | .fmax _ w | .fabs _ w | .fneg _ w | .fcmp _ w
  | .rcps _ w | .rsqs _ w | .exp2 _ w | .act _ w | .dact _ w | .cvt _ w | .sdenc _ w | .sddec _ w | .qnt _ w
  | .mov _ w | .rep _ w | .perm _ w | .pack _ w | .unpk _ w | .lsum _ w | .lmax _ w | .tap _ w | .put _ w
  | .trix _ w | .trixb _ w | .trixi _ w | .trixg _ w | .sptrix _ w | .scac _ w | .accz _ w | .drn _ w
  | .drna _ w | .cmpr _ w | .spx _ w | .wld _ w | .wldt _ w => w.ok
  | _ => true

end Sys2Proof
end

