-- ==== Sys2Proof/Decode.lean ====
section
/-! DEFINITION. Decoding of the 32-bit CP words (R198 to R207), of the 64-bit context words (R86 to R93) and of the
64-bit cues (R82, R83), each total and rejecting by name; after them the encoders, written from the same tables. -/
namespace Sys2Proof

/-- Why a word is no instruction (R93, R207). -/
inductive DecodeError where
  | reservedOpcode
  | reservedFunction
  | nonzeroField
  | brokenLimit
  | noSuchCsr
  | otherService
  | noWord
  deriving DecidableEq, Repr, Inhabited

/-- What decoding answers. -/
abbrev Decoded := Except DecodeError Instr

/-- The instruction `i` when `ok` holds, else the error. -/
def given (ok : Bool) (e : DecodeError) (i : Instr) : Decoded := if ok then .ok i else .error e

/-! ### Fields of a CP word (R199) -/

def opOf (w : W32) : BitVec 7 := w.extractLsb' 25 7
def rdOf (w : W32) : Reg := w.extractLsb' 20 5
def raOf (w : W32) : Reg := w.extractLsb' 15 5
def loOf (w : W32) : BitVec 15 := w.extractLsb' 0 15

/-- A CP word from OP, the two register places and bits [14:0]. -/
def packWord (op : BitVec 7) (rd ra : Reg) (lo : BitVec 15) : W32 := op ++ rd ++ ra ++ lo

/-- Bits [14:0] of formats R, N, K, M, C and E. -/
def loR (rb rc fn : BitVec 5) : BitVec 15 := rb ++ rc ++ fn
def loN (fn : BitVec 2) (sh : BitVec 6) : BitVec 15 := (0 : BitVec 7) ++ fn ++ sh
def loK (p w : BitVec 6) (fn : BitVec 3) : BitVec 15 := p ++ w ++ fn
def loM (z : BitVec 3) (i : BitVec 12) : BitVec 15 := z ++ i
def loE (rb : BitVec 5) (i : BitVec 10) : BitVec 15 := rb ++ i

/-! ### The groups (R202 to R206); `lo` is bits [14:0] of the word -/

/-- The alu group (R202). -/
def decodeAlu (d a : Reg) (lo : BitVec 15) : Decoded :=
  let b : Reg := lo.extractLsb' 10 5
  let rc : Reg := lo.extractLsb' 5 5
  let three (i : Instr) := given (rc == 0) .nonzeroField i
  let one (i : Instr) := given (rc == 0 && b == 0) .nonzeroField i
  match (lo.extractLsb' 0 5 : BitVec 5).toNat with
  | 1 => three (.add d a b)
  | 2 => three (.sub d a b)
  | 3 => three (.and d a b)
  | 4 => three (.or d a b)
  | 5 => three (.xor d a b)
  | 6 => three (.andn d a b)
  | 7 => three (.shl d a b)
  | 8 => three (.shr d a b)
  | 9 => three (.sar d a b)
  | 10 => three (.slt d a b)
  | 11 => three (.sltu d a b)
  | 12 => three (.min d a b)
  | 13 => three (.max d a b)
  | 14 => one (.clz d a)
  | 15 => one (.ctz d a)
  | 16 => one (.popc d a)
  | _ => .error .reservedFunction

/-- The muldiv group (R202). -/
def decodeMuldiv (d a : Reg) (lo : BitVec 15) : Decoded :=
  let b : Reg := lo.extractLsb' 10 5
  let ok := (lo.extractLsb' 5 5 : Reg) == 0
  match (lo.extractLsb' 0 5 : BitVec 5).toNat with
  | 0 => given ok .nonzeroField (.mul d a b)
  | 1 => given ok .nonzeroField (.mulh d a b)
  | 2 => given ok .nonzeroField (.mulhu d a b)
  | 3 => given ok .nonzeroField (.div d a b)
  | 4 => given ok .nonzeroField (.divu d a b)
  | 5 => given ok .nonzeroField (.rem d a b)
  | 6 => given ok .nonzeroField (.remu d a b)
  | _ => .error .reservedFunction

/-- The bitfield group (R203). -/
def decodeBitfield (d a : Reg) (lo : BitVec 15) : Decoded :=
  let p : BitVec 6 := lo.extractLsb' 9 6
  let wm : BitVec 6 := lo.extractLsb' 3 6
  match (lo.extractLsb' 0 3 : BitVec 3).toNat with
  | 0 => given (fieldFits p wm) .brokenLimit (.bfx d a p wm)
  | 1 => given (fieldFits p wm) .brokenLimit (.bfxu d a p wm)
  | 2 => given (fieldFits p wm) .brokenLimit (.bfi d a p wm)
  | _ => .error .reservedFunction

/-- The shift group (R203). -/
def decodeShift (d a : Reg) (lo : BitVec 15) : Decoded :=
  let s : BitVec 6 := lo.extractLsb' 0 6
  let ok := (lo.extractLsb' 8 7 : BitVec 7) == 0
  match (lo.extractLsb' 6 2 : BitVec 2).toNat with
  | 0 => given ok .nonzeroField (.shlImm d a s)
  | 1 => given ok .nonzeroField (.shrImm d a s)
  | 2 => given ok .nonzeroField (.sarImm d a s)
  | _ => .error .reservedFunction

/-- The jump group (R202). -/
def decodeJump (d a : Reg) (lo : BitVec 15) : Decoded :=
  let ok := d == 0 && (lo.extractLsb' 10 5 : Reg) == 0 && (lo.extractLsb' 5 5 : Reg) == 0
  match (lo.extractLsb' 0 5 : BitVec 5).toNat with
  | 0 => given ok .nonzeroField (.jmpReg a)
  | 1 => given ok .nonzeroField (.callReg a)
  | 2 => if ok then given (a == 30) .brokenLimit .ret else .error .nonzeroField
  | _ => .error .reservedFunction

/-- fence (R202). -/
def decodeFence (d a : Reg) (lo : BitVec 15) : Decoded :=
  let ok := d == 0 && a == 0 && (lo.extractLsb' 10 5 : Reg) == 0 && (lo.extractLsb' 5 5 : Reg) == 0
  match (lo.extractLsb' 0 5 : BitVec 5).toNat with
  | 0 => given ok .nonzeroField .fenceLd
  | 1 => given ok .nonzeroField .fenceSt
  | 2 => given ok .nonzeroField .fenceAll
  | 3 => given ok .nonzeroField .fenceEng
  | _ => .error .reservedFunction

/-- The amo group (R202). -/
def decodeAmo (d a : Reg) (lo : BitVec 15) : Decoded :=
  let b : Reg := lo.extractLsb' 10 5
  let rc : Reg := lo.extractLsb' 5 5
  let ok := rc == 0
  match (lo.extractLsb' 0 5 : BitVec 5).toNat with
  | 0 => given ok .nonzeroField (.amoAdd d a b)
  | 1 => given ok .nonzeroField (.amoSwp d a b)
  | 2 => .ok (.amoCas d a b rc)
  | 3 => given ok .nonzeroField (.amoMax d a b)
  | 4 => given ok .nonzeroField (.amoMin d a b)
  | 5 => given ok .nonzeroField (.amoAnd d a b)
  | 6 => given ok .nonzeroField (.amoOr d a b)
  | _ => .error .reservedFunction

/-- csr (R203, R207). -/
def decodeCsr (d a : Reg) (lo : BitVec 15) : Decoded :=
  let c : BitVec 12 := lo.extractLsb' 0 12
  match (lo.extractLsb' 12 3 : BitVec 3).toNat with
  | 0 => if a == 0 then given (csrExists c) .noSuchCsr (.csrr d c) else .error .nonzeroField
  | 1 => if d == 0 then given (csrExists c) .noSuchCsr (.csrw a c) else .error .nonzeroField
  | 2 => given (csrExists c) .noSuchCsr (.csrs d a c)
  | 3 => given (csrExists c) .noSuchCsr (.csrc d a c)
  | _ => .error .reservedFunction

/-- sysc (R205, R232): the services of the table are three instructions. A word with another service number is no row
of the opcode table; it is refused here under a name of its own, and `execIllegalWord` gives it the effect of R232. -/
def decodeSysc (d a : Reg) (lo : BitVec 15) : Decoded :=
  match lo.toNat with
  | 0 => .ok (.syscVerify d a)
  | 1 => .ok (.syscFused d a)
  | 2 => .ok (.syscEnergy d a)
  | _ => .error .otherService

/-- The E-format commands (R206); `i` is IMM10. -/
def decodeE (op : Nat) (x a : Reg) (lo : BitVec 15) : Decoded :=
  let b : Reg := lo.extractLsb' 10 5
  let i : BitVec 10 := lo.extractLsb' 0 10
  let r : BitVec 2 := i.extractLsb' 0 2
  let r0 := (i.extractLsb' 2 8 : BitVec 8) == 0
  let k : BitVec 4 := i.extractLsb' 0 4
  let k0 := (i.extractLsb' 4 6 : BitVec 6) == 0
  let p : BitVec 5 := i.extractLsb' 4 5
  let p0 := (i.extractLsb' 9 1 : BitVec 1) == 0
  let s : BitVec 3 := i.extractLsb' 0 3
  let s0 := (i.extractLsb' 3 7 : BitVec 7) == 0
  let i0 := i == 0
  let x0 := x == 0
  let a0 := a == 0
  let b0 := b == 0
  match op with
  | 0x50 => given (x0 && r0) .nonzeroField (.rload a b r)
  | 0x51 => given (x0 && b0 && r0) .nonzeroField (.rarm a r)
  | 0x52 => given (x0 && a0 && b0 && r0) .nonzeroField (.rgo r)
  | 0x53 => given (x0 && a0 && b0 && r0) .nonzeroField (.rstop r)
  | 0x54 =>
    if a0 && b0 && (i.extractLsb' 7 3 : BitVec 3) == 0 then
      match (i.extractLsb' 2 5 : BitVec 5).toNat with
      | 0 => .ok (.rstatState x r)
      | 1 => .ok (.rstatLoadrep x r)
      | 2 => .ok (.rstatFlags x r)
      | 3 => .ok (.rstatTclap x r)
      | 4 => .ok (.rstatHeld x r)
      | 5 => .ok (.rstatCycles x r)
      | 6 => .ok (.rstatEnergy x r)
      | 7 => .ok (.rstatFault x r)
      | 8 => .ok (.rstatOrigin x r)
      | _ => .error .reservedFunction
    else .error .nonzeroField
  | 0x55 => given (x0 && b0 && r0) .nonzeroField (.rsave a r)
  | 0x56 => given (x0 && b0 && r0) .nonzeroField (.rrest a r)
  | 0x57 => given (x0 && b0 && k0) .nonzeroField (.spat a k)
  | 0x58 => if x0 && a0 && b0 && p0 then given (portOk p) .brokenLimit (.sbind p k) else .error .nonzeroField
  | 0x59 => if x0 && b0 && p0 then given (portOk p) .brokenLimit (.sbindt a p k) else .error .nonzeroField
  | 0x5A => if x0 && a0 && b0 && p0 && k == 0 then given (portOk p) .brokenLimit (.sstop p) else .error .nonzeroField
  | 0x5B => given (x0 && b0 && i0) .nonzeroField (.cpy a)
  | 0x5C => given (x0 && b0 && i0) .nonzeroField (.cpyg a)
  | 0x5D => given (x0 && b0 && k0) .nonzeroField (.stgdef a k)
  | 0x5E => given (x0 && b0 && k0) .nonzeroField (.stgrel a k)
  | 0x60 => if x0 && s0 then given (scopeOk s) .brokenLimit (.sig a b s) else .error .nonzeroField
  | 0x61 => if x0 && s0 then given (scopeOk s) .brokenLimit (.waitge a b s) else .error .nonzeroField
  | 0x62 => if x0 then given (scopeOk s) .brokenLimit (.pub a b (i.extractLsb' 3 7) s) else .error .nonzeroField
  | 0x63 => given (i0) .nonzeroField (.bind x a b)
  | 0x64 => given (x0 && b0 && i0) .nonzeroField (.unbind a)
  | 0x65 => given (x0 && a0 && b0 && i0) .nonzeroField (.trig)
  | 0x66 => given (x0 && i0) .nonzeroField (.launch a b)
  | 0x67 => given (x0 && i0) .nonzeroField (.tinv a b)
  | 0x68 => given (x0 && a0 && b0 && k0) .nonzeroField (.cbarArr k)
  | 0x69 => given (x0 && a0 && b0 && k0) .nonzeroField (.cbarWait k)
  | 0x6A => given (x0 && b0 && s0) .nonzeroField (.cpeer a s)
  | 0x6C => given (x0 && b0 && i0) .nonzeroField (.attn a)
  | 0x6D => given (i0) .nonzeroField (.kvapp x a b)
  | 0x6E => given (i0) .nonzeroField (.kvlook x a b)
  | 0x6F => given (i0) .nonzeroField (.kvfork x a b)
  | 0x70 => given (x0 && b0 && i0) .nonzeroField (.kvrel a)
  | 0x71 => given (x0 && b0 && k0) .nonzeroField (.mload a k)
  | 0x72 =>
    if b0 && r0 then
      match r.toNat with
      | 0 => .ok (.mstatFull x a)
      | 1 => .ok (.mstatPart x a)
      | 2 => .ok (.mstatEmpty x a)
      | _ => .ok (.mstatSkipb x a)
    else .error .nonzeroField
  | 0x73 =>
    if x0 && b0 then
      if p0 then given ((i.extractLsb' 8 1 : BitVec 1) == 0) .nonzeroField (.ringset a (i.extractLsb' 0 8))
      else given ((i.extractLsb' 0 9 : BitVec 9) == 0) .nonzeroField (.kvpool a)
    else .error .nonzeroField
  | 0x74 => given (x0 && i0) .nonzeroField (.glaunch a b)
  | 0x75 => given (x0 && b0 && i0) .nonzeroField (.coll a)
  | 0x76 => given (b0 && i0) .nonzeroField (.gstat x a)
  | _ => .error .reservedOpcode

/-- The scalar and branch opcodes 0x00 to 0x2F (R201). -/
def decodeScalar (op : Nat) (d a : Reg) (lo : BitVec 15) : Decoded :=
  match op with
  | 0x00 => decodeAlu d a lo
  | 0x01 => decodeMuldiv d a lo
  | 0x02 => decodeBitfield d a lo
  | 0x04 => .ok (.addImm d a lo)
  | 0x05 => .ok (.andImm d a lo)
  | 0x06 => .ok (.orImm d a lo)
  | 0x07 => .ok (.xorImm d a lo)
  | 0x08 => .ok (.sltImm d a lo)
  | 0x09 => .ok (.sltuImm d a lo)
  | 0x0A => .ok (.minImm d a lo)
  | 0x0B => .ok (.maxImm d a lo)
  | 0x0C => decodeShift d a lo
  | 0x10 => .ok (.movi d (a ++ lo))
  | 0x11 =>
    given ((a.extractLsb' 1 2 : BitVec 2) == 0) .nonzeroField
      (.movh d (a.extractLsb' 3 2) ((a.extractLsb' 0 1 : BitVec 1) ++ lo))
  | 0x20 => .ok (.bEq d a lo)
  | 0x21 => .ok (.bNe d a lo)
  | 0x22 => .ok (.bLt d a lo)
  | 0x23 => .ok (.bGe d a lo)
  | 0x24 => .ok (.bLtu d a lo)
  | 0x25 => .ok (.bGeu d a lo)
  | 0x26 => .ok (.jmp (d ++ a ++ lo))
  | 0x27 => .ok (.call (d ++ a ++ lo))
  | 0x28 => decodeJump d a lo
  | _ => .error .reservedOpcode

/-- The memory and system opcodes 0x30 to 0x4F (R201). -/
def decodeMemSys (op : Nat) (d a : Reg) (lo : BitVec 15) : Decoded :=
  let z : BitVec 3 := lo.extractLsb' 12 3
  let i : BitVec 12 := lo.extractLsb' 0 12
  match op with
  | 0x30 => given (decide (z.toNat ≤ 6)) .reservedFunction (.ld d a z i)
  | 0x31 => given (decide (z.toNat ≤ 3)) .reservedFunction (.st d a z i)
  | 0x32 => given (decide (z.toNat ≤ 6)) .reservedFunction (.ldf d a z i)
  | 0x33 => given (decide (z.toNat ≤ 3)) .reservedFunction (.stf d a z i)
  | 0x34 => decodeFence d a lo
  | 0x35 => given (z == 0 && d == 0) .nonzeroField (.pref a i)
  | 0x38 => decodeAmo d a lo
  | 0x40 => given (d == 0 && a == 0) .nonzeroField (.trap lo)
  | 0x41 => given (d == 0 && a == 0 && lo == 0) .nonzeroField .tret
  | 0x42 => given (d == 0 && (lo.extractLsb' 5 10 : BitVec 10) == 0) .nonzeroField (.wait a (lo.extractLsb' 0 5))
  | 0x43 => given (d == 0 && a == 0) .nonzeroField (.bkpt lo)
  | 0x44 => decodeSysc d a lo
  | 0x48 => decodeCsr d a lo
  | _ => .error .reservedOpcode

/-- The instruction of a 32-bit word (R198 to R207), from its fields. -/
def decodeFields (op : BitVec 7) (d a : Reg) (lo : BitVec 15) : Decoded :=
  if op.toNat < 0x30 then decodeScalar op.toNat d a lo
  else if op.toNat < 0x50 then decodeMemSys op.toNat d a lo
  else decodeE op.toNat d a lo

/-- The instruction of a 32-bit word (R198 to R207). -/
def decodeWord (w : W32) : Decoded := decodeFields (opOf w) (rdOf w) (raOf w) (loOf w)

/-- The little-endian word of four bytes (R13, R198). -/
def wordOfBytes (b0 b1 b2 b3 : Byte) : W32 := b3 ++ b2 ++ b1 ++ b0

/-- The instruction at the head of a list of bytes, with the rest of the list. -/
def decode : List Byte → Except DecodeError (Instr × List Byte)
  | b0 :: b1 :: b2 :: b3 :: rest =>
    match decodeWord (wordOfBytes b0 b1 b2 b3) with
    | .ok i => .ok (i, rest)
    | .error e => .error e
  | _ => .error .noWord

/-! ### Context words (R86, R93) and cues (R82, R83) -/

/-- The fields of a context word. -/
def ctxFieldsOf (w : BitVec 64) : CtxFields :=
  { h := w.extractLsb' 55 1 == 1#1, pn := w.extractLsb' 54 1 == 1#1, ps := w.extractLsb' 51 3
    srcA := w.extractLsb' 46 5, srcB := w.extractLsb' 41 5, srcC := w.extractLsb' 36 5, dw := w.extractLsb' 31 5
    fmt := w.extractLsb' 28 3, mod := w.extractLsb' 20 8, aux := w.extractLsb' 0 20 }

/-- One bit. -/
def bit1 (b : Bool) : BitVec 1 := if b then 1 else 0

/-- A context word from its opcode and fields (R86). -/
def packCtx (op : BitVec 8) (f : CtxFields) : BitVec 64 :=
  op ++ bit1 f.h ++ bit1 f.pn ++ f.ps ++ f.srcA ++ f.srcB ++ f.srcC ++ f.dw ++ f.fmt ++ f.mod ++ f.aux

/-- The instruction of an element opcode (R93). -/
def elemOfOp (op : Nat) (x : ElemSite) (f : CtxFields) : Option Instr :=
  match op with
  | 0x00 => some (.elemNop x f)
  | 0x01 => some (.iadd x f)
  | 0x02 => some (.isub x f)
  | 0x03 => some (.imul x f)
  | 0x04 => some (.imad x f)
  | 0x05 => some (.imin x f)
  | 0x06 => some (.imax x f)
  | 0x07 => some (.iabs x f)
  | 0x08 => some (.elemAnd x f)
  | 0x09 => some (.elemOr x f)
  | 0x0A => some (.elemXor x f)
  | 0x0B => some (.elemShl x f)
  | 0x0C => some (.elemShr x f)
  | 0x0D => some (.sra x f)
  | 0x0E => some (.icmp x f)
  | 0x0F => some (.sel x f)
  | 0x10 => some (.fadd x f)
  | 0x11 => some (.fsub x f)
  | 0x12 => some (.fmul x f)
  | 0x13 => some (.fma x f)
  | 0x14 => some (.fmin x f)
  | 0x15 => some (.fmax x f)
  | 0x16 => some (.fabs x f)
  | 0x17 => some (.fneg x f)
  | 0x18 => some (.fcmp x f)
  | 0x20 => some (.rcps x f)
  | 0x21 => some (.rsqs x f)
  | 0x22 => some (.exp2 x f)
  | 0x23 => some (.act x f)
  | 0x24 => some (.dact x f)
  | 0x30 => some (.cvt x f)
  | 0x31 => some (.sdenc x f)
  | 0x32 => some (.sddec x f)
  | 0x33 => some (.qnt x f)
  | 0x40 => some (.mov x f)
  | 0x41 => some (.rep x f)
  | 0x42 => some (.perm x f)
  | 0x43 => some (.pack x f)
  | 0x44 => some (.unpk x f)
  | 0x45 => some (.lsum x f)
  | 0x46 => some (.lmax x f)
  | 0x47 => some (.tap x f)
  | 0x48 => some (.put x f)
  | 0x50 => some (.trix x f)
  | 0x51 => some (.trixb x f)
  | 0x52 => some (.trixi x f)
  | 0x53 => some (.trixg x f)
  | 0x54 => some (.sptrix x f)
  | 0x55 => some (.scac x f)
  | 0x56 => some (.accz x f)
  | 0x57 => some (.drn x f)
  | 0x58 => some (.drna x f)
  | 0x59 => some (.cmpr x f)
  | 0x5A => some (.spx x f)
  | 0x5B => some (.wld x f)
  | 0x5C => some (.wldt x f)
  | _ => none

/-- The instruction of a context word at a site, refused by name (R86 to R93). -/
def decodeCtx (x : ElemSite) (w : BitVec 64) : Decoded :=
  let f := ctxFieldsOf w
  match elemOfOp (w.extractLsb' 56 8 : BitVec 8).toNat x f with
  | some i => given f.ok .brokenLimit i
  | none => .error .reservedOpcode

/-- When a cue acts: its stamp and its lap qualifier (R82). -/
structure CueTime where
  stamp : BitVec 12
  lap : BitVec 2
  deriving DecidableEq, Repr, Inhabited

/-- The time fields of a cue. -/
def cueTimeOf (w : BitVec 64) : CueTime := ⟨w.extractLsb' 52 12, w.extractLsb' 46 2⟩

/-- The cue of a 64-bit word at a site, refused by name (R82, R83). Bits the kind does not name must be zero. -/
def decodeCue (x : ElemSite) (w : BitVec 64) : Decoded :=
  let pay : BitVec 46 := w.extractLsb' 0 46
  let port : BitVec 5 := pay.extractLsb' 0 5
  let high (n : Nat) : Bool := pay.toNat < 2 ^ n
  if (w.extractLsb' 46 2 : BitVec 2) == 3 then .error .brokenLimit
  else match (w.extractLsb' 48 4 : BitVec 4).toNat with
  | 0 => given (high 5) .nonzeroField (.cueRun x port)
  | 1 => if high 5 then given (portOk port) .brokenLimit (.cueStart x port) else .error .nonzeroField
  | 2 => if high 5 then given (portOk port) .brokenLimit (.cueStop x port) else .error .nonzeroField
  | 3 =>
    let peer := pay.extractLsb' 7 1 == 1#1
    let p : BitVec 5 := pay.extractLsb' 2 5
    if high 14 then
      given (if peer then p == 0 else portOk p) .brokenLimit
        (.cueDrain x (pay.extractLsb' 0 2) p peer (pay.extractLsb' 8 3) (pay.extractLsb' 11 2) (pay.extractLsb' 13 1 == 1#1))
    else .error .nonzeroField
  | 4 =>
    if high 39 then given (scopeOk (pay.extractLsb' 4 3)) .brokenLimit
      (.cueSig x (pay.extractLsb' 0 4) (pay.extractLsb' 4 3) (pay.extractLsb' 7 32))
    else .error .nonzeroField
  | 5 =>
    if high 39 then given (scopeOk (pay.extractLsb' 4 3)) .brokenLimit
      (.cueWait x (pay.extractLsb' 0 4) (pay.extractLsb' 4 3) (pay.extractLsb' 7 32))
    else .error .nonzeroField
  | 6 => given (high 0) .nonzeroField (.cueBegin x)
  | 7 => given (high 0) .nonzeroField (.cueEnd x)
  | 8 => given (high 0) .nonzeroField (.cueEndtake x)
  | _ => .error .reservedFunction

/-- The instruction of a table word: the low `nbits` bits, first byte lowest (R13). The table gives bits to the
32-bit CP words only. -/
def decodeTableWord (nbits w : Nat) : Option Instr :=
  let w' := w % 2 ^ (8 * ((nbits + 7) / 8))
  let byte (k : Nat) : Byte := BitVec.ofNat 8 (w' / 2 ^ (8 * k))
  match decode [byte 0, byte 1, byte 2, byte 3] with
  | .ok (i, _) => some i
  | .error _ => none

/-! ### Encoding -/

/-- The four-field word of format E. -/
def encE (op : BitVec 7) (x a b : Reg) (i : BitVec 10) : Option W32 := some (packWord op x a (loE b i))

/-- The word of a CP instruction (R199 to R206); none for the steps that are no CP word. -/
def encode : Instr → Option W32
  | .add d a b => some (packWord 0x00 d a (loR b 0 1))
  | .sub d a b => some (packWord 0x00 d a (loR b 0 2))
  | .and d a b => some (packWord 0x00 d a (loR b 0 3))
  | .or d a b => some (packWord 0x00 d a (loR b 0 4))
  | .xor d a b => some (packWord 0x00 d a (loR b 0 5))
  | .andn d a b => some (packWord 0x00 d a (loR b 0 6))
  | .shl d a b => some (packWord 0x00 d a (loR b 0 7))
  | .shr d a b => some (packWord 0x00 d a (loR b 0 8))
  | .sar d a b => some (packWord 0x00 d a (loR b 0 9))
  | .slt d a b => some (packWord 0x00 d a (loR b 0 10))
  | .sltu d a b => some (packWord 0x00 d a (loR b 0 11))
  | .min d a b => some (packWord 0x00 d a (loR b 0 12))
  | .max d a b => some (packWord 0x00 d a (loR b 0 13))
  | .clz d a => some (packWord 0x00 d a (loR 0 0 14))
  | .ctz d a => some (packWord 0x00 d a (loR 0 0 15))
  | .popc d a => some (packWord 0x00 d a (loR 0 0 16))
  | .addImm d a i => some (packWord 0x04 d a i)
  | .andImm d a i => some (packWord 0x05 d a i)
  | .orImm d a i => some (packWord 0x06 d a i)
  | .xorImm d a i => some (packWord 0x07 d a i)
  | .sltImm d a i => some (packWord 0x08 d a i)
  | .sltuImm d a i => some (packWord 0x09 d a i)
  | .minImm d a i => some (packWord 0x0A d a i)
  | .maxImm d a i => some (packWord 0x0B d a i)
  | .shlImm d a s => some (packWord 0x0C d a (loN 0 s))
  | .shrImm d a s => some (packWord 0x0C d a (loN 1 s))
  | .sarImm d a s => some (packWord 0x0C d a (loN 2 s))
  | .mul d a b => some (packWord 0x01 d a (loR b 0 0))
  | .mulh d a b => some (packWord 0x01 d a (loR b 0 1))
  | .mulhu d a b => some (packWord 0x01 d a (loR b 0 2))
  | .div d a b => some (packWord 0x01 d a (loR b 0 3))
  | .divu d a b => some (packWord 0x01 d a (loR b 0 4))
  | .rem d a b => some (packWord 0x01 d a (loR b 0 5))
  | .remu d a b => some (packWord 0x01 d a (loR b 0 6))
  | .bfx d a p wm => some (packWord 0x02 d a (loK p wm 0))
  | .bfxu d a p wm => some (packWord 0x02 d a (loK p wm 1))
  | .bfi d a p wm => some (packWord 0x02 d a (loK p wm 2))
  | .movi d i => some (packWord 0x10 d (i.extractLsb' 15 5) (i.extractLsb' 0 15))
  | .movh d q i => some (packWord 0x11 d (q ++ (0 : BitVec 2) ++ (i.extractLsb' 15 1 : BitVec 1)) (i.extractLsb' 0 15))
  | .bEq a b o => some (packWord 0x20 a b o)
  | .bNe a b o => some (packWord 0x21 a b o)
  | .bLt a b o => some (packWord 0x22 a b o)
  | .bGe a b o => some (packWord 0x23 a b o)
  | .bLtu a b o => some (packWord 0x24 a b o)
  | .bGeu a b o => some (packWord 0x25 a b o)
  | .jmp o => some (packWord 0x26 (o.extractLsb' 20 5) (o.extractLsb' 15 5) (o.extractLsb' 0 15))
  | .call o => some (packWord 0x27 (o.extractLsb' 20 5) (o.extractLsb' 15 5) (o.extractLsb' 0 15))
  | .jmpReg a => some (packWord 0x28 0 a (loR 0 0 0))
  | .callReg a => some (packWord 0x28 0 a (loR 0 0 1))
  | .ret => some (packWord 0x28 0 30 (loR 0 0 2))
  | .ld d a z i => some (packWord 0x30 d a (loM z i))
  | .st d a z i => some (packWord 0x31 d a (loM z i))
  | .ldf d a z i => some (packWord 0x32 d a (loM z i))
  | .stf d a z i => some (packWord 0x33 d a (loM z i))
  | .fenceLd => some (packWord 0x34 0 0 (loR 0 0 0))
  | .fenceSt => some (packWord 0x34 0 0 (loR 0 0 1))
  | .fenceAll => some (packWord 0x34 0 0 (loR 0 0 2))
  | .fenceEng => some (packWord 0x34 0 0 (loR 0 0 3))
  | .pref a i => some (packWord 0x35 0 a (loM 0 i))
  | .amoAdd d a b => some (packWord 0x38 d a (loR b 0 0))
  | .amoSwp d a b => some (packWord 0x38 d a (loR b 0 1))
  | .amoCas d a b c => some (packWord 0x38 d a (loR b c 2))
  | .amoMax d a b => some (packWord 0x38 d a (loR b 0 3))
  | .amoMin d a b => some (packWord 0x38 d a (loR b 0 4))
  | .amoAnd d a b => some (packWord 0x38 d a (loR b 0 5))
  | .amoOr d a b => some (packWord 0x38 d a (loR b 0 6))
  | .trap c => some (packWord 0x40 0 0 c)
  | .tret => some (packWord 0x41 0 0 0)
  | .wait a m => some (packWord 0x42 0 a ((0 : BitVec 10) ++ m))
  | .bkpt c => some (packWord 0x43 0 0 c)
  | .syscVerify d a => some (packWord 0x44 d a 0)
  | .syscFused d a => some (packWord 0x44 d a 1)
  | .syscEnergy d a => some (packWord 0x44 d a 2)
  | .csrr d c => some (packWord 0x48 d 0 ((0 : BitVec 3) ++ c))
  | .csrw a c => some (packWord 0x48 0 a ((1 : BitVec 3) ++ c))
  | .csrs d a c => some (packWord 0x48 d a ((2 : BitVec 3) ++ c))
  | .csrc d a c => some (packWord 0x48 d a ((3 : BitVec 3) ++ c))
  | .rload a b r => encE 0x50 0 a b ((0 : BitVec 8) ++ r)
  | .rarm a r => encE 0x51 0 a 0 ((0 : BitVec 8) ++ r)
  | .rgo r => encE 0x52 0 0 0 ((0 : BitVec 8) ++ r)
  | .rstop r => encE 0x53 0 0 0 ((0 : BitVec 8) ++ r)
  | .rstatState x r => encE 0x54 x 0 0 ((0 : BitVec 3) ++ (0 : BitVec 5) ++ r)
  | .rstatLoadrep x r => encE 0x54 x 0 0 ((0 : BitVec 3) ++ (1 : BitVec 5) ++ r)
  | .rstatFlags x r => encE 0x54 x 0 0 ((0 : BitVec 3) ++ (2 : BitVec 5) ++ r)
  | .rstatTclap x r => encE 0x54 x 0 0 ((0 : BitVec 3) ++ (3 : BitVec 5) ++ r)
  | .rstatHeld x r => encE 0x54 x 0 0 ((0 : BitVec 3) ++ (4 : BitVec 5) ++ r)
  | .rstatCycles x r => encE 0x54 x 0 0 ((0 : BitVec 3) ++ (5 : BitVec 5) ++ r)
  | .rstatEnergy x r => encE 0x54 x 0 0 ((0 : BitVec 3) ++ (6 : BitVec 5) ++ r)
  | .rstatFault x r => encE 0x54 x 0 0 ((0 : BitVec 3) ++ (7 : BitVec 5) ++ r)
  | .rstatOrigin x r => encE 0x54 x 0 0 ((0 : BitVec 3) ++ (8 : BitVec 5) ++ r)
  | .rsave a r => encE 0x55 0 a 0 ((0 : BitVec 8) ++ r)
  | .rrest a r => encE 0x56 0 a 0 ((0 : BitVec 8) ++ r)
  | .spat a k => encE 0x57 0 a 0 ((0 : BitVec 6) ++ k)
  | .sbind p k => encE 0x58 0 0 0 ((0 : BitVec 1) ++ p ++ k)
  | .sbindt a p k => encE 0x59 0 a 0 ((0 : BitVec 1) ++ p ++ k)
  | .sstop p => encE 0x5A 0 0 0 ((0 : BitVec 1) ++ p ++ (0 : BitVec 4))
  | .cpy a => encE 0x5B 0 a 0 0
  | .cpyg a => encE 0x5C 0 a 0 0
  | .stgdef a k => encE 0x5D 0 a 0 ((0 : BitVec 6) ++ k)
  | .stgrel a k => encE 0x5E 0 a 0 ((0 : BitVec 6) ++ k)
  | .sig a b s => encE 0x60 0 a b ((0 : BitVec 7) ++ s)
  | .waitge a b s => encE 0x61 0 a b ((0 : BitVec 7) ++ s)
  | .pub a b n s => encE 0x62 0 a b (n ++ s)
  | .bind x a b => encE 0x63 x a b 0
  | .unbind a => encE 0x64 0 a 0 0
  | .trig => encE 0x65 0 0 0 0
  | .launch a b => encE 0x66 0 a b 0
  | .tinv a b => encE 0x67 0 a b 0
  | .cbarArr k => encE 0x68 0 0 0 ((0 : BitVec 6) ++ k)
  | .cbarWait k => encE 0x69 0 0 0 ((0 : BitVec 6) ++ k)
  | .cpeer a s => encE 0x6A 0 a 0 ((0 : BitVec 7) ++ s)
  | .attn a => encE 0x6C 0 a 0 0
  | .kvapp x a b => encE 0x6D x a b 0
  | .kvlook x a b => encE 0x6E x a b 0
  | .kvfork x a b => encE 0x6F x a b 0
  | .kvrel a => encE 0x70 0 a 0 0
  | .mload a k => encE 0x71 0 a 0 ((0 : BitVec 6) ++ k)
  | .mstatFull x a => encE 0x72 x a 0 0
  | .mstatPart x a => encE 0x72 x a 0 1
  | .mstatEmpty x a => encE 0x72 x a 0 2
  | .mstatSkipb x a => encE 0x72 x a 0 3
  | .ringset a r => encE 0x73 0 a 0 ((0 : BitVec 2) ++ r)
  | .kvpool a => encE 0x73 0 a 0 0x200
  | .glaunch a b => encE 0x74 0 a b 0
  | .coll a => encE 0x75 0 a 0 0
  | .gstat x a => encE 0x76 x a 0 0
  | _ => none

/-- The opcode of an element instruction, its site and its fields (R93). -/
def elemParts : Instr → Option (Nat × ElemSite × CtxFields)
  | .elemNop x f => some (0x00, x, f)
  | .iadd x f => some (0x01, x, f)
  | .isub x f => some (0x02, x, f)
  | .imul x f => some (0x03, x, f)
  | .imad x f => some (0x04, x, f)
  | .imin x f => some (0x05, x, f)
  | .imax x f => some (0x06, x, f)
  | .iabs x f => some (0x07, x, f)
  | .elemAnd x f => some (0x08, x, f)
  | .elemOr x f => some (0x09, x, f)
  | .elemXor x f => some (0x0A, x, f)
  | .elemShl x f => some (0x0B, x, f)
  | .elemShr x f => some (0x0C, x, f)
  | .sra x f => some (0x0D, x, f)
  | .icmp x f => some (0x0E, x, f)
  | .sel x f => some (0x0F, x, f)
  | .fadd x f => some (0x10, x, f)
  | .fsub x f => some (0x11, x, f)
  | .fmul x f => some (0x12, x, f)
  | .fma x f => some (0x13, x, f)
  | .fmin x f => some (0x14, x, f)
  | .fmax x f => some (0x15, x, f)
  | .fabs x f => some (0x16, x, f)
  | .fneg x f => some (0x17, x, f)
  | .fcmp x f => some (0x18, x, f)
  | .rcps x f => some (0x20, x, f)
  | .rsqs x f => some (0x21, x, f)
  | .exp2 x f => some (0x22, x, f)
  | .act x f => some (0x23, x, f)
  | .dact x f => some (0x24, x, f)
  | .cvt x f => some (0x30, x, f)
  | .sdenc x f => some (0x31, x, f)
  | .sddec x f => some (0x32, x, f)
  | .qnt x f => some (0x33, x, f)
  | .mov x f => some (0x40, x, f)
  | .rep x f => some (0x41, x, f)
  | .perm x f => some (0x42, x, f)
  | .pack x f => some (0x43, x, f)
  | .unpk x f => some (0x44, x, f)
  | .lsum x f => some (0x45, x, f)
  | .lmax x f => some (0x46, x, f)
  | .tap x f => some (0x47, x, f)
  | .put x f => some (0x48, x, f)
  | .trix x f => some (0x50, x, f)
  | .trixb x f => some (0x51, x, f)
  | .trixi x f => some (0x52, x, f)
  | .trixg x f => some (0x53, x, f)
  | .sptrix x f => some (0x54, x, f)
  | .scac x f => some (0x55, x, f)
  | .accz x f => some (0x56, x, f)
  | .drn x f => some (0x57, x, f)
  | .drna x f => some (0x58, x, f)
  | .cmpr x f => some (0x59, x, f)
  | .spx x f => some (0x5A, x, f)
  | .wld x f => some (0x5B, x, f)
  | .wldt x f => some (0x5C, x, f)
  | _ => none

/-- The context word of an element instruction (R86). -/
def encodeCtx (i : Instr) : Option (BitVec 64) :=
  match elemParts i with
  | some (op, _, f) => some (packCtx (BitVec.ofNat 8 op) f)
  | none => none

/-- A cue word from time, kind and payload (R82). -/
def packCue (t : CueTime) (kind : BitVec 4) (pay : BitVec 46) : BitVec 64 := t.stamp ++ kind ++ t.lap ++ pay

/-- The word of a cue at a time (R82, R83). -/
def encodeCue (t : CueTime) : Instr → Option (BitVec 64)
  | .cueRun _ c => some (packCue t 0 ((0 : BitVec 41) ++ c))
  | .cueStart _ p => some (packCue t 1 ((0 : BitVec 41) ++ p))
  | .cueStop _ p => some (packCue t 2 ((0 : BitVec 41) ++ p))
  | .cueDrain _ acc p peer pb strm clr =>
    some (packCue t 3 ((0 : BitVec 32) ++ bit1 clr ++ strm ++ pb ++ bit1 peer ++ p ++ acc))
  | .cueSig _ c s n => some (packCue t 4 ((0 : BitVec 7) ++ n ++ s ++ c))
  | .cueWait _ c s n => some (packCue t 5 ((0 : BitVec 7) ++ n ++ s ++ c))
  | .cueBegin _ => some (packCue t 6 0)
  | .cueEnd _ => some (packCue t 7 0)
  | .cueEndtake _ => some (packCue t 8 0)
  | _ => none

end Sys2Proof
end

