-- ==== Sys2Proof/Machine/Aes.lean ====
section
/-! DEFINITION. AES-256 of FIPS 197 and GCM of SP 800-38D, which the spec names for the flits of a link (R12, R423). -/
namespace Sys2Proof.Machine

/-! ### AES-256 -/

/-- Multiplication by x in the field of AES. -/
def xtime (b : Byte) : Byte := (b <<< 1) ^^^ (if b.getLsbD 7 then 0x1B else 0)

/-- Multiplication in the field of AES. -/
def gmul (a b : Byte) : Byte :=
  ((List.range 8).foldl (fun (p : Byte × Byte) i => (if b.getLsbD i then p.1 ^^^ p.2 else p.1, xtime p.2)) (0, a)).1

/-- The inverse, b^254, and zero for zero. -/
def ginv (b : Byte) : Byte :=
  ((List.range 7).foldl (fun (p : Byte × Byte) _ => let q := gmul p.2 p.2; (gmul p.1 q, q)) (1, b)).1

/-- SubBytes of one byte. -/
def sbox (b : Byte) : Byte :=
  let i := ginv b
  i ^^^ i.rotateLeft 1 ^^^ i.rotateLeft 2 ^^^ i.rotateLeft 3 ^^^ i.rotateLeft 4 ^^^ 0x63

/-- Byte i of a list. -/
def nthByte (l : List Byte) (i : Nat) : Byte := (l[i]?).getD 0
/-- Two lists added bit by bit, as long as the first. -/
def xorBytes (a b : List Byte) : List Byte := a.zipIdx.map fun x => x.1 ^^^ nthByte b x.2

/-- n bytes of a number, the highest first. -/
def beBytes (n v : Nat) : List Byte := (List.range n).map fun i => BitVec.ofNat 8 (v / 256 ^ (n - 1 - i))
/-- The number of bytes, the highest first. -/
def beNat (l : List Byte) : Nat := l.foldl (fun n b => 256 * n + b.toNat) 0

/-- The next word of the key schedule of AES-256, from the words so far, the last first. -/
def nextKeyWord (n : Nat) (ws : List (List Byte)) : List Byte :=
  let t := ws.headD []
  let u := if n % 8 = 0 then
      xorBytes ((t.drop 1 ++ t.take 1).map sbox) [(List.range (n / 8 - 1)).foldl (fun b _ => xtime b) 1, 0, 0, 0]
    else if n % 8 = 4 then t.map sbox else t
  xorBytes ((ws[7]?).getD []) u

/-- The 15 round keys. -/
def roundKeys (key : List Byte) : List (List Byte) :=
  let first := (List.range 8).map fun i => (key.drop (4 * i)).take 4
  let ws := ((List.range 52).foldl (fun ws i => nextKeyWord (8 + i) ws :: ws) first.reverse).reverse
  (List.range 15).map fun r => (ws.drop (4 * r)).take 4 |>.flatten

/-- ShiftRows of a state of four columns. -/
def shiftRows (s : List Byte) : List Byte := (List.range 16).map fun i => nthByte s ((i + 4 * (i % 4)) % 16)

/-- MixColumns. -/
def mixColumns (s : List Byte) : List Byte :=
  (List.range 16).map fun i =>
    let a (k : Nat) : Byte := nthByte s (i / 4 * 4 + (i + k) % 4)
    gmul 2 (a 0) ^^^ gmul 3 (a 1) ^^^ a 2 ^^^ a 3

/-- One block of AES-256. -/
def aesBlock (key b : List Byte) : List Byte :=
  match roundKeys key with
  | [] => b
  | k0 :: ks =>
    let s := (ks.take 13).foldl (fun s k => xorBytes (mixColumns (shiftRows (s.map sbox))) k) (xorBytes b k0)
    xorBytes (shiftRows (s.map sbox)) (ks.getLastD [])

/-! ### GCM -/

/-- The product of two blocks, as numbers whose highest bit is the first. -/
def ghashMul (x y : Nat) : Nat :=
  ((List.range 128).foldl (fun (p : Nat × Nat) i =>
    (if x.testBit (127 - i) then p.1 ^^^ p.2 else p.1, if p.2.testBit 0 then (p.2 / 2) ^^^ (0xE1 * 2 ^ 120) else p.2 / 2)) (0, y)).1

/-- Bytes filled up with zeros to whole blocks. -/
def padBlock (l : List Byte) : List Byte := l ++ List.replicate ((16 - l.length % 16) % 16) 0

/-- GHASH of whole blocks. -/
def ghash (h : Nat) (l : List Byte) : Nat :=
  (List.range (l.length / 16)).foldl (fun y i => ghashMul (y ^^^ beNat ((l.drop (16 * i)).take 16)) h) 0

/-- The counter block that a nonce, not of 96 bits, gives. -/
def gcmStart (h : Nat) (nonce : List Byte) : Nat := ghash h (padBlock nonce ++ beBytes 16 (8 * nonce.length))

/-- A counter block with its last 32 bits counted on. -/
def gcmInc (j n : Nat) : Nat := j / 2 ^ 32 * 2 ^ 32 + (j + n) % 2 ^ 32

/-- Ciphertext and tag of AES-GCM-256: key, nonce, what is authenticated alone, and the text. -/
def gcmSeal (key nonce aad text : List Byte) : List Byte × List Byte :=
  let h := beNat (aesBlock key (List.replicate 16 0))
  let j := gcmStart h nonce
  let stream := (List.range ((text.length + 15) / 16)).flatMap fun i => aesBlock key (beBytes 16 (gcmInc j (i + 1)))
  let c := xorBytes text stream
  let y := ghash h (padBlock aad ++ padBlock c ++ beBytes 8 (8 * aad.length) ++ beBytes 8 (8 * c.length))
  (c, xorBytes (beBytes 16 y) (aesBlock key (beBytes 16 j)))

end Sys2Proof.Machine
end

