-- ==== Sys2Proof/Machine/State.lean ====
section
/-! DEFINITION. The state of one ZX9 package as plain data, the reasons a step can stop, and the state after a cold reset. -/
namespace Sys2Proof.Machine

/-- Why the machine stops with a fault. -/
inductive Fault where
  /-- Raised by a host or peer access whose offset lies beyond the BAR or the HBM that the spec lays out
  (R353, R404, R428): no such address exists. Safe: nothing is proved of it. -/
  | noSuchAddress
  deriving DecidableEq, Repr, Inhabited

/-- Why an instruction has no meaning. -/
inductive Refusal where
  /-- Raised by an arm of `exec` for an instruction without a meaning yet. Safe. -/
  | notModelled (mnemonic : String)
  deriving DecidableEq, Repr, Inhabited

/-- The outcome of one step. -/
abbrev Out (σ : Type) := Host.Outcome σ Fault Refusal

/-- Memory: byte places in strictly rising key order, no entry equal to what an unlisted place reads as (entry 1). -/
abbrev Memory := List Host.Cell

/-! ### The control processor -/

/-- The kind of a landing entry (R164). -/
inductive LandKind where
  | fixed
  | interlocked
  deriving DecidableEq, Repr, Inhabited

/-- What a far access past issue still has to do at its point of coherence (R220, R226). -/
inductive FarOp where
  | load (bytes : Nat) (signExt : Bool)
  | amo (fn : Nat) (b c : Word)
  deriving DecidableEq, Repr, Inhabited

/-- What an interlocked entry awaits from the management core (R232, R441). -/
inductive Ask where
  | verify (image : Word)
  | fused (row : Word)
  | energy
  | other
  | gang (gid : Word)
  deriving DecidableEq, Repr, Inhabited

/-- A landing-queue entry (R164): `rem` is the remaining distance, absent while an interlocked value has not arrived. -/
structure LandEntry where
  id : Nat
  /-- its place among the eight of the queue, whose word array 7 protects (R307) -/
  place : Nat
  reg : Reg
  kind : LandKind
  rem : Option Nat
  value : Word
  far : Option (PAddr × FarOp)
  ask : Option Ask
  vaddr : Word
  fpc : Word
  /-- fabric time at its issue: the management core answers within the bounds of R232 -/
  since : Nat
  deriving DecidableEq, Repr, Inhabited

/-- A deferred trap waiting for an instruction boundary (R223, R241, R296). -/
structure DTrap where
  order : Nat
  cause : BitVec 8
  tval : Word
  fpc : Word
  deriving DecidableEq, Repr, Inhabited

/-- A posted store past issue (R220, R224). -/
structure Posted where
  id : Nat
  pa : PAddr
  /-- the surface of a compressed aperture (R356) -/
  surf : Option Nat
  vaddr : Word
  fpc : Word
  bytes : List Byte
  parked : Bool
  deriving DecidableEq, Repr, Inhabited

/-- What the CP of a slot does (R229, R297, R344, R446). -/
inductive CpRun where
  | running
  | fetchWait (va : Word)
  | halted (code : BitVec 15)
  | stopped
  | retiring (cleared : Bool)
  deriving DecidableEq, Repr, Inhabited

/-- A deferred fault that a chiplet has found and whose record has not entered the core's queue yet (R303, R376, R396). -/
structure Report where
  cause : BitVec 8
  order : Nat
  pc : Word
  tval : Word
  vaddr : Word
  synd : Word
  detail : Word
  deriving DecidableEq, Repr, Inhabited

/-- An entry of the far translation cache or of the edge TLB (R184, R221): a page of a partition. -/
structure TlbEntry where
  part : BitVec 5
  page : PageMap
  deriving DecidableEq, Repr, Inhabited

/-- A line of the instruction cache (R446): partition, line number, 64 bytes. -/
structure ICacheLine where
  part : BitVec 5
  line : Nat
  data : BitVec 512
  deriving DecidableEq, Repr, Inhabited

/-- The control processor of a slot: registers, modes, trap CSRs, landing queues and what is in flight (R160 to R169, R234). -/
structure Cp where
  pc : Word
  handler : Bool
  bankT : Vector Word 32
  bankH : Vector Word 32
  lqT : List LandEntry
  lqH : List LandEntry
  check : Bool
  phase : BitVec 2
  tcyc : Word
  cpevt : BitVec 5
  tvec : Word
  tpc : Word
  tcause : BitVec 8
  tval : Word
  tfpc : Word
  tscr : Word
  dbgctl : BitVec 3
  profctl : BitVec 36
  pmc : Vector Word 4
  run : CpRun
  /-- cycles, this one included, that belong to neither mode (R230, R295) -/
  untimed : Nat
  /-- the empty cycle after a taken branch is due (R218) -/
  gap : Bool
  waitLeft : Option Word
  /-- a wait without a timeout, or a cbar.wait, holds (R231, R329) -/
  waitFor : Bool
  dtraps : List DTrap
  posted : List Posted
  ftc : List TlbEntry
  icache : List ICacheLine
  /-- trig executed, with the number its access order had; reported (R272) -/
  trigged : Option Nat
  trigReported : Bool
  /-- a single thread instruction is due under the debugger (R414) -/
  stepOne : Bool
  /-- the answer of a chiplet, of another core or of firmware is on its way: the CP waits with it at issue (R324, R374, R439) -/
  answerDue : Bool
  /-- the register that the answer writes when it is there, and its value (R374) -/
  answer : Option (Reg × Word)
  /-- the instruction at issue has asked and has had no effect yet: it takes effect, or traps, when its answer is there (R324, R374, R439) -/
  asked : Bool
  /-- the word of the instruction at issue, for the rushes (R415) -/
  iword : W32
  deriving DecidableEq, Repr, Inhabited

/-! ### Elements -/

/-- A configuration bank (R63, R64); `present` tells whether the image holds a section for the element (R71). -/
structure Bank where
  present : Bool
  repl : Bool
  ctx : List (BitVec 64)
  cues : List (BitVec 64)
  imt : List W256
  taps : List (BitVec 32)
  deriving DecidableEq, Repr, Inhabited

/-- Eight 32-bit lanes of an accumulator or a drain-add tile (R37). -/
abbrev Lanes8 := Vector W32 8

/-- Where a lane result goes (R88): the rotating entry is already resolved (R68). -/
inductive Dest where
  | f (i : Fin 16)
  | d
  | c
  | acc (i : Fin 4)
  | stat (block : Nat) (word : Nat)
  | tapOut (t : Fin 4)
  | none
  deriving DecidableEq, Repr, Inhabited

/-- The act of an issued instruction at its landing cycle (R73, R139). -/
inductive Act where
  /-- a result known at issue, with its flags -/
  | write (dst : Dest) (t : Tok) (flags : BitVec 8)
  /-- a control-plane result -/
  | writeC (v : Word) (flags : BitVec 8)
  /-- FP32 chunk sums rounded, one a lane, into an accumulator: codes, whether NaN came from no NaN operand, OF of the rounding -/
  | accumF (acc : Fin 4) (za : Bool) (chunk : List W32) (fresh : List Bool) (flags : BitVec 8)
  /-- exact integer chunks into two accumulators (R148) -/
  | accumI (acc : Fin 4) (za : Bool) (chunk : List Int) (flags : BitVec 8)
  /-- FP32 chunks into the 64 lanes of a stationary block (R150) -/
  | accumG (block : Nat) (za : Bool) (chunk : List W32) (fresh : List Bool) (flags : BitVec 8)
  | overBp (v : Vector W32 64)
  | clearAcc (acc : Fin 4)
  | clearBp
  | statWord (block : Nat) (word : Nat) (v : W256)
  /-- lanes of a stationary block laid by wldt: width in bits, group q (R144) -/
  | statLanes (block : Nat) (wbits : Nat) (q : Nat) (v : W256)
  /-- drain to the data plane (R156): format, saturate, clear, LR, LS, destination -/
  | drain (acc : Fin 4) (fmt : BitVec 3) (sat clr lr ls : Bool) (dst : Dest)
  /-- drain into a peer binding (R157): the binding taken at issue -/
  | drainPeer (acc : Fin 4) (int clr : Bool) (pb : BitVec 3) (strm : BitVec 2) (desc : W32) (seq : W32) (cue : Bool) (idx : BitVec 6)
  deriving DecidableEq, Repr, Inhabited

/-- A result in flight with its remaining latency in take cycles (R73). -/
structure Flight where
  rem : Nat
  act : Act
  /-- SITE and INDEX of the context or drain cue that issued it, as a record names them (R299) -/
  index : BitVec 8
  deriving DecidableEq, Repr, Inhabited

/-- An element's state (R63); the stationary store lies in memory. -/
structure Elem where
  on : Bank
  next : Bank
  f : Vector Tok 16
  d : Tok
  c : Word
  /-- D and C as the neighbours read them, one take cycle behind (R73): the link tokens of R304 -/
  dn : Tok
  cn : Word
  acc : Vector Lanes8 4
  bp : Vector W32 64
  flight : List Flight
  tapq : Vector (List Tok) 4
  lfsr : W32
  estat : BitVec 8
  steady : Bool
  deriving DecidableEq, Repr, Inhabited

/-! ### Regions -/

/-- A scene-memory declaration (R97). -/
structure Smr where
  off : Nat
  len : Nat
  rd : Bool
  wr : Bool
  deriving DecidableEq, Repr, Inhabited

/-- What a bank's reel header and placement give (R96, R243). -/
structure Header where
  rows : Nat
  cols : Nat
  row0 : Nat
  col0 : Nat
  ii : Nat
  p : Nat
  laps : Nat
  seed : W32
  smr : List Smr
  deriving DecidableEq, Repr, Inhabited

/-- The on bank's state (R192). -/
inductive OnState where
  | free | running | draining | ended | stopped
  deriving DecidableEq, Repr, Inhabited

/-- The next bank's state (R192, R249). -/
inductive NextState where
  | empty | loaded | armed
  deriving DecidableEq, Repr, Inhabited

/-- An entry of a counter table, translated when rarm arms (R84, R245). -/
structure CtrEntry where
  addr : Word
  pa : PAddr
  base : Word
  deriving DecidableEq, Repr, Inhabited

/-- A command in the command queue: the command, its operand values and its own address (R239, R241). -/
structure Cmd where
  order : Nat
  pc : Word
  i : Instr
  a : Word
  b : Word
  part : BitVec 5
  /-- its deferred fault is known, and its record waits for room (R303) -/
  failed : Bool := false
  deriving DecidableEq, Repr, Inhabited

/-- A cause that stops a region, with what its record names (R299 to R301). -/
structure StopInfo where
  cause : BitVec 8
  detail : Word
  port : BitVec 8
  elem : BitVec 8
  index : BitVec 8
  vaddr : Word
  synd : Word
  deriving DecidableEq, Repr, Inhabited

/-- A region descriptor (R66, R84, R192, R249, R322). -/
structure Region where
  on : OnState
  next : NextState
  loading : Option Cmd
  onHdr : Header
  nextHdr : Header
  lastst : BitVec 8
  cause : BitVec 8
  loadrep : W32
  flags : BitVec 8
  held : Word
  cycles : Word
  energy : Word
  faultWord : Word
  armLaps : Nat
  armSeed : W32
  armTab : List CtrEntry
  ctrs : List CtrEntry
  slotc : Nat
  tc : Nat
  lap : Nat
  it : Nat
  takeSeq : W32
  /-- grid cycles until take cycle (0, 0), counted from rgo (R246) -/
  startIn : Nat
  /-- an end-take cue fired in this cycle (R85) -/
  endDue : Bool
  /-- the take's first read across a guard has written its record (R352) -/
  guardRecorded : Bool
  /-- the next bank was lost by a pre-emption (R197) -/
  nextLost : Bool
  /-- an edge TLB walk holds the region (R184) -/
  walking : Bool
  /-- the region has held one cycle for a corrected read of a stationary store (R106) -/
  eccHeld : Bool
  /-- the start cues of the present take cycle have fired; a walk may hold the cycle after them (R184) -/
  started : Bool
  /-- the present grid cycle is not held (R80); the streams of a held region issue nothing (R78) -/
  going : Bool
  /-- a stop found in this cycle, which takes effect at the cycle's end (R301) -/
  stopDue : Option StopInfo
  /-- its record has been written, into the queue or among those that wait for room (R303) -/
  stopRec : Bool
  /-- the take stopped while it was draining, so that it resumes draining (R304) -/
  drainStop : Bool
  /-- the take's first cycle has come, in which its flags are cleared (R61, R246) -/
  begun : Bool
  deriving DecidableEq, Repr, Inhabited

/-! ### Streams, ports and the ring -/

/-- An extent of a translated footprint (R182). -/
structure Extent where
  va : Nat
  pa : PAddr
  len : Nat
  deriving DecidableEq, Repr, Inhabited

/-- A pattern bound to a port and not yet started (R252, R253). -/
structure Binding where
  pat : BitVec 512
  patSlot : BitVec 4
  order : Nat
  extents : List Extent
  /-- the index pattern of an indirect one, copied when bound (R180, R251) -/
  ipat : BitVec 512
  /-- a stamped start's offset, and the take it applies to once rgo started it: region and take sequence -/
  stamp : Option Nat
  take : Option (Fin 4 × W32)
  deriving DecidableEq, Repr, Inhabited

/-- A running stream (R178, R182). -/
structure Stream where
  pat : BitVec 512
  patSlot : BitVec 4
  order : Nat
  extents : List Extent
  ipat : BitVec 512
  region : Fin 4
  engine : Nat
  timed : Bool
  /-- timed lane pair (R174) -/
  lane : Nat
  /-- dispatched starts carry no fixed cycle (R79) -/
  dispatched : Bool
  /-- tokens issued or addressed, indices consumed, tokens stored or accepted -/
  pos : Nat
  ipos : Nat
  stored : Nat
  /-- a timed one has read in a take cycle that has not advanced, and does not read in it again when it is resumed (R304, R312) -/
  ahead : Bool
  /-- its engine is paused (R183, R304) -/
  paused : Bool
  /-- an indirect address waiting for its walk (R184) -/
  walkVa : Option Nat
  deriving DecidableEq, Repr, Inhabited

/-- An open die-crossing or fabric channel, or the window of a chiplet port (R359, R372, R426). -/
structure Channel where
  isOpen : Bool
  /-- sending side: next sequence number, end of the granted window -/
  sendSeq : Nat
  sendEnd : Nat
  /-- receiving side: next sequence expected, end of what it has granted -/
  recvSeq : Nat
  recvEnd : Nat
  /-- tokens sent and not yet accepted (R426), with their sequence numbers -/
  kept : List (Nat × Tok)
  /-- the port of a fabric channel's route, fixed when it opens (R424) -/
  route : Option (Fin 18)
  deriving DecidableEq, Repr, Inhabited

/-- A port context (R182). -/
structure PortCtx where
  pending : Option Binding
  run : Option Stream
  /-- tokens sent by the outbound tap and not yet stored (R445) -/
  unstored : Nat
  /-- tokens issued to the inbound tap and not yet consumed (R79) -/
  unconsumed : Nat
  chan : Channel
  deriving DecidableEq, Repr, Inhabited

/-- Where a token is on its way (R447). -/
inductive RingPos where
  /-- sent by its outbound tap, and without an address yet: its engine walks, or no stream runs on its port (R85, R184, R445) -/
  | form
  /-- grid cycles until it tries to enter its lane -/
  | enter (n : Nat)
  /-- on its lane -/
  | lane
  /-- a write at its block's station, not yet served (R175) -/
  | block
  /-- its place refused the store, and its stream stopped on it; it stays until its place takes it (R304) -/
  | refused
  /-- grid cycles until it is in its tap queue or its block -/
  | post (n : Nat)
  /-- the cycle at whose end it arrives is over -/
  | due
  /-- under way on a path whose time the spec does not promise -/
  | far
  deriving DecidableEq, Repr, Inhabited

/-- A token on its way between a block, the cluster buffer or a channel and a tap (R173, R447). -/
structure RingTok where
  id : Nat
  slot : Fin 2
  port : BitVec 5
  inbound : Bool
  tok : Tok
  /-- where a write stream stores it, and the virtual address or scene offset it was formed from -/
  addr : PAddr
  va : Word
  pos : RingPos
  timed : Bool
  /-- order in which its stream was bound (R175) -/
  order : Nat
  lane : Nat
  cw : Bool
  station : Nat
  hops : Nat
  region : Fin 4
  elem : Fin 256
  tap : Fin 4
  takeSeq : W32
  deriving DecidableEq, Repr, Inhabited

/-! ### Slot engine state -/

/-- A stage definition (R261). -/
structure Stage where
  base : Nat
  slen : Nat
  n : Nat
  scope : BitVec 3
  fill : PAddr
  rel : PAddr
  /-- their virtual addresses -/
  fillVa : Word
  relVa : Word
  deriving DecidableEq, Repr, Inhabited

/-- A copy read from its record and waiting or running (R257, R258). -/
structure CopyJob where
  cmd : Cmd
  gather : Bool
  src : Word
  dst : Word
  len : Nat
  ssurf : Bool
  dsurf : Bool
  stgd : Bool
  scope : BitVec 3
  stage : Option Stage
  /-- the completion counter: its virtual address and its place -/
  ctr : Option (Word × PAddr)
  inc : Word
  seq : Word
  idx : Word
  nidx : Nat
  elen : Nat
  deriving DecidableEq, Repr, Inhabited

/-- The copy in progress: resolved extents and the next unit (R194, R306). -/
structure CopyRun where
  job : CopyJob
  srcBase : Word
  srcLimit : Option Nat
  dstBase : Word
  /-- length of the destination surface's extents, 0 without one -/
  dstLen : Nat
  unit : Nat
  /-- an indexed copy's i with its index, which the engine has read once (R259) -/
  index : Option (Nat × Nat)
  /-- the place of the next unit's write when it is parked for want of an escape entry (R357) -/
  parked : Option PAddr
  deriving DecidableEq, Repr, Inhabited

/-- A peer binding: descriptor and the peer's take sequence (R322, R323). -/
structure PeerBind where
  desc : W32
  seq : W32
  deriving DecidableEq, Repr, Inhabited

/-- A collective in flight (R436, R440). -/
structure CollJob where
  id : Nat
  gid : Word
  /-- place of RESULT and of the completion counter -/
  result : PAddr
  ctr : Option (Word × PAddr)
  pc : Word
  recAddr : Word
  bytes : List Byte
  /-- SRC and DST with their surfaces resolved, once, at the start (R186) -/
  src : Word
  dst : Word
  /-- this member's contribution, read when the collective started -/
  own : List Byte
  /-- this member's read failed: the cause, its VADDR, SYND and DETAIL -/
  fault : Option (BitVec 8 × Word × Word × Word)
  /-- the members' COP, CFMT and LEN agree, and the data move (R440) -/
  agreed : Bool := false
  deriving DecidableEq, Repr, Inhabited

/-- A task slot: bind record, CP and everything of its continuity image (R170, R194, R346). -/
structure Slot where
  slate : Word
  wid : Word
  tvec : Word
  cfg : Word
  status : BitVec 8
  /-- the outcome of a refused command, which STATUS shows until the next one (R346) -/
  refusal : BitVec 8
  part : BitVec 5
  prio : BitVec 3
  launch : Option Nat
  cp : Cp
  cmdq : List Cmd
  copyq : List CopyJob
  copying : Option CopyRun
  patterns : Vector (BitVec 512) 16
  ports : Vector PortCtx 24
  /-- stream engines and ports that fell free in this grid cycle: free from the next one (R255) -/
  freed : List (Nat × BitVec 5)
  regions : Vector Region 4
  elems : Vector Elem 256
  stages : Vector (Option Stage) 16
  peers : Vector (Option PeerBind) 8
  barPend : Vector Bool 16
  barAph : Vector W32 16
  /-- drain-add credits taken, a stream (R321) -/
  tilesOut : Vector Nat 4
  /-- credits that the regions' decisions of this grid cycle have claimed and whose drains have not issued yet (R321) -/
  tileClaims : Vector Nat 4
  colls : List CollJob
  /-- a failed mload's fault, kept at its chiplet until its record enters the core's queue (R303, R396) -/
  mreport : Option Report
  /-- the gang whose stop left the image here, or whose images were restored here (R434, R442) -/
  gangTag : Option Word := none
  energy : Word
  deriving DecidableEq, Repr, Inhabited

/-- A fault record of 64 bytes (R299). -/
abbrev FaultRec := BitVec 512

/-- An ECC mark on a stored word: corrected or uncorrectable, injected or not (R307, R309). -/
structure EccMark where
  /-- number of the aligned 8-byte word: memory key / 8, or of an array word above them (`arrWord`) -/
  word : Nat
  two : Bool
  inj : Bool
  synd : BitVec 8
  deriving DecidableEq, Repr, Inhabited

/-- An error log pair (R308), with the model's own note of the last logged error: its offset and the fabric time of its cycle. -/
structure ErrLog where
  stat : Word
  addr : Word
  off : Nat
  time : Nat
  deriving DecidableEq, Repr, Inhabited

/-- Who waits for room in a core's record queue (R302, R303): a CP before a boundary, a region about to stop, a region that is to read across
a guard, the copy engine of a slot with its failed copy, or a command, access, add, tile or call by its number. -/
inductive RecKey where
  | cp (c : CpId)
  | region (c : CpId) (r : Fin 4)
  | guard (c : CpId) (r : Fin 4)
  | copy (c : CpId) (id : Nat)
  | job (id : Nat)
  deriving DecidableEq, Repr, Inhabited

/-- One that waits for room, with the grid cycle of its detection (R299): the record, or none while its agent meets the cause anew in every
cycle; `seen` tells that the agent has met it in this cycle. -/
structure RecWait where
  key : RecKey
  gcyc : Word
  seen : Bool
  bits : Option FaultRec
  deriving DecidableEq, Repr, Inhabited

/-- A core: its two slots and the parts that belong to the core (R159, R170). -/
structure Core where
  slots : Vector Slot 2
  ssb : BitVec 7
  smb : BitVec 7
  lsb : BitVec 5
  /-- guard column of a split binding (R349) -/
  gc : BitVec 2
  /-- the slot that a swap in progress will bind (R195) -/
  swap : Option (Fin 2)
  ring : List RingTok
  /-- blocks that a ring read, a ring write claims in this grid cycle: block and stream order (R175) -/
  readClaims : List (Nat × Nat × Bool)
  writeClaims : List Nat
  edgeTlb : List TlbEntry
  recq : List FaultRec
  /-- what waits for room in the queue, in order of detection (R302, R303) -/
  recWait : List RecWait
  /-- grid cycles until the head record is offered again, and the present back-off (R303) -/
  offerIn : Nat
  backoff : Nat
  elog : Vector ErrLog 8
  einj : Word
  fuse : BitVec 256
  cquar : Bool
  gdcnt : Word
  /-- the partition whose task last held each 4 KiB of local store, 64 KiB of scene memory and stationary block of the elements: memory
  passes to another partition zeroed (R343) -/
  localHeld : Vector (Option (BitVec 5)) 16
  sceneHeld : Vector (Option (BitVec 5)) 64
  statHeld : Vector (Option (BitVec 5)) 64
  /-- since when the bound slot has the core to itself, and the time that each slot has had it, in the units of `ftime` (R348) -/
  ranFrom : Nat
  ran : Vector Nat 2
  rushes : List (BitVec 128)
  rushcnt : Nat
  /-- the count when each slot was bound (R415) -/
  rushFrom : Vector Nat 2
  deriving DecidableEq, Repr, Inhabited

/-! ### Cluster, die, package -/

/-- The reasons of a tile's drop (R325). -/
inductive DropReason where
  | absent
  | preempt
  | ended
  deriving DecidableEq, Repr, Inhabited

/-- A drain-add tile in flight (R320). -/
structure Tile where
  id : Nat
  sender : CpId
  elem : Fin 256
  imgElem : BitVec 8
  region : Fin 4
  cue : Bool
  idx : BitVec 6
  part : BitVec 5
  wid : Word
  int : Bool
  strm : BitVec 2
  pb : BitVec 3
  sendCycle : Word
  desc : W32
  seq : W32
  lanes : Lanes8
  takeSeq : W32
  /-- it was refused at its destination and waits until its record enters the sender's queue (R303, R326) -/
  refused : Option DropReason
  deriving DecidableEq, Repr, Inhabited

/-- A cluster: barriers, buffer owners and logs (R316 to R328). -/
structure Cluster where
  owners : Vector (Option (BitVec 5)) 128
  /-- PART of the owner register of each unit, which stands with VALID 0 too (R334) -/
  ownerPart : Vector (BitVec 5) 128
  cblog : ErrLog
  cbinj : Word
  cdlog : Word
  barGen : Vector W32 16
  barPart : Vector (BitVec 5) 16
  barArr : Vector Nat 16
  barN : Vector (BitVec 5) 16
  deriving DecidableEq, Repr, Inhabited

/-- A work queue's registers (R335, R336). -/
structure Wq where
  base : Word
  cfg : Word
  tail : W32
  head : W32
  err : Word
  deriving DecidableEq, Repr, Inhabited

/-- The translation and description of a partition on a die (R350). -/
structure Ptab where
  state : BitVec 8
  pflags : BitVec 8
  fn : BitVec 8
  weight : BitVec 8
  quota : BitVec 16
  resv : BitVec 16
  quantum : BitVec 16
  ngran : BitVec 16
  coloc : W32
  cores : Word
  ptroot : Word
  ltab : Word
  btab : Word
  escrow : Word
  tkdig : List Byte
  rkdig : List Byte
  deriving DecidableEq, Repr, Inhabited

/-- An HBM controller (R351, R353, R354). -/
structure HbmCtl where
  hlog : ErrLog
  hinj : Word
  spBusy : Bool
  spDone : Bool
  /-- pseudo-channels whose spare already serves a bank -/
  spUsed : List (BitVec 6)
  spB : BitVec 15
  spPch : BitVec 6
  spBank : BitVec 6
  /-- parked writes: core slot, and the number of a posted store, an amo, a counter add, a token or a copy command (R357) -/
  park : List (CpId × Nat)
  /-- stores of slots that have been emptied since, with their partitions, parked or waiting for the park buffer -/
  left : List (BitVec 5 × Posted)
  /-- its own SPACE records on their way to the fault buffer, and the back-off of its offers (R303, R357, R360) -/
  recs : List FaultRec
  offerIn : Nat
  backoff : Nat
  /-- the AES-256-XTS key of each key ID: firmware's is 0, partition p's is p + 1 (R351) -/
  keys : Vector (BitVec 256) 33
  deriving DecidableEq, Repr, Inhabited

/-- A dependence of a launch: counter, target, last value read, met (R338, R342). -/
structure Dep where
  addr : Word
  target : Word
  last : Word
  met : Bool
  deriving DecidableEq, Repr, Inhabited

/-- An accepted launch (R341 to R345). -/
structure Launch where
  id : Nat
  queue : Nat
  seq : W32
  part : BitVec 5
  slate : List Byte
  deps : List Dep
  /-- the tasks bound so far, in order, and where -/
  started : List (Word × CpId)
  triggered : List Word
  retired : List Word
  doneSent : Bool
  trigSent : Bool
  gang : Option Word
  deriving DecidableEq, Repr, Inhabited

/-- The modes of a management core (R333). -/
inductive HartMode where
  | machine
  | supervisor
  deriving DecidableEq, Repr, Inhabited

/-- The RV64 hart of a die: its registers x1 to x31, its program counter and its mode (R333). -/
structure Hart where
  x : Vector Word 31
  pc : Word
  mode : HartMode
  deriving DecidableEq, Repr, Inhabited

/-- A die (R333 to R361). -/
structure Die where
  hart : Hart
  gcyc : Word
  skip : Bool
  /-- its boot ROM has refused the firmware: no firmware runs, and its cores stay gated (R409) -/
  recovery : Bool
  wqs : List (Nat × Wq)
  ptab : Vector Ptab 32
  fbHead : W32
  fbTail : W32
  fbuf : List (Nat × FaultRec)
  epart : Vector Word 32
  eunattr : Word
  eskip : Vector Word 32
  /-- owner of each 1 GiB granule: a partition, or firmware when none (R351) -/
  granules : Vector (Option (BitVec 5)) 94
  ctl : Vector HbmCtl 2
  dovfbase : Word
  pwrstat : Word
  /-- the grid clock's cycles since the last power-control window, those of them that were skipped, and how many in 65,536 firmware has chosen to
  skip (R419, R420) -/
  winCycles : Nat
  winSkipped : Nat
  toSkip : BitVec 16
  ftstat : Word
  deriving DecidableEq, Repr, Inhabited

/-- One block of the KV cache (R364 to R368). -/
structure KvBlock where
  id : Nat
  pool : BitVec 6
  part : BitVec 5
  /-- chiplet whose tiers hold the pages, and the pages' numbers -/
  home : Fin 2
  pages : List Nat
  ids : List W32
  key : Option (BitVec 128)
  /-- (layer, position) pairs written -/
  written : List (Nat × Nat)
  refs : Nat
  tagged : Bool
  /-- order of release, for the cached blocks (R369) -/
  released : Nat
  deriving DecidableEq, Repr, Inhabited

/-- A sequence table entry (R366). -/
structure KvSeq where
  index : Nat
  gen : BitVec 26
  live : Bool
  part : BitVec 5
  pool : BitVec 6
  t : Nat
  blocks : List Nat
  deriving DecidableEq, Repr, Inhabited

/-- A mask program: words and constants (R385). -/
structure MaskProg where
  w : List (BitVec 16)
  k : List Word
  deriving DecidableEq, Repr, Inhabited

/-- An entry of a ring table (R381). -/
structure RingEntry where
  ep : BitVec 20
  chip : Bool
  skip : Bool
  blk0 : Nat
  nblk : Nat
  deriving DecidableEq, Repr, Inhabited

/-- An admitted attention call (R371 to R376). -/
structure Call where
  id : Nat
  caller : CpId
  part : BitVec 5
  wid : Word
  /-- number and address of the attn (R241) -/
  order : Nat
  pc : Word
  port : BitVec 5
  recAddr : Word
  bytes : List Byte
  /-- the pool's configuration word and the blocks taken at admission, with the sequence's token count -/
  pool : Word
  blocks : List Nat
  t : Nat
  mask : Option MaskProg
  /-- the ring table taken at admission -/
  ring : List RingEntry
  started : Bool
  /-- the call has ended with a failure; its input is still taken -/
  failed : Bool
  ctr : Option PAddr
  docq : List (Nat × Nat)
  dock : List (Nat × Nat)
  /-- input tokens taken, and those of the query rows not yet computed -/
  taken : Nat
  input : List W256
  rowsDone : Nat
  /-- NFULL, NPART, NEMPTY and NSKIPB so far -/
  counts : Vector Word 4
  /-- ring members' parts, by entry number -/
  parts : List (Nat × List RingPart)
  /-- result tokens of the rows computed that have not left yet: at most 16 wait beyond the tap queue (R372) -/
  out : List Tok
  /-- the failure that ended it, until its record enters the calling core's queue (R303, R376) -/
  report : Option Report
  deriving DecidableEq, Repr, Inhabited

/-- An attention chiplet (R363 to R400). -/
structure Chiplet where
  kvpool : Vector Word 64
  /-- free pages of each pool, this chiplet's own and borrowed ones: home and page number -/
  free : List (BitVec 6 × Fin 2 × Nat)
  salt : Vector (BitVec 256) 32
  kvlog : ErrLog
  kvinj : Word
  seqs : List KvSeq
  blocks : List KvBlock
  masks : List ((BitVec 5 × BitVec 4) × MaskProg)
  calls : List Call
  rings : List (BitVec 8 × List RingEntry)
  deriving DecidableEq, Repr, Inhabited

/-- A partition of the package: owner function, keys, tables and bindings (R270, R349, R412). -/
structure Part where
  live : Bool
  /-- how often the number has been given to a partition (R266) -/
  gen : Nat
  fn : BitVec 8
  pflags : BitVec 8
  tkey : List Byte
  rkey : List Byte
  key : BitVec 256
  pages : List PageMap
  binds : List (Word × Word × Word)
  /-- stored measurement of the policy record -/
  meas : Option (List Byte)
  deriving DecidableEq, Repr, Inhabited

/-- The TDISP states (R407). -/
inductive Tdi where
  | unlocked | locked | run | error
  deriving DecidableEq, Repr, Inhabited

/-- The agent of a slot that sends a counter add (R275). -/
inductive Agent where
  | cp
  | take (r : Fin 4)
  /-- the copy engine, or another engine of the slot -/
  | engine
  deriving DecidableEq, Repr, Inhabited

/-- A posted counter add (R265 to R267). -/
structure CtrAdd where
  id : Nat
  agent : Agent
  sender : CpId
  part : BitVec 5
  /-- the count of the partition's creations when the sender translated the address (R266) -/
  gen : Nat
  wid : Word
  pa : PAddr
  vaddr : Word
  inc : Word
  /-- it was refused at its counter and waits there until its record has entered the sender's queue (R303) -/
  refused : Bool := false
  deriving DecidableEq, Repr, Inhabited

/-- A CP's own add, so that the CP's accesses include it (R267, R275). -/
def CtrAdd.byCp (x : CtrAdd) : Bool := x.agent == .cp

/-- The gang states (R432, R435). -/
inductive GangState where
  | preparing | ready | committed | confirmed | aborted | stopped | retired
  deriving DecidableEq, Repr, Inhabited

/-- A gang as this package knows it (R430 to R435). -/
structure Gang where
  gid : Word
  state : GangState
  initHere : Bool
  late : Bool
  midx : Nat
  reason : BitVec 8
  part : BitVec 5
  /-- this member's work queue -/
  queue : Nat
  members : List (BitVec 20 × BitVec 12)
  slate : List Byte
  wdogNs : Nat
  delayNs : Nat
  ts : Word
  /-- time of the last state change and of the gang's acceptance here -/
  since : Nat
  born : Nat
  acks : List Nat
  commits : List Nat
  /-- number of the local launch -/
  launch : Option Nat
  /-- at the initiator: the issuing slot, the record's place, the counter and its increment -/
  home : CpId
  recVa : Word
  recPlaces : List PAddr
  ctr : Option (Word × PAddr)
  inc : Word
  signalled : Bool
  resume : Bool
  oldGid : Word
  started : Bool
  /-- the slots that firmware keeps for its tasks from the ACK until they start (R432, R433) -/
  slots : List CpId
  deriving DecidableEq, Repr, Inhabited

/-- What leaves for another package of the fabric: the tokens and window grants of channels, and the messages of management flits (R422). -/
inductive FabMsg where
  | token (cp : CpId) (port : BitVec 5) (seq : Nat) (t : Tok)
  | credit (cp : CpId) (port : BitVec 5) (first count : Nat)
  | prepare (m : PrepareMsg)
  /-- kind: 1 ACK, 2 NAK, 3 CLAPPER, 4 COMMIT-ACK, 5 CONFIRMED, 6 ABORT, 7 STOP -/
  | gang (kind : Nat) (gid : Word) (arg : Word)
  /-- COP, CFMT and LEN of a collective, which the members compare before data move (R440) -/
  | collTerms (gid : Word) (seq : Nat) (cop cfmt len : Nat)
  | collShard (gid : Word) (seq : Nat) (data : List Byte)
  /-- a collective ends everywhere for an error at a member (R440) -/
  | collError (gid : Word) (seq : Nat) (member : Nat)
  /-- an access to a peer package's memory, with the tenant key's digest, its size and its tag, and the answer to one (R428) -/
  | peerReq (r : PeerReq)
  | peerDone (tag : Nat) (ok : Bool) (data : List Byte)
  /-- a row's query vectors go to a member of the call's ring (R381) -/
  | ringQuery (chip : Bool) (call row : Nat) (queries : List W256)
  /-- an SPDM session about a partition's key is opened with its escrow package: to store it there, or to restore the partition (R418) -/
  | escrowAsk (part : BitVec 5) (restore : Bool)
  /-- a partition's key, encapsulated for the receiver (R418) -/
  | escrowKey (part : BitVec 5) (data : List Byte)
  /-- a piece of a checkpoint for a peer package's part of the safe tier (R417) -/
  | safe (base : Word) (data : List Byte)
  /-- a flit of another package goes on by its route (R424) -/
  | transit (f : Flit)
  deriving DecidableEq, Repr, Inhabited

/-- A flit that a port has to send: HDR, the tokens of PAYLOAD, and what it carries. -/
structure OutFlit where
  hdr : BitVec 128
  toks : List Tok
  msg : FabMsg
  deriving DecidableEq, Repr, Inhabited

/-- A Swemal port (R421 to R423). -/
structure LinkPort where
  up : Bool
  lanes : Nat
  epoch : BitVec 40
  lastRecv : BitVec 24
  sent : Nat
  sentLseq : BitVec 24
  errors : Nat
  /-- replays in a row without progress (R423) -/
  replays : Nat
  /-- the link's key, which the management cores at its ends have agreed (R423) -/
  key : BitVec 256
  /-- flits sent and not acknowledged yet, oldest first, at most 512; further ones wait (R423) -/
  replayBuf : List (BitVec 24 × OutFlit)
  queue : List OutFlit
  /-- heartbeats of the neighbour missed in a row (R442) -/
  missed : Nat
  deriving DecidableEq, Repr, Inhabited

/-- What leaves the package: interrupts, SPDM and TDISP answers, completions to the host, fabric messages. -/
inductive Emit where
  | msix (fn : BitVec 8) (hif : Bool) (vector : Nat)
  | spdm (fn : BitVec 8) (code : Nat) (data : List Byte)
  | tdisp (fn : BitVec 8) (ok : Bool) (st : Tdi)
  | readData (fn : BitVec 8) (data : List Byte)
  | unsupported (fn : BitVec 8)
  /-- a request of a function that its TDI does not accept is logged to function 0 (R408) -/
  | refusedRequest (fn : BitVec 8)
  /-- a flit on a port: HDR, PAYLOAD as it is encrypted, TRL with its tag, and what it carries (R422, R423) -/
  | flit (port : Fin 18) (hdr : BitVec 128) (payload : List Byte) (trl : BitVec 128) (msg : FabMsg)
  /-- a request of a function to host memory, on its bound IDE stream when it has one (R403, R413) -/
  | hostReq (fn : BitVec 8) (hif : Bool) (ide : Option (BitVec 8)) (addr : Nat) (write : Bool) (data : List Byte)
  /-- an AtomicOp to host memory (R227) -/
  | hostAmo (fn : BitVec 8) (hif : Bool) (addr : Nat) (op : HostAtomic)
  | replay (port : Fin 18) (after : BitVec 24)
  | portDown (port : Fin 18)
  deriving DecidableEq, Repr, Inhabited

/-- The mailbox (R413). -/
structure Mailbox where
  cmd : Word
  arg : Vector Word 4
  busy : Bool
  detail : BitVec 8
  result : BitVec 8
  deriving DecidableEq, Repr, Inhabited

/-- A step due in the present grid cycle: a CP's cycle, or an event. -/
inductive Task where
  | cp (c : CpId)
  | ev (i : Instr)
  deriving DecidableEq, Repr, Inhabited

/-- What a checkpoint has sealed for a partition (R417): the address of its safe-tier list, what it has written to host memory, the key, the HBM
granules and cache pages with their ciphertext, the cache's tables, and the images. -/
structure SafeCopy where
  list : Word
  written : List (Nat × List Byte)
  part : BitVec 5
  key : BitVec 256
  granules : List (Fin 4 × Nat)
  mem : Memory
  blocks : List (Fin 2 × KvBlock)
  seqs : List (Fin 2 × KvSeq)
  slots : List (CpId × Slot)
  deriving DecidableEq, Repr, Inhabited

/-- One package. -/
structure State where
  cores : Vector Core 256
  clusters : Vector Cluster 32
  dies : Vector Die 4
  chiplets : Vector Chiplet 2
  parts : Vector Part 32
  mem : Memory
  /-- uncorrected and corrected ECC marks of the stored words (R307) -/
  ecc : List EccMark
  tiles : List Tile
  adds : List CtrAdd
  launches : List Launch
  mailbox : Mailbox
  hsteer : Vector Bool 253
  tdi : Vector Tdi 253
  /-- the keys of each interface's Link IDE and of its Selective IDE streams, and the stream bound to a function (R408) -/
  linkIde : Vector (Option (BitVec 256)) 2
  streams : Vector (List (BitVec 8 × BitVec 256)) 2
  ide : Vector (Option (Fin 2 × BitVec 8)) 253
  dwsel : Vector Word 253
  /-- open SPDM sessions of a function, and the negotiated state (R410) -/
  spdm : Vector Nat 253
  meas : List (Nat × List Byte)
  escrowed : List (BitVec 20 × BitVec 5 × List Byte)
  /-- sessions with escrow packages that wait for their measurements (R418) -/
  escrowAsks : List (BitVec 20 × BitVec 5)
  safe : List SafeCopy
  powerLimit : BitVec 16
  ep : BitVec 20
  /-- the routing tables, which the operator programs: the output port of an endpoint (R424) -/
  routes : List (BitVec 20 × Fin 18)
  links : Vector LinkPort 18
  /-- windows that peers have granted before their channels are open here: slot, port and endpoint, the number that the peer expects next, and a
  count (R426, R442) -/
  grants : List (CpId × BitVec 5 × BitVec 20 × Nat × Nat)
  /-- fabric time in elevenths of a nanosecond, and the lock's count of good syncs (R429) -/
  ftime : Nat
  lockCount : Nat
  gangs : List Gang
  /-- the model's own fields: what runs, what is due, what arrives and leaves (entries 3, 4) -/
  cur : CpId
  agenda : List Task
  inbox : List (Option Instr)
  outbox : List Emit
  fresh : Nat
  ids : Nat
  deriving DecidableEq, Repr, Inhabited

/-! ### Reset (R17): every field at the value the spec states, and where it states none at the value of entry 2 -/

def Cp.reset : Cp :=
  { pc := 0, handler := false, bankT := Vector.replicate 32 0, bankH := Vector.replicate 32 0
    lqT := [], lqH := [], check := true, phase := 1, tcyc := 0, cpevt := 0, tvec := 0, tpc := 0
    tcause := 0, tval := 0, tfpc := 0, tscr := 0, dbgctl := 0, profctl := 0, pmc := Vector.replicate 4 0
    run := .stopped, untimed := 0, gap := false, waitLeft := none, waitFor := false, dtraps := [], posted := []
    ftc := [], icache := [], trigged := none, trigReported := false, stepOne := false, answerDue := false, answer := none, asked := false, iword := 0 }

def Bank.empty : Bank := ⟨false, false, [], [], [], []⟩

def Elem.reset : Elem :=
  { on := Bank.empty, next := Bank.empty, f := Vector.replicate 16 Tok.zero, d := Tok.zero, c := 0, dn := Tok.zero, cn := 0
    acc := Vector.replicate 4 (Vector.replicate 8 0), bp := Vector.replicate 64 0, flight := []
    tapq := Vector.replicate 4 [], lfsr := 0, estat := 0, steady := false }

def Header.none : Header := ⟨0, 0, 0, 0, 0, 0, 0, 0, []⟩

def Region.reset : Region :=
  { on := .free, next := .empty, loading := none, onHdr := Header.none, nextHdr := Header.none
    lastst := 0, cause := 0, loadrep := 0, flags := 0, held := 0, cycles := 0, energy := 0, faultWord := 0
    armLaps := 0, armSeed := 0, armTab := [], ctrs := [], slotc := 0, tc := 0, lap := 0, it := 0
    takeSeq := 0, startIn := 0, endDue := false, guardRecorded := false, nextLost := false
    walking := false, eccHeld := false, started := false, going := false, stopDue := none, stopRec := false, drainStop := false, begun := false }

def Channel.closed : Channel := ⟨false, 0, 0, 0, 0, [], none⟩
def PortCtx.reset : PortCtx := ⟨none, none, 0, 0, Channel.closed⟩

/-- A slot with nothing bound (R346). -/
def Slot.reset : Slot :=
  { slate := 0, wid := 0, tvec := 0, cfg := 0, status := 0, refusal := 0, part := 0, prio := 0, launch := none
    cp := Cp.reset, cmdq := [], copyq := [], copying := none, patterns := Vector.replicate 16 0
    ports := Vector.replicate 24 PortCtx.reset, freed := [], regions := Vector.replicate 4 Region.reset
    elems := Vector.replicate 256 Elem.reset, stages := Vector.replicate 16 none
    peers := Vector.replicate 8 none, barPend := Vector.replicate 16 false
    barAph := Vector.replicate 16 0, tilesOut := Vector.replicate 4 0, tileClaims := Vector.replicate 4 0, colls := []
    mreport := none, gangTag := none, energy := 0 }

def ErrLog.reset : ErrLog := ⟨0, 0, 0, 0⟩

def Core.reset : Core :=
  { slots := Vector.replicate 2 Slot.reset, ssb := 64, smb := 64, lsb := 16, gc := 0, swap := none, ring := []
    readClaims := [], writeClaims := [], edgeTlb := [], recq := [], recWait := [], offerIn := 0, backoff := 1100
    elog := Vector.replicate 8 ErrLog.reset, einj := 0, fuse := 0, cquar := false, gdcnt := 0
    localHeld := Vector.replicate 16 none, sceneHeld := Vector.replicate 64 none, statHeld := Vector.replicate 64 none
    ranFrom := 0, ran := Vector.replicate 2 0
    rushes := [], rushcnt := 0, rushFrom := Vector.replicate 2 0 }

def Cluster.reset : Cluster :=
  { owners := Vector.replicate 128 none, ownerPart := Vector.replicate 128 0, cblog := ErrLog.reset, cbinj := 0, cdlog := 0
    barGen := Vector.replicate 16 0, barPart := Vector.replicate 16 0, barArr := Vector.replicate 16 0
    barN := Vector.replicate 16 0 }

def Wq.reset : Wq := ⟨0, 0, 0, 0, 0⟩
def Ptab.reset : Ptab := ⟨0, 0, 0, 0, 0, 0, 0, 0, 0, 0, 0, 0, 0, 0, [], []⟩
def HbmCtl.reset : HbmCtl := ⟨ErrLog.reset, 0, false, false, [], 0, 0, 0, [], [], [], 0, 1100, Vector.replicate 33 0⟩
def Hart.reset : Hart := ⟨Vector.replicate 31 0, 0, .machine⟩

def Die.reset : Die :=
  { hart := Hart.reset, gcyc := 0, skip := false, recovery := false, wqs := [], ptab := Vector.replicate 32 Ptab.reset, fbHead := 0, fbTail := 0, fbuf := []
    epart := Vector.replicate 32 0, eunattr := 0, eskip := Vector.replicate 32 0
    granules := Vector.replicate 94 none
    ctl := Vector.replicate 2 HbmCtl.reset, dovfbase := 0, pwrstat := 0, winCycles := 0, winSkipped := 0, toSkip := 0, ftstat := 0 }

def Chiplet.reset : Chiplet :=
  { kvpool := Vector.replicate 64 0, free := [], salt := Vector.replicate 32 0, kvlog := ErrLog.reset
    kvinj := 0, seqs := [], blocks := [], masks := [], calls := [], rings := [] }

def Part.reset : Part := ⟨false, 0, 0, 0, [], [], 0, [], [], none⟩
def LinkPort.reset : LinkPort := ⟨true, 4, 0, 0, 0, 0, 0, 0, 0, [], [], 0⟩

/-- The package after a cold reset (R17). -/
def State.reset : State :=
  { cores := Vector.replicate 256 Core.reset, clusters := Vector.replicate 32 Cluster.reset
    dies := Vector.replicate 4 Die.reset, chiplets := Vector.replicate 2 Chiplet.reset
    parts := Vector.replicate 32 Part.reset, mem := [], ecc := [], tiles := [], adds := [], launches := []
    mailbox := ⟨0, Vector.replicate 4 0, false, 0, 0⟩, hsteer := Vector.replicate 253 false
    tdi := Vector.replicate 253 .unlocked, linkIde := Vector.replicate 2 none, streams := Vector.replicate 2 [], ide := Vector.replicate 253 none, dwsel := Vector.replicate 253 0
    spdm := Vector.replicate 253 0, meas := [], escrowed := [], escrowAsks := [], safe := [], powerLimit := 3600, ep := 0xFFFFF, routes := []
    links := Vector.replicate 18 LinkPort.reset, grants := [], ftime := 0, lockCount := 0, gangs := []
    cur := ⟨0, 0⟩, agenda := [], inbox := [], outbox := [], fresh := 0, ids := 0 }

end Sys2Proof.Machine
end

