-- ==== Sys2Proof/Machine/Ops.lean ====
section
/-! DEFINITION. The named operations over the state: access to its parts, memory, address classes and translation, error logs
and injection, fault records, taking an exception and returning from one, and counters. -/
namespace Sys2Proof

/-! ### Places -/

/-- A number for each memory, one to one. -/
def Space.index : Space → Nat
  | .loc k => k.val
  | .scene k => 256 + k.val
  | .stat k => 512 + k.val
  | .cb k => 768 + k.val
  | .hbm d => 800 + d.val
  | .kv k => 804 + k.val
  | .host => 806
  | .peer e => 807 + e.toNat

/-- The key of a byte place in `State.mem`: one to one for offsets below 2^64, which all are. -/
def PAddr.key (a : PAddr) : Nat := Space.index a.space * 2 ^ 64 + a.off

/-- The place n bytes on. -/
def PAddr.plus (a : PAddr) (n : Nat) : PAddr := { a with off := a.off + n }

/-- A memory outside the package: its completer may answer with an error, and its data may come with one (R223). -/
def PAddr.outside (a : PAddr) : Bool := match a.space with | .host => true | .peer _ => true | _ => false

/-- A place that is reached at the core's own port (R226). -/
def PAddr.near (a : PAddr) : Bool := match a.space with | .loc _ => true | .scene _ => true | _ => false

/-- Two places lie in one 256-byte block (R356). -/
def PAddr.sameBlock (a b : PAddr) : Bool := a.space == b.space && a.off / 256 == b.off / 256

/-- A memory of the package that records and counters may lie in (R237, R265). -/
def Space.package : Space → Bool
  | .loc _ => true
  | .scene _ => true
  | .cb _ => true
  | .hbm _ => true
  | _ => false

end Sys2Proof

namespace Sys2Proof.Machine

/-! ### Access to the parts -/

/-- A vector with one place changed. -/
def vmod {α : Type} {n : Nat} (v : Vector α n) (i : Fin n) (f : α → α) : Vector α n := v.set i.val (f (v.get i)) i.isLt

def State.core (s : State) (k : Fin 256) : Core := s.cores.get k
def State.modCore (s : State) (k : Fin 256) (f : Core → Core) : State := { s with cores := vmod s.cores k f }
def State.slot (s : State) (c : CpId) : Slot := (s.core c.core).slots.get c.slot
def State.modSlot (s : State) (c : CpId) (f : Slot → Slot) : State :=
  s.modCore c.core fun k => { k with slots := vmod k.slots c.slot f }
def State.cp (s : State) (c : CpId) : Cp := (s.slot c).cp
def State.modCp (s : State) (c : CpId) (f : Cp → Cp) : State := s.modSlot c fun t => { t with cp := f t.cp }
def State.region (s : State) (c : CpId) (r : Fin 4) : Region := (s.slot c).regions.get r
def State.modRegion (s : State) (c : CpId) (r : Fin 4) (f : Region → Region) : State :=
  s.modSlot c fun t => { t with regions := vmod t.regions r f }
def State.elem (s : State) (c : CpId) (e : Fin 256) : Elem := (s.slot c).elems.get e
def State.modElem (s : State) (c : CpId) (e : Fin 256) (f : Elem → Elem) : State :=
  s.modSlot c fun t => { t with elems := vmod t.elems e f }
def State.cluster (s : State) (k : Fin 32) : Cluster := s.clusters.get k
def State.modCluster (s : State) (k : Fin 32) (f : Cluster → Cluster) : State :=
  { s with clusters := vmod s.clusters k f }
def State.die (s : State) (d : Fin 4) : Die := s.dies.get d
def State.modDie (s : State) (d : Fin 4) (f : Die → Die) : State := { s with dies := vmod s.dies d f }
def State.chiplet (s : State) (k : Fin 2) : Chiplet := s.chiplets.get k
def State.modChiplet (s : State) (k : Fin 2) (f : Chiplet → Chiplet) : State :=
  { s with chiplets := vmod s.chiplets k f }

/-- The place of a 5-bit number among 32. -/
def ix32 (p : BitVec 5) : Fin 32 := ⟨p.toNat, p.isLt⟩
/-- The place of a 4-bit number among 16. -/
def ix16 (p : BitVec 4) : Fin 16 := ⟨p.toNat, p.isLt⟩
/-- The place of a 2-bit number among 4. -/
def ix4 (p : BitVec 2) : Fin 4 := ⟨p.toNat, p.isLt⟩
/-- The place of a 3-bit number among 8. -/
def ix8 (p : BitVec 3) : Fin 8 := ⟨p.toNat, p.isLt⟩

def State.part (s : State) (p : BitVec 5) : Part := s.parts.get (ix32 p)
def State.modPart (s : State) (p : BitVec 5) (f : Part → Part) : State := { s with parts := vmod s.parts (ix32 p) f }

/-- A port 0 to 23 of a slot; a number above reads as a port with nothing bound. -/
def Slot.port (t : Slot) (p : BitVec 5) : PortCtx :=
  if h : p.toNat < 24 then t.ports.get ⟨p.toNat, h⟩ else PortCtx.reset
def Slot.modPort (t : Slot) (p : BitVec 5) (f : PortCtx → PortCtx) : Slot :=
  if h : p.toNat < 24 then { t with ports := vmod t.ports ⟨p.toNat, h⟩ f } else t
def State.modPort (s : State) (c : CpId) (p : BitVec 5) (f : PortCtx → PortCtx) : State :=
  s.modSlot c fun t => t.modPort p f

/-- The die of a core (R1, R234). -/
def dieOf (k : Fin 256) : Fin 4 := ⟨k.val / 64, by omega⟩
/-- The cluster of a core, counted over the package. -/
def clusterOf (k : Fin 256) : Fin 32 := ⟨k.val / 8, by omega⟩
/-- LOC of R299, which is CPID of R234: die, cluster and core number. -/
def locOf (k : Fin 256) : BitVec 8 := BitVec.ofNat 8 k.val
/-- The core of a LOC. -/
def coreOfLoc (l : BitVec 8) : Fin 256 := ⟨l.toNat, l.isLt⟩
/-- Core (cluster, number) of a die. -/
def coreOf (d : Fin 4) (cl k : Fin 8) : Fin 256 := ⟨d.val * 64 + cl.val * 8 + k.val, by omega⟩

/-- The grid cycle of a core's die (R234). -/
def State.gcyc (s : State) (k : Fin 256) : Word := (s.die (dieOf k)).gcyc

/-- The slot is the bound one, or one of the two bound ones under a split binding (R170, R346, R349). -/
def Slot.bound (t : Slot) : Bool := t.status == 0x01

/-- The core's two slots are bound at once (R349). -/
def Core.split (k : Core) : Bool := k.gc != 0

/-- The regions and engines of a slot run: those of a bound one, and those of one whose CP a double fault has stopped (R297), unless
the other slot has the grid since. A gang's stop stops the regions too (R434) and leaves the CP's image as it was. -/
def State.onGrid (s : State) (c : CpId) : Bool :=
  (s.slot c).bound || ((s.slot c).status == 0x04 && (s.cp c).run == .stopped && ((s.core c.core).split || !((s.core c.core).slots.toList.any Slot.bound)))

/-- Bits [hi:lo] of a number (R13). -/
def bits (x hi lo : Nat) : Nat := x / 2 ^ lo % 2 ^ (hi + 1 - lo)

/-- Bits [hi:lo] of a word. -/
def wbits (x : Word) (hi lo : Nat) : Nat := bits x.toNat hi lo

/-- A CP that an attached debugger holds (R229, R414). -/
def Cp.isHalted (p : Cp) : Bool := match p.run with | .halted _ => true | _ => false

/-- The takes of a slot run: a halting breakpoint stops them with the CP (R229). -/
def State.takesRun (s : State) (c : CpId) : Bool := s.onGrid c && !(s.cp c).isHalted

/-- The next free value (entry 4). -/
def State.freeWord (s : State) : Word := Config.freeWord s.fresh
/-- The free value is taken: the next use gets another one. -/
def State.took (s : State) : State := { s with fresh := s.fresh + 1 }

/-! ### Memory -/

/-- What an unlisted place reads as (entry 1). -/
def unlisted : Byte := 0

/-- The byte at a key. -/
def memGet : Memory → Nat → Byte
  | [], _ => unlisted
  | (k, b) :: t, x => if k = x then b else memGet t x

/-- The memory with one byte changed, in canonical form. -/
def memSet : Memory → Nat → Byte → Memory
  | [], x, v => if v = unlisted then [] else [(x, v)]
  | (k, b) :: t, x, v =>
    if x < k then (if v = unlisted then (k, b) :: t else (x, v) :: (k, b) :: t)
    else if x = k then (if v = unlisted then t else (x, v) :: t)
    else (k, b) :: memSet t x v

/-- The canonical form: keys strictly rising, no entry equal to what an unlisted place reads as. -/
def Memory.wf : Memory → Bool
  | [] => true
  | (k, b) :: t => b != unlisted && t.all (fun c => decide (k < c.1)) && Memory.wf t

/-- HBM controller of a place: bit 14 selects one of the die's two stacks (R353). -/
def ctlOf (off : Nat) : Fin 2 := ⟨off / 2 ^ 14 % 2, by omega⟩

/-- The key ID under which an owner's granule is read: firmware's is 0, partition p's is p + 1 (R351). -/
def keyId : Option (BitVec 5) → Fin 33
  | none => 0
  | some p => ⟨p.toNat + 1, by omega⟩

/-- What the key under which a place of HBM is read adds to its content: the same bytes for the same key and place, so that what is read under
the key of its write is plain, and under another key is not; a key register that nothing has written adds nothing (R351; entry 4). -/
def State.pad (s : State) (a : PAddr) : Byte :=
  match a.space with
  | .hbm d =>
    if h : a.off / 2 ^ 30 < 94 then
      let k := ((s.die d).ctl.get (ctlOf a.off)).keys.get (keyId ((s.die d).granules.get ⟨a.off / 2 ^ 30, h⟩))
      if k = 0 then 0 else Config.garbledByte k.toNat (d.val * 2 ^ 37 + a.off)
    else 0
  | _ => 0

/-- The byte an agent reads at a place. -/
def State.byteAt (s : State) (a : PAddr) : Byte := memGet s.mem a.key ^^^ s.pad a

/-- An agent's write of one byte. -/
def State.setByte (s : State) (a : PAddr) (v : Byte) : State := { s with mem := memSet s.mem a.key (v ^^^ s.pad a) }

/-- n bytes from a place, lowest address first. -/
def State.bytesAt (s : State) (a : PAddr) : Nat → List Byte
  | 0 => []
  | n + 1 => s.byteAt a :: s.bytesAt (a.plus 1) n

/-- Bytes written from a place on. -/
def State.setBytes (s : State) (a : PAddr) : List Byte → State
  | [] => s
  | b :: t => (s.setByte a b).setBytes (a.plus 1) t

/-- The little-endian value of bytes (R13). -/
def leNat : List Byte → Nat
  | [] => 0
  | b :: t => b.toNat + 256 * leNat t

/-- n bytes of a number, little-endian (R13). -/
def leBytes : Nat → Nat → List Byte
  | 0, _ => []
  | n + 1, v => BitVec.ofNat 8 v :: leBytes n (v / 256)

/-- The n-byte value at a place. -/
def State.leAt (s : State) (a : PAddr) (n : Nat) : Nat := leNat (s.bytesAt a n)
/-- A 64-bit word at a place. -/
def State.wordAt (s : State) (a : PAddr) : Word := BitVec.ofNat 64 (s.leAt a 8)

/-- A field of a record: n bytes from an offset. -/
def fld (r : List Byte) (off n : Nat) : Nat := leNat ((r.drop off).take n)
/-- A 64-bit field of a record. -/
def fld64 (r : List Byte) (off : Nat) : Word := BitVec.ofNat 64 (fld r off 8)
/-- Every byte of a range of a record is zero. -/
def zeroBytes (r : List Byte) (off n : Nat) : Bool := ((r.drop off).take n).all (· == 0)

/-! ### Error logs and injection (R307 to R309, R319, R353, R365) -/

/-- An error at an offset enters a log at a time (R308): counts stop at 0xFFFF, an uncorrectable one is not replaced by a corrected one, and
of two of one kind in one cycle the one at the lower offset stands. -/
def ErrLog.note (l : ErrLog) (time off : Nat) (ue inj : Bool) (slot : Fin 2) (part : BitVec 5) (synd : BitVec 8) (addr : Word) : ErrLog :=
  let ce := wbits l.stat 63 48
  let un := wbits l.stat 47 32
  let ce' := if ue then ce else min 0xFFFF (ce + 1)
  let un' := if ue then min 0xFFFF (un + 1) else un
  let valid := l.stat.getLsbD 0
  let keep := valid && ((l.stat.getLsbD 1 && !ue) || (l.stat.getLsbD 1 == ue && l.time == time && decide (l.off ≤ off)))
  if keep then
    { l with stat := BitVec.ofNat 64 (ce' * 2 ^ 48 + un' * 2 ^ 32 + wbits l.stat 31 0) }
  else
    { stat := BitVec.ofNat 64 (ce' * 2 ^ 48 + un' * 2 ^ 32 + slot.val * 2 ^ 21 + part.toNat * 2 ^ 16
        + synd.toNat * 2 ^ 8 + inj.toNat * 4 + ue.toNat * 2 + 1)
      addr := addr, off := off, time := time }

/-- The number of an ECC word of a core's arrays 1, 2, 3, 6 and 7 (R307): array, unit (element, or slot and bank) and word. -/
def arrWord (core : Fin 256) (arr unit word : Nat) : Nat :=
  (2 ^ 64 + ((core.val * 8 + arr) * 256 + unit) * 2 ^ 20 + word) * 2 ^ 64

/-- The array code of a core's memory (R307). -/
def arrOf : Space → Nat
  | .stat _ => 0
  | .scene _ => 4
  | _ => 5

/-- One error log of a core changes. -/
def Core.modLog (c : Core) (a : Fin 8) (f : ErrLog → ErrLog) : Core := { c with elog := vmod c.elog a f }
/-- One HBM controller of a die changes. -/
def Die.modCtl (d : Die) (k : Fin 2) (f : HbmCtl → HbmCtl) : Die := { d with ctl := vmod d.ctl k f }

/-- The log of a memory takes an error at a place. The word offset counts 8-byte words (R308, R319, R353, R365). -/
def State.logAt (s : State) (who : CpId) (part : BitVec 5) (a : PAddr) (m : EccMark) : State :=
  let w := a.off / 8
  let enter (l : ErrLog) (addr off : Nat) : ErrLog := l.note s.ftime off m.two m.inj who.slot part m.synd (BitVec.ofNat 64 addr)
  let stat := (a.off / 2 ^ 14) * 2 ^ 56 + w % 2 ^ 11
  match a.space with
  | .loc k => s.modCore k fun c => c.modLog 5 fun l => enter l w w
  | .scene k => s.modCore k fun c => c.modLog 4 fun l => enter l w w
  | .stat k => s.modCore k fun c => c.modLog 0 fun l => enter l stat stat
  | .cb k => s.modCluster k fun c => { c with cblog := enter c.cblog ((locOf who.core).toNat * 2 ^ 56 + w % 2 ^ 20) w }
  | .hbm d => s.modDie d fun x => x.modCtl (ctlOf a.off) fun l => { l with hlog := enter l.hlog (d.val * 2 ^ 37 + a.off) a.off }
  | .kv k => s.modChiplet k fun x => { x with kvlog := enter x.kvlog ((a.off / 2 ^ 47) * 2 ^ 63 + a.off % 2 ^ 47) a.off }
  | .host => s
  | .peer _ => s

/-- The ECC marks on the words that n bytes from a place touch. -/
def State.marksAt (s : State) (a : PAddr) (n : Nat) : List EccMark :=
  s.ecc.filter fun m => decide (a.key / 8 ≤ m.word) && decide (m.word ≤ (a.key + n - 1) / 8)

/-- The errors that a read from a place meets enter the logs (R307). -/
def State.logMarks (s : State) (who : CpId) (part : BitVec 5) (a : PAddr) (ms : List EccMark) : State :=
  ms.foldl (fun t m => t.logAt who part { a with off := a.off + (m.word - a.key / 8) * 8 } m) s

/-- A read of n bytes: the errors on them are logged, and the answer is none when one of them is uncorrectable (R307). -/
def State.load (s : State) (who : CpId) (part : BitVec 5) (a : PAddr) (n : Nat) : State × Option (List Byte) :=
  let ms := s.marksAt a n
  let s' := s.logMarks who part a ms
  if ms.any (·.two) then (s', none) else (s', some (s.bytesAt a n))

/-- An armed injection of a register laid out as EINJ (R309) that applies to a write by a partition: the mark it makes, if
the bits it names are real and differ, and the register afterwards. -/
def injection (reg : Word) (part : BitVec 5) (synd : BitVec 8) (word : Nat) : Option (Word × Option EccMark) :=
  let two := reg.getLsbD 14
  let b0 := wbits reg 6 0
  let b1 := wbits reg 13 7
  if !reg.getLsbD 63 then none
  else if reg.getLsbD 37 && wbits reg 36 32 != part.toNat then none
  else if b0 > 71 || b1 > 71 then none
  else
    let reg' := reg &&& ~~~(BitVec.ofNat 64 (2 ^ 63))
    if two && b0 == b1 then some (reg', none)
    else some (reg', some { word := word, two := two, inj := true, synd := synd })

/-- The syndrome a mark carries: the code is not given, so it is a free value (entry 4). -/
def State.freeSynd (s : State) : BitVec 8 := s.freeWord.extractLsb' 0 8

/-- The injection register of a memory. -/
def State.injOf (s : State) (a : PAddr) : Word :=
  match a.space with
  | .loc k => let r := (s.core k).einj; if wbits r 62 60 = 5 then r else 0
  | .scene k => let r := (s.core k).einj; if wbits r 62 60 = 4 then r else 0
  | .stat k => let r := (s.core k).einj; if wbits r 62 60 = 0 then r else 0
  | .cb k => (s.cluster k).cbinj
  | .hbm d => ((s.die d).ctl.get (ctlOf a.off)).hinj
  | .kv k => let r := (s.chiplet k).kvinj; if wbits r 62 60 = a.off / 2 ^ 47 then r else 0
  | _ => 0

/-- The injection register of a memory takes a value. -/
def State.setInjOf (s : State) (a : PAddr) (v : Word) : State :=
  match a.space with
  | .loc k => s.modCore k fun c => { c with einj := v }
  | .scene k => s.modCore k fun c => { c with einj := v }
  | .stat k => s.modCore k fun c => { c with einj := v }
  | .cb k => s.modCluster k fun c => { c with cbinj := v }
  | .hbm d => s.modDie d fun x => x.modCtl (ctlOf a.off) fun l => { l with hinj := v }
  | .kv k => s.modChiplet k fun x => { x with kvinj := v }
  | _ => s

/-- The uncorrectable error that a failing read of n bytes met. -/
def State.badMark (s : State) (a : PAddr) (n : Nat) : EccMark := ((s.marksAt a n).find? (·.two)).getD default
/-- Its syndrome, for SYND of a record (R299). -/
def State.synd (s : State) (a : PAddr) (n : Nat) : Word := (s.badMark a n).synd.setWidth 64
/-- DETAIL of a record of UNCORR for a place (R300): the array code of R307 and the word offset within the array. The cluster
buffer and HBM are no arrays of R307. -/
def State.uncorrDetail (s : State) (a : PAddr) (n : Nat) : Word :=
  let w := (s.badMark a n).word % 65536
  match a.space with
  | .loc _ => BitVec.ofNat 64 (5 + 256 * w)
  | .scene _ => BitVec.ofNat 64 (4 + 256 * w)
  | .stat _ => BitVec.ofNat 64 (256 * (w % 2 ^ 11))
  | _ => 0

/-- A write of bytes by a partition's agent: whole words lose the marks they carried, and an armed injection marks the first
codeword written (R309). -/
def State.store (s : State) (part : BitVec 5) (a : PAddr) (bs : List Byte) : State :=
  let s1 := s.setBytes a bs
  let whole (m : EccMark) : Bool := decide (a.key ≤ m.word * 8) && decide (m.word * 8 + 8 ≤ a.key + bs.length)
  let s2 := if s.ecc.isEmpty then s1 else { s1 with ecc := s1.ecc.filter fun m => !whole m }
  match injection (s.injOf a) part s.freeSynd (a.key / 8) with
  | none => s2
  | some (r, m) =>
    let s3 := s2.setInjOf a r
    match m with
    | none => s3
    | some m => { s3.took with ecc := m :: s3.ecc }

/-- A mark lies on one of n words of an array from a number on (`arrWord` / 2^64). -/
def EccMark.inWords (m : EccMark) (base n : Nat) : Bool :=
  m.word % 2 ^ 64 == 0 && decide (base ≤ m.word / 2 ^ 64) && decide (m.word / 2 ^ 64 < base + n)

/-- An armed injection of a core marks a word of an array that a partition writes (R309). -/
def State.injectArr (s : State) (core : Fin 256) (part : BitVec 5) (arr unit word : Nat) : State :=
  let reg := (s.core core).einj
  if wbits reg 62 60 = arr then
    match injection reg part s.freeSynd (arrWord core arr unit word) with
    | none => s
    | some (r, m) =>
      let s1 := s.modCore core fun c => { c with einj := r }
      match m with
      | none => s1
      | some m => { s1.took with ecc := m :: s1.ecc }
  else s

/-- Words of a core's array lose the marks they carried (R307). -/
def State.cleanArr (s : State) (core : Fin 256) (arr unit word n : Nat) : State :=
  if s.ecc.isEmpty then s else { s with ecc := s.ecc.filter fun m => !m.inWords (arrWord core arr unit 0 / 2 ^ 64 + word) n }

/-- A write of n words of one of a core's arrays 1, 2, 3, 6, 7: they lose the marks they carried, and an armed injection marks the first
(R307, R309). -/
def State.writeArr (s : State) (core : Fin 256) (part : BitVec 5) (arr unit word n : Nat) : State :=
  (s.cleanArr core arr unit word n).injectArr core part arr unit word

/-- A read of words of a core's array: errors are logged (R307, R308); answers whether one is uncorrectable. -/
def State.readArr (s : State) (who : CpId) (part : BitVec 5) (arr unit word n : Nat) : State × Bool :=
  if s.ecc.isEmpty then (s, false)
  else
    let base := arrWord who.core arr unit 0 / 2 ^ 64
    let ms := s.ecc.filter fun m => m.inWords (base + word) n
    let fh := if h : arr < 8 then (⟨arr, h⟩ : Fin 8) else 0
    let up := if arr < 4 then unit * 2 ^ 56 else 0
    let enter (m : EccMark) (l : ErrLog) : ErrLog :=
      l.note s.ftime (up + (m.word / 2 ^ 64 - base)) m.two m.inj who.slot part m.synd (BitVec.ofNat 64 (up + (m.word / 2 ^ 64 - base)))
    let s' := ms.foldl (fun t m => t.modCore who.core fun c => c.modLog fh (enter m)) s
    (s', ms.any (·.two))

/-! ### Address classes, shares and translation (R161, R171, R220, R221) -/

/-- A canonical address: bits [63:57] equal bit 56 (R161). -/
def canonical (a : Word) : Bool := decide (a.toNat < 2 ^ 56) || decide (2 ^ 64 - 2 ^ 56 ≤ a.toNat)

/-- The classes of an address (R161). -/
inductive AddrClass where
  | near
  | scene
  | unmapped
  | far
  | nonCanonical
  deriving DecidableEq, Repr, Inhabited

/-- The class of an address; `near` is Local (R161). -/
def classOf (a : Word) : AddrClass :=
  if a.toNat < 0x10000 then .near
  else if a.toNat < 0x400000 then .unmapped
  else if a.toNat < 0x800000 then .scene
  else if canonical a then .far else .nonCanonical

/-- Base and length of a slot's share of the local store (R170). -/
def Core.localShare (k : Core) (slot : Fin 2) : Nat × Nat :=
  let b := k.lsb.toNat * 4096
  if slot = 0 then (0, b) else (b, 65536 - b)
/-- Base and length of a slot's share of scene memory (R170). -/
def Core.sceneShare (k : Core) (slot : Fin 2) : Nat × Nat :=
  let b := k.smb.toNat * 65536
  if slot = 0 then (0, b) else (b, 4194304 - b)
/-- First block and number of blocks of a slot's share of each stationary store (R170). -/
def Core.statShare (k : Core) (slot : Fin 2) : Nat × Nat :=
  let b := k.ssb.toNat
  if slot = 0 then (0, b) else (b, 64 - b)

/-- Cause codes (R293). -/
def cILLEGAL : BitVec 8 := 0x01
def cMISALIGNED : BitVec 8 := 0x02
def cADDRCLASS : BitVec 8 := 0x03
def cWINDOW : BitVec 8 := 0x04
def cPAGE : BitVec 8 := 0x05
def cPROTECT : BitVec 8 := 0x06
def cUNCORR : BitVec 8 := 0x07
def cTIMING : BitVec 8 := 0x08
def cFORMAT : BitVec 8 := 0x09
def cTAKEBUSY : BitVec 8 := 0x0A
def cKVEMPTY : BitVec 8 := 0x0B
def cSPACE : BitVec 8 := 0x0C
def cGANG : BitVec 8 := 0x0D
def cGUARD : BitVec 8 := 0x0E
def cSOFT : BitVec 8 := 0x0F
def cBKPT : BitVec 8 := 0x10
def cDOUBLE : BitVec 8 := 0x11
def cDROP : BitVec 8 := 0x12

/-- The place of a near address, n bytes, within the slot's share (R162, R171). -/
def State.nearPlace (s : State) (c : CpId) (a : Word) (n : Nat) : Except (BitVec 8) PAddr :=
  match classOf a with
  | .near =>
    let sh := (s.core c.core).localShare c.slot
    if a.toNat + n ≤ sh.2 then .ok ⟨.loc c.core, sh.1 + a.toNat⟩ else .error cPROTECT
  | .scene =>
    let sh := (s.core c.core).sceneShare c.slot
    let o := a.toNat - 0x400000
    if o + n ≤ sh.2 then .ok ⟨.scene c.core, sh.1 + o⟩ else .error cPROTECT
  | _ => .error cADDRCLASS

/-- The page of a partition that holds a virtual address (R183). -/
def Part.page (p : Part) (a : Nat) : Option PageMap :=
  p.pages.find? fun g => decide (g.va ≤ a) && decide (a < g.va + g.size)

/-- A place lies in the launch table that firmware keeps for a partition in its own HBM: 1024 copies of up to 128 bytes, which
firmware maps read-only for the partition (R343, R350; entry 11). -/
def State.inLaunchTable (s : State) (part : BitVec 5) (d : Fin 4) (off : Nat) : Bool :=
  s.dies.toList.any fun x =>
    let a := (x.ptab.get (ix32 part)).ltab.toNat
    a != 0 && a / 2 ^ 37 % 4 == d.val && decide (a % 2 ^ 37 ≤ off) && decide (off < a % 2 ^ 37 + 131072)

/-- The owner of a unit of a cluster buffer (R318) or of a granule of HBM (R351) allows a partition's access. Of firmware's granules
a partition reads its own launch table alone (R343). -/
def State.ownerOk (s : State) (part : BitVec 5) (a : PAddr) (write : Bool) : Bool :=
  match a.space with
  | .cb k => if h : a.off / 65536 < 128 then (s.cluster k).owners.get ⟨a.off / 65536, h⟩ == some part else false
  | .hbm d =>
    if h : a.off / 2 ^ 30 < 94 then
      match (s.die d).granules.get ⟨a.off / 2 ^ 30, h⟩ with
      | some q => q == part
      | none => !write && s.inLaunchTable part d a.off
    else false
  | _ => true

/-- The place that a page gives an address of a partition, in a memory that `ok` admits: ADDRCLASS comes before PROTECT (R210, R221,
R318, R351). -/
def State.placeBy (s : State) (part : BitVec 5) (g : Option PageMap) (a : Word) (write : Bool) (ok : Space → Bool) :
    Except (BitVec 8) PAddr :=
  match g with
  | none => .error cPAGE
  | some g =>
    let pa := g.dest.plus (a.toNat - g.va)
    if !ok pa.space then .error cADDRCLASS
    else if (if write then g.wr else g.rd) && s.ownerOk part pa write then .ok pa else .error cPROTECT

/-- Far translation of one address for a partition (R221, R318, R351). -/
def State.translate (s : State) (part : BitVec 5) (a : Word) (write : Bool) : Except (BitVec 8) PAddr :=
  if classOf a != .far then .error cADDRCLASS
  else s.placeBy part ((s.part part).page a.toNat) a write fun _ => true

/-- The page of the slot's partition that its far translation cache holds for an address (R221). -/
def State.cachedPage (s : State) (c : CpId) (a : Word) : Option PageMap :=
  ((s.cp c).ftc.find? fun e => e.part == (s.slot c).part && decide (e.page.va ≤ a.toNat) && decide (a.toNat < e.page.va + e.page.size)).map (·.page)

/-- The page by which a slot's CP and engines translate a far address: the cached one, or else the one that a walk of the
partition's tables finds (R221). -/
def State.pageOf (s : State) (c : CpId) (a : Word) : Option PageMap :=
  match s.cachedPage c a with
  | some g => some g
  | none => (s.part (s.slot c).part).page a.toNat

/-- The place of an address of any class in a memory that `ok` admits (R220). -/
def State.placeIn (s : State) (c : CpId) (a : Word) (n : Nat) (write : Bool) (ok : Space → Bool) : Except (BitVec 8) PAddr :=
  if classOf a = .far then s.placeBy (s.slot c).part (s.pageOf c a) a write ok else s.nearPlace c a n

/-- The place of an address of any class (R220). -/
def State.place (s : State) (c : CpId) (a : Word) (n : Nat) (write : Bool) : Except (BitVec 8) PAddr :=
  s.placeIn c a n write fun _ => true

/-- Bytes of a virtual range gathered in pieces that stay inside a page and a unit: each piece is placed in a memory that `ok` admits, and a
place elsewhere is ADDRCLASS (R237). When pieces fail, the cause that comes first in the order of R210 comes
back, with the lowest address that meets it. -/
def State.placesIn (s : State) (ok : Space → Bool) (c : CpId) (write : Bool) (step : Nat) : Nat → Word → Except (BitVec 8 × Word) (List PAddr)
  | 0, _ => .ok []
  | n + 1, a =>
    match s.placeIn c a step write ok, s.placesIn ok c write step n (a + BitVec.ofNat 64 step) with
    | .ok pa, .ok l => .ok (pa :: l)
    | .ok _, .error e => .error e
    | .error e, .ok _ => .error (e, a)
    | .error e, .error f => .error (if f.1.toNat < e.toNat then f else (e, a))

/-- The pieces of a virtual range in Local, Scene, cluster buffer or HBM (R237). -/
def State.places (s : State) (c : CpId) (write : Bool) (step n : Nat) (a : Word) : Except (BitVec 8 × Word) (List PAddr) :=
  s.placesIn Space.package c write step n a

/-- Places of all bytes of a record of n 16-byte pieces, checked as R237 states: alignment, class, translation. -/
def State.recordPlaces (s : State) (c : CpId) (a : Word) (align len : Nat) (write : Bool) :
    Except (BitVec 8 × Word) (List PAddr) :=
  if a.toNat % align != 0 then .error (cMISALIGNED, a) else s.places c write 16 (len / 16) a

/-- The 16-byte pieces at places are read; none with the place of the piece that holds an uncorrectable error. -/
def State.loadPieces (s : State) (who : CpId) (n : Nat) : List PAddr → State × Except PAddr (List Byte)
  | [] => (s, .ok [])
  | a :: t =>
    match s.load who (s.slot who).part a n with
    | (s1, none) => (s1, .error a)
    | (s1, some b) =>
      match s1.loadPieces who n t with
      | (s2, .ok r) => (s2, .ok (b ++ r))
      | (s2, .error e) => (s2, .error e)

/-- A counter operand: aligned, in Local, Scene, cluster buffer or HBM, translated (R265). -/
def State.counterPlace (s : State) (c : CpId) (a : Word) (write : Bool) : Except (BitVec 8) PAddr :=
  if a.toNat % 8 != 0 then .error cMISALIGNED
  else s.placeIn c a 8 write Space.package

/-- A word changes by an atomic read and write at its point of coherence (R226): the errors that the read meets are logged, and a word
with an uncorrectable one stays as it is, so that its readers find the error (R307, R319; entry 40). -/
def State.updateWord (s : State) (who : CpId) (part : BitVec 5) (pa : PAddr) (f : Word → Option Word) : State :=
  match s.load who part pa 8 with
  | (s1, none) => s1
  | (s1, some b) =>
    match f (BitVec.ofNat 64 (leNat b)) with
    | none => s1
    | some v => s1.store part pa (leBytes 8 v.toNat)

/-- Signal's add (R22, R267): the counter grows modulo 2^64. -/
def State.addCounter (s : State) (who : CpId) (part : BitVec 5) (pa : PAddr) (k : Word) : State :=
  s.updateWord who part pa fun v => some (v + k)

/-! ### Fault records (R299 to R303) -/

/-- The fields of a fault record (R299). -/
structure RecFields where
  cause : BitVec 8
  origin : BitVec 8
  part : BitVec 5
  loc : BitVec 8
  ctx : BitVec 8
  port : BitVec 8 := 0xFF
  elem : BitVec 8 := 0
  index : BitVec 8 := 0
  wid : Word := 0
  vaddr : Word := 0
  pc : Word := 0
  tc : Nat := 0
  lap : Nat := 0
  synd : Word := 0
  detail : Word := 0
  gcyc : Word := 0
  deriving DecidableEq, Repr, Inhabited

/-- The 64 bytes of a record, little-endian (R299). -/
def RecFields.bits (f : RecFields) : FaultRec :=
  f.gcyc ++ f.detail ++ f.synd ++ BitVec.ofNat 32 f.lap ++ BitVec.ofNat 32 (f.tc % 4096) ++ f.pc ++ f.vaddr ++ f.wid
    ++ f.index ++ f.elem ++ f.port ++ f.ctx ++ f.loc ++ (0 : BitVec 3) ++ f.part ++ f.origin ++ f.cause

/-- A record of a slot's own failure, with the fields that the slot gives it. -/
def State.slotRec (s : State) (c : CpId) (cause origin : BitVec 8) (region : Option (Fin 4)) : RecFields :=
  let t := s.slot c
  { cause := cause, origin := origin, part := t.part, loc := locOf c.core
    ctx := BitVec.ofNat 8 (c.slot.val + (match region with
      | some r => 4 * r.val + 16
      | none => if t.cp.handler && (decide (origin.toNat ≤ 3) || origin == 0x08) then 2 else 0))
    wid := t.wid, gcyc := s.gcyc c.core }

/-- Records that wait enter the queue in the order of their detection while it has room (R302). -/
def Core.enterRecs (k : Core) : Core := go k k.recWait.length
where
  go (k : Core) : Nat → Core
    | 0 => k
    | n + 1 => match k.recWait with
      | ⟨_, _, _, some b⟩ :: t =>
        if k.recq.length < 4 then go { k with recq := k.recq ++ [b], recWait := t, offerIn := if k.recq.isEmpty then 0 else k.offerIn } n else k
      | _ => k

/-- A record with this key waits for room. -/
def State.recWaits (s : State) (k : Fin 256) (key : RecKey) : Bool := (s.core k).recWait.any fun w => w.key == key

/-- The queue has room for an agent's record: nobody who met its cause earlier waits (R302). -/
def State.recRoom (s : State) (k : Fin 256) (key : RecKey) : Bool :=
  decide ((s.core k).recq.length < 4) && (match (s.core k).recWait with | [] => true | w :: _ => w.key == key)

/-- A record joins those that wait; with room and nobody before it, it enters the queue at once (R302, R303). -/
def State.queueRec (s : State) (k : Fin 256) (key : RecKey) (f : RecFields) : State :=
  s.modCore k fun c => ({ c with recWait := c.recWait ++ [⟨key, f.gcyc, true, some f.bits⟩] } : Core).enterRecs

/-- An agent that holds for want of room keeps its place, with the grid cycle in which it met its cause (R299, R303). -/
def State.holdRec (s : State) (k : Fin 256) (key : RecKey) : State :=
  s.modCore k fun c =>
    if c.recWait.any fun w => w.key == key then { c with recWait := c.recWait.map fun w => if w.key == key then { w with seen := true } else w }
    else { c with recWait := c.recWait ++ [⟨key, s.gcyc k, true, none⟩] }

/-- The record of an agent that `recRoom` lets go enters the queue, with the grid cycle in which it met its cause (R299, R302). -/
def State.pushRec (s : State) (k : Fin 256) (key : RecKey) (f : RecFields) : State :=
  let g := (((s.core k).recWait.find? fun w => w.key == key).map (·.gcyc)).getD f.gcyc
  s.modCore k fun c =>
    ({ c with recq := c.recq ++ [({ f with gcyc := g } : RecFields).bits], recWait := c.recWait.filter fun w => w.key != key
              offerIn := if c.recq.isEmpty then 0 else c.offerIn } : Core).enterRecs

/-- A grid cycle begins for those that wait: who has not met its cause again in the last one waits no more, a CP that awaits a fetch apart. -/
def Core.ageRecs (k : Core) : Core :=
  let stays (w : RecWait) : Bool := w.bits.isSome || w.seen || (match w.key with
    | .cp c => (match (k.slots.get c.slot).cp.run with | .fetchWait _ => true | _ => false)
    | _ => false)
  ({ k with recWait := (k.recWait.filter stays).map fun w => { w with seen := false } } : Core).enterRecs

/-! ### Taking an exception and returning from one (R295 to R298) -/

/-- Trap entry (R295): the landing queue freezes because handler mode counts its own, the trap CSRs take the cause, the
handler starts at TVEC, and neither this cycle nor the next is a thread cycle. -/
def Cp.trapEntry (p : Cp) (cause : BitVec 8) (val fpc resume : Word) : Cp :=
  { p with tcause := cause, tval := val, tfpc := fpc, tpc := resume, handler := true, pc := p.tvec
           untimed := 2, gap := false, waitLeft := none, waitFor := false, stepOne := false, answerDue := false, asked := false }

/-- Return (R230, R298): thread mode at TPC, and the next cycle belongs to neither mode. The PC always has bits [1:0] zero
(R198, entry 20). -/
def Cp.trapReturn (p : Cp) : Cp := { p with handler := false, pc := p.tpc &&& ~~~(3 : Word), untimed := 2, gap := false }

/-- The CP waits before a boundary in a cycle that is no thread cycle (R303). -/
def State.waitUntimed (s : State) (c : CpId) : State := s.modCp c fun p => { p with untimed := 1 }

/-- It waits so for room for its record. -/
def State.waitRoom (s : State) (c : CpId) : State := (s.holdRec c.core (.cp c)).waitUntimed c

/-- A double fault (R297): the slot's CP stops, the trap CSRs keep the thread's last trap, a DOUBLE record is written. While
the record queue is full the CP waits (R303). -/
def State.doubleFault (s : State) (c : CpId) (cause : BitVec 8) : State :=
  if s.recRoom c.core (.cp c) then
    let s1 := s.pushRec c.core (.cp c) { s.slotRec c cDOUBLE 0x08 none with pc := (s.cp c).pc, detail := cause.setWidth 64 }
    s1.modSlot c fun t => { t with status := 0x04, cp := { t.cp with run := .stopped, untimed := 1 } }
  else s.waitRoom c

/-- The causes whose synchronous trap writes a record (R293). -/
def recorded (cause : BitVec 8) : Bool := cause == cPAGE || cause == cUNCORR

/-- A synchronous trap of the CP (R294 to R297): in thread mode it is entered, with a record where R293 asks for one; in
handler mode it is a double fault. -/
def State.syncTrapWith (s : State) (c : CpId) (cause : BitVec 8) (val synd detail resume : Word) : State :=
  let p := s.cp c
  if p.handler then s.doubleFault c cause
  else if recorded cause then
    if s.recRoom c.core (.cp c) then
      let s1 := s.pushRec c.core (.cp c) { s.slotRec c cause 0x01 none with vaddr := val, pc := p.pc, synd := synd, detail := detail }
      s1.modCp c fun p => p.trapEntry cause val p.pc resume
    else s.waitRoom c
  else s.modCp c fun p => p.trapEntry cause val p.pc resume

/-- A synchronous trap whose record, if it has one, carries no syndrome. -/
def State.syncTrap (s : State) (c : CpId) (cause : BitVec 8) (val detail resume : Word) : State :=
  s.syncTrapWith c cause val 0 detail resume

/-- A synchronous trap at the instruction itself, with its TVAL. -/
def State.trapAt (s : State) (c : CpId) (cause : BitVec 8) (val : Word) : State :=
  s.syncTrap c cause val 0 (s.cp c).pc

/-- DETAIL of a PAGE record (R300): 1 for an address that is not canonical, and bit 2 for a write. -/
def pageDetail (a : Word) (write : Bool) : Word := (if canonical a then 0 else 1) ||| (if write then 4 else 0)

/-- A synchronous trap at an access, with the address as TVAL and DETAIL as R300 gives it for PAGE. -/
def State.trapAccess (s : State) (c : CpId) (cause : BitVec 8) (a : Word) (write : Bool) : State :=
  s.syncTrap c cause a (if cause == cPAGE then pageDetail a write else 0) (s.cp c).pc

/-- A synchronous trap for which the spec names no TVAL: a free value (entry 12). -/
def State.trapFree (s : State) (c : CpId) (cause : BitVec 8) : State := s.took.trapAt c cause s.freeWord

/-- A deferred trap becomes known (R223, R241): it waits for an instruction boundary, in order of issue. A CP past the
retire address issues no more and takes no trap (R344). -/
def State.deferTrap (s : State) (c : CpId) (order : Nat) (cause : BitVec 8) (val fpc : Word) : State :=
  match (s.cp c).run with
  | .retiring _ => s
  | _ => s.modCp c fun p => { p with dtraps := p.dtraps ++ [⟨order, cause, val, fpc⟩] }

/-- A deferred trap's record has not entered the queue yet: the CP waits before the boundary (R303). -/
def State.trapWaits (s : State) (c : CpId) (d : DTrap) : Bool :=
  s.recWaits c.core (.job d.order) || s.recWaits c.core (.copy c d.order)

/-- A deferred command fault (R241): its record, then the trap, which waits until the record has entered the queue (R303). -/
def State.commandFault (s : State) (c : CpId) (order : Nat) (fpc : Word) (cause : BitVec 8) (val vaddr synd detail : Word) : State :=
  (s.queueRec c.core (.job order) { s.slotRec c cause 0x03 none with vaddr := vaddr, pc := fpc, synd := synd, detail := detail }).deferTrap c order cause val fpc

/-! ### Events and interrupts -/

/-- Bits of CPEVT are set (R236). -/
def Cp.event (p : Cp) (m : BitVec 5) : Cp := { p with cpevt := p.cpevt ||| m }
/-- CPEVT.RGN, CQE, LND, DB, TMO (R236). -/
def evRGN : BitVec 5 := 1
def evCQE : BitVec 5 := 2
def evLND : BitVec 5 := 4
def evDB : BitVec 5 := 8
def evTMO : BitVec 5 := 16

/-- Something leaves the package. -/
def State.emit (s : State) (e : Emit) : State := { s with outbox := s.outbox ++ [e] }
/-! ### What leaves for the fabric (R421 to R424) -/

def State.link (s : State) (p : Fin 18) : LinkPort := s.links.get p
def State.modLink (s : State) (p : Fin 18) (f : LinkPort → LinkPort) : State := { s with links := vmod s.links p f }

/-- HDR of a flit (R422); LR has the highest of a token's three bits (entry 39). -/
def flitHeader (f : Flit) : BitVec 128 :=
  let sb := (f.toks.take 7).zipIdx.foldl (fun n x => n + (4 * x.1.lr.toNat + 2 * x.1.ls.toNat + x.1.k.toNat) * 2 ^ (3 * x.2 + 8)) 0
  let k := f.cp.core.val
  BitVec.ofNat 128 (f.typ.toNat + f.toks.length % 8 * 2 ^ 4 + sb + f.dest.toNat * 2 ^ 32 + k / 64 * 2 ^ 52 + k / 8 % 8 * 2 ^ 54 + k % 8 * 2 ^ 57
    + f.cp.slot.val * 2 ^ 60 + (f.port == 23).toNat * 2 ^ 61 + f.seq.toNat * 2 ^ 64 + f.src.toNat * 2 ^ 96)

/-- TRL [63:0] of a flit (R422). -/
def flitTrailer (lseq lack : BitVec 24) : Word := BitVec.ofNat 64 (lseq.toNat + lack.toNat * 2 ^ 24)

/-- PAYLOAD of a flit: its tokens, and unused bytes zero; what a credit or a management flit carries there has no layout in the spec (entry 29). -/
def flitPayload (toks : List Tok) : List Byte := ((toks.flatMap fun (t : Tok) => leBytes 32 t.bits.toNat) ++ List.replicate 224 0).take 224

/-- The flit of a message for an endpoint, before its port numbers it. -/
def FabMsg.flit (m : FabMsg) (src dest : BitVec 20) : Flit :=
  let f : Flit := { typ := 2, dest := dest, src := src, cp := default, port := 19, seq := 0, toks := [], grant := 0, lseq := 0, lack := 0, tagOk := true }
  match m with
  | .token c p n t => { f with typ := 0, cp := c, port := p, seq := BitVec.ofNat 32 n, toks := [t] }
  | .credit c p n k => { f with typ := 1, cp := c, port := p, seq := BitVec.ofNat 32 n, grant := k }
  | .transit g => g
  | _ => f

/-- A flit leaves a port under a number: PAYLOAD is encrypted under the link's key, with the number and the rekey epoch as nonce, and HDR and the
first 8 bytes of TRL are authenticated with it by the tag of 64 bits (R422, R423; byte orders of entry 39). A link that has not rekeyed yet has the key
that the management cores agreed when it came up (entry 29). -/
def State.emitFlit (s : State) (p : Fin 18) (n : BitVec 24) (x : OutFlit) : State :=
  let l := s.link p
  let t := flitTrailer n l.lastRecv
  let key := if l.key = 0 then Config.linkKey p.val else l.key
  let (c, tag) := gcmSeal (leBytes 32 key.toNat) (leBytes 3 n.toNat ++ leBytes 5 l.epoch.toNat) (leBytes 16 x.hdr.toNat ++ leBytes 8 t.toNat)
    (flitPayload x.toks)
  s.emit (.flit p x.hdr c (BitVec.ofNat 64 (leNat (tag.take 8)) ++ t) x.msg)

/-- A port sends a flit: nothing when it is down; one beyond the 512 of the replay buffer waits; every 2^24 flits the link takes a new key and
epoch (R421, R423). -/
def State.transmit (s : State) (p : Fin 18) (x : OutFlit) : State :=
  let l := s.link p
  if !l.up then s
  else if 512 ≤ l.replayBuf.length then s.modLink p fun l => { l with queue := l.queue ++ [x] }
  else
    let n := l.sentLseq + 1
    let s1 := (s.modLink p fun l => { l with sentLseq := n, sent := l.sent + 1, replayBuf := l.replayBuf ++ [(n, x)] }).emitFlit p n x
    if l.sent + 1 < 2 ^ 24 then s1
    else s1.took.modLink p fun l => { l with sent := 0, epoch := l.epoch + 1, key := Config.linkKey s.fresh }

/-- The output port of an endpoint (R424). -/
def State.routeTo (s : State) (ep : BitVec 20) : Option (Fin 18) := (s.routes.find? fun r => r.1 == ep).map (·.2)

/-- A message leaves for an endpoint through a port; without one it is lost. -/
def State.sendVia (s : State) (p : Option (Fin 18)) (ep : BitVec 20) (m : FabMsg) : State :=
  match p with
  | none => s
  | some p => let f := m.flit s.ep ep; s.transmit p ⟨flitHeader f, f.toks, m⟩

/-- A message leaves for an endpoint by its route. -/
def State.toFabric (s : State) (ep : BitVec 20) (m : FabMsg) : State := s.sendVia (s.routeTo ep) ep m

/-- Events are due in this grid cycle, before what is already due (entry 3). -/
def State.dueFirst (s : State) (l : List Instr) : State := { s with agenda := l.map Task.ev ++ s.agenda }
/-- A task is a CP's turn, or belongs to the end of a grid cycle: cues other than starts, runs and drains, and the landing of results (R139). -/
def Task.late : Task → Bool
  | .cp _ => true
  | .ev i => match i with
    | .resultLand .. | .takeEnded .. | .takeLastLapEnd .. | .cueSig .. | .cueWait .. | .cueBegin .. | .cueEnd .. | .cueStop .. | .cueEndtake .. => true
    | _ => false
/-- Events are due in this grid cycle before the first task that a test accepts. -/
def State.dueBefore (s : State) (f : Task → Bool) (l : List Instr) : State :=
  { s with agenda := s.agenda.takeWhile (fun t => !f t) ++ l.map Task.ev ++ s.agenda.dropWhile (fun t => !f t) }
/-- Events are due in this grid cycle behind what is due before the turns of the CPs and the cycle's end (entry 3). -/
def State.dueMid (s : State) (l : List Instr) : State := s.dueBefore Task.late l
/-- A number for a token, tile, add, launch or call. -/
def State.newId (s : State) : State := { s with ids := s.ids + 1 }

/-- The first number of 0 to n − 1 that a test accepts. -/
def firstBelow (n : Nat) (f : Nat → Bool) : Option Nat := (List.range n).find? f

end Sys2Proof.Machine
end

