-- ==== Sys2Proof/Machine/Keccak.lean ====
section
/-! DEFINITION. SHAKE256 of FIPS 202, which the spec names for KV keys, digests and measurements (R350, R368, R409; entry 7), and SHAKE128,
which ML-DSA uses beside it (R12). -/
namespace Sys2Proof.Machine

/-- The rotation of lane x + 5y. -/
def keccakRot : List Nat :=
  [0, 1, 62, 28, 27, 36, 44, 6, 55, 20, 3, 10, 43, 25, 39, 41, 45, 15, 21, 8, 18, 2, 61, 56, 14]

/-- The round constants. -/
def keccakRc : List Word :=
  [0x0000000000000001, 0x0000000000008082, 0x800000000000808A, 0x8000000080008000, 0x000000000000808B, 0x0000000080000001,
   0x8000000080008081, 0x8000000000008009, 0x000000000000008A, 0x0000000000000088, 0x0000000080008009, 0x000000008000000A] ++
  [0x000000008000808B, 0x800000000000008B, 0x8000000000008089, 0x8000000000008003, 0x8000000000008002, 0x8000000000000080,
   0x000000000000800A, 0x800000008000000A, 0x8000000080008081, 0x8000000000008080, 0x0000000080000001, 0x8000000080008008]

/-- Lane i of a state of 25 lanes. -/
def kLane (a : List Word) (i : Nat) : Word := (a[i]?).getD 0

/-- One round of Keccak-f[1600]. -/
def keccakRound (a : List Word) (rc : Word) : List Word :=
  let c := (List.range 5).map fun x => kLane a x ^^^ kLane a (x + 5) ^^^ kLane a (x + 10) ^^^ kLane a (x + 15) ^^^ kLane a (x + 20)
  let d := (List.range 5).map fun x => kLane c ((x + 4) % 5) ^^^ (kLane c ((x + 1) % 5)).rotateLeft 1
  let t := (List.range 25).map fun i => kLane a i ^^^ kLane d (i % 5)
  let b := (List.range 25).map fun i =>
    let k := (i % 5 + 3 * (i / 5)) % 5 + 5 * (i % 5)
    (kLane t k).rotateLeft ((keccakRot[k]?).getD 0)
  let e := (List.range 25).map fun i =>
    kLane b i ^^^ (~~~(kLane b (i / 5 * 5 + (i % 5 + 1) % 5)) &&& kLane b (i / 5 * 5 + (i % 5 + 2) % 5))
  match e with
  | [] => []
  | x :: r => (x ^^^ rc) :: r

/-- The permutation. -/
def keccakF (a : List Word) : List Word := keccakRc.foldl keccakRound a

/-- A block of `rate` bytes enters the state. -/
def absorb (rate : Nat) (a : List Word) (b : List Byte) : List Word :=
  keccakF ((List.range 25).map fun i => if i < rate / 8 then kLane a i ^^^ fld64 b (8 * i) else kLane a i)

/-- Whole blocks of a padded message. -/
def absorbAll (rate : Nat) : Nat → List Word → List Byte → List Word
  | 0, a, _ => a
  | n + 1, a, m => absorbAll rate n (absorb rate a (m.take rate)) (m.drop rate)

/-- The message with its suffix and padding. -/
def shakePad (rate : Nat) (m : List Byte) : List Byte :=
  let z := rate - m.length % rate
  if z = 1 then m ++ [0x9F] else m ++ [0x1F] ++ List.replicate (z - 2) 0 ++ [0x80]

/-- Blocks of output from a state on. -/
def squeeze (rate : Nat) : Nat → List Word → List Byte
  | 0, _ => []
  | n + 1, a => (a.flatMap fun w => leBytes 8 w.toNat).take rate ++ (if n = 0 then [] else squeeze rate n (keccakF a))

/-- The first n bytes that a SHAKE function of a rate gives. -/
def shake (rate : Nat) (m : List Byte) (n : Nat) : List Byte :=
  let p := shakePad rate m
  (squeeze rate ((n + rate - 1) / rate) (absorbAll rate (p.length / rate) (List.replicate 25 0) p)).take n

/-- The first n bytes of SHAKE256. -/
def shake256 (m : List Byte) (n : Nat) : List Byte := shake 136 m n
/-- The first n bytes of SHAKE128. -/
def shake128 (m : List Byte) (n : Nat) : List Byte := shake 168 m n

end Sys2Proof.Machine
end

