-- ==== Sys2Proof/Machine/MlDsa.lean ====
section
/-! DEFINITION. ML-DSA-65 of FIPS 204 with an empty context string: the key pair of a seed, signing and verification (R12, R98, R409 to R412).
Polynomials are lists of 256 numbers below q. -/
namespace Sys2Proof.Machine

/-! ### Arithmetic -/

/-- The modulus q. -/
def mq : Nat := 8380417
abbrev Poly := List Nat

/-- Coefficient i. -/
def coef (p : Poly) (i : Nat) : Nat := (p[i]?).getD 0
/-- A product mod q, zero at once when the first factor is. -/
def mqMul (a b : Nat) : Nat := if a = 0 then 0 else a * b % mq
/-- Polynomials combined coefficient by coefficient. -/
def polyZip (f : Nat → Nat → Nat) (a b : Poly) : Poly := (a.zip b).map fun x => f x.1 x.2
def polyAdd (a b : Poly) : Poly := polyZip (fun x y => (x + y) % mq) a b
def polySub (a b : Poly) : Poly := polyZip (fun x y => (x + (mq - y)) % mq) a b
def polyZero : Poly := List.replicate 256 0
/-- The product of two polynomials in the transformed domain, zero at once when the first is. -/
def polyMul (a b : Poly) : Poly := if a.all (· == 0) then polyZero else polyZip mqMul a b

/-- A power mod q, by squaring over the bits of the exponent, n of them. -/
def powMod (b : Nat) : Nat → Nat → Nat
  | 0, _ => 1
  | n + 1, e => let h := powMod b n (e / 2); if e % 2 = 1 then h * h % mq * b % mq else h * h % mq

/-- The 8 bits of a number in reverse order. -/
def brv8 (k : Nat) : Nat := (List.range 8).foldl (fun n i => 2 * n + k / 2 ^ i % 2) 0
/-- 1753 to the power of the reversed index. -/
def zeta (k : Nat) : Nat := powMod 1753 8 (brv8 k)
/-- Its inverse. -/
def zetaInv (k : Nat) : Nat := powMod 1753 9 (512 - brv8 k)

/-- The transform of 2^n coefficients at node k of the tree. -/
def nttAt : Nat → Nat → Poly → Poly
  | 0, _, w => w
  | n + 1, k, w =>
    let z := zeta k
    let lo := w.take (2 ^ n)
    let t := (w.drop (2 ^ n)).map fun x => mqMul x z
    nttAt n (2 * k) (polyAdd lo t) ++ nttAt n (2 * k + 1) (polySub lo t)

/-- Its inverse, up to the factor 2^n. -/
def nttInvAt : Nat → Nat → Poly → Poly
  | 0, _, w => w
  | n + 1, k, w =>
    let z := zetaInv k
    let lo := nttInvAt n (2 * k) (w.take (2 ^ n))
    let hi := nttInvAt n (2 * k + 1) (w.drop (2 ^ n))
    polyAdd lo hi ++ (polySub lo hi).map fun x => mqMul x z

def ntt (w : Poly) : Poly := nttAt 8 1 w
def nttInv (w : Poly) : Poly := (nttInvAt 8 1 w).map fun x => mqMul x 8347681

/-! ### Rounding and hints -/

/-- The size of a number mod q about zero. -/
def mqAbs (x : Nat) : Nat := min x (mq - x)
/-- A polynomial's coefficients are all smaller than a bound in size. -/
def polyBelow (b : Nat) (p : Poly) : Bool := p.all fun x => decide (mqAbs x < b)

/-- High part and low part, mod q, of a number (2·gamma2 = 523776). -/
def decompose (r : Nat) : Nat × Nat :=
  let d := 523776
  let m := r % d
  let low := if 2 * m ≤ d then m else mq + m - d
  if (r + mq - low) % mq = mq - 1 then (0, (low + mq - 1) % mq) else ((r + mq - low) % mq / d, low % mq)

/-- The high part with a hint. -/
def useHint (h : Bool) (r : Nat) : Nat :=
  let (hi, lo) := decompose r
  if !h then hi else if 0 < lo ∧ 2 * lo < mq then (hi + 1) % 16 else (hi + 15) % 16

/-- High part and low part in 13 bits. -/
def power2Round (r : Nat) : Nat × Nat :=
  let m := r % 8192
  if m ≤ 4096 then (r / 8192, m) else (r / 8192 + 1, mq + m - 8192)

/-! ### Packing -/

/-- Numbers of b bits from bytes, the lowest bit first. -/
def unpackBits (b n : Nat) (l : List Byte) : List Nat :=
  let v := leNat l
  (List.range n).map fun i => v / 2 ^ (b * i) % 2 ^ b

/-- Bytes of numbers of b bits. -/
def packBits (b : Nat) (l : List Nat) : List Byte := leBytes (b * l.length / 8) (l.foldr (fun x v => x + 2 ^ b * v) 0)

/-- A polynomial packed as the distances of its coefficients below a number. -/
def packBelow (b top : Nat) (p : Poly) : List Byte := packBits b (p.map fun x => (top + mq - x) % mq)
def unpackBelow (b top : Nat) (l : List Byte) : Poly := (unpackBits b 256 l).map fun v => (top + mq - v) % mq

/-- Pieces of n bytes. -/
def piecesOf (n k : Nat) (l : List Byte) : List (List Byte) := (List.range k).map fun i => (l.drop (n * i)).take n

/-- The positions of polynomial i's hints, none when they break the order: `y` is the packed hint. -/
def hintRow (y : List Byte) (i : Nat) : Option (List Nat) :=
  let at' (k : Nat) : Nat := ((y[k]?).getD 0).toNat
  let a := if i = 0 then 0 else at' (55 + i - 1)
  let b := at' (55 + i)
  let row := (List.range (b - a)).map fun j => at' (a + j)
  if b < a || decide (55 < b) || !(row.zip (row.drop 1)).all (fun x => decide (x.1 < x.2)) then none else some row

/-- The six rows of hints. -/
def unpackHints (y : List Byte) : Option (List (List Nat)) :=
  let rows := (List.range 6).map (hintRow y)
  let n := ((y[60]?).getD 0).toNat
  if rows.all Option.isSome && ((y.take 55).drop n).all (· == 0) then some (rows.filterMap id) else none

/-- Packed hints. -/
def packHints (rows : List (List Nat)) : List Byte :=
  let all := rows.flatten
  let ends := (List.range 6).map fun i => ((rows.take (i + 1)).flatten).length
  (all ++ List.replicate (55 - all.length) 0).map (BitVec.ofNat 8) ++ ends.map (BitVec.ofNat 8)

/-! ### Sampling -/

/-- Coefficients below q from three bytes each. -/
def rejNtt : List Byte → Poly
  | a :: b :: c :: t =>
    let z := a.toNat + 256 * b.toNat + 65536 * (c.toNat % 128)
    if z < mq then z :: rejNtt t else rejNtt t
  | _ => []

/-- Entry (r, s) of the matrix A. -/
def expandA (rho : List Byte) (r s : Nat) : Poly := (rejNtt (shake128 (rho ++ [BitVec.ofNat 8 s, BitVec.ofNat 8 r]) 1512)).take 256

/-- Coefficients of size up to 4 from half bytes. -/
def rejBounded (seed : List Byte) (r : Nat) : Poly :=
  (((shake256 (seed ++ leBytes 2 r) 544).flatMap fun b => [b.toNat % 16, b.toNat / 16]).filterMap fun z =>
    if z < 9 then some ((4 + mq - z) % mq) else none).take 256

/-- Positions i to 255 take their places in the challenge: the bytes left, the signs. -/
def ballStep : Nat → Nat → List Byte → Nat → Poly → Poly
  | 0, _, _, _, c => c
  | _, _, [], _, c => c
  | n + 1, i, b :: t, h, c =>
    if i < b.toNat then ballStep n i t h c
    else if 255 < i then c
    else ballStep n (i + 1) t (h / 2) ((c.set i (coef c b.toNat)).set b.toNat (if h % 2 = 1 then mq - 1 else 1))

/-- The challenge polynomial with 49 coefficients of 1 or -1. -/
def sampleInBall (ct : List Byte) : Poly :=
  let s := shake256 ct 272
  ballStep 264 207 (s.drop 8) (leNat (s.take 8)) polyZero

/-! ### Verification -/

/-- The message that is signed, with an empty context string. -/
def mldsaMessage (m : List Byte) : List Byte := [0, 0] ++ m

/-- Row r of A times a transformed vector: a zero vector asks for no row. -/
def rowTimes (rho : List Byte) (r : Nat) (v : List Poly) : Poly :=
  (v.zipIdx).foldl (fun acc x => polyAdd acc (polyMul x.1 (expandA rho r x.2))) polyZero

/-- High parts packed in 4 bits. -/
def w1Encode (rows : List (List Nat)) : List Byte := rows.flatMap (packBits 4)

/-- ML-DSA-65 verification: key, message, signature. -/
def mldsaVerify (pk m sig : List Byte) : Bool :=
  let rho := pk.take 32
  let t1 := (piecesOf 320 6 (pk.drop 32)).map (unpackBits 10 256)
  let ct := sig.take 48
  let z := (piecesOf 640 5 (sig.drop 48)).map (unpackBelow 20 524288)
  match unpackHints (sig.drop 3248) with
  | none => false
  | some hs =>
    let mu := shake256 (shake256 pk 64 ++ mldsaMessage m) 64
    let zh := z.map ntt
    let c := ntt (sampleInBall ct)
    let w1 := (t1.zip hs).zipIdx.map fun x =>
      let ct1 := polyMul (ntt (x.1.1.map fun a => a * 8192 % mq)) c
      let w := nttInv (polySub (rowTimes rho x.2 zh) ct1)
      w.zipIdx.map fun y => useHint (x.1.2.contains y.2) y.1
    pk.length == 1952 && sig.length == 3309 && z.all (polyBelow (524288 - 196)) && ct == shake256 (mu ++ w1Encode w1) 48

/-! ### Keys and signing -/

/-- A key pair: rho, K, tr, s1, s2, t0 and the public key. -/
structure MlKey where
  rho : List Byte
  k : List Byte
  tr : List Byte
  s1 : List Poly
  s2 : List Poly
  t0 : List Poly
  pk : List Byte

/-- The key pair of a seed of 32 bytes. -/
def mldsaKey (seed : List Byte) : MlKey :=
  let x := shake256 (seed ++ [6, 5]) 128
  let rho := x.take 32
  let rho' := (x.drop 32).take 64
  let s1 := (List.range 5).map (rejBounded rho')
  let s2 := (List.range 6).map fun r => rejBounded rho' (5 + r)
  let s1h := s1.map ntt
  let t := s2.zipIdx.map fun y => polyAdd (nttInv (rowTimes rho y.2 s1h)) y.1
  let pk := rho ++ t.flatMap fun p => packBits 10 (p.map fun a => (power2Round a).1)
  { rho := rho, k := (x.drop 96).take 32, tr := shake256 pk 64, s1 := s1, s2 := s2, t0 := t.map fun p => p.map fun a => (power2Round a).2, pk := pk }

/-- The mask vector of an attempt. -/
def expandMask (seed : List Byte) (kappa : Nat) : List Poly :=
  (List.range 5).map fun r => unpackBelow 20 524288 (shake256 (seed ++ leBytes 2 (kappa + r)) 640)

/-- The positions at which adding z changes the high part of r. -/
def makeHints (z r : Poly) : List Nat :=
  (z.zip r).zipIdx.filterMap fun x => if (decompose x.1.2).1 != (decompose ((x.1.1 + x.1.2) % mq)).1 then some x.2 else none

/-- One attempt after another, n at most. -/
def signLoop (key : MlKey) (mu seed : List Byte) : Nat → Nat → List Byte
  | 0, _ => []
  | n + 1, kappa =>
    let y := expandMask seed kappa
    let yh := y.map ntt
    let w := (List.range 6).map fun r => nttInv (rowTimes key.rho r yh)
    let ct := shake256 (mu ++ w1Encode (w.map fun p => p.map fun a => (decompose a).1)) 48
    let c := ntt (sampleInBall ct)
    let times (p : Poly) : Poly := nttInv (polyMul (ntt p) c)
    let z := (y.zip key.s1).map fun x => polyAdd x.1 (times x.2)
    let r := (w.zip key.s2).map fun x => polySub x.1 (times x.2)
    let ct0 := key.t0.map times
    let hs := (ct0.zip r).map fun x => makeHints (polySub polyZero x.1) (polyAdd x.2 x.1)
    if z.all (polyBelow (524288 - 196)) && r.all (fun p => polyBelow (261888 - 196) (p.map fun a => (decompose a).2)) &&
        ct0.all (polyBelow 261888) && decide (hs.flatten.length ≤ 55) then
      ct ++ z.flatMap (packBelow 20 524288) ++ packHints hs
    else signLoop key mu seed n (kappa + 5)

/-- ML-DSA-65 signature: key seed, the random bytes of the signature, message. -/
def mldsaSign (seed rnd m : List Byte) : List Byte :=
  let key := mldsaKey seed
  let mu := shake256 (key.tr ++ mldsaMessage m) 64
  signLoop key mu (shake256 (key.k ++ rnd ++ mu) 64) 1000 0

end Sys2Proof.Machine
end

