-- ==== Sys2Proof/Machine/Float.lean ====
section
/-! DEFINITION. The element's numbers: formats, exact values, the single rounding, summation, the
stochastic-rounding generator and the correctly rounded functions 2^x, log2 and the seeds
(chapter "The element I: numbers", R21 to R24, R33 to R60, and R120 to R122). -/
namespace Sys2Proof.Machine

/-- A floating-point format (R33). `maxMant` is the largest mantissa of the top binade. -/
structure Fmt where
  width : Nat
  mant : Nat
  ebits : Nat
  bias : Nat
  signed : Bool
  hasInf : Bool
  /-- largest biased exponent of a finite value, and its largest mantissa -/
  topExp : Nat
  topMant : Nat
  /-- canonical NaN code (R35); E2M1 encodes NaN as zero -/
  nanCode : Nat
  deriving DecidableEq, Repr, Inhabited

def fp32 : Fmt := ⟨32, 23, 8, 127, true, true, 254, 0x7FFFFF, 0x7FC00000⟩
def bf16 : Fmt := ⟨16, 7, 8, 127, true, true, 254, 0x7F, 0x7FC0⟩
def fp16 : Fmt := ⟨16, 10, 5, 15, true, true, 30, 0x3FF, 0x7E00⟩
def e5m2 : Fmt := ⟨8, 2, 5, 15, true, true, 30, 3, 0x7E⟩
def e4m3 : Fmt := ⟨8, 3, 4, 7, true, false, 15, 6, 0x7F⟩
def e2m1 : Fmt := ⟨4, 1, 2, 1, true, false, 3, 1, 0⟩
def e3m5 : Fmt := ⟨8, 5, 3, 3, false, false, 7, 30, 0xFF⟩

/-- An exact value as Exact gives it (R22): NaN, an infinity, or ±m·2^e with a signed zero when m = 0. -/
inductive XVal where
  | nan
  | inf (neg : Bool)
  | fin (neg : Bool) (m : Nat) (e : Int)
  deriving DecidableEq, Repr, Inhabited

/-- The rounding modes (R43). -/
inductive RMode where
  | rne | rtz | rup | rdn | sto
  deriving DecidableEq, Repr, Inhabited

/-- The mode a rounding code selects (R43); the reserved codes never reach an instruction (R44). -/
def RMode.ofCode (c : BitVec 3) : RMode :=
  match c.toNat with
  | 2 => .rtz | 3 => .rup | 4 => .rdn | 5 => .sto | _ => .rne

namespace XVal

def isNan : XVal → Bool | .nan => true | _ => false
def isInf : XVal → Bool | .inf _ => true | _ => false
def isZero : XVal → Bool | .fin _ 0 _ => true | _ => false
def isFinite : XVal → Bool | .fin _ _ _ => true | _ => false
def pzero : XVal := .fin false 0 0
def one : XVal := .fin false 1 0

/-- The sign of a value; NaN counts as positive. -/
def sign : XVal → Bool | .nan => false | .inf s => s | .fin s _ _ => s

/-- Negation; a NaN stays NaN (R117). -/
def neg : XVal → XVal | .nan => .nan | .inf s => .inf (!s) | .fin s m e => .fin (!s) m e

def negIf (b : Bool) (x : XVal) : XVal := if b then x.neg else x

def abs : XVal → XVal | .nan => .nan | .inf _ => .inf false | .fin _ m e => .fin false m e

/-- The exact product (R48, R49). -/
def mul : XVal → XVal → XVal
  | .nan, _ => .nan
  | _, .nan => .nan
  | .inf s, .inf t => .inf (s != t)
  | .inf s, .fin t m _ => if m = 0 then .nan else .inf (s != t)
  | .fin s m _, .inf t => if m = 0 then .nan else .inf (s != t)
  | .fin s m e, .fin t n f => .fin (s != t) (m * n) (e + f)

/-- m·2^e scaled to the exponent g ≤ e, as a signed integer. -/
def scaled (neg : Bool) (m : Nat) (e g : Int) : Int :=
  let v : Int := (m : Int) * (2 : Int) ^ (e - g).toNat
  if neg then -v else v

/-- The finite value of a signed integer times 2^g; zero is positive. -/
def ofInt (v : Int) (g : Int) : XVal := .fin (decide (v < 0)) v.natAbs g

/-- The running state of SumExact: what has been seen, and the exact sum so far (R24). -/
structure SumState where
  nan : Bool
  pinf : Bool
  ninf : Bool
  anyNonzero : Bool
  anyPosZero : Bool
  anyNegZero : Bool
  sum : Int
  exp : Int
  deriving DecidableEq, Repr

def SumState.empty : SumState := ⟨false, false, false, false, false, false, 0, 0⟩

def SumState.add (a : SumState) : XVal → SumState
  | .nan => { a with nan := true }
  | .inf true => { a with ninf := true }
  | .inf false => { a with pinf := true }
  | .fin s 0 _ => if s then { a with anyNegZero := true } else { a with anyPosZero := true }
  | .fin s m e =>
    let g := min e a.exp
    { a with anyNonzero := true, exp := g
             sum := a.sum * (2 : Int) ^ (a.exp - g).toNat + scaled s m e g }

/-- The sum that a finished state stands for; `rdn` tells whether the mode is RDN (R24). An exact zero
is −0 when every term is −0, or when zeros of both signs occur among the terms and the mode is RDN. -/
def SumState.result (rdn : Bool) (a : SumState) : XVal :=
  if a.nan || (a.pinf && a.ninf) then .nan
  else if a.pinf then .inf false
  else if a.ninf then .inf true
  else if a.sum = 0 then
    let allNeg := a.anyNegZero && !a.anyPosZero && !a.anyNonzero
    let mixed := a.anyNegZero && a.anyPosZero
    .fin (allNeg || (mixed && rdn)) 0 0
  else ofInt a.sum a.exp

/-- SumExact of a list (R24). -/
def sumExact (rdn : Bool) (l : List XVal) : XVal := (l.foldl SumState.add SumState.empty).result rdn

/-- Compare two non-NaN values: −1, 0 or 1; zeros of either sign are equal. -/
def cmp (a b : XVal) : Int :=
  match a, b with
  | .inf s, .inf t => if s = t then 0 else if s then -1 else 1
  | .inf s, _ => if s then -1 else 1
  | _, .inf t => if t then 1 else -1
  | .fin s m e, .fin t n f =>
    let g := min e f
    let d := scaled s m e g - scaled t n f g
    if d < 0 then -1 else if d = 0 then 0 else 1
  | _, _ => 0

def lt (a b : XVal) : Bool := decide (cmp a b < 0)

end XVal

/-- The code's fields: sign, biased exponent, mantissa (R33). -/
def Fmt.signBit (f : Fmt) (c : Nat) : Bool := f.signed && decide (c / 2 ^ (f.width - 1) % 2 = 1)
def Fmt.expField (f : Fmt) (c : Nat) : Nat := c / 2 ^ f.mant % 2 ^ f.ebits
def Fmt.mantField (f : Fmt) (c : Nat) : Nat := c % 2 ^ f.mant

/-- Exact(x, fmt): R34 and the special codes of R35. -/
def Fmt.exact (f : Fmt) (c : Nat) : XVal :=
  let s := f.signBit c
  let e := f.expField c
  let m := f.mantField c
  if e > f.topExp then (if m = 0 then .inf s else .nan)
  else if e = f.topExp ∧ m > f.topMant then .nan
  else if e = 0 then .fin s m (1 - (f.bias : Int) - f.mant)
  else .fin s (2 ^ f.mant + m) ((e : Int) - f.bias - f.mant)

/-- The sign bit's weight in a code. -/
def Fmt.signCode (f : Fmt) (s : Bool) : Nat := if s && f.signed then 2 ^ (f.width - 1) else 0

/-- Code of the largest finite magnitude with a sign. -/
def Fmt.maxCode (f : Fmt) (s : Bool) : Nat := f.signCode s + f.topExp * 2 ^ f.mant + f.topMant

/-- Code of the infinity with a sign, for the formats that have one. -/
def Fmt.infCode (f : Fmt) (s : Bool) : Nat := f.signCode s + (f.topExp + 1) * 2 ^ f.mant

/-- Overflow(fmt, s, mode) (R40): the mode plays no part. -/
def Fmt.overflow (f : Fmt) (s : Bool) : Nat := if f.hasInf then f.infCode s else f.maxCode s

/-- Does a code stand for an infinity? -/
def Fmt.isInfCode (f : Fmt) (c : Nat) : Bool := (f.exact c).isInf

/-- One step of the Galois register (R45): the bit and the next register. -/
def lfsrStep (l : W32) : Bool × W32 :=
  let b := l.getLsbD 0
  let r := l >>> 1
  (b, if b then r ^^^ 0x80200003#32 else r)

/-- `n` draws appended to `t`. -/
def lfsrTake : Nat → Nat → W32 → Nat × W32
  | 0, t, l => (t, l)
  | n + 1, t, l => let (b, l') := lfsrStep l; lfsrTake n (2 * t + b.toNat) l'

/-- LfsrTake16 (R45). -/
def lfsrTake16 (l : W32) : Nat × W32 := lfsrTake 16 0 l

/-- A rounding's outcome: the code, whether Round called Overflow for a finite value, the register. -/
structure Rounded where
  code : Nat
  of : Bool
  lfsr : W32
  deriving DecidableEq, Repr, Inhabited

/-- floor(log2(n / d)) for n, d > 0. -/
def log2Floor (n d : Nat) : Int :=
  let g : Int := (n.log2 : Int) - (d.log2 : Int)
  -- n/d lies in (2^(g-1), 2^(g+1))
  let ge := if g ≥ 0 then decide (n ≥ d * 2 ^ g.toNat) else decide (n * 2 ^ (-g).toNat ≥ d)
  if ge then g else g - 1

/-- Round up from lo to hi? k is the quotient, r the remainder, dd the divisor (R23). -/
def roundUp (mode : RMode) (neg : Bool) (k r dd : Nat) (l : W32) : Bool × W32 :=
  match mode with
  | .rne => (decide (2 * r > dd ∨ (2 * r = dd ∧ k % 2 = 1)), l)
  | .rtz => (false, l)
  | .rup => (!neg, l)
  | .rdn => (neg, l)
  | .sto =>
    let (t, l') := lfsrTake16 l
    -- lo and hi are ordered by value: for a negative number lo has the larger magnitude
    if neg then (!decide (((dd - r) * 65536) / dd > t), l') else (decide ((r * 65536) / dd > t), l')

/-- The code of k·2^q (k at most 2^(M+1)), q at least the subnormal quantum; the overflow test comes first. -/
def Fmt.encodeMag (f : Fmt) (s : Bool) (k : Nat) (q : Int) : Nat :=
  if k < 2 ^ f.mant then f.signCode s + k
  else
    let (k, q) := if k ≥ 2 ^ (f.mant + 1) then (k / 2, q + 1) else (k, q)
    f.signCode s + (q + f.mant + f.bias).toNat * 2 ^ f.mant + (k - 2 ^ f.mant)

/-- Is k·2^q above MaxFinite? -/
def Fmt.above (f : Fmt) (k : Nat) (q : Int) : Bool :=
  let tq : Int := (f.topExp : Int) - f.bias - f.mant
  let tm := 2 ^ f.mant + f.topMant
  if q ≥ tq then decide (k * 2 ^ (q - tq).toNat > tm) else decide (k > tm * 2 ^ (tq - q).toNat)

/-- The rounding of ±(n/d)·2^e, n > 0 (R23). -/
def Fmt.roundRatio (f : Fmt) (mode : RMode) (l : W32) (neg : Bool) (n d : Nat) (e : Int) : Rounded :=
  let ex := log2Floor n d + e
  let emin : Int := 1 - f.bias
  let emax : Int := (f.topExp : Int) - f.bias
  let q := min (max ex emin) emax - f.mant
  let sh := e - q
  let num := if sh ≥ 0 then n * 2 ^ sh.toNat else n
  let den := if sh ≥ 0 then d else d * 2 ^ (-sh).toNat
  let k := num / den
  let r := num % den
  let (up, l') := if r = 0 then (false, l) else roundUp mode neg k r den l
  let k' := if up then k + 1 else k
  if f.above k' q then ⟨f.overflow neg, true, l'⟩ else ⟨f.encodeMag neg k' q, false, l'⟩

/-- Round(v, fmt, mode) (R23, R35, R40): a value below zero other than −0 has no E3M5 code but the invalid one. -/
def Fmt.round (f : Fmt) (mode : RMode) (l : W32) (v : XVal) : Rounded :=
  match v with
  | .nan => ⟨f.nanCode, false, l⟩
  | .inf s => if s && !f.signed then ⟨f.nanCode, false, l⟩ else ⟨f.overflow s, false, l⟩
  | .fin s 0 _ => ⟨f.signCode s, false, l⟩
  | .fin s m e => if s && !f.signed then ⟨f.nanCode, false, l⟩ else f.roundRatio mode l s m 1 e

/-- Round with a fixed RNE and no generator. -/
def Fmt.rne (f : Fmt) (v : XVal) : Nat := (f.round .rne 0 v).code

/-- RoundFP32 (R22), as a code and as a value. -/
def roundFP32 (v : XVal) : Nat := fp32.rne v
def rfp32 (v : XVal) : XVal := fp32.exact (roundFP32 v)

/-- Quotient of two exact values rounded once (R127, R370). Zero over zero and ∞ over ∞ are NaN. -/
def Fmt.roundDiv (f : Fmt) (mode : RMode) (l : W32) (a b : XVal) : Rounded :=
  match a, b with
  | .nan, _ => f.round mode l .nan
  | _, .nan => f.round mode l .nan
  | .inf _, .inf _ => f.round mode l .nan
  | .inf s, .fin t _ _ => f.round mode l (.inf (s != t))
  | .fin s _ _, .inf t => f.round mode l (.fin (s != t) 0 0)
  | .fin s m e, .fin t n g =>
    if n = 0 then (if m = 0 then f.round mode l .nan else f.round mode l (.inf (s != t)))
    else if m = 0 then f.round mode l (.fin (s != t) 0 0)
    else if (s != t) && !f.signed then f.round mode l (.fin true 1 0)
    else f.roundRatio mode l (s != t) m n (e - g)

/-- Fixed-point precision of the series below. -/
def seriesBits : Nat := 384

/-- ln 2 in units of 2^-384, truncated. -/
def ln2Fix : Nat :=
  27311389503436327984859642001965014295881604093268141717219425985154158335678826923825841039545353940567474963094288

/-- Taylor terms of exp: adds y^k/k! for k from `k` on, in fixed point. -/
def expSeries : Nat → Nat → Nat → Nat → Nat → Nat
  | 0, _, _, _, acc => acc
  | fuel + 1, k, y, term, acc =>
    let term' := term * y / 2 ^ seriesBits / k
    if term' = 0 then acc else expSeries fuel (k + 1) y term' (acc + term')

/-- 2^(f/2^b) for 0 ≤ f < 2^b, in units of 2^-384. -/
def exp2Frac (f b : Nat) : Nat :=
  let y := if b ≤ seriesBits then f * 2 ^ (seriesBits - b) * ln2Fix / 2 ^ seriesBits
           else f * ln2Fix / 2 ^ b
  expSeries 200 1 y (2 ^ seriesBits) (2 ^ seriesBits)

/-- 2^x rounded to nearest in fmt (R121): x dyadic. An integer x is exact; otherwise 2^x is irrational
and 384 bits of it decide the rounding (entry 8). -/
def Fmt.exp2 (f : Fmt) (x : XVal) : Rounded :=
  match x with
  | .nan => f.round .rne 0 .nan
  | .inf true => f.round .rne 0 .pzero
  | .inf false => f.round .rne 0 (.inf false)
  | .fin _ 0 _ => f.round .rne 0 .one
  | .fin s m e =>
    if e ≥ 0 then
      -- an integer exponent, capped where every format has long overflowed or underflowed
      let v : Int := if m * 2 ^ (min e 20).toNat > 4096 then 4096 else (m : Int) * 2 ^ e.toNat
      f.round .rne 0 (.fin false 1 (if s then -v else v))
    else
      let b := (-e).toNat
      let ip : Int := (if s then -(m : Int) else m) / (2 : Int) ^ b
      let fr : Int := (if s then -(m : Int) else m) % (2 : Int) ^ b
      let ipc : Int := max (-4096) (min 4096 ip)
      if fr = 0 then f.round .rne 0 (.fin false 1 ipc)
      else f.round .rne 0 (.fin false (exp2Frac fr.toNat b) (ipc - seriesBits))

/-- Terms of atanh z / z · z: adds z^(2k+1)/(2k+1), in fixed point. -/
def atanhSeries : Nat → Nat → Nat → Nat → Nat → Nat
  | 0, _, _, _, acc => acc
  | fuel + 1, k, z2, pow, acc =>
    let pow' := pow * z2 / 2 ^ seriesBits
    if pow' = 0 then acc else atanhSeries fuel (k + 1) z2 pow' (acc + pow' / (2 * k + 1))

/-- log2 of m·2^e, m > 0, in units of 2^-384 (signed); exact for a power of two. -/
def log2Fix (m : Nat) (e : Int) : Int :=
  let b := m.log2
  let ex : Int := e + b
  let num := m - 2 ^ b
  if num = 0 then ex * (2 : Int) ^ seriesBits
  else
    let z := num * 2 ^ seriesBits / (m + 2 ^ b)
    let z2 := z * z / 2 ^ seriesBits
    let at1 := atanhSeries 400 1 z2 z z
    ex * (2 : Int) ^ seriesBits + ((2 * at1 * 2 ^ seriesBits / ln2Fix : Nat) : Int)

/-- RoundFP32(log2 v) (R122, R370). log2 of zero is −∞ and of a value below zero NaN (entry 8). -/
def log2FP32 (v : XVal) : XVal :=
  match v with
  | .nan => .nan
  | .inf true => .nan
  | .inf false => .inf false
  | .fin _ 0 _ => .inf true
  | .fin true _ _ => .nan
  | .fin false m e => rfp32 (XVal.ofInt (log2Fix m e) (-(seriesBits : Int)))

def exp2FP32 (v : XVal) : XVal := fp32.exact (fp32.exp2 v).code

/-- The constants of R122. -/
def cL2E : XVal := fp32.exact 0x3FB8AA3B
def cLN2 : XVal := fp32.exact 0x3F317218

def addFP32 (a b : XVal) : XVal := rfp32 (XVal.sumExact false [a, b])
def mulFP32 (a b : XVal) : XVal := rfp32 (a.mul b)
def divFP32 (a b : XVal) : XVal := fp32.exact (fp32.roundDiv .rne 0 a b).code

/-- The larger of two values; NaN when either is (R370). -/
def xmax (a b : XVal) : XVal :=
  if a.isNan || b.isNan then .nan
  else if XVal.cmp a b > 0 then a
  else if XVal.cmp a b < 0 then b
  else if a.sign then b else a

/-- The functions of act before the last rounding (R122). -/
def actValue (fn : Nat) (x : XVal) : XVal :=
  match fn with
  | 0 => if XVal.cmp x .pzero > 0 then x else .pzero
  | 1 =>
    let t := rfp32 ((x.neg).mul cL2E)
    let e := exp2FP32 t
    -- 1 + e is exact: the division rounds once
    fp32.exact (fp32.roundDiv .rne 0 .one (XVal.sumExact false [.one, e])).code
  | 2 =>
    let two : XVal := .fin false 1 1
    let t := rfp32 ((two.neg.mul x.abs).mul cL2E)
    let e := exp2FP32 t
    let y := fp32.exact (fp32.roundDiv .rne 0 (XVal.sumExact false [.one, e.neg]) (XVal.sumExact false [.one, e])).code
    if x.sign then y.neg else y
  | _ =>
    let t := rfp32 ((x.abs.neg).mul cL2E)
    let e := exp2FP32 t
    let l := log2FP32 (XVal.sumExact false [.one, e])
    let mx := if XVal.cmp x .pzero > 0 then x else .pzero
    rfp32 (XVal.sumExact false [mx, l.mul cLN2])

/-- The derivative factor of dact from the saved output y (R123). -/
def dactFactor (fn : Nat) (y : XVal) : XVal :=
  match fn with
  | 0 => if y.isNan then .nan else if XVal.cmp y .pzero > 0 then .one else .pzero
  | 1 => -- y × (1 − y) rounded once: 1 − y is exact
    rfp32 (y.mul (XVal.sumExact false [.one, y.neg]))
  | 2 => rfp32 (XVal.sumExact false [.one, (y.mul y).neg])
  | _ =>
    let t := rfp32 ((y.neg).mul cL2E)
    rfp32 (XVal.sumExact false [.one, (exp2FP32 t).neg])

/-- The format G12 of the seeds: FP32's range with an 11-bit mantissa (R120). -/
def g12 : Fmt := ⟨20, 11, 8, 127, true, true, 254, 0x7FF, 0x7FC00000 / 4096⟩

/-- The nearest member of G12 to ±(n/d)·2^e, as an FP32 code with bits [11:0] zero. -/
def seedRatio (neg : Bool) (n d : Nat) (e : Int) : Rounded :=
  let r := g12.roundRatio .rne 0 neg n d e
  ⟨r.code * 4096, r.of, 0⟩

/-- rcps before SAT (R120): code, OF. -/
def rcpsLane (x : XVal) : Rounded :=
  match x with
  | .nan => ⟨0x7FC00000, false, 0⟩
  | .inf s => ⟨fp32.signCode s, false, 0⟩
  | .fin s m e => if m = 0 then ⟨fp32.infCode s, false, 0⟩ else seedRatio s 1 m (-e)

/-- Integer square root by bits: the largest r with r² ≤ n, r below 2^fuel. -/
def isqrt (n : Nat) : Nat → Nat → Nat
  | 0, r => r
  | k + 1, r => let r' := r + 2 ^ k; if r' * r' ≤ n then isqrt n k r' else isqrt n k r

/-- rsqs before SAT (R120). 1/√(m·2^e) is taken to 64 bits; the discarded part only breaks a tie that an
irrational value never makes, so a set low bit stands for it. -/
def rsqsLane (x : XVal) : Rounded :=
  match x with
  | .nan => ⟨0x7FC00000, false, 0⟩
  | .inf true => ⟨0x7FC00000, false, 0⟩
  | .inf false => ⟨0, false, 0⟩
  | .fin s m e =>
    if m = 0 then ⟨fp32.infCode s, false, 0⟩
    else if s then ⟨0x7FC00000, false, 0⟩
    else
      let (m, e) := if e % 2 = 0 then (m, e) else (2 * m, e - 1)
      -- 1/√m = √(2^256/m)/2^128
      let q := 2 ^ 256 / m
      let r := isqrt q 129 0
      let exact := decide (r * r * m = 2 ^ 256)
      let n := 2 * r + (if exact then 0 else 1)
      seedRatio false n 1 (-129 - e / 2)

end Sys2Proof.Machine
end

