-- ==== Sys2Proof/Machine/Flags.lean ====
section
/-! DEFINITION. The sticky flags of an element (R61, R62) and the flag rules of rounding and clamping (R41, R42, R117). -/
namespace Sys2Proof.Machine

/-! ### ESTAT (R61) -/

/-- NV: a NaN result from operands none of which was NaN. -/
def fNV : BitVec 8 := 1
/-- OF: Round called Overflow for a finite value. -/
def fOF : BitVec 8 := 2
/-- SAT: an integer lane clamped, or the saturate modifier replaced an infinity. -/
def fSAT : BitVec 8 := 4
/-- DIG: a digit plane carried the reserved code. -/
def fDIG : BitVec 8 := 8
/-- SCL: an instruction used the invalid block scale. -/
def fSCL : BitVec 8 := 16

/-- A flag under a condition. -/
def flagIf (b : Bool) (f : BitVec 8) : BitVec 8 := if b then f else 0

/-- A lane's outcome: its bits, the flags it sets, the generator after its draw. -/
structure LaneOut where
  v : Nat
  fl : BitVec 8
  lfsr : W32
  deriving DecidableEq, Repr, Inhabited

/-- The saturate modifier (R41): an infinity becomes the largest finite value of its sign. -/
def Fmt.saturate (f : Fmt) (sat : Bool) (c : Nat) : Nat × BitVec 8 :=
  if sat && f.isInfCode c then (f.maxCode (f.signBit c), fSAT) else (c, 0)

/-- The delivery of a rounded lane (R117): NV when the value is NaN and no operand was, OF when a finite value overflowed,
SAT when the modifier replaced an infinity. -/
def Fmt.deliver (f : Fmt) (mode : RMode) (sat : Bool) (l : W32) (v : XVal) (anyNan : Bool) : LaneOut :=
  let r := f.round mode l v
  let (c, fs) := f.saturate sat r.code
  ⟨c, flagIf (v.isNan && !anyNan) fNV ||| flagIf r.of fOF ||| fs, r.lfsr⟩

/-- Clamping to the signed n-bit range (R22, R42): the value and whether it clamped. -/
def clampInt (n : Nat) (v : Int) : Int × Bool :=
  let hi : Int := 2 ^ (n - 1) - 1
  let lo : Int := -(2 ^ (n - 1))
  if hi < v then (hi, true) else if v < lo then (lo, true) else (v, false)

/-- An integer in w-bit two's complement. -/
def wrapInt (w : Nat) (v : Int) : Nat := (v % (2 ^ w : Nat)).toNat

/-- The signed value of the low w bits. -/
def signedOf (w : Nat) (c : Nat) : Int :=
  let m := c % 2 ^ w
  if 2 * m < 2 ^ w then (m : Int) else (m : Int) - (2 ^ w : Nat)

/-- FP32 addition into a lane with one RNE rounding and its flags, given what was NaN before (R55, R59, R142). Under ZA the old value
of the lane is not an operand: it counts as +0 for NV too, be it a NaN (DESIGN CHOICE: R142 speaks of no prior accumulator value
being NaN; entry 43). -/
def addLane (a : W32) (za : Bool) (r : Nat) (nanIn : Bool) (ofIn : Bool) : LaneOut :=
  let av := if za then XVal.pzero else fp32.exact a.toNat
  let q := fp32.round .rne 0 (XVal.sumExact false [av, fp32.exact r])
  ⟨q.code, flagIf ((fp32.exact q.code).isNan && !nanIn && !av.isNan) fNV ||| flagIf (q.of || ofIn) fOF, 0⟩

/-- Saturating addition into an INT32 lane (R42, R58, R59). -/
def addLaneInt (a : W32) (za : Bool) (c : Int) : LaneOut :=
  let (v, cl) := clampInt 32 ((if za then 0 else a.toInt) + c)
  ⟨wrapInt 32 v, flagIf cl fSAT, 0⟩

end Sys2Proof.Machine
end

