-- ==== Sys2Proof/Machine/Element.lean ====
section
/-! DEFINITION. The frame of an element context: neighbours, the rotating file, sources, predicates, taps, destinations and the
result in flight (R63 to R77, R86 to R92, R139, R352). -/
namespace Sys2Proof.Machine

/-! ### Lanes (R37) -/

/-- Lane j of width w. -/
def lane (w : Nat) (b : W256) (j : Nat) : Nat := b.toNat / 2 ^ (w * j) % 2 ^ w

/-- The number whose lanes of width w are a list's, lane 0 least significant. -/
def packNat (w : Nat) : List Nat → Nat
  | [] => 0
  | v :: t => v % 2 ^ w + 2 ^ w * packNat w t

/-- The word whose lanes of width w are a list's. -/
def packLanes (w : Nat) (l : List Nat) : W256 := BitVec.ofNat 256 (packNat w l)

/-- The same value in every lane of width w. -/
def splat (w v : Nat) : W256 := packLanes w (List.replicate (256 / w) v)

/-- The eight lanes of an accumulator as a word. -/
def Lanes8.word (a : Lanes8) : W256 := packLanes 32 (a.toList.map BitVec.toNat)
/-- The eight 32-bit lanes of a word. -/
def lanes8Of (b : W256) : Lanes8 := Vector.ofFn fun i : Fin 8 => BitVec.ofNat 32 (lane 32 b i.val)

/-- Lanes j to j + n − 1 in increasing order, with one generator passed along (R47, R108). -/
def lanesFrom (f : Nat → W32 → LaneOut) : Nat → Nat → W32 → List Nat × BitVec 8 × W32
  | 0, _, l => ([], 0, l)
  | n + 1, j, l =>
    let r := f j l
    let (vs, fl, l') := lanesFrom f n (j + 1) r.lfsr
    (r.v :: vs, r.fl ||| fl, l')

/-- The outcome of a lane instruction before it is in flight. -/
structure WordOut where
  bits : W256
  fl : BitVec 8
  lfsr : W32
  deriving DecidableEq, Repr, Inhabited

/-- A word of n lanes of width w. -/
def lanesWord (w n : Nat) (l : W32) (f : Nat → W32 → LaneOut) : WordOut :=
  let (vs, fl, l') := lanesFrom f n 0 l
  ⟨packLanes w vs, fl, l'⟩

/-- A word of n lanes that draws no bits. -/
def plainWord (w n : Nat) (l : W32) (f : Nat → Nat × BitVec 8) : WordOut :=
  lanesWord w n l fun j l => ⟨(f j).1, (f j).2, l⟩

/-! ### Fields of a context word (R90, R92) -/

def CtxOps.ix (w : CtxFields) : Nat := bits w.aux.toNat 19 17
def CtxOps.sb (w : CtxFields) : Nat := bits w.aux.toNat 16 11
def CtxOps.st (w : CtxFields) : Nat := bits w.aux.toNat 10 9
def CtxOps.ai (w : CtxFields) : BitVec 2 := w.aux.extractLsb' 7 2
def CtxOps.cd (w : CtxFields) : Nat := bits w.aux.toNat 6 5
def CtxOps.xa (w : CtxFields) : Nat := bits w.aux.toNat 4 0
def CtxOps.nx (w : CtxFields) : Bool := w.mod.getLsbD 7
def CtxOps.ny (w : CtxFields) : Bool := w.mod.getLsbD 6
def CtxOps.nz (w : CtxFields) : Bool := w.mod.getLsbD 5
def CtxOps.za (w : CtxFields) : Bool := w.mod.getLsbD 4
def CtxOps.rm (w : CtxFields) : RMode := RMode.ofCode (w.mod.extractLsb' 1 3)
def CtxOps.sat (w : CtxFields) : Bool := w.mod.getLsbD 0
/-- The context is on the control plane (R74). -/
def CtxOps.ctl (w : CtxFields) : Bool := w.dw == 17

/-! ### Places in a region -/

/-- The region of a site. -/
def State.siteRegion (s : State) (x : ElemSite) : Region := s.region x.cp x.region
/-- The element of a site. -/
def State.siteElem (s : State) (x : ElemSite) : Elem := s.elem x.cp x.elem

/-- A physical element inside a region's on-bank rectangle. -/
def Header.inside (h : Header) (row col : Nat) : Bool :=
  decide (h.row0 ≤ row) && decide (row < h.row0 + h.rows) && decide (h.col0 ≤ col) && decide (col < h.col0 + h.cols)

/-- The image index e of a physical element (R99). -/
def Header.image (h : Header) (e : Fin 256) : Nat := 16 * (e.val / 16 - h.row0) + (e.val % 16 - h.col0)

/-- The physical element of image coordinates, when they lie on the grid. -/
def Header.phys (h : Header) (row col : Nat) : Option (Fin 256) :=
  let n := 16 * (h.row0 + row) + (h.col0 + col)
  if hn : n < 256 then (if h.col0 + col < 16 then some ⟨n, hn⟩ else Option.none) else Option.none

/-- The neighbour in a direction 0 n, 1 e, 2 s, 3 w; none at a physical edge of the grid. -/
def neighbour (e : Fin 256) (dir : Nat) : Option (Fin 256) :=
  match dir with
  | 0 => if e.val < 16 then none else some ⟨e.val - 16, by omega⟩
  | 1 => if h : e.val % 16 < 15 then some ⟨e.val + 1, by omega⟩ else none
  | 2 => if h : e.val < 240 then some ⟨e.val + 16, by omega⟩ else none
  | _ => if e.val % 16 = 0 then none else some ⟨e.val - 1, by omega⟩

/-- A neighbour that the region may read: none stands for a read across a guard (R72, R352). -/
def State.readable (s : State) (x : ElemSite) (dir : Nat) : Option (Fin 256) :=
  match neighbour x.elem dir with
  | none => none
  | some e => if (s.siteRegion x).onHdr.inside (e.val / 16) (e.val % 16) then some e else none

/-- The physical entry of fN (R68). -/
def Region.rot (r : Region) (n : Nat) : Fin 16 := ⟨(n + r.it) % 16, by omega⟩

/-! ### Taps (R77, R101) -/

/-- Fields of a tap binding. -/
def tapEn (b : BitVec 32) : Bool := b.getLsbD 31
def tapElastic (b : BitVec 32) : Bool := b.getLsbD 30
def tapOut (b : BitVec 32) : Bool := b.getLsbD 29
def tapCtl (b : BitVec 32) : Bool := b.getLsbD 28
def tapPort (b : BitVec 32) : BitVec 5 := b.extractLsb' 23 5
def tapLf (b : BitVec 32) : Nat := bits b.toNat 22 19
def tapTl (b : BitVec 32) : Nat := bits b.toNat 18 15

/-- The binding word of tap t of a bank. -/
def Bank.tap (k : Bank) (t : Fin 4) : BitVec 32 := (k.taps[t.val]?).getD 0

/-- The lowest-numbered tap of a bank that a test accepts. -/
def Bank.findTap (k : Bank) (f : BitVec 32 → Bool) : Option (Fin 4) :=
  ([0, 1, 2, 3] : List (Fin 4)).find? fun t => tapEn (k.tap t) && f (k.tap t)

/-- The inbound control-plane tap that c reads at a physical edge (R75). -/
def Bank.ctlTap (k : Bank) : Option (Fin 4) := k.findTap fun b => !tapOut b && tapCtl b

/-- Source codes 21 to 24. -/
def tapCode (c : BitVec 5) : Option (Fin 4) :=
  if h : 21 ≤ c.toNat ∧ c.toNat ≤ 24 then some ⟨c.toNat - 21, by omega⟩ else none

/-- The tap that source c reads: only where CD leaves the grid at a physical edge (R75). -/
def State.cTap (s : State) (x : ElemSite) (w : CtxFields) : Option (Fin 4) :=
  if (w.srcA == 25 || w.srcB == 25 || w.srcC == 25) && (neighbour x.elem (CtxOps.cd w)).isNone
  then (s.siteElem x).on.ctlTap else none

/-- The inbound taps a context names, each once (R77, R80). -/
def State.namedTaps (s : State) (x : ElemSite) (w : CtxFields) : List (Fin 4) :=
  ([w.srcA, w.srcB, w.srcC].filterMap tapCode ++ (s.cTap x w).toList).dedup

/-- Every inbound tap a context names has a token. -/
def State.tapsReady (s : State) (x : ElemSite) (w : CtxFields) : Bool :=
  (s.namedTaps x w).all fun t => !((s.siteElem x).tapq.get t).isEmpty

/-- The token at the head of a tap queue. -/
def Elem.head (e : Elem) (t : Fin 4) : Tok := (e.tapq.get t).headD Tok.zero

/-- The head tokens a context named leave their queues, and the streams learn that they are consumed (R77, R79). -/
def State.consumeTaps (s : State) (x : ElemSite) (ts : List (Fin 4)) : State :=
  ts.foldl (fun u t =>
    let b := (s.siteElem x).on.tap t
    (u.modElem x.cp x.elem fun e => { e with tapq := vmod e.tapq t List.tail }).modPort x.cp (tapPort b)
      fun p => { p with unconsumed := p.unconsumed - 1 }) s

/-! ### The stationary store (R65, R92, R149, R171) -/

/-- The block that SB and ST select, within the slot's share. -/
def Region.block (r : Region) (w : CtxFields) : Nat :=
  match CtxOps.st w with
  | 1 => (CtxOps.sb w + r.it) % 64
  | 2 => (CtxOps.sb w + r.lap) % 64
  | _ => CtxOps.sb w

/-- The place of a stationary block of an element, by its number within the slot's share. -/
def State.blockPlace (s : State) (x : ElemSite) (blk : Nat) : PAddr :=
  let base := ((s.core x.cp.core).statShare x.cp.slot).1
  ⟨.stat x.cp.core, x.elem.val * 2 ^ 14 + (base + blk) * 256⟩

/-- A block lies inside the slot's share. -/
def State.blockOk (s : State) (x : ElemSite) (blk : Nat) : Bool :=
  decide (blk < ((s.core x.cp.core).statShare x.cp.slot).2)

/-- A word of a block. -/
def State.blockWord (s : State) (x : ElemSite) (blk q : Nat) : W256 :=
  BitVec.ofNat 256 (s.leAt ((s.blockPlace x blk).plus (32 * q)) 32)

/-- Whether a context uses a stationary block, and how many blocks from which one (R136, R149). -/
def State.blocksUsed (s : State) (x : ElemSite) (op : Nat) (w : CtxFields) : Option (Nat × Nat) :=
  if w.srcA == 28 || w.srcB == 28 || w.srcC == 28 || w.dw == 22 then
    let b := (s.siteRegion x).block w
    if op = 0x52 then some (b / 8 * 8, 8) else some (b, 1)
  else none

/-- The first block outside the slot's share that a context reaches (R65, R300). -/
def State.blockGuard (s : State) (x : ElemSite) (op : Nat) (w : CtxFields) : Option Nat :=
  match s.blocksUsed x op w with
  | none => none
  | some (b, n) => ((List.range n).map (b + ·)).find? fun k => !s.blockOk x k

/-! ### Sources (R72 to R75, R87, R110) -/

/-- The C that a control read in a direction sees: zero across a guard (R352). -/
def State.ctlOfDir (s : State) (x : ElemSite) (dir : Nat) : Word :=
  match s.readable x dir with
  | some e => (s.elem x.cp e).cn
  | none => 0

/-- The value of source c (R75). -/
def State.srcC (s : State) (x : ElemSite) (w : CtxFields) : Word :=
  match s.cTap x w with
  | some t => ((s.siteElem x).head t).bits.setWidth 64
  | none => s.ctlOfDir x (CtxOps.cd w)

/-- A data-plane token from its bits, without sidebands. -/
def Tok.ofBits (b : W256) : Tok := ⟨b, false, false, false⟩

/-- A data-plane source (R87). `one` is what code 30 supplies for the operand. A predicated-off context reads none. -/
def State.source (s : State) (x : ElemSite) (w : CtxFields) (one : W256) (c : BitVec 5) : Tok :=
  let e := s.siteElem x
  let r := s.siteRegion x
  if c.toNat < 16 then e.f.get (r.rot c.toNat)
  else if c.toNat < 20 then
    match s.readable x (c.toNat - 16) with
    | some n => (s.elem x.cp n).dn
    | none => Tok.bubble
  else if c == 20 then e.d
  else match tapCode c with
  | some t => e.head t
  | none =>
    if c == 25 then Tok.ofBits ((s.srcC x w).setWidth 256)
    else if c == 26 then Tok.ofBits (e.acc.get (ix4 (CtxOps.ai w))).word
    else if c == 27 then Tok.ofBits ((e.on.imt[CtxOps.ix w]?).getD 0)
    else if c == 28 then Tok.ofBits (s.blockWord x (r.block w) (CtxOps.xa w % 8))
    else if c == 30 then Tok.ofBits one
    else Tok.zero

/-- A control-plane source (R74, R111). -/
def State.ctlSource (s : State) (x : ElemSite) (w : CtxFields) (c : BitVec 5) : Word :=
  if c == 25 then s.srcC x w
  else if 16 ≤ c.toNat ∧ c.toNat < 20 then s.ctlOfDir x (c.toNat - 16)
  else if c == 27 then (((s.siteElem x).on.imt[CtxOps.ix w]?).getD 0).setWidth 64
  else if c == 30 then 1 else 0

/-! ### Predicates (R70, R89) -/

/-- The lap is the take's last. -/
def Region.lastLap (r : Region) : Bool := r.lap + 1 == r.onHdr.laps

/-- The predicate of a context in its issue cycle. -/
def State.predicate (s : State) (x : ElemSite) (w : CtxFields) : Bool :=
  let r := s.siteRegion x
  let v := match w.ps.toNat with
    | 0 => true
    | 1 => (s.siteElem x).c.getLsbD 0
    | 6 => r.lap == 0
    | 7 => r.lastLap
    | k => (s.ctlOfDir x (k - 2)).getLsbD 0
  v != w.pn

/-! ### Reads across a guard (R352) -/

/-- How many of a context's reads cross a guard: its predicate, and its operands when it is not predicated off. A c that
leaves the grid where no control tap is bound counts as one. -/
def State.guardReads (s : State) (x : ElemSite) (w : CtxFields) : Nat :=
  let far (dir : Nat) : Nat := if (s.readable x dir).isNone then 1 else 0
  let pred := if 2 ≤ w.ps.toNat ∧ w.ps.toNat ≤ 5 then far (w.ps.toNat - 2) else 0
  let src (c : BitVec 5) : Nat :=
    if 16 ≤ c.toNat ∧ c.toNat < 20 then far (c.toNat - 16)
    else if c == 25 && (s.cTap x w).isNone then far (CtxOps.cd w) else 0
  pred + (if s.predicate x w then src w.srcA + src w.srcB + src w.srcC else 0)

/-- The record of the first read across a guard in a take (R299, R352). -/
def State.guardRecord (s : State) (x : ElemSite) : RecFields :=
  let r := s.siteRegion x
  { s.slotRec x.cp cDROP 0x07 (some x.region) with
    elem := BitVec.ofNat 8 (r.onHdr.image x.elem), index := BitVec.ofNat 8 x.idx.toNat, tc := r.tc, lap := r.lap, detail := 4 }

/-- Reads across a guard are counted, and the take's first one is recorded. -/
def State.noteGuard (s : State) (x : ElemSite) (n : Nat) : State :=
  if n = 0 then s
  else
    let s1 := s.modCore x.cp.core fun k => { k with gdcnt := k.gdcnt + BitVec.ofNat 64 n }
    if (s.siteRegion x).guardRecorded then s1
    else (s1.pushRec x.cp.core (.guard x.cp x.region) (s.guardRecord x)).modRegion x.cp x.region fun r => { r with guardRecorded := true }

/-! ### ECC of the arrays a context reads (R106, R307): array, unit, word and count -/

/-- The words of arrays 1, 2 and 3 that a context reads: its own word, the C of its predicate, and its sources (perm's index vector
among them, R131) when it is not predicated off. The words stand in an array in the order of the continuity image (R194). -/
def State.arrayReads (s : State) (x : ElemSite) (op : Nat) (w : CtxFields) : List (Nat × Nat × Nat × Nat) :=
  let u := x.elem.val
  let src (c : BitVec 5) : List (Nat × Nat × Nat × Nat) :=
    if c.toNat < 16 then [(2, u, 4 * ((s.siteRegion x).rot c.toNat).val, 4)]
    else if c.toNat < 20 then
      (match s.readable x (c.toNat - 16) with
        | some e => if CtxOps.ctl w then [(2, e.val, 69, 1)] else [(2, e.val, 64, 5)]
        | none => [])
    else if c == 20 then [(2, u, 64, 5)]
    else if c == 25 then
      (match s.cTap x w, s.readable x (CtxOps.cd w) with
        | none, some e => [(2, e.val, 69, 1)]
        | _, _ => [])
    else if c == 26 && op != 0x57 && op != 0x58 then [(3, u, 4 * (CtxOps.ai w).toNat, 4)]
    else if c == 27 then [(1, u, 96 + 4 * CtxOps.ix w, 4)]
    else []
  let bp := if op = 0x55 then [(3, u, 16, 32)] else []
  let pred : List (Nat × Nat × Nat × Nat) :=
    if w.ps = 1 then [(2, u, 69, 1)]
    else if 2 ≤ w.ps.toNat ∧ w.ps.toNat ≤ 5 then
      (match s.readable x (w.ps.toNat - 2) with | some e => [(2, e.val, 69, 1)] | none => [])
    else []
  let vec := if op = 0x42 then [(1, u, 96 + 4 * CtxOps.ix w, 4)] else []
  (1, u, x.idx.toNat, 1) :: (pred ++ if s.predicate x w then src w.srcA ++ src w.srcB ++ src w.srcC ++ bp ++ vec else [])

/-- The stationary range a context reads: a word for a lane instruction, whole blocks for a contraction. -/
def State.statReads (s : State) (x : ElemSite) (op : Nat) (w : CtxFields) : Option (PAddr × Nat) :=
  if (w.srcA == 28 || w.srcB == 28 || w.srcC == 28) && s.predicate x w then
    match s.blocksUsed x op w with
    | none => none
    | some (b, n) =>
      if 0x50 ≤ op then some (s.blockPlace x b, 256 * n)
      else some ((s.blockPlace x b).plus (32 * (CtxOps.xa w % 8)), 32)
  else none

/-- What is read: words of a core's arrays 1 to 3 as array, unit, word and count, and a range of the stationary store. -/
abbrev Reads := List (Nat × Nat × Nat × Nat) × Option (PAddr × Nat)

/-- The marks on what is read: with the array code and the word offset (R300). -/
def State.marksOf (s : State) (core : Fin 256) (l : Reads) : List (EccMark × Nat × Nat) :=
  if s.ecc.isEmpty then []
  else
    let arr := l.1.flatMap fun (a, u, wd, n) =>
      let base := arrWord core a u 0 / 2 ^ 64
      (s.ecc.filter fun m => m.inWords (base + wd) n).map fun m => (m, a, m.word / 2 ^ 64 - base)
    let st := match l.2 with
      | none => []
      | some (pa, n) => (s.marksAt pa n).map fun m => (m, 0, (pa.off / 8 + (m.word - pa.key / 8)) % 2 ^ 11)
    arr ++ st

/-- The errors on what is read enter the core's logs (R308). -/
def State.logOf (s : State) (c : CpId) (l : Reads) : State :=
  if s.ecc.isEmpty then s
  else
    let part := (s.slot c).part
    let s1 := l.1.foldl (fun t (a, u, wd, n) => (t.readArr c part a u wd n).1) s
    match l.2 with
    | none => s1
    | some (pa, n) => (s1.load c part pa n).1

/-- The marks on the words that a context reads. -/
def State.readMarks (s : State) (x : ElemSite) (op : Nat) (w : CtxFields) : List (EccMark × Nat × Nat) :=
  s.marksOf x.cp.core (s.arrayReads x op w, s.statReads x op w)

/-- The errors on the words that a context reads enter the core's logs. -/
def State.logReads (s : State) (x : ElemSite) (op : Nat) (w : CtxFields) : State :=
  s.logOf x.cp (s.arrayReads x op w, s.statReads x op w)

/-! ### Destinations (R68, R88) -/

/-- The destination of a lane or route result, resolved at issue. -/
def State.dest (s : State) (x : ElemSite) (w : CtxFields) : Dest :=
  let r := s.siteRegion x
  if w.dw.toNat < 16 then .f (r.rot w.dw.toNat)
  else if w.dw == 16 then .d
  else if w.dw == 17 then .c
  else if w.dw.toNat < 22 then .acc (ix4 (BitVec.ofNat 2 (w.dw.toNat - 18)))
  else if w.dw == 22 then .stat (r.block w) (CtxOps.xa w % 8)
  else if h : 23 ≤ w.dw.toNat ∧ w.dw.toNat ≤ 26 then .tapOut ⟨w.dw.toNat - 23, by omega⟩
  else .none

/-- A result starts its flight (R73): it acts at the end of the take cycle that is latency − 1 after this one. -/
def State.launchResult (s : State) (x : ElemSite) (lat : Nat) (a : Act) : State :=
  s.modElem x.cp x.elem fun e => { e with flight := e.flight ++ [⟨lat, a, x.idx.setWidth 8⟩] }

/-- A drain cue's tile or result starts its flight (R85, R156). -/
def State.launchCue (s : State) (x : ElemSite) (a : Act) : State :=
  s.modElem x.cp x.elem fun e => { e with flight := e.flight ++ [⟨2, a, 0x80 ||| x.idx.setWidth 8⟩] }

/-- The element's generator takes its value after a context's draws (R45, R47). -/
def State.setLfsr (s : State) (x : ElemSite) (l : W32) : State := s.modElem x.cp x.elem fun e => { e with lfsr := l }

/-! ### The frame of a context (R69, R70, R77) -/

/-- A context may issue: its region runs, advances in this cycle and is not about to stop, the taps it names have tokens, its blocks lie in the share, and a record of a
first read across a guard has room. The region's decision of R80 sees to all of it before any context issues. -/
def State.canIssue (s : State) (x : ElemSite) (op : Nat) (w : CtxFields) : Bool :=
  (s.siteRegion x).on == .running && (s.siteRegion x).going && (s.siteRegion x).stopDue.isNone && s.tapsReady x w &&
  (!s.predicate x w || (s.blockGuard x op w).isNone) &&
  (s.guardReads x w == 0 || (s.siteRegion x).guardRecorded || s.recRoom x.cp.core (.guard x.cp x.region))

/-- A context issues: unless it is predicated off it has its effect `k` on what it read, and in either case the tap tokens it
names leave their queues. -/
def State.issueCtx (s : State) (x : ElemSite) (op : Nat) (w : CtxFields) (k : State → State) : Out State :=
  .next <|
    if s.canIssue x op w then
      let s1 := (s.noteGuard x (s.guardReads x w)).logReads x op w
      (if s.predicate x w then k s1 else s1).consumeTaps x (s.namedTaps x w)
    else s

/-- The token of a result: a bubble when an operand is one (R76). -/
def resultTok (bubble : Bool) (lr ls : Bool) (b : W256) : Tok :=
  if bubble then ⟨0, true, ls, true⟩ else ⟨b, lr, ls, false⟩

/-- What a lane instruction on the data plane does with its operands: its result, with its sidebands. -/
structure LaneRes where
  out : WordOut
  lr : Bool
  ls : Bool
  deriving DecidableEq, Repr, Inhabited

/-- A lane instruction (R107, R108). `ones` is what code 30 supplies for each operand. -/
def State.laneOp (s : State) (x : ElemSite) (op : Nat) (w : CtxFields) (lat : Nat) (ones : W256 × W256 × W256)
    (f : Tok → Tok → Tok → W32 → LaneRes) : Out State :=
  s.issueCtx x op w fun t =>
    let a := s.source x w ones.1 w.srcA
    let b := s.source x w ones.2.1 w.srcB
    let c := s.source x w ones.2.2 w.srcC
    let r := f a b c (s.siteElem x).lfsr
    if a.k || b.k || c.k then t.launchResult x lat (.write (s.dest x w) (resultTok true true r.ls 0) 0)
    else (t.launchResult x lat (.write (s.dest x w) (resultTok false r.lr r.ls r.out.bits) r.out.fl)).setLfsr x r.out.lfsr

/-- A lane result with the sidebands of an operand. -/
def WordOut.with (o : WordOut) (a : Tok) : LaneRes := ⟨o, a.lr, a.ls⟩

/-- A control-plane context (R74, R111). -/
def State.ctlOp (s : State) (x : ElemSite) (op : Nat) (w : CtxFields) (lat : Nat) (f : Word → Word → Word → Word × BitVec 8) :
    Out State :=
  s.issueCtx x op w fun t =>
    let r := f (s.ctlSource x w w.srcA) (s.ctlSource x w w.srcB) (s.ctlSource x w w.srcC)
    t.launchResult x lat (.writeC r.1 r.2)

end Sys2Proof.Machine
end

