-- ==== Sys2Proof/Machine/Lane.lean ====
section
/-! DEFINITION. The lane instructions of an element: integer and logic, float arithmetic and compares, seeds and functions,
conversions, routes and reductions (R107 to R135). -/
namespace Sys2Proof.Machine

/-! ### Formats -/

/-- The float format of an FMT code of class F (R91). -/
def fmtF (c : BitVec 3) : Fmt :=
  match c.toNat with
  | 0 => fp32
  | 1 => bf16
  | 2 => fp16
  | 3 => e4m3
  | 4 => e5m2
  | _ => e2m1

/-- The lane width of a class I code (R91). -/
def widthI (c : BitVec 3) : Nat :=
  match c.toNat with
  | 0 => 32
  | 1 => 16
  | 2 => 8
  | _ => 2

/-- The lane width of a lane-format code (R37, R102). -/
def widthLf (c : Nat) : Nat :=
  match c with
  | 0 => 32
  | 1 => 16
  | 2 => 16
  | 3 => 8
  | 4 => 8
  | 5 => 4
  | 6 => 32
  | 7 => 16
  | 8 => 8
  | 9 => 2
  | 10 => 8
  | _ => 64

/-- The unit value in every lane of a format (R110). -/
def oneF (f : Fmt) : W256 := splat f.width (f.rne XVal.one)
/-- The integer 1 in every lane of a width (R110). -/
def oneI (w : Nat) : W256 := splat w 1
/-- The same unit for all three operands. -/
def ones3 (b : W256) : W256 × W256 × W256 := (b, b, b)

/-! ### Integer and logic (R114 to R116) -/

/-- The end of an integer lane: saturated under SAT, else wrapped. -/
def endInt (sat : Bool) (w : Nat) (v : Int) : Nat × BitVec 8 :=
  if sat then (wrapInt w (clampInt w v).1, flagIf (clampInt w v).2 fSAT) else (wrapInt w v, 0)

/-- An integer instruction on either plane: `f w a b c` from the raw lanes. -/
def State.intOp (s : State) (x : ElemSite) (op : Nat) (w : CtxFields) (f : Nat → Nat → Nat → Nat → Int) : Out State :=
  let sat := CtxOps.sat w
  if CtxOps.ctl w then
    s.ctlOp x op w 1 fun a b c =>
      let r := endInt sat 64 (f 64 a.toNat b.toNat c.toNat)
      (BitVec.ofNat 64 r.1, r.2)
  else
    let wd := widthI w.fmt
    s.laneOp x op w 1 (ones3 (oneI wd)) fun a b c l =>
      (plainWord wd (256 / wd) l fun j => endInt sat wd (f wd (lane wd a.bits j) (lane wd b.bits j) (lane wd c.bits j))).with a

/-- Bitwise operations on raw lanes. -/
def rawAnd (a b : Nat) : Int := ((a &&& b : Nat) : Int)
def rawOr (a b : Nat) : Int := ((a ||| b : Nat) : Int)
def rawXor (a b : Nat) : Int := ((a ^^^ b : Nat) : Int)

/-- The conditions of icmp (R115). -/
def intCond (cond w a b : Nat) : Bool :=
  let x := signedOf w a
  let y := signedOf w b
  match cond with
  | 0 => decide (x = y)
  | 1 => decide (x ≠ y)
  | 2 => decide (x < y)
  | 3 => decide (x ≤ y)
  | 4 => decide (y < x)
  | 5 => decide (y ≤ x)
  | 6 => decide (a < b)
  | 7 => decide (a ≤ b)
  | 8 => decide (b < a)
  | _ => decide (b ≤ a)

def execIadd (x : ElemSite) (w : CtxFields) (s : State) : Out State :=
  s.intOp x 0x01 w fun n a b _ => signedOf n a + signedOf n b
def execIsub (x : ElemSite) (w : CtxFields) (s : State) : Out State :=
  s.intOp x 0x02 w fun n a b _ => signedOf n a - signedOf n b
def execImul (x : ElemSite) (w : CtxFields) (s : State) : Out State :=
  s.intOp x 0x03 w fun n a b _ => signedOf n a * signedOf n b
def execImad (x : ElemSite) (w : CtxFields) (s : State) : Out State :=
  s.intOp x 0x04 w fun n a b c => signedOf n a * signedOf n b + signedOf n c
def execImin (x : ElemSite) (w : CtxFields) (s : State) : Out State :=
  s.intOp x 0x05 w fun n a b _ => min (signedOf n a) (signedOf n b)
def execImax (x : ElemSite) (w : CtxFields) (s : State) : Out State :=
  s.intOp x 0x06 w fun n a b _ => max (signedOf n a) (signedOf n b)
def execIabs (x : ElemSite) (w : CtxFields) (s : State) : Out State :=
  s.intOp x 0x07 w fun n a _ _ => ((signedOf n a).natAbs : Int)
def execElemAnd (x : ElemSite) (w : CtxFields) (s : State) : Out State := s.intOp x 0x08 w fun _ a b _ => rawAnd a b
def execElemOr (x : ElemSite) (w : CtxFields) (s : State) : Out State := s.intOp x 0x09 w fun _ a b _ => rawOr a b
def execElemXor (x : ElemSite) (w : CtxFields) (s : State) : Out State := s.intOp x 0x0A w fun _ a b _ => rawXor a b
/-- Shift counts are the low 8 bits of the lane (R114). -/
def execElemShl (x : ElemSite) (w : CtxFields) (s : State) : Out State :=
  s.intOp x 0x0B w fun n a b _ => if n ≤ b % 256 then 0 else ((a * 2 ^ (b % 256) : Nat) : Int)
def execElemShr (x : ElemSite) (w : CtxFields) (s : State) : Out State :=
  s.intOp x 0x0C w fun n a b _ => if n ≤ b % 256 then 0 else ((a / 2 ^ (b % 256) : Nat) : Int)
def execSra (x : ElemSite) (w : CtxFields) (s : State) : Out State :=
  s.intOp x 0x0D w fun n a b _ => signedOf n a / (2 ^ min (b % 256) (n - 1) : Nat)
/-- icmp (R115): a true lane is all ones. -/
def execIcmp (x : ElemSite) (w : CtxFields) (s : State) : Out State :=
  s.intOp x 0x0E w fun n a b _ => if intCond (CtxOps.xa w) n a b then ((2 ^ n - 1 : Nat) : Int) else 0
/-- sel (R116) chooses bit patterns. -/
def execSel (x : ElemSite) (w : CtxFields) (s : State) : Out State :=
  s.intOp x 0x0F w fun _ a b c => if c ≠ 0 then (a : Int) else (b : Int)

/-! ### Float arithmetic and compares (R117 to R119) -/

/-- A float instruction with one rounding: `f` gives the exact value from the operands after their negates. -/
def State.floatOp (s : State) (x : ElemSite) (op : Nat) (w : CtxFields) (third : Bool) (f : XVal → XVal → XVal → XVal) : Out State :=
  let g := fmtF w.fmt
  let m := CtxOps.rm w
  s.laneOp x op w 3 (ones3 (oneF g)) fun a b c l =>
    (lanesWord g.width (256 / g.width) l fun j l =>
      let p := (g.exact (lane g.width a.bits j)).negIf (CtxOps.nx w)
      let q := (g.exact (lane g.width b.bits j)).negIf (CtxOps.ny w)
      let r := (g.exact (lane g.width c.bits j)).negIf (CtxOps.nz w)
      g.deliver m (CtxOps.sat w) l (f p q r) (p.isNan || q.isNan || (third && r.isNan))).with a

/-- The mode of a sum is RDN (R24). -/
def isRdn (w : CtxFields) : Bool := CtxOps.rm w == .rdn

def execFadd (x : ElemSite) (w : CtxFields) (s : State) : Out State :=
  s.floatOp x 0x10 w false fun a b _ => XVal.sumExact (isRdn w) [a, b]
def execFsub (x : ElemSite) (w : CtxFields) (s : State) : Out State :=
  s.floatOp x 0x11 w false fun a b _ => XVal.sumExact (isRdn w) [a, b.neg]
def execFmul (x : ElemSite) (w : CtxFields) (s : State) : Out State :=
  s.floatOp x 0x12 w false fun a b _ => a.mul b
def execFma (x : ElemSite) (w : CtxFields) (s : State) : Out State :=
  s.floatOp x 0x13 w true fun a b c => XVal.sumExact (isRdn w) [a.mul b, c]

/-- A float instruction that chooses or edits codes, lane by lane, without flags. -/
def State.codeOp (s : State) (x : ElemSite) (op : Nat) (w : CtxFields) (f : Fmt → Nat → Nat → Nat) : Out State :=
  let g := fmtF w.fmt
  s.laneOp x op w 1 (ones3 (oneF g)) fun a b _ l =>
    (plainWord g.width (256 / g.width) l fun j => (f g (lane g.width a.bits j) (lane g.width b.bits j), 0)).with a

/-- The order of fmin and fmax: −0 ranks below +0 (R118). -/
def rankCmp (a b : XVal) : Int :=
  let c := XVal.cmp a b
  if c = 0 && a.isZero && b.isZero then (if a.sign == b.sign then 0 else if a.sign then -1 else 1) else c

def minCode (g : Fmt) (a b : Nat) : Nat :=
  let p := g.exact a
  let q := g.exact b
  if p.isNan || q.isNan then g.nanCode else if 0 < rankCmp p q then b else a
def maxCodeOf (g : Fmt) (a b : Nat) : Nat :=
  let p := g.exact a
  let q := g.exact b
  if p.isNan || q.isNan then g.nanCode else if rankCmp p q < 0 then b else a
def absCode (g : Fmt) (a : Nat) : Nat := if (g.exact a).isNan then g.nanCode else a % 2 ^ (g.width - 1)
def negCode (g : Fmt) (a : Nat) : Nat := if (g.exact a).isNan then g.nanCode else a ^^^ 2 ^ (g.width - 1)

def execFmin (x : ElemSite) (w : CtxFields) (s : State) : Out State := s.codeOp x 0x14 w minCode
def execFmax (x : ElemSite) (w : CtxFields) (s : State) : Out State := s.codeOp x 0x15 w maxCodeOf
def execFabs (x : ElemSite) (w : CtxFields) (s : State) : Out State := s.codeOp x 0x16 w fun g a _ => absCode g a
def execFneg (x : ElemSite) (w : CtxFields) (s : State) : Out State := s.codeOp x 0x17 w fun g a _ => negCode g a

/-- The conditions of fcmp (R119). -/
def floatCond (cond : Nat) (a b : XVal) : Bool :=
  let un := a.isNan || b.isNan
  let c := XVal.cmp a b
  match cond with
  | 0 => !un && decide (c = 0)
  | 1 => un || decide (c ≠ 0)
  | 2 => !un && decide (c < 0)
  | 3 => !un && decide (c ≤ 0)
  | 4 => !un && decide (0 < c)
  | 5 => !un && decide (0 ≤ c)
  | 6 => un
  | _ => !un

def execFcmp (x : ElemSite) (w : CtxFields) (s : State) : Out State :=
  s.codeOp x 0x18 w fun g a b => if floatCond (CtxOps.xa w) (g.exact a) (g.exact b) then 2 ^ g.width - 1 else 0

/-! ### Seeds and functions (R120 to R123) -/

/-- An instruction of one operand, lane by lane. -/
def State.unaryOp (s : State) (x : ElemSite) (op : Nat) (w : CtxFields) (lat : Nat) (g : Fmt) (f : XVal → Nat × BitVec 8) : Out State :=
  s.laneOp x op w lat (ones3 (oneF g)) fun a _ _ l =>
    (plainWord g.width (256 / g.width) l fun j => f (g.exact (lane g.width a.bits j))).with a

/-- A seed with its flags (R120). -/
def seedLane (sat : Bool) (x : XVal) (r : Rounded) : Nat × BitVec 8 :=
  let (c, fs) := fp32.saturate sat r.code
  (c, flagIf ((fp32.exact r.code).isNan && !x.isNan) fNV ||| flagIf r.of fOF ||| fs)

def execRcps (x : ElemSite) (w : CtxFields) (s : State) : Out State :=
  s.unaryOp x 0x20 w 4 fp32 fun v => seedLane (CtxOps.sat w) v (rcpsLane v)
def execRsqs (x : ElemSite) (w : CtxFields) (s : State) : Out State :=
  s.unaryOp x 0x21 w 4 fp32 fun v => seedLane (CtxOps.sat w) v (rsqsLane v)

/-- exp2 (R121). -/
def execExp2 (x : ElemSite) (w : CtxFields) (s : State) : Out State :=
  let g := fmtF w.fmt
  s.unaryOp x 0x22 w 6 g fun v =>
    let r := g.exp2 v
    let (c, fs) := g.saturate (CtxOps.sat w) r.code
    (c, flagIf r.of fOF ||| fs)

/-- act (R122): it sets neither OF nor NV. -/
def execAct (x : ElemSite) (w : CtxFields) (s : State) : Out State :=
  let g := fmtF w.fmt
  s.unaryOp x 0x23 w 6 g fun v =>
    let y := if v.isNan then XVal.nan else actValue (CtxOps.xa w) v
    g.saturate (CtxOps.sat w) (g.rne y)

/-- dact (R123). -/
def execDact (x : ElemSite) (w : CtxFields) (s : State) : Out State :=
  let g := fmtF w.fmt
  s.laneOp x 0x24 w 6 (ones3 (oneF g)) fun a b _ l =>
    (lanesWord g.width (256 / g.width) l fun j l =>
      let y := g.exact (lane g.width a.bits j)
      let d := g.exact (lane g.width b.bits j)
      g.deliver .rne (CtxOps.sat w) l (d.mul (dactFactor (CtxOps.xa w) y)) (y.isNan || d.isNan)).with a

/-! ### Conversions (R124 to R127) -/

/-- The value of a source lane of cvt by its lane-format code, and the flags of reading it. -/
def cvtSource (lf : Nat) (c : Nat) : XVal × BitVec 8 :=
  match lf with
  | 0 => (fp32.exact c, 0)
  | 1 => (bf16.exact c, 0)
  | 2 => (fp16.exact c, 0)
  | 3 => (e4m3.exact c, 0)
  | 4 => (e5m2.exact c, 0)
  | 5 => (e2m1.exact c, 0)
  | 10 => (e3m5.exact c, flagIf (c == 0xFF) fSCL)
  | k => (XVal.ofInt (signedOf (widthLf k) c) 0, 0)

/-- A finite value rounded to an integer by a mode, with the generator after its draw (R124). -/
def roundInt (mode : RMode) (l : W32) (neg : Bool) (m : Nat) (e : Int) : Int × W32 :=
  if 0 ≤ e then (XVal.scaled neg m e 0, l)
  else
    let d := 2 ^ (-e).toNat
    let k := m / d
    let r := m % d
    let (up, l') := if r = 0 then (false, l) else roundUp mode neg k r d l
    let q : Int := if up then k + 1 else k
    (if neg then -q else q, l')

/-- A lane of cvt to an integer of w bits: NaN gives 0 and SAT, and what does not fit clamps. -/
def cvtInt (w : Nat) (mode : RMode) (l : W32) (v : XVal) : LaneOut :=
  match v with
  | .nan => ⟨0, fSAT, l⟩
  | .inf n => ⟨if n then 2 ^ (w - 1) else 2 ^ (w - 1) - 1, fSAT, l⟩
  | .fin n m e =>
    let (q, l') := roundInt mode l n m e
    ⟨wrapInt w (clampInt w q).1, flagIf (clampInt w q).2 fSAT, l'⟩

/-- The destination format of cvt: a float format, or an integer width. -/
def cvtDest (c : BitVec 3) : Fmt ⊕ Nat :=
  match c.toNat with
  | 0 => .inl fp32
  | 1 => .inl bf16
  | 2 => .inl fp16
  | 3 => .inl e4m3
  | 4 => .inl e5m2
  | 5 => .inr 32
  | 6 => .inr 16
  | _ => .inr 8

/-- Width of a destination of cvt. -/
def cvtWidth (c : BitVec 3) : Nat := match cvtDest c with | .inl f => f.width | .inr n => n

/-- One converted lane of cvt. -/
def cvtLane (w : CtxFields) (l : W32) (c : Nat) : LaneOut :=
  let (v, fl) := cvtSource (CtxOps.xa w % 16) c
  let r := match cvtDest w.fmt with
    | .inl f => f.deliver (CtxOps.rm w) (CtxOps.sat w) l v v.isNan
    | .inr n => cvtInt n (CtxOps.rm w) l v
  { r with fl := r.fl ||| fl }

/-- The unit of a source format by its lane-format code. -/
def oneLf (lf : Nat) : W256 :=
  match lf with
  | 0 => oneF fp32
  | 1 => oneF bf16
  | 2 => oneF fp16
  | 3 => oneF e4m3
  | 4 => oneF e5m2
  | 5 => oneF e2m1
  | 10 => oneF e3m5
  | k => oneI (widthLf k)

/-- The unit of a destination of cvt. -/
def oneCvt (c : BitVec 3) : W256 := match cvtDest c with | .inl f => oneF f | .inr n => oneI n

/-- cvt (R124): destination lanes that it does not convert come from B. -/
def execCvt (x : ElemSite) (w : CtxFields) (s : State) : Out State :=
  let ws := widthLf (CtxOps.xa w % 16)
  let wd := cvtWidth w.fmt
  let ns := 256 / ws
  let nd := 256 / wd
  let k := min ns nd
  let pt := CtxOps.ix w
  s.laneOp x 0x30 w 2 (oneLf (CtxOps.xa w % 16), oneCvt w.fmt, 0) fun a b _ l =>
    (lanesWord wd nd l fun o l =>
      if k < nd then
        if k * pt ≤ o ∧ o < k * pt + k then cvtLane w l (lane ws a.bits (o - k * pt)) else ⟨lane wd b.bits o, 0, l⟩
      else cvtLane w l (lane ws a.bits (if k < ns then o + k * pt else o))).with a

/-- Digit i of the non-adjacent form of v (R125). -/
def nafDigit : Nat → Int → Int
  | 0, v => if v % 2 = 0 then 0 else 2 - v % 4
  | i + 1, v => nafDigit i ((v - (if v % 2 = 0 then 0 else 2 - v % 4)) / 2)

/-- The code of a digit (R50). -/
def digitCode (d : Int) : Nat := if d = 0 then 0 else if d = 1 then 1 else 3

/-- The value of a digit code: the reserved code counts as 0 (R50, R53). -/
def digitVal (c : Nat) : Int := if c = 1 then 1 else if c = 3 then -1 else 0

/-- Digit k of a value in direct form (R52, R125). -/
def directDigit (n k : Nat) (v : Int) : Int :=
  let b := wrapInt n v / 2 ^ k % 2
  if k = n - 1 then -(b : Int) else b

/-- sdenc (R125). -/
def execSdenc (x : ElemSite) (w : CtxFields) (s : State) : Out State :=
  let n := if w.fmt = 0 then 8 else 4
  let h := CtxOps.ix w % 4
  let k := CtxOps.xa w % 8
  let naf := decide (CtxOps.xa w / 8 = 1)
  let first := decide (k + CtxOps.sb w % 16 = n)
  s.laneOp x 0x31 w 2 (ones3 (oneI 8)) fun a b _ l =>
    let o := plainWord 2 128 l fun j =>
      if 32 * h ≤ j ∧ j < 32 * h + 32 then
        let v := signedOf 8 (lane 8 a.bits (j - 32 * h))
        let (v, cl) := if n = 4 then clampInt 4 v else (v, false)
        (digitCode (if naf then nafDigit k v else directDigit n k v), flagIf cl fSAT)
      else (lane 2 b.bits j, 0)
    ⟨o, first && a.lr, first && a.ls⟩

/-- sddec (R126). -/
def execSddec (x : ElemSite) (w : CtxFields) (s : State) : Out State :=
  let h := CtxOps.ix w
  let k := CtxOps.xa w % 8
  s.laneOp x 0x32 w 2 (ones3 (oneI 16)) fun a b _ l =>
    (plainWord 16 16 l fun j =>
      let c := lane 2 a.bits (16 * h + j)
      let (v, cl) := clampInt 16 (signedOf 16 (lane 16 b.bits j) + digitVal c * (2 ^ k : Nat))
      (wrapInt 16 v, flagIf (c == 2) fDIG ||| flagIf cl fSAT)).with a

/-- The block scale of qnt (R127): the largest magnitude over 6, rounded up. Anything beyond 31, an infinity too, gives 31 and sets
OF. -/
def qntScale (a : W256) : Rounded :=
  let m := (List.range 8).foldl (fun m j => xmax m (fp32.exact (lane 32 a j)).abs) XVal.pzero
  let r := e3m5.roundDiv .rup 0 m (XVal.fin false 6 0)
  match m with
  | .inf _ => { r with of := true }
  | _ => r

/-- A code lane of qnt (R127). -/
def qntLane (mode : RMode) (l : W32) (sc x : XVal) : LaneOut :=
  if x.isNan || sc.isNan then ⟨0, 0, l⟩
  else if sc.isZero then ⟨e2m1.signCode x.sign, 0, l⟩
  else
    let r := e2m1.roundDiv mode l x sc
    ⟨r.code, flagIf r.of fOF, r.lfsr⟩

/-- qnt (R127). -/
def execQnt (x : ElemSite) (w : CtxFields) (s : State) : Out State :=
  let h := CtxOps.ix w
  if CtxOps.xa w % 2 = 0 then
    s.laneOp x 0x33 w 2 (oneF fp32, oneF e3m5, oneF e3m5) fun a b _ l =>
      let r := qntScale a.bits
      (plainWord 8 32 l fun j => if j = h then (r.code, flagIf r.of fOF) else (lane 8 b.bits j, 0)).with a
  else
    s.laneOp x 0x33 w 2 (oneF fp32, oneF e2m1, oneF e3m5) fun a b c l =>
      let sc := e3m5.exact (lane 8 c.bits h)
      (lanesWord 4 64 l fun j l =>
        if 8 * h ≤ j ∧ j < 8 * h + 8 then
          let r := qntLane (CtxOps.rm w) l sc (fp32.exact (lane 32 a.bits (j - 8 * h)))
          { r with fl := r.fl ||| flagIf sc.isNan fSCL }
        else ⟨lane 4 b.bits j, 0, l⟩).with a

/-! ### Routes and reductions (R128 to R135) -/

/-- nop (R128). -/
def execElemNop (x : ElemSite) (w : CtxFields) (s : State) : Out State := s.issueCtx x 0x00 w id

/-- mov (R109, R129) on either plane. -/
def execMov (x : ElemSite) (w : CtxFields) (s : State) : Out State :=
  if CtxOps.ctl w then s.ctlOp x 0x40 w 1 fun a _ _ => (a, 0)
  else s.laneOp x 0x40 w 1 (ones3 (oneI 32)) fun a _ _ l => (WordOut.mk a.bits 0 l).with a

/-- rep (R130): the low w bits of the control scalar in every lane. -/
def execRep (x : ElemSite) (w : CtxFields) (s : State) : Out State :=
  let wd := widthLf (CtxOps.xa w % 16)
  s.laneOp x 0x41 w 1 (ones3 0) fun a _ _ l => ⟨⟨splat wd (a.bits.toNat % 2 ^ wd), 0, l⟩, false, false⟩

/-- perm (R131). -/
def execPerm (x : ElemSite) (w : CtxFields) (s : State) : Out State :=
  let v := ((s.siteElem x).on.imt[CtxOps.ix w]?).getD 0
  s.laneOp x 0x42 w 1 (ones3 (oneI 32)) fun a b _ l =>
    (plainWord 8 32 l fun i =>
      let k := lane 8 v i
      (if 128 ≤ k then 0 else if k % 64 < 32 then lane 8 a.bits (k % 64) else lane 8 b.bits (k % 64 - 32), 0)).with a

/-- The lane width of pack and unpk (R132). -/
def widthP (c : BitVec 3) : Nat :=
  match c.toNat with
  | 0 => 32
  | 1 => 16
  | 2 => 8
  | 3 => 4
  | _ => 2

/-- pack (R132). -/
def execPack (x : ElemSite) (w : CtxFields) (s : State) : Out State :=
  let wd := widthP w.fmt
  let n := 256 / wd
  let m := CtxOps.xa w % 2
  s.laneOp x 0x43 w 1 (ones3 (oneI wd)) fun a b _ l =>
    (plainWord wd n l fun i => (if i < n / 2 then lane wd a.bits (2 * i + m) else lane wd b.bits (2 * (i - n / 2) + m), 0)).with a

/-- unpk (R132). -/
def execUnpk (x : ElemSite) (w : CtxFields) (s : State) : Out State :=
  let wd := widthP w.fmt
  let n := 256 / wd
  let m := CtxOps.xa w % 2
  s.laneOp x 0x44 w 1 (ones3 (oneI wd)) fun a b _ l =>
    (plainWord wd n l fun i =>
      let k := m * (n / 2) + i / 2
      (if i % 2 = 0 then lane wd a.bits k else lane wd b.bits k, 0)).with a

/-- A step of the lsum tree on FP32 with its flags (R117, R133). -/
def sumStep (p q : Nat × BitVec 8) : Nat × BitVec 8 :=
  let a := fp32.exact p.1
  let b := fp32.exact q.1
  let o := fp32.deliver .rne false 0 (XVal.sumExact false [a, b]) (a.isNan || b.isNan)
  (o.v, p.2 ||| q.2 ||| o.fl)

/-- A step of the lsum tree on INT32 (R133). -/
def sumStepInt (p q : Nat × BitVec 8) : Nat × BitVec 8 :=
  let (v, cl) := clampInt 32 (signedOf 32 p.1 + signedOf 32 q.1)
  (wrapInt 32 v, p.2 ||| q.2 ||| flagIf cl fSAT)

/-- The fixed tree of lsum. -/
def sumTree (f : Nat × BitVec 8 → Nat × BitVec 8 → Nat × BitVec 8) (a : Nat → Nat) : Nat × BitVec 8 :=
  f (f (f (a 0, 0) (a 1, 0)) (f (a 2, 0) (a 3, 0))) (f (f (a 4, 0) (a 5, 0)) (f (a 6, 0) (a 7, 0)))

/-- The unit of a class E format .f32 or .i32. -/
def oneE (c : BitVec 3) : W256 := if c = 0 then oneF fp32 else oneI 32

/-- lsum (R133): latency 5 on .f32, 2 on .i32. -/
def execLsum (x : ElemSite) (w : CtxFields) (s : State) : Out State :=
  s.laneOp x 0x45 w (if w.fmt = 0 then 5 else 2) (ones3 (oneE w.fmt)) fun a _ _ l =>
    let r := sumTree (if w.fmt = 0 then sumStep else sumStepInt) (lane 32 a.bits)
    (WordOut.mk (BitVec.ofNat 256 r.1) r.2 l).with a

/-- lmax (R134): +0 ranks above −0. -/
def execLmax (x : ElemSite) (w : CtxFields) (s : State) : Out State :=
  s.laneOp x 0x46 w 2 (ones3 (oneE w.fmt)) fun a _ _ l =>
    let step (m c : Nat) : Nat :=
      if w.fmt = 0 then maxCodeOf fp32 m c else if signedOf 32 m < signedOf 32 c then c else m
    let r := (List.range 7).foldl (fun m j => step m (lane 32 a.bits (j + 1))) (lane 32 a.bits 0)
    (WordOut.mk (BitVec.ofNat 256 (if w.fmt = 0 then maxCodeOf fp32 r r else r)) 0 l).with a

/-- tap (R135). -/
def execTap (x : ElemSite) (w : CtxFields) (s : State) : Out State :=
  let wd := widthI w.fmt
  s.laneOp x 0x47 w 1 (ones3 (oneI wd)) fun a _ _ l => (WordOut.mk (splat wd (lane wd a.bits (CtxOps.xa w))) 0 l).with a

/-- put (R135): the sidebands of B. -/
def execPut (x : ElemSite) (w : CtxFields) (s : State) : Out State :=
  let wd := widthI w.fmt
  s.laneOp x 0x48 w 1 (ones3 (oneI wd)) fun a b _ l =>
    (plainWord wd (256 / wd) l fun j => (if j = CtxOps.xa w then lane wd a.bits 0 else lane wd b.bits j, 0)).with b

end Sys2Proof.Machine
end

