-- ==== Sys2Proof/Machine/Contract.lean ====
section
/-! DEFINITION. The contraction instructions of an element: what is read at issue; the acts on accumulators, BP and stationary
blocks follow at landing (R54 to R58, R136 to R157). -/
namespace Sys2Proof.Machine

/-! ### Chunk sums (R54) -/

/-- A rounded FP32 chunk: its code, whether it is NaN from no NaN operand, and whether the rounding overflowed. -/
structure Chunk where
  code : W32
  fresh : Bool
  of : Bool
  deriving DecidableEq, Repr, Inhabited

/-- The chunk of an exact value (R55): `anyNan` tells whether an operand was NaN. -/
def chunkOf (v : XVal) (anyNan : Bool) : Chunk :=
  let r := fp32.round .rne 0 v
  ⟨BitVec.ofNat 32 r.code, v.isNan && !anyNan, r.of⟩

/-- The triple products of a chunk: their exact sum and whether an operand is NaN. -/
def tripleSum (ps : List (XVal × XVal × XVal)) : XVal × Bool :=
  (XVal.sumExact false (ps.map fun p => (p.1.mul p.2.1).mul p.2.2),
   ps.any fun p => p.1.isNan || p.2.1.isNan || p.2.2.isNan)

/-- An operand lane after its negate modifier (R49). -/
def laneX (g : Fmt) (neg : Bool) (b : W256) (j : Nat) : XVal := (g.exact (lane g.width b j)).negIf neg

/-- Accumulating acts from chunks: codes, freshness and the OF of their roundings. -/
def chunkFlags (cs : List Chunk) : BitVec 8 := flagIf (cs.any (·.of)) fOF

/-- The accumulator a DW code 18 to 21 names. -/
def accOf (w : CtxFields) : Fin 4 := ix4 (BitVec.ofNat 2 (w.dw.toNat - 18))

/-- A contraction into an FP32 accumulator: no act when an operand is a bubble (R76, R141). -/
def State.accumulate (t : State) (x : ElemSite) (w : CtxFields) (bubble : Bool) (cs : List Chunk) (fl : BitVec 8) : State :=
  if bubble then t
  else t.launchResult x 4 (.accumF (accOf w) (CtxOps.za w) (cs.map (·.code)) (cs.map (·.fresh)) (fl ||| chunkFlags cs))

/-- The terms of lane n of trix (R142). -/
def trixTerms (w : CtxFields) (g : Fmt) (a : W256) (y : W256) (z : W256) (ks : List Nat) : List (XVal × XVal × XVal) :=
  ks.map fun k => (laneX g (CtxOps.nx w) a k, laneX g (CtxOps.ny w) y k, laneX g (CtxOps.nz w) z k)

/-- trix (R142). -/
def execTrix (x : ElemSite) (w : CtxFields) (s : State) : Out State :=
  let g := fmtF w.fmt
  let blk := (s.siteRegion x).block w
  s.issueCtx x 0x50 w fun t =>
    let a := s.source x w (oneF g) w.srcA
    let z := s.source x w (oneF g) w.srcC
    let cs := (List.range 8).map fun n =>
      let p := tripleSum (trixTerms w g a.bits (s.blockWord x blk n) z.bits (List.range (256 / g.width)))
      chunkOf p.1 p.2
    t.accumulate x w (a.k || z.k) cs 0

/-- trixb (R56, R145): every block partial is exact. -/
def execTrixb (x : ElemSite) (w : CtxFields) (s : State) : Out State :=
  let blk := (s.siteRegion x).block w
  s.issueCtx x 0x51 w fun t =>
    let a := s.source x w (oneF e2m1) w.srcA
    let z := s.source x w (oneF e2m1) w.srcC
    let v : Vector W32 64 := Vector.ofFn fun i : Fin 64 =>
      let ks := (List.range 8).map (8 * (i.val / 8) + ·)
      BitVec.ofNat 32 (fp32.rne (tripleSum (trixTerms w e2m1 a.bits (s.blockWord x blk (i.val % 8)) z.bits ks)).1)
    if a.k || z.k then t else t.launchResult x 4 (.overBp v)

/-- A weight of trixi's group (R149). -/
def State.groupByte (s : State) (x : ElemSite) (grp k n : Nat) : Int :=
  (s.byteAt ((s.blockPlace x (8 * grp + k / 16)).plus (16 * (k % 16) + n))).toInt

/-- A digit plane carries the reserved code (R53). -/
def digitBad (b : W256) : Bool := (List.range 128).any fun k => lane 2 b k == 2

/-- The chunk of output lane n of trixi (R148). -/
def State.trixiChunk (s : State) (x : ElemSite) (w : CtxFields) (grp : Nat) (a z : W256) (n : Nat) : Int :=
  let sg (b : Bool) (v : Int) : Int := if b then -v else v
  let sum := (List.range 128).foldl (fun acc k =>
    acc + sg (CtxOps.nx w) (digitVal (lane 2 a k)) * sg (CtxOps.ny w) (s.groupByte x grp k n)
      * sg (CtxOps.nz w) (digitVal (lane 2 z k))) 0
  sum * (2 ^ (CtxOps.xa w % 8 + CtxOps.ix w) : Nat)

/-- trixi (R148, R149). -/
def execTrixi (x : ElemSite) (w : CtxFields) (s : State) : Out State :=
  let grp := (s.siteRegion x).block w / 8
  s.issueCtx x 0x52 w fun t =>
    let a := s.source x w (oneI 2) w.srcA
    let z := s.source x w (oneI 2) w.srcC
    let cs := (List.range 16).map fun n => s.trixiChunk x w grp a.bits z.bits n
    if a.k || z.k then t
    else t.launchResult x 4 (.accumI (accOf w) (CtxOps.za w) cs (flagIf (digitBad a.bits || digitBad z.bits) fDIG))

/-- trixg (R150): tokens of eight indices each. -/
def execTrixg (x : ElemSite) (w : CtxFields) (s : State) : Out State :=
  let g := fmtF w.fmt
  let blk := (s.siteRegion x).block w
  s.issueCtx x 0x53 w fun t =>
    let a := s.source x w (oneF g) w.srcA
    let b := s.source x w (oneF g) w.srcB
    let z := s.source x w (oneF g) w.srcC
    let cs := (List.range 64).map fun i =>
      let p := tripleSum ((List.range (32 / g.width)).map fun k =>
        (laneX g (CtxOps.nx w) a.bits (8 * k + i / 8), laneX g (CtxOps.ny w) b.bits (8 * k + i % 8),
         laneX g (CtxOps.nz w) z.bits (8 * k + i / 8)))
      chunkOf p.1 p.2
    if a.k || b.k || z.k then t
    else t.launchResult x 4 (.accumG blk (CtxOps.za w) (cs.map (·.code)) (cs.map (·.fresh)) (chunkFlags cs))

/-! ### Compressed words (R151) -/

/-- The kept positions of group g, the two lowest bits of its mask, with the rank of each: dense lane and kept lane. -/
def keptOf (a : W256) (g : Nat) : List (Nat × Nat) :=
  let m := a.toNat / 2 ^ (128 + 4 * g) % 16
  let ps := ((List.range 4).filter fun i => m / 2 ^ i % 2 == 1).take 2
  ps.zipIdx.map fun p => (4 * g + p.1, 2 * g + p.2)

/-- All kept positions of a compressed word. -/
def keptAll (wd : Nat) (a : W256) : List (Nat × Nat) := (List.range (256 / wd / 4)).flatMap (keptOf a)

/-- sptrix (R154): only kept positions make terms. -/
def execSptrix (x : ElemSite) (w : CtxFields) (s : State) : Out State :=
  let g := fmtF w.fmt
  let blk := (s.siteRegion x).block w
  s.issueCtx x 0x54 w fun t =>
    let a := s.source x w 0 w.srcA
    let z := s.source x w (oneF g) w.srcC
    let kept := keptAll g.width a.bits
    let cs := (List.range 8).map fun n =>
      let y := s.blockWord x blk n
      let p := tripleSum (kept.map fun k =>
        (laneX g (CtxOps.nx w) a.bits k.2, laneX g (CtxOps.ny w) y k.1, laneX g (CtxOps.nz w) z.bits k.1))
      chunkOf p.1 p.2
    t.accumulate x w (a.k || z.k) cs 0

/-- The scaled sum of output lane n of scac (R57): the value, whether an operand is NaN, and whether a scale is 0xFF. -/
def scacLane (sx : Nat → Nat) (sy : Nat → Nat → Nat) (bp : Vector W32 64) (band : Nat) (n : Nat) : XVal × Bool × Bool :=
  let terms := (List.range 8).map fun b =>
    (e3m5.exact (sx b), e3m5.exact (sy b n), fp32.exact ((bp[8 * b + n]?).getD 0).toNat)
  let v := XVal.sumExact false (XVal.pzero :: terms.map fun p => (p.1.mul p.2.1).mul p.2.2)
  let bv := bf16.exact band
  (bv.mul v, bv.isNan || terms.any (fun p => p.1.isNan || p.2.1.isNan || p.2.2.isNan),
   terms.any fun p => p.1.isNan || p.2.1.isNan)

/-- scac (R57, R146). -/
def execScac (x : ElemSite) (w : CtxFields) (s : State) : Out State :=
  let blk := (s.siteRegion x).block w
  let h := CtxOps.ix w % 4
  let q := CtxOps.xa w % 4
  s.issueCtx x 0x55 w fun t =>
    let a := s.source x w (oneF e3m5) w.srcA
    let z := s.source x w (oneF bf16) w.srcC
    let sy (b n : Nat) : Nat := (s.byteAt ((s.blockPlace x blk).plus (64 * q + 8 * b + n))).toNat
    let rs := (List.range 8).map fun n => scacLane (fun b => lane 8 a.bits (8 * h + b)) sy (s.siteElem x).bp (lane 16 z.bits n) n
    t.accumulate x w (a.k || z.k) (rs.map fun r => chunkOf r.1 r.2.1) (flagIf (rs.any fun r => r.2.2) fSCL)

/-- accz (R155). -/
def execAccz (x : ElemSite) (w : CtxFields) (s : State) : Out State :=
  s.issueCtx x 0x56 w fun t => t.launchResult x 4 (if w.dw == 27 then .clearBp else .clearAcc (accOf w))

/-- drn (R156): the accumulator is read at landing. -/
def execDrn (x : ElemSite) (w : CtxFields) (s : State) : Out State :=
  let m := CtxOps.xa w
  s.issueCtx x 0x57 w fun t =>
    t.launchResult x 2 (.drain (ix4 (CtxOps.ai w)) w.fmt (CtxOps.sat w) (m.testBit 0) (m.testBit 1) (m.testBit 2) (s.dest x w))

/-- The peer binding at an index (R322). -/
def State.peerAt (s : State) (c : CpId) (pb : BitVec 3) : Option PeerBind := (s.slot c).peers.get (ix8 pb)

/-- A drain to a peer takes a credit of its stream when it issues (R321). -/
def State.takeTileCredit (s : State) (c : CpId) (strm : BitVec 2) : State :=
  s.modSlot c fun t => { t with tilesOut := vmod t.tilesOut (ix4 strm) (· + 1) }

/-- drna (R157): the binding is taken at issue; without one the region's decision has stopped it. -/
def execDrna (x : ElemSite) (w : CtxFields) (s : State) : Out State :=
  let pb := BitVec.ofNat 3 (CtxOps.xa w)
  let strm := BitVec.ofNat 2 (CtxOps.xa w / 8)
  s.issueCtx x 0x58 w fun t =>
    match s.peerAt x.cp pb with
    | none => t
    | some b =>
      (t.launchResult x 2 (.drainPeer (ix4 (CtxOps.ai w)) (w.fmt != 0) (decide (CtxOps.ix w % 2 = 1)) pb strm b.desc b.seq false
        x.idx)).takeTileCredit x.cp strm

/-! ### cmpr and spx (R152, R153) -/

/-- The rank of a lane of cmpr: a NaN above every number, else by magnitude. -/
def ranksAbove (a b : XVal) : Bool :=
  if a.isNan then !b.isNan else if b.isNan then false else decide (0 < XVal.cmp a.abs b.abs)

/-- The positions of the two highest ranks of a group, increasing; between equal ranks the lower ranks higher. -/
def topTwo (v : Nat → XVal) : Nat × Nat :=
  let best (no : Option Nat) : Nat :=
    (List.range 4).foldl (fun m i => if no == some i then m else if no == some m || ranksAbove (v i) (v m) then i else m)
      (if no == some 0 then 1 else 0)
  let p := best none
  let q := best (some p)
  (min p q, max p q)

/-- The kept lanes of group g of a dense word, and the group's mask. -/
def cmprGroup (g : Fmt) (a : W256) (grp : Nat) : List Nat × Nat :=
  let code (i : Nat) : Nat := lane g.width a (4 * grp + i)
  let p := topTwo fun i => g.exact (code i)
  let canon (c : Nat) : Nat := if (g.exact c).isNan then g.nanCode else c
  ([canon (code p.1), canon (code p.2)], 2 ^ p.1 + 2 ^ p.2)

/-- cmpr (R152). -/
def execCmpr (x : ElemSite) (w : CtxFields) (s : State) : Out State :=
  let g := fmtF w.fmt
  s.laneOp x 0x59 w 2 (ones3 (oneF g)) fun a _ _ l =>
    let gs := (List.range (256 / g.width / 4)).map (cmprGroup g a.bits)
    let low := packNat g.width (gs.flatMap Prod.fst)
    let high := packNat 4 (gs.map Prod.snd)
    (WordOut.mk (BitVec.ofNat 256 (low + 2 ^ 128 * high)) 0 l).with a

/-- spx (R153). -/
def execSpx (x : ElemSite) (w : CtxFields) (s : State) : Out State :=
  let g := fmtF w.fmt
  s.laneOp x 0x5A w 1 (ones3 0) fun a _ _ l =>
    let kept := keptAll g.width a.bits
    (plainWord g.width (256 / g.width) l fun j =>
      (match kept.find? fun k => k.1 == j with
        | some k => lane g.width a.bits k.2
        | none => 0, 0)).with a

/-! ### Laying weights (R143, R144) -/

/-- wld (R143). -/
def execWld (x : ElemSite) (w : CtxFields) (s : State) : Out State :=
  let blk := (s.siteRegion x).block w
  s.issueCtx x 0x5B w fun t =>
    let a := s.source x w (oneI 32) w.srcA
    if a.k then t else t.launchResult x 1 (.statWord blk (CtxOps.xa w % 8) a.bits)

/-- The lane width of wldt (R144). -/
def widthT (c : BitVec 3) : Nat :=
  match c.toNat with
  | 1 => 16
  | 2 => 8
  | _ => 4

/-- wldt (R144). -/
def execWldt (x : ElemSite) (w : CtxFields) (s : State) : Out State :=
  let blk := (s.siteRegion x).block w
  s.issueCtx x 0x5C w fun t =>
    let a := s.source x w (oneI (widthT w.fmt)) w.srcA
    if a.k then t else t.launchResult x 1 (.statLanes blk (widthT w.fmt) (CtxOps.xa w % 8) a.bits)

end Sys2Proof.Machine
end

