-- ==== Sys2Proof/Machine/Operands.lean ====
section
/-! DEFINITION. The operands of the control processor: register reads and writes, the landing queue and its windows
(R160 to R168, R210, R211), immediates (R200), data addresses (R219), and what issuing an instruction counts (R415, R416). -/
namespace Sys2Proof.Machine

/-! ### Registers (R160) -/

/-- The register bank of the present mode. -/
def Cp.bank (p : Cp) : Vector Word 32 := if p.handler then p.bankH else p.bankT
/-- The landing queue of the present mode. -/
def Cp.queue (p : Cp) : List LandEntry := if p.handler then p.lqH else p.lqT
/-- The landing queue of the present mode becomes another. -/
def Cp.setQueue (p : Cp) (q : List LandEntry) : Cp := if p.handler then { p with lqH := q } else { p with lqT := q }
/-- A register of a bank: g0 reads zero (R160). -/
def bankReg (b : Vector Word 32) (r : Reg) : Word := if r = 0 then 0 else b.get (ix32 r)
/-- A bank with a register written: a write to g0 is discarded (R160). -/
def bankSet (b : Vector Word 32) (r : Reg) (v : Word) : Vector Word 32 := if r = 0 then b else vmod b (ix32 r) fun _ => v
/-- A register as the present mode reads it. -/
def Cp.reg (p : Cp) (r : Reg) : Word := bankReg p.bank r

/-- A register of the CP whose instruction executes. -/
def State.reg (s : State) (r : Reg) : Word := (s.cp s.cur).reg r
/-- The instruction's own address. -/
def State.pc (s : State) : Word := (s.cp s.cur).pc
/-- The partition of the task whose instruction executes. -/
def State.myPart (s : State) : BitVec 5 := (s.slot s.cur).part

/-- The ECC unit of a register bank with its landing queue in array 7 (R307): words 0 to 31 are the registers, 32 to 39 the entries. -/
def bankUnit (c : CpId) (handler : Bool) : Nat := 2 * c.slot.val + handler.toNat

/-- The lowest place of a landing queue that no entry holds. -/
def freePlace (q : List LandEntry) : Nat := ((List.range 8).find? fun n => q.all fun e => e.place != n).getD 8

/-- An entry of a landing queue is written into array 7 (R307, R309). -/
def State.writeEntry (s : State) (c : CpId) (handler : Bool) (place : Nat) : State :=
  s.writeArr c.core (s.slot c).part 7 (bankUnit c handler) (32 + place) 1

/-- An entry joins the landing queue of the present mode of the CP whose instruction executes. -/
def State.queueEntry (s : State) (e : LandEntry) : State :=
  let n := freePlace (s.cp s.cur).queue
  (s.newId.modCp s.cur fun p => p.setQueue (p.queue ++ [{ e with id := s.ids, place := n }])).writeEntry s.cur (s.cp s.cur).handler n

/-- A write of a register at the end of its issue cycle. An older entry for the register that lands at the same moment gives
way, because the later-issued result stands (R166). -/
def Cp.putReg (p : Cp) (r : Reg) (v : Word) : Cp :=
  let p1 := p.setQueue (p.queue.filter fun e => !(e.reg == r && e.rem == some 1))
  if p.handler then { p1 with bankH := bankSet p1.bankH r v } else { p1 with bankT := bankSet p1.bankT r v }

/-- A latency-1 result of the CP whose instruction executes (R210). -/
def State.putReg (s : State) (r : Reg) (v : Word) : State :=
  let c := s.cur
  (s.modCp c fun p => p.putReg r v).writeArr c.core (s.slot c).part 7 (bankUnit c (s.cp c).handler) r.toNat 1

/-- A result of latency L (R163, R164): an entry with its remaining distance. -/
def State.putLate (s : State) (r : Reg) (v : Word) (L : Nat) : State :=
  s.queueEntry { id := s.ids, place := 0, reg := r, kind := .fixed, rem := some L, value := v, far := none, ask := none, vaddr := 0, fpc := s.pc, since := s.ftime }

/-- An interlocked result whose value lands at the end of the L-th cycle from issue (R164, R220). -/
def State.putInterlocked (s : State) (r : Reg) (v : Word) (L : Nat) : State :=
  s.queueEntry { id := s.ids, place := 0, reg := r, kind := .interlocked, rem := some L, value := v, far := none, ask := none, vaddr := 0, fpc := s.pc, since := s.ftime }

/-- An interlocked result whose value has not arrived: a far access, or an answer that comes later (R164, R220, R232). -/
def State.putPending (s : State) (r : Reg) (far : Option (PAddr × FarOp)) (ask : Option Ask) (vaddr : Word) : State :=
  s.queueEntry { id := s.ids, place := 0, reg := r, kind := .interlocked, rem := none, value := 0, far := far, ask := ask, vaddr := vaddr, fpc := s.pc, since := s.ftime }

/-! ### Landing windows (R165, R167) -/

/-- What the landing queue says of an instruction's registers. -/
inductive Ready where
  | ok
  | wait
  | window
  deriving DecidableEq, Repr, Inhabited

/-- R165. An instruction whose register has a pending interlocked entry waits and has not issued (R306); one that issues in
check mode while a fixed-latency entry is pending traps WINDOW (entry 16). g0 is no exception (entry 10). -/
def Cp.ready (p : Cp) (regs : List Reg) : Ready :=
  let hit (k : LandKind) : Bool := p.queue.any fun e => e.kind == k && regs.contains e.reg
  if hit .interlocked then .wait
  else if p.check && hit .fixed then .window else .ok

/-- The landing queue has room for an entry (R167). -/
def Cp.room (p : Cp) : Bool := decide (p.queue.length < 8)

/-! ### Profile counters and rushes (R415, R416) -/

/-- The profile counters that an event code selects grow (R416). -/
def Cp.count (p : Cp) (ev n : Nat) : Cp :=
  { p with pmc := Vector.ofFn fun i : Fin 4 =>
      let v := p.pmc.get i
      if p.profctl.getLsbD (32 + i.val) && (p.profctl.toNat / 2 ^ (8 * i.val)) % 256 == ev
      then v + BitVec.ofNat 64 n else v }

/-- An issue is counted, and recorded in the rushes while DBGCTL.RUSH is 1 (R415, R416). It uses up a debugger's step (R414). -/
def State.issued (s : State) : State :=
  let c := s.cur
  let p := s.cp c
  let s1 := s.modCp c fun p => { p.count 1 1 with stepOne := false }
  if p.dbgctl.getLsbD 2 then
    s1.modCore c.core fun k =>
      { k with rushes := (p.iword ++ p.pc ++ (p.tcyc.setWidth 32) : BitVec 128) :: k.rushes.take 2047, rushcnt := k.rushcnt + 1 }
  else s1

/-! ### Ending an instruction -/

/-- The instruction has issued and the next one follows. -/
def State.advance (s : State) : State := s.issued.modCp s.cur fun p => { p with pc := p.pc + 4 }
/-- A taken branch or jump: the target, and the empty cycle before it (R218). -/
def State.jumpTo (s : State) (t : Word) : State := s.issued.modCp s.cur fun p => { p with pc := t, gap := true }
/-- The instruction asks a chiplet, another core or firmware, holds the CP until the answer is there, and has its effect then (R324, R374, R439). -/
def State.asks (s : State) (k : State → State) : State :=
  if (s.cp s.cur).asked then (k s).modCp s.cur fun p => { p with asked := false }
  else s.modCp s.cur fun p => { p with asked := true, answerDue := true }
/-- A trap that the answer carries (R374). -/
def State.trapAnswer (s : State) (cause : BitVec 8) (val : Word) : State := s.asks fun t => t.trapAt t.cur cause val
/-- Such a trap for which the spec names no TVAL. -/
def State.trapAnswerFree (s : State) (cause : BitVec 8) : State := s.asks fun t => t.trapFree t.cur cause
/-- A chiplet has done what the instruction asks (entry 4); the CP is held until its answer is there, which may go to a register (R374). -/
def State.answered (s : State) (x : Option (Reg × Word)) : State :=
  s.advance.modCp s.cur fun p => { p with asked := false, answerDue := true, answer := x }
/-- The answer is there: its register is written at the end of this cycle (R374). -/
def State.takeAnswer (s : State) : State :=
  let t := s.modCp s.cur fun p => { p with answerDue := false, answer := none }
  match (s.cp s.cur).answer with
  | some (x, v) => t.putReg x v
  | none => t
/-- The instruction waits at issue: nothing changes but the count of waits under R165 and R167 (R416). -/
def State.stall (s : State) : State := s.modCp s.cur fun p => p.count 4 1

/-- The registers an instruction reads are checked by their ECC: a corrected error is logged, and an uncorrectable one
leaves the register a free value, because the spec names no trap for it (R307, entry 17). -/
def State.scrub (s : State) (reads : List Reg) : State :=
  if s.ecc.isEmpty then s
  else reads.foldl (fun t r =>
    let c := t.cur
    let u := bankUnit c (t.cp c).handler
    match t.readArr c (t.slot c).part 7 u r.toNat 1 with
    | (t1, false) => t1
    | (t1, true) => t1.took.modCp c fun p =>
        if p.handler then { p with bankH := bankSet p.bankH r t1.freeWord } else { p with bankT := bankSet p.bankT r t1.freeWord }) s

/-- The frame of every CP instruction (R165, R167, R210): its registers are readable, a late result has a landing entry, and
then it has its effect `k`. -/
def State.issue (s : State) (reads writes : List Reg) (late : Bool) (k : State → State) : Out State :=
  match (s.cp s.cur).ready (reads ++ writes) with
  | .wait => .next s.stall
  | .window => .next (s.trapFree s.cur cWINDOW)
  | .ok => if late && !(s.cp s.cur).room then .next s.stall else .next (k (s.scrub reads))

/-- A privileged instruction: PROTECT in thread mode, before WINDOW (R208). -/
def State.privileged (s : State) (k : State → Out State) : Out State :=
  if (s.cp s.cur).handler then k s else .next (s.trapFree s.cur cPROTECT)

/-! ### The thread cycle (R164 to R168) -/

/-- One cycle of a landing queue over its bank: distances fall, and what reaches its end lands in order of issue. -/
def landCycle (b : Vector Word 32) : List LandEntry → Vector Word 32 × List LandEntry
  | [] => (b, [])
  | e :: t =>
    match e.rem with
    | some (n + 2) => let (b', t') := landCycle b t; (b', { e with rem := some (n + 1) } :: t')
    | some _ => landCycle (bankSet b e.reg e.value) t
    | none => let (b', t') := landCycle b t; (b', e :: t')

/-- An entry lands in the present cycle. -/
def LandEntry.lands (e : LandEntry) : Bool := match e.rem with | some (_ + 2) => false | some _ => true | none => false

/-- A queue holds an interlocked entry. -/
def anyInterlocked (q : List LandEntry) : Bool := q.any fun e => e.kind == .interlocked

/-- A cycle in which the present mode holds the CP: its landing distances fall. A thread cycle also counts in TCYC, and
CPEVT.LND is set when the queue comes to hold no interlocked entry (R164, R167, R234, R236). -/
def Cp.tick (p : Cp) : Cp :=
  if p.handler then
    let (b, q) := landCycle p.bankH p.lqH
    { p with bankH := b, lqH := q }
  else
    let (b, q) := landCycle p.bankT p.lqT
    let p1 := ({ p with bankT := b, lqT := q, tcyc := p.tcyc + 1 } : Cp).count 0 1
    if anyInterlocked p.lqT && !anyInterlocked q then p1.event evLND else p1

/-- An entry that lands is read from its word of array 7, where a corrected error is logged and an uncorrectable one makes its value free
(R307, entry 17), and written to its register. -/
def State.landEntry (s : State) (c : CpId) (handler : Bool) (e : LandEntry) : State :=
  let u := bankUnit c handler
  let (s1, bad) := s.readArr c (s.slot c).part 7 u (32 + e.place) 1
  let s2 := if bad then
      s1.took.modCp c fun p => p.setQueue (p.queue.map fun x => if x.place == e.place then { x with value := s1.freeWord } else x)
    else s1
  s2.writeArr c.core (s.slot c).part 7 u e.reg.toNat 1

/-- The end of a slot's CP cycle: a cycle that belongs to neither mode is used up (R230, R295, R303), or the mode's cycle
ticks. A CP that is stopped, halted or waiting for a fetch has no cycle (R168, R446). -/
def State.finishCp (s : State) (c : CpId) : State :=
  let p := s.cp c
  if p.untimed != 0 then s.modCp c fun p => { p with untimed := p.untimed - 1 }
  else match p.run with
  | .running | .retiring _ =>
    ((p.queue.filter LandEntry.lands).foldl (fun t e => t.landEntry c p.handler e) s).modCp c Cp.tick
  | _ => s

/-! ### Immediates and addresses (R200, R219) -/

/-- A sign-extended constant. -/
def sx {n : Nat} (i : BitVec n) : Word := i.signExtend 64

/-- Bytes of an access size (R204). -/
def sizeOf : BitVec 3 → Nat
  | 0 => 1
  | 1 => 2
  | 2 => 4
  | 3 => 8
  | 4 => 1
  | 5 => 2
  | _ => 4

/-- The value of a load: sign extension for sizes 0 to 2 (R204). -/
def extendSize (z : BitVec 3) (v : Nat) : Word :=
  match z with
  | 0 => (BitVec.ofNat 8 v).signExtend 64
  | 1 => (BitVec.ofNat 16 v).signExtend 64
  | 2 => (BitVec.ofNat 32 v).signExtend 64
  | _ => BitVec.ofNat 64 v

/-- The effective address of a load or store (R219). -/
def State.ea (s : State) (a : Reg) (i : BitVec 12) : Word := s.reg a + sx i

end Sys2Proof.Machine
end

