-- ==== Sys2Proof/Machine/MemOps.lean ====
section
/-! DEFINITION. Loads, stores, fences, prefetch and atomics of the control processor, the landing of far accesses and the
performing of posted stores (R219 to R228, R356, R357). -/
namespace Sys2Proof.Machine

/-! ### Checks -/

/-- Two byte ranges of one memory overlap. -/
def overlaps (a : PAddr) (n : Nat) (b : PAddr) (m : Nat) : Bool :=
  a.space == b.space && decide (a.off < b.off + m) && decide (b.off < a.off + n)

/-- A take counts as running while RUNNING and DRAINING (R189). -/
def Region.counts (r : Region) : Bool := r.on == .running || r.on == .draining

/-- A Scene place lies in a region that a running take of the slot declares for writing (R189). -/
def State.declaredWrite (s : State) (c : CpId) (pa : PAddr) (n : Nat) : Bool :=
  match pa.space with
  | .scene _ =>
    let base := ((s.core c.core).sceneShare c.slot).1
    (s.slot c).regions.toList.any fun r => r.counts && r.onHdr.smr.any fun d =>
      d.wr && decide (base + d.off < pa.off + n) && decide (pa.off < base + d.off + d.len)
  | _ => false

/-- A checked data address in a memory that `ok` admits (R210, R219, R220, R226): MISALIGNED, then the class, then the translation or
the share, then the write guard of R189. -/
def State.dataPlaceIn (s : State) (a : Word) (n : Nat) (nearOnly write : Bool) (ok : Space → Bool) : Except (BitVec 8) PAddr :=
  let c := s.cur
  if a.toNat % n != 0 then .error cMISALIGNED
  else match (if nearOnly then s.nearPlace c a n else s.placeIn c a n write ok) with
  | .error e => .error e
  | .ok pa => if write && s.declaredWrite c pa n then .error cPROTECT else .ok pa

/-- A checked data address of a load or store, in any memory. -/
def State.dataPlace (s : State) (a : Word) (n : Nat) (nearOnly write : Bool) : Except (BitVec 8) PAddr :=
  s.dataPlaceIn a n nearOnly write fun _ => true

/-- The translation a far access took stays in the far translation cache of 32 entries (R221; the oldest goes, entry 19). -/
def State.cacheTranslation (s : State) (a : Word) : State :=
  let c := s.cur
  if classOf a != .far then s
  else match s.pageOf c a with
  | none => s
  | some g =>
    let e : TlbEntry := ⟨(s.slot c).part, g⟩
    if (s.cp c).ftc.contains e then s else s.modCp c fun p => { p with ftc := e :: p.ftc.take 31 }

/-- A far access counts in the profile (R416). -/
def State.farAccess (s : State) : State := s.modCp s.cur fun p => p.count 3 1

/-- An access or error completion fails after issue (R223): the record, then a deferred trap in order of issue, which waits until the
record has entered the queue (R303). -/
def State.farFault (s : State) (c : CpId) (order : Nat) (cause : BitVec 8) (vaddr fpc synd detail : Word) : State :=
  (s.queueRec c.core (.job order) { s.slotRec c cause 0x02 none with vaddr := vaddr, pc := fpc, synd := synd, detail := detail }).deferTrap c order cause vaddr fpc

/-! ### Near loads and stores (R219) -/

/-- A near load with its landing: the value read in the issue cycle; an uncorrectable error traps as a deferred access. -/
def State.nearLoad (s : State) (pa : PAddr) (a : Word) (d : Reg) (z : BitVec 3) (inter : Bool) : State :=
  match s.load s.cur s.myPart pa (sizeOf z) with
  | (s1, some b) =>
    let v := extendSize z (leNat b)
    (if inter then s1.putInterlocked d v 6 else s1.putLate d v 6).advance
  | (s1, none) => (s1.newId.farFault s.cur s.ids cUNCORR a s.pc (s.synd pa (sizeOf z)) (s.uncorrDetail pa (sizeOf z))).advance

/-- ld (R219), latency 6. -/
def execLd (d a : Reg) (z : BitVec 3) (i : BitVec 12) (s : State) : Out State :=
  s.issue [a] [d] true fun t =>
    let ea := t.ea a i
    match t.dataPlace ea (sizeOf z) true false with
    | .error e => t.trapAt t.cur e ea
    | .ok pa => t.nearLoad pa ea d z false

/-- The bytes a store takes from a register. -/
def State.storeBytes (s : State) (d : Reg) (z : BitVec 3) : List Byte := leBytes (sizeOf z) (s.reg d).toNat

/-- st (R219): performed at the end of its issue cycle. -/
def execSt (d a : Reg) (z : BitVec 3) (i : BitVec 12) (s : State) : Out State :=
  s.issue [a, d] [] false fun t =>
    let ea := t.ea a i
    match t.dataPlace ea (sizeOf z) true true with
    | .error e => t.trapAt t.cur e ea
    | .ok pa => (t.store t.myPart pa (t.storeBytes d z)).advance

/-! ### Far loads and stores (R220) -/

/-- ldf (R220): near as ld through an interlocked entry, far as a pending access. -/
def execLdf (d a : Reg) (z : BitVec 3) (i : BitVec 12) (s : State) : Out State :=
  s.issue [a] [d] true fun t =>
    let ea := t.ea a i
    match t.dataPlace ea (sizeOf z) false false with
    | .error e => t.trapAt t.cur e ea
    | .ok pa =>
      if classOf ea = .far then
        ((t.cacheTranslation ea).farAccess.putPending d (some (pa, .load (sizeOf z) (decide (z.toNat < 3)))) none ea).advance
      else t.nearLoad pa ea d z true

/-- stf (R220): near as st, far posted once it is translated. -/
def execStf (d a : Reg) (z : BitVec 3) (i : BitVec 12) (s : State) : Out State :=
  s.issue [a, d] [] false fun t =>
    let ea := t.ea a i
    match t.dataPlace ea (sizeOf z) false true with
    | .error e => t.trapAccess t.cur e ea true
    | .ok pa =>
      if classOf ea = .far then
        let surf := (t.pageOf t.cur ea).bind (·.surface)
        let st : Posted := { id := t.ids, pa := pa, surf := surf, vaddr := ea, fpc := t.pc, bytes := t.storeBytes d z, parked := false }
        ((t.cacheTranslation ea).farAccess.newId.modCp t.cur fun p => { p with posted := p.posted ++ [st] }).advance
      else (t.store t.myPart pa (t.storeBytes d z)).advance

/-! ### Fences and prefetch (R224, R225) -/

/-- Far loads and amo past issue whose value has not arrived. -/
def Cp.pendingLoads (p : Cp) : Bool := (p.lqT ++ p.lqH).any fun e => e.far.isSome && e.rem.isNone
/-- amo past issue that has not performed. -/
def Cp.pendingAmo (p : Cp) : Bool :=
  (p.lqT ++ p.lqH).any fun e => e.rem.isNone && (match e.far with | some (_, .amo ..) => true | _ => false)
/-- Every earlier load has its value. -/
def Cp.loadsDone (p : Cp) : Bool := !p.pendingLoads
/-- Every earlier store and amo write has performed. -/
def Cp.storesDone (p : Cp) : Bool := p.posted.isEmpty && !p.pendingAmo
/-- Every earlier access of the slot's CP has performed, counter adds among them (R267, R275). -/
def State.accessesDone (s : State) (c : CpId) : Bool :=
  (s.cp c).loadsDone && (s.cp c).storesDone && !s.adds.any (fun x => x.byCp && x.sender == c)

/-- A queued command reads a record when it reaches the head (R238); rarm with g0 names none (R245). -/
def readsRecord : Instr → Bool
  | .rarm a _ => a != 0
  | .rload .. | .rrest .. | .cpy .. | .cpyg .. | .stgdef .. => true
  | _ => false

/-- fence.eng's condition on the command queue (R224): what waits has reached the head and reads no record. -/
def Slot.commandsRead (t : Slot) : Bool :=
  match t.cmdq with
  | [] => true
  | [c] => !readsRecord c.i
  | _ => false

/-- A fence waits at issue until its condition holds (R224). -/
def State.fence (s : State) (ok : State → Bool) : Out State :=
  s.issue [] [] false fun t => if ok t then t.advance else t

def execFenceLd (s : State) : Out State := s.fence fun t => (t.cp t.cur).loadsDone
def execFenceSt (s : State) : Out State := s.fence fun t => (t.cp t.cur).storesDone
/-- fence.all orders every access of the thread, its counter operations included (R275, R279). -/
def execFenceAll (s : State) : Out State := s.fence fun t => t.accessesDone t.cur
def execFenceEng (s : State) : Out State := s.fence fun t => t.accessesDone t.cur && (t.slot t.cur).commandsRead

/-- pref (R225): it never traps on its operand value. -/
def execPref (a : Reg) (i : BitVec 12) (s : State) : Out State :=
  s.issue [a] [] false fun t => (t.cacheTranslation (t.ea a i)).advance

/-! ### Atomics (R226, R227) -/

/-- The operations of amo by their function code (R202). -/
def amoResult (fn : Nat) (old b c : Word) : Option Word :=
  match fn with
  | 0 => some (old + b)
  | 1 => some b
  | 2 => if old = c then some b else none
  | 3 => some (if old.toInt ≤ b.toInt then b else old)
  | 4 => some (if old.toInt ≤ b.toInt then old else b)
  | 5 => some (old &&& b)
  | _ => some (old ||| b)

/-- An amo at its point of coherence: the old value, or none at an uncorrectable error, which leaves memory unchanged. -/
def State.amoAt (s : State) (c : CpId) (pa : PAddr) (fn : Nat) (b x : Word) : State × Option Word :=
  match s.load c (s.slot c).part pa 8 with
  | (s1, none) => (s1, none)
  | (s1, some bytes) =>
    let old := BitVec.ofNat 64 (leNat bytes)
    match amoResult fn old b x with
    | none => (s1, some old)
    | some v => (s1.store (s.slot c).part pa (leBytes 8 v.toNat), some old)

/-- The place of an amo may carry it (R220, R227): host memory carries add, swp and cas while the function's AtomicOp Requester
Enable bit is set, peer memory carries none. -/
def State.amoPlaceOk (s : State) (fn : Nat) (m : Space) : Bool :=
  match m with
  | .host => decide (fn ≤ 2) && Config.atomicOpEnabled (s.part s.myPart).fn.toNat
  | .peer _ => false
  | _ => true

/-- The amo group (R226). -/
def State.amo (s : State) (fn : Nat) (d a b : Reg) (c : Option Reg) : Out State :=
  s.issue ([a, b] ++ c.toList) [d] true fun t =>
    let ea := t.reg a
    let x := t.reg b
    let y := match c with | some r => t.reg r | none => 0
    match t.dataPlaceIn ea 8 false true (t.amoPlaceOk fn) with
    | .error e => t.trapAccess t.cur e ea true
    | .ok pa =>
      if classOf ea = .far then
        ((t.cacheTranslation ea).farAccess.putPending d (some (pa, .amo fn x y)) none ea).advance
      else
        match t.amoAt t.cur pa fn x y with
        | (t1, some old) => (t1.putInterlocked d old 6).advance
        | (t1, none) => (t1.newId.farFault t.cur t.ids cUNCORR ea t.pc (t.synd pa 8) (t.uncorrDetail pa 8)).advance

def execAmoAdd (d a b : Reg) (s : State) : Out State := s.amo 0 d a b none
def execAmoSwp (d a b : Reg) (s : State) : Out State := s.amo 1 d a b none
def execAmoCas (d a b c : Reg) (s : State) : Out State := s.amo 2 d a b (some c)
def execAmoMax (d a b : Reg) (s : State) : Out State := s.amo 3 d a b none
def execAmoMin (d a b : Reg) (s : State) : Out State := s.amo 4 d a b none
def execAmoAnd (d a b : Reg) (s : State) : Out State := s.amo 5 d a b none
def execAmoOr (d a b : Reg) (s : State) : Out State := s.amo 6 d a b none

/-! ### Compressed apertures (R356, R357) -/

/-- The non-zero aligned 8-byte words of a block. -/
def nonzeroWords : Nat → List Byte → Nat
  | 0, _ => 0
  | n + 1, b => (if zeroBytes b 0 8 then 0 else 1) + nonzeroWords n (b.drop 8)

/-- A 256-byte block fits a slot of 64·CSZ bytes (R356). -/
def blockFits (csz : Nat) (b : List Byte) : Bool := decide (4 + 8 * nonzeroWords 32 b ≤ 64 * csz)

/-- The bytes of a partition's virtual range as they stand, zero where nothing is mapped. -/
def State.virtBytes (s : State) (part : BitVec 5) (a n : Nat) : List Byte :=
  match s.translate part (BitVec.ofNat 64 a) false with
  | .ok pa => s.bytesAt pa n
  | .error _ => List.replicate n 0

/-- Blocks of an extent of a surface that do not fit their slots. -/
def State.bigBlocks (s : State) (part : BitVec 5) (csz : Nat) : Nat → Nat → Nat
  | _, 0 => 0
  | a, n + 1 => (if blockFits csz (s.virtBytes part a 256) then 0 else 1) + s.bigBlocks part csz (a + 256) n

/-- A write into a compressed surface would need an escape entry when none is free (R357): more blocks than the escape pages
hold would not fit after the write `t`. -/
def State.needsEscape (t : State) (part : BitVec 5) (surf : Nat) : Bool :=
  let r := t.virtBytes part surf 32
  let csz := leNat (t.virtBytes part (fld r 0x18 8) 1)
  let n := fld r 0x10 4 / 256
  decide (256 * fld r 0x15 1 < t.bigBlocks part csz (fld r 0 8) n + t.bigBlocks part csz (fld r 8 8) n)

/-! ### Far accesses past issue (R220 to R223) -/

/-- The interface that HSTEER names for a function (R403). -/
def State.steers (s : State) (fn : BitVec 8) : Bool :=
  if h : fn.toNat < 253 then s.hsteer.get ⟨fn.toNat, h⟩ else false

/-- The Selective IDE stream that is bound to a function (R408). -/
def State.boundStream (s : State) (fn : BitVec 8) : Option (Fin 2 × BitVec 8) :=
  if h : fn.toNat < 253 then s.ide.get ⟨fn.toNat, h⟩ else none

/-- A request of a function leaves on the interface that HSTEER names, and on its IDE stream (R403, R413). -/
def State.requestOf (s : State) (fn : BitVec 8) (addr : Nat) (write : Bool) (data : List Byte) : State :=
  s.emit (.hostReq fn (s.steers fn) ((s.boundStream fn).map (·.2)) addr write data)

/-- A host request of a partition's function leaves. -/
def State.hostRequest (s : State) (part : BitVec 5) (addr : Nat) (write : Bool) (data : List Byte) : State :=
  s.requestOf (s.part part).fn addr write data

/-- A request to a peer package's memory leaves, with the digest of the partition's tenant key, for the peer to compare (R428). -/
def State.askPeer (s : State) (core : Fin 256) (part : BitVec 5) (ep : BitVec 20) (off size : Nat) (write : Bool) (data : List Byte) : State :=
  s.newId.toFabric ep (.peerReq
    { ep := s.ep, tag := s.ids, tkdig := ((s.die (dieOf core)).ptab.get (ix32 part)).tkdig, die := ⟨off / 2 ^ 37 % 4, by omega⟩, off := off % 2 ^ 37
      write := write, size := size, data := data })

/-- A read of n bytes at a place outside the package leaves it (R220). -/
def State.askRead (s : State) (c : CpId) (pa : PAddr) (n : Nat) : State :=
  match pa.space with
  | .peer ep => s.askPeer c.core (s.slot c).part ep pa.off n false []
  | .host => s.hostRequest (s.slot c).part pa.off false []
  | _ => s

/-- A write at a place outside the package leaves it (R220). -/
def State.askWrite (s : State) (c : CpId) (pa : PAddr) (b : List Byte) : State :=
  match pa.space with
  | .peer ep => s.askPeer c.core (s.slot c).part ep pa.off b.length true b
  | .host => s.hostRequest (s.slot c).part pa.off true b
  | _ => s

/-- n free bytes (entry 18). -/
def freeBytes (k n : Nat) : List Byte := ((List.range ((n + 31) / 32)).flatMap fun i => leBytes 32 (Config.freeWord256 (k + i)).toNat).take n

/-- A read of n bytes by a fetch or an engine of a slot in any memory: the bytes, or syndrome and DETAIL of an uncorrectable error (R300, R307).
One outside the package leaves it, and its data may come with an error (entry 41); what a peer's memory holds is not this package's (entry 18). -/
def State.readFrom (s : State) (c : CpId) (pa : PAddr) (n : Nat) : State × Except (Word × Word) (List Byte) :=
  if pa.outside then
    let s0 : State := { s.askRead c pa n with fresh := s.fresh + 2 + (n + 31) / 32 }
    if Config.freeBool s.fresh then (s0, .error (Config.freeWord (s.fresh + 1) &&& 255, 0))
    else (s0, .ok (match pa.space with
      | .peer _ => freeBytes (s.fresh + 2) n
      | _ => s.bytesAt pa n))
  else
    match s.load c (s.slot c).part pa n with
    | (s1, none) => (s1, .error (s.synd pa n, s.uncorrDetail pa n))
    | (s1, some b) => (s1, .ok b)

/-- The AtomicOp that an amo to host memory travels as (R227). -/
def hostAtomic (fn : Nat) (b c : Word) : HostAtomic :=
  match fn with
  | 0 => .fetchAdd b
  | 1 => .swap b
  | _ => .cas c b

/-- The bytes an access touches. -/
def FarOp.len : FarOp → Nat
  | .load n _ => n
  | .amo .. => 8

/-- An own access older than a number has still to perform on bytes that an access touches: it performs first (R222, R277). -/
def State.olderAccess (s : State) (c : CpId) (id : Nat) (pa : PAddr) (n : Nat) : Bool :=
  let p := s.cp c
  (p.posted.any fun w => decide (w.id < id) && overlaps w.pa w.bytes.length pa n) ||
  ((p.lqT ++ p.lqH).any fun e => decide (e.id < id) && e.rem.isNone && (match e.far with
    | some (q, op) => overlaps q op.len pa n
    | none => false)) ||
  (s.adds.any fun x => x.byCp && x.sender == c && decide (x.id < id) && overlaps x.pa 8 pa n)

/-- A landing entry's value arrives: it lands at the end of the next cycle of its mode (R164, R168). -/
def arriveIn (id : Nat) (v : Word) (q : List LandEntry) : List LandEntry :=
  q.map fun e => if e.id == id then { e with value := v, rem := some 1 } else e

/-- The entry whose value arrives is written into array 7 (R307, R309). -/
def State.writeArrived (s : State) (c : CpId) (id : Nat) : State :=
  match (s.cp c).lqT.find? (fun e => e.id == id), (s.cp c).lqH.find? (fun e => e.id == id) with
  | some e, _ => s.writeEntry c false e.place
  | none, some e => s.writeEntry c true e.place
  | none, none => s

/-- The value of an interlocked entry arrives. -/
def State.arrive (s : State) (c : CpId) (id : Nat) (v : Word) : State :=
  (s.modCp c fun p => { p with lqT := arriveIn id v p.lqT, lqH := arriveIn id v p.lqH }).writeArrived c id

/-- A failing access loses its entry, so that its destination keeps its old value (R223). CPEVT.LND is set when the thread's queue comes
to hold no interlocked entry by it (R236). -/
def State.dropEntry (s : State) (c : CpId) (id : Nat) : State :=
  s.modCp c fun p =>
    let q := p.lqT.filter fun e => e.id != id
    let p1 := { p with lqT := q, lqH := p.lqH.filter fun e => e.id != id }
    if anyInterlocked p.lqT && !anyInterlocked q then p1.event evLND else p1

/-- The value of a far load (R204, R219). -/
def farValue (signed : Bool) (b : List Byte) : Word :=
  if signed then
    match b.length with
    | 1 => (BitVec.ofNat 8 (leNat b)).signExtend 64
    | 2 => (BitVec.ofNat 16 (leNat b)).signExtend 64
    | _ => (BitVec.ofNat 32 (leNat b)).signExtend 64
  else BitVec.ofNat 64 (leNat b)

/-- Cause, syndrome and DETAIL of a far access that fails past issue (R223, R299, R300). -/
abbrev FarFail := BitVec 8 × Word × Word

/-- How an access outside the package fails, when it does: an error completion with its completion status, or data that comes with an
error; and one into a unit that has changed its owner since its translation is refused by the controller (R223, R318, R351;
entries 18, 41). -/
def State.farFails (s : State) (c : CpId) (pa : PAddr) (write : Bool) : Option FarFail :=
  if pa.outside then
    if !Config.freeBool s.fresh then none
    else if !write && Config.freeBool (s.fresh + 1) then some (cUNCORR, s.freeWord &&& 255, 0)
    else some (cADDRCLASS, s.freeWord &&& 7, 0)
  else if s.ownerOk (s.slot c).part pa write then none else some (cPROTECT, 0, 0)

/-- The request of a far access leaves, when its place lies outside the package (R220, R227, R428). -/
def State.askFar (s : State) (c : CpId) (pa : PAddr) (op : FarOp) : State :=
  match op with
  | .load n _ => s.askRead c pa n
  | .amo f b x =>
    if pa.space = .host then
      let fn := (s.part (s.slot c).part).fn
      s.emit (.hostAmo fn (s.steers fn) pa.off (hostAtomic f b x))
    else s

/-- A far access performs at its point of coherence: its request leaves, and then it has its value, or its failure. What a peer's memory
holds is not this package's (entry 18). -/
def State.performFar (s : State) (c : CpId) (pa : PAddr) (op : FarOp) : State × Except FarFail Word :=
  let write := match op with | .amo .. => true | .load .. => false
  let s0 := if pa.outside then { s.askFar c pa op with fresh := s.fresh + 2 } else s
  match s.farFails c pa write with
  | some e => (s0, .error e)
  | none =>
    match op with
    | .load n signed =>
      match pa.space with
      | .peer _ => (s0.took, .ok (farValue signed (leBytes n s0.freeWord.toNat)))
      | _ =>
        match s0.load c (s.slot c).part pa n with
        | (s2, some b) => (s2, .ok (farValue signed b))
        | (s2, none) => (s2, .error (cUNCORR, s0.synd pa n, s0.uncorrDetail pa n))
    | .amo f b x =>
      match s0.amoAt c pa f b x with
      | (s2, some v) => (s2, .ok v)
      | (s2, none) => (s2, .error (cUNCORR, s0.synd pa 8, s0.uncorrDetail pa 8))

/-- A posted store leaves the list of its CP. -/
def State.dropPosted (s : State) (c : CpId) (id : Nat) : State :=
  s.modCp c fun p => { p with posted := p.posted.filter fun x => x.id != id }

/-- A posted store performs at its destination; what a peer holds is not this package's. -/
def State.performStore (s : State) (c : CpId) (w : Posted) : State :=
  let s1 := s.dropPosted c w.id
  match w.pa.space with
  | .peer _ => s1
  | _ => s1.store (s.slot c).part w.pa w.bytes

/-- A posted store reaches its destination, its request leaving the package where that lies outside: it performs, or fails and leaves memory
as it is, with a deferred trap (R220, R223). -/
def State.completeStore (s : State) (c : CpId) (w : Posted) : State :=
  let s0 := if w.pa.outside then { s.askWrite c w.pa w.bytes with fresh := s.fresh + 2 } else s
  match s.farFails c w.pa true with
  | some (cause, synd, detail) => (s0.dropPosted c w.id).farFault c w.id cause w.vaddr w.fpc synd detail
  | none => s0.performStore c w

/-! ### Parked writes (R357) -/

/-- The controller of a place of HBM, when it is one. -/
def parkPlace (pa : PAddr) : Option (Fin 4 × Fin 2) :=
  match pa.space with
  | .hbm d => some (d, ctlOf pa.off)
  | _ => none

/-- The place of the write that a park entry names: a posted store, an amo, a counter add, a stream's token or a copy's unit. -/
def State.parkedAt (s : State) (x : CpId × Nat) : Option PAddr :=
  match (s.cp x.1).posted.find? fun w => w.id == x.2 with
  | some w => some w.pa
  | none =>
    match ((s.cp x.1).lqT ++ (s.cp x.1).lqH).find? fun e => e.id == x.2 && e.rem.isNone with
    | some e => e.far.map (·.1)
    | none =>
      match s.adds.find? fun a => a.id == x.2 with
      | some a => some a.pa
      | none =>
        match (s.core x.1.core).ring.find? fun t => t.slot == x.1.slot && t.id == x.2 with
        | some t => some t.addr
        | none =>
          match (s.slot x.1).copying with
          | some r => if r.job.cmd.order == x.2 then r.parked else none
          | none => none

/-- A controller's parked writes change. -/
def State.modPark (s : State) (d : Fin 4) (k : Fin 2) (f : List (CpId × Nat) → List (CpId × Nat)) : State :=
  s.modDie d fun x => x.modCtl k fun l => { l with park := f l.park }

/-- A write is parked on the block of a place: reads of the block wait with it (R357). -/
def State.parkedBlock (s : State) (pa : PAddr) : Bool :=
  match pa.space with
  | .hbm d =>
    let l := (s.die d).ctl.get (ctlOf pa.off)
    (l.park.any fun x => match s.parkedAt x with | some q => q.sameBlock pa | none => false) ||
    l.left.any fun x => x.2.pa.sameBlock pa
  | _ => false

/-- The surface whose aperture holds a virtual address of a partition (R356). -/
def State.surfaceOf (s : State) (part : BitVec 5) (a : Word) : Option Nat :=
  if classOf a == .far then ((s.part part).page a.toNat).bind (·.surface) else none

/-- What a write into a compressed surface finds at the controller (R357). -/
inductive ParkTurn where
  | performs
  /-- the park buffer is full, or the write is parked and no escape entry is free yet -/
  | waits
  | parks (d : Fin 4) (k : Fin 2)
  deriving DecidableEq, Repr, Inhabited

/-- A write `after` of agent c with a number into the surface of its address: parked ones wait for firmware's release. -/
def State.parkTurn (s after : State) (c : CpId) (id : Nat) (part : BitVec 5) (surf : Option Nat) (pa : PAddr) : ParkTurn :=
  match surf, parkPlace pa with
  | some g, some (d, k) =>
    let l := (s.die d).ctl.get k
    if l.park.contains (c, id) || decide (16 ≤ l.park.length + (l.left.filter fun x => x.2.parked).length) then .waits
    else if after.needsEscape part g then .parks d k else .performs
  | _, _ => .performs

/-- What is written of a compressed block behind its aperture: its slot at STORE, and an escape entry when it does not fit. Their layouts and which
entry is taken are open, and these bytes are free values (R356; entry 38). -/
def State.slotted (t : State) (part : BitVec 5) (surf : Option Nat) (va : Word) : State :=
  match surf with
  | none => t
  | some g =>
    let r := t.virtBytes part g 32
    let n := fld r 0x10 4 / 256
    let esc := fld r 0x18 8
    let h := t.virtBytes part esc 64
    let csz := fld h 0 1
    let a := va.toNat
    let i := if fld r 0 8 ≤ a ∧ a < fld r 0 8 + 256 * n then (a - fld r 0 8) / 256 else n + (a - fld r 8 8) / 256
    let put (u : State) (x len : Nat) : State := match u.translate part (BitVec.ofNat 64 x) true with
      | .ok pa => { u.setBytes pa (freeBytes u.fresh len) with fresh := u.fresh + len / 32 }
      | .error _ => u
    let t1 := put t (fld h 8 8 + 64 * csz * i) (64 * csz)
    if blockFits csz (t.virtBytes part (a / 256 * 256) 256) then t1
    else
      let e := t1.freeWord.toNat % (256 * max 1 (fld r 0x15 1))
      put t1.took (leNat (t.virtBytes part (esc + 0x40 + 8 * (e / 256)) 8) + 256 * (e % 256)) 256

/-- A write finds no escape entry and is parked, and the controller's record of it is on its way to the fault buffer (R357, R360). -/
def State.parkRec (s : State) (c : CpId) (id : Nat) (part : BitVec 5) (va fpc : Word) (d : Fin 4) (k : Fin 2) : State :=
  let f : RecFields := { s.slotRec c cSPACE 0x09 none with part := part, vaddr := va &&& ~~~(255 : Word), pc := fpc }
  s.modDie d fun x => x.modCtl k fun l => { l with park := l.park ++ [(c, id)], recs := l.recs ++ [f.bits] }

/-- A posted store is parked. -/
def State.park (s : State) (c : CpId) (w : Posted) (d : Fin 4) (k : Fin 2) : State :=
  (s.parkRec c w.id (s.slot c).part w.vaddr w.fpc d k).modCp c fun p =>
    { p with posted := p.posted.map fun x => if x.id == w.id then { x with parked := true } else x }

/-- A write of an agent of a slot at its point of coherence. Into a compressed surface whose block needs an escape entry when none is free, it
goes as a store that is parked, or waits for the park buffer (R357). -/
def State.storeOrPark (s : State) (c : CpId) (pa : PAddr) (va fpc : Word) (b : List Byte) : State :=
  let part := (s.slot c).part
  let surf := s.surfaceOf part va
  let posted (t : State) : State := t.modCp c fun p =>
    { p with posted := p.posted ++ [{ id := s.ids, pa := pa, surf := surf, vaddr := va, fpc := fpc, bytes := b, parked := false }] }
  match s.parkTurn (s.store part pa b) c s.ids part surf pa with
  | .performs => (s.store part pa b).slotted part surf va
  | .waits => posted s.newId
  | .parks d k => match ((posted s.newId).cp c).posted.getLast? with
    | some w => (posted s.newId).park c w d k
    | none => s

/-- A word that an agent of a slot changes by an atomic read and write at its point of coherence (R226), in a surface as `storeOrPark` says. -/
def State.changeWord (s : State) (c : CpId) (pa : PAddr) (va fpc : Word) (f : Word → Option Word) : State :=
  match s.load c (s.slot c).part pa 8 with
  | (s1, none) => s1
  | (s1, some b) =>
    match f (BitVec.ofNat 64 (leNat b)) with
    | none => s1
    | some v => s1.storeOrPark c pa va fpc (leBytes 8 v.toNat)

/-- Firmware's write of bytes of a partition's memory; into a compressed surface it stays at the controller where it finds no escape entry, or
behind a write that has found none (R357). -/
def State.firmwareStore (s : State) (part : BitVec 5) (pa : PAddr) (va : Word) (b : List Byte) : State :=
  let t := s.store part pa b
  let surf := s.surfaceOf part va
  let turn := if s.parkedBlock pa then .waits else s.parkTurn t default s.ids part surf pa
  match turn, parkPlace pa with
  | .performs, _ => t.slotted part surf va
  | _, none => t
  | o, some (d, n) =>
    let parks := match o with | .parks .. => true | _ => false
    let w : Posted := { id := s.ids, pa := pa, surf := surf, vaddr := va, fpc := 0, bytes := b, parked := parks }
    let f : RecFields := { cause := cSPACE, origin := 0x09, part := part, loc := locOf (coreOf d 0 0), ctx := 0, vaddr := va &&& ~~~(255 : Word), gcyc := (s.die d).gcyc }
    s.newId.modDie d fun x => x.modCtl n fun l => { l with left := l.left ++ [(part, w)], recs := if parks then l.recs ++ [f.bits] else l.recs }

/-- Firmware's add to a counter of a partition (R345). -/
def State.firmwareAdd (s : State) (part : BitVec 5) (pa : PAddr) (va k : Word) : State :=
  match s.load default part pa 8 with
  | (s1, none) => s1
  | (s1, some b) => s1.firmwareStore part pa va (leBytes 8 (BitVec.ofNat 64 (leNat b) + k).toNat)

/-- POSTED_STORE_PERFORMED: a posted store performs, fails, or is parked (R220, R222 to R224, R357). -/
def execPostedStorePerformed (c : CpId) (id : Nat) (s : State) : Out State :=
  .next <|
    match (s.cp c).posted.find? (fun w => w.id == id) with
    | none => s
    | some w =>
      if w.parked || s.olderAccess c w.id w.pa w.bytes.length || s.parkedBlock w.pa then s
      else match s.parkTurn (s.performStore c w) c w.id (s.slot c).part w.surf w.pa with
      | .performs => (s.completeStore c w).slotted (s.slot c).part w.surf w.vaddr
      | .waits => s
      | .parks d k => s.park c w d k

/-- A pending far access of a CP performs: its value arrives, or it fails (R220 to R223). -/
def State.landFar (s : State) (c : CpId) (e : LandEntry) (pa : PAddr) (op : FarOp) : State :=
  match s.performFar c pa op with
  | (s1, .ok v) => s1.arrive c e.id v
  | (s1, .error (cause, synd, detail)) => (s1.dropEntry c e.id).farFault c e.id cause e.vaddr e.fpc synd detail

/-- A pending far access takes its turn: it waits for older own accesses to its bytes and for writes parked on its block, and an amo into a
compressed surface may be parked itself (R222, R357). -/
def State.landFarTurn (s : State) (c : CpId) (e : LandEntry) (pa : PAddr) (op : FarOp) : State :=
  if s.parkedBlock pa || s.olderAccess c e.id pa op.len then s
  else match op with
  | .load .. => s.landFar c e pa op
  | .amo f b x =>
    let part := (s.slot c).part
    match s.parkTurn (s.amoAt c pa f b x).1 c e.id part (s.surfaceOf part e.vaddr) pa with
    | .performs => (s.landFar c e pa op).slotted part (s.surfaceOf part e.vaddr) e.vaddr
    | .waits => s
    | .parks d k => s.parkRec c e.id part e.vaddr e.fpc d k

/-- A counter add performs at its counter. -/
def State.performAdd (s : State) (x : CtrAdd) : State :=
  ({ s with adds := s.adds.filter fun y => y.id != x.id } : State).addCounter x.sender x.part x.pa x.inc

/-- A parked write whose block now has a place performs, and leaves the buffer; one that is gone leaves it too. -/
def State.release (d : Fin 4) (k : Fin 2) (s : State) (x : CpId × Nat) : State :=
  let gone (t : State) : State := t.modPark d k fun l => l.filter (· != x)
  let part := (s.slot x.1).part
  let settle (t : State) (part : BitVec 5) (surf : Option Nat) (va : Word) : State :=
    match surf with
    | none => gone t
    | some g => if t.needsEscape part g then s else gone (t.slotted part surf va)
  match (s.cp x.1).posted.find? fun w => w.id == x.2 with
  | some w => settle (s.performStore x.1 w) part w.surf w.vaddr
  | none =>
    match ((s.cp x.1).lqT ++ (s.cp x.1).lqH).find? fun e => e.id == x.2 && e.rem.isNone with
    | some e =>
      match e.far with
      | some (pa, op) => settle (s.landFar x.1 e pa op) part (s.surfaceOf part e.vaddr) e.vaddr
      | none => gone s
    | none =>
      match s.adds.find? fun a => a.id == x.2 with
      | some a => settle (s.performAdd a) a.part (s.surfaceOf a.part a.vaddr) a.vaddr
      | none => gone s

/-- A store of an emptied slot whose block now has a place performs, unless an older one stands before it. -/
def State.releaseLeft (d : Fin 4) (k : Fin 2) (s : State) (x : BitVec 5 × Posted) : State :=
  let t := s.store x.1 x.2.pa x.2.bytes
  let first := ((s.die d).ctl.get k).left.find? fun y => y.2.pa.sameBlock x.2.pa
  if first != some x || (match x.2.surf with | some g => t.needsEscape x.1 g | none => false) then s
  else (t.slotted x.1 x.2.surf x.2.vaddr).modDie d fun y => y.modCtl k fun l => { l with left := l.left.filter (· != x) }

end Sys2Proof.Machine
end

