-- ==== Sys2Proof/Machine/System.lean ====
section
/-! DEFINITION. System instructions of the control processor: traps, return, wait, breakpoints, sysc, the CSRs, words that
are no instruction, deferred traps, instruction fetch and the landing of interlocked values (R198, R207, R208, R229 to
R236, R241, R295 to R298, R414, R441, R446). -/
namespace Sys2Proof.Machine

/-! ### Traps and return -/

/-- trap (R229): SOFT with TVAL the code; tret resumes after it. -/
def execTrap (code : BitVec 15) (s : State) : Out State :=
  s.issue [] [] false fun t => t.issued.syncTrap t.cur cSOFT (code.setWidth 64) 0 (t.pc + 4)

/-- tret (R208, R230, R298): PROTECT in thread mode; it waits until the handler's landing queue is empty. -/
def execTret (s : State) : Out State :=
  s.privileged fun t => t.issue [] [] false fun u =>
    if (u.cp u.cur).lqH.isEmpty then u.issued.modCp u.cur Cp.trapReturn else u

/-- The policy of the task's partition opens its debug control (R414). -/
def State.debugOpen (s : State) (c : CpId) : Bool := (s.part (s.slot c).part).pflags.getLsbD 0
/-- The policy opens the profile registers (R414). -/
def State.profileOpen (s : State) (c : CpId) : Bool := (s.part (s.slot c).part).pflags.getLsbD 1

/-- bkpt (R229, R414): BKPT as trap raises SOFT, unless the policy opens debug and DBGCTL.HALT is 1: then the CP halts at the
next instruction with its code (entry 21). -/
def execBkpt (code : BitVec 15) (s : State) : Out State :=
  s.issue [] [] false fun t =>
    let c := t.cur
    if t.debugOpen c && (t.cp c).dbgctl.getLsbD 0 then
      t.issued.modCp c fun p => { p with run := .halted code, pc := p.pc + 4, untimed := 1 }
    else t.issued.syncTrap c cBKPT (code.setWidth 64) 0 (t.pc + 4)

/-- The deferred trap whose access or command issued first (R296). -/
def firstTrap : List DTrap → Option DTrap
  | [] => none
  | d :: t => match firstTrap t with
    | none => some d
    | some e => if d.order ≤ e.order then some d else some e

/-- DEFERRED_TRAP: at an instruction boundary of the thread the first pending deferred trap is entered (R223, R241, R296) once its record has
entered the queue (R303); in handler mode it stays pending (R297). -/
def execDeferredTrap (c : CpId) (s : State) : Out State :=
  .next <|
    let p := s.cp c
    match firstTrap p.dtraps with
    | none => s
    | some d =>
      if p.handler then s
      else if s.trapWaits c d then s.waitUntimed c
      else s.modCp c fun p => { (p.trapEntry d.cause d.tval d.fpc p.pc) with dtraps := p.dtraps.erase d }

/-! ### wait (R231) -/

/-- A wait leaves: its remaining time is forgotten. -/
def State.leaveWait (s : State) : State := s.advance.modCp s.cur fun p => { p with waitLeft := none, waitFor := false }

/-- A wait whose time has run out sets TMO and leaves (R231, R236). -/
def State.timeout (s : State) : State := s.leaveWait.modCp s.cur fun p => p.event evTMO

/-- wait (R231): each thread cycle that finds no masked event takes one from the time left, when there is a timeout. The timeout is the
register's value at issue. -/
def execWait (a : Reg) (m : BitVec 5) (s : State) : Out State :=
  s.issue [a] [] false fun t =>
    let p := t.cp t.cur
    let time := t.reg a
    if (p.cpevt &&& m) != 0 then t.leaveWait
    else match p.waitLeft with
    | some left => if left = 0 then t.timeout else t.modCp t.cur fun p => { p with waitLeft := some (left - 1) }
    | none =>
      if p.waitFor then t
      else if time = 0 then (if m = 0 then t.leaveWait else t.modCp t.cur fun p => { p with waitFor := true })
      else t.modCp t.cur fun p => { p with waitLeft := some (time - 1) }

/-- WAIT_TIMEOUT: a wait in progress has no time left (R231). -/
def execWaitTimeout (c : CpId) (s : State) : Out State :=
  .next (if (s.cp c).waitLeft = some 0 then { (({ s with cur := c } : State).timeout) with cur := s.cur } else s)

/-! ### sysc (R232) -/

/-- sysc VERIFY: the image is read and checked when the answer comes. -/
def execSyscVerify (d a : Reg) (s : State) : Out State :=
  s.issue [a] [d] true fun t => (t.putPending d none (some (.verify (t.reg a))) 0).advance
/-- sysc FUSED (R232). -/
def execSyscFused (d a : Reg) (s : State) : Out State :=
  s.issue [a] [d] true fun t => (t.putPending d none (some (.fused (t.reg a))) 0).advance
/-- sysc ENERGY (R232). -/
def execSyscEnergy (d a : Reg) (s : State) : Out State :=
  s.issue [a] [d] true fun t => (t.putPending d none (some .energy) 0).advance

/-- A word that is no row of the opcode table: sysc with another service number answers all ones (R232); every other one
traps ILLEGAL at its own address (R207). -/
def execIllegalWord (w : W32) (s : State) : Out State :=
  if opOf w = 0x44 && decide (2 < (loOf w).toNat) then
    s.issue [raOf w] [rdOf w] true fun t => (t.putPending (rdOf w) none (some .other) 0).advance
  else .next (s.trapFree s.cur cILLEGAL)

/-- One byte that the management core reads for a slot: outside the package by a request, whose data may come with an error, and of a peer's
memory a free value (entries 18, 41). -/
def State.readOne (s : State) (c : CpId) (a : PAddr) : State × Option Byte :=
  match s.load c (s.slot c).part a 1 with
  | (t, none) => (t, none)
  | (t, some b) =>
    if a.outside then
      let v : Byte := match a.space with | .peer _ => (Config.freeWord (s.fresh + 1)).extractLsb' 0 8 | _ => b.headD 0
      ({ (if a.off % 64 = 0 then s.askRead c a 64 else s) with fresh := s.fresh + 2 }, if Config.freeBool s.fresh then none else some v)
    else (t, some (b.headD 0))

/-- The bytes at places, none when one of them cannot be read. -/
def State.readAll (s : State) (c : CpId) : List PAddr → State × Option (List Byte)
  | [] => (s, some [])
  | a :: t =>
    match s.readOne c a with
    | (s1, none) => (s1, none)
    | (s1, some b) => match s1.readAll c t with
      | (s2, some l) => (s2, some (b :: l))
      | (s2, none) => (s2, none)

/-- Bytes of a virtual range of a slot in any memory, none when one of them cannot be read. -/
def State.readRange (s : State) (c : CpId) (a : Word) (n : Nat) : State × Option (List Byte) :=
  match s.placesIn (fun _ => true) c false 1 n a with
  | .error _ => (s, none)
  | .ok ps => s.readAll c ps

/-- The answer of VERIFY (R98, R232). -/
def State.verifyImage (s : State) (c : CpId) (a : Word) : State × Word :=
  let key := (s.part (s.slot c).part).rkey
  match s.readRange c a 160 with
  | (s1, none) => (s1, 3)
  | (s1, some h) =>
    let total := fld h 0x18 4
    if fld h 0 4 != 0x314C525A || fld h 4 2 != 1 || decide (total < 0xD90) || decide (2 ^ 26 < total) then (s1, 4)
    else if key.isEmpty then (s1, 2)
    else match s1.readRange c a total with
    | (s2, none) => (s2, 3)
    | (s2, some b) => (s2, if mldsaVerify key (b.take 0xA0 ++ b.drop 0xD90) ((b.drop 0xA0).take 3309) then 0 else 1)

/-- The fused-off columns of a grid row (R232, R334). -/
def fusedRow (fuse : BitVec 256) (row : Word) : Word :=
  if row.toNat > 15 then -1 else BitVec.ofNat 64 (fuse.toNat / 2 ^ (16 * row.toNat) % 65536)

/-- The gang of an identifier, as this package knows it. -/
def State.gang (s : State) (gid : Word) : Option Gang := s.gangs.find? fun g => g.gid == gid

/-- The STATE code of R435. -/
def GangState.code : GangState → Nat
  | .preparing => 1
  | .ready => 2
  | .committed => 3
  | .confirmed => 4
  | .aborted => 5
  | .stopped => 6
  | .retired => 7

/-- The gang status word (R435); 0 for a gang unknown here or of another partition (R441). At the initiator, ACKS counts the
members whose last expected message has arrived: the ACKs while preparing, the COMMIT-ACKs afterwards. -/
def State.gangWord (s : State) (part : BitVec 5) (gid : Word) : Word :=
  match s.gang gid with
  | none => 0
  | some g =>
    if g.part != part then 0
    else
      let acks := if g.initHere then (if g.ts = 0 then g.acks.length else g.commits.length) else 0
      BitVec.ofNat 64 (acks * 2 ^ 32 + g.initHere.toNat * 2 ^ 29 + g.late.toNat * 2 ^ 28 + g.midx * 2 ^ 16
        + g.reason.toNat * 2 ^ 8 + g.state.code)

/-- The management core's answer to what an entry awaits. -/
def State.answer (s : State) (c : CpId) : Ask → State × Word
  | .verify a => s.verifyImage c a
  | .fused row => (s, fusedRow (s.core c.core).fuse row)
  | .energy => (s, (s.slot c).energy)
  | .other => (s, -1)
  | .gang gid => (s, s.gangWord (s.slot c).part gid)

/-- LANDING: the value of a far load, of an amo or of the management core's answer arrives and will land (R164, R220 to R223,
R232). A far access that is not due leaves the state unchanged. -/
def execLanding (c : CpId) (id : Nat) (s : State) : Out State :=
  .next <|
    match ((s.cp c).lqT ++ (s.cp c).lqH).find? (fun e => e.id == id && e.rem.isNone) with
    | none => s
    | some e =>
      match e.ask, e.far with
      | some q, _ => (s.answer c q).1.arrive c id (s.answer c q).2
      | none, none => s
      | none, some (pa, op) =>
        s.landFarTurn c e pa op

/-! ### CSRs (R18, R169, R170, R233 to R236, R414, R416, R429) -/

/-- Handler-only CSRs (R234); the thread registers are so for reads too (R235). -/
def csrHandlerOnly (n : Nat) : Bool := n == 0x001 || n == 0x020 || n == 0x021 || n == 0x025
def csrThreadReg (n : Nat) : Bool := decide (0x040 ≤ n) && decide (n ≤ 0x05F)
/-- RWP CSRs and whether the policy opens them (R18, R414). -/
def csrDebug (n : Nat) : Bool := n == 0x030
def csrProfile (n : Nat) : Bool := decide (0x031 ≤ n) && decide (n ≤ 0x035)

/-- CORESHARE (R170). -/
def Core.share (k : Core) : Word := BitVec.ofNat 64 (k.ssb.toNat * 2 ^ 16 + k.smb.toNat * 2 ^ 8 + k.lsb.toNat)

/-- The time base in ns (R429). -/
def State.timeNs (s : State) : Nat := s.ftime / 11
/-- The time base is locked (R429). -/
def State.timeLocked (s : State) (d : Fin 4) : Bool := (s.die d).ftstat.getLsbD 63

/-- The value of a CSR of a slot's CP. FTIME before the lock is a free value (R234, entry 4). -/
def State.csr (s : State) (c : CpId) (n : Nat) : Word :=
  let p := s.cp c
  let t := s.slot c
  if n == 0x000 then (locOf c.core).setWidth 64
  else if n == 0x001 then BitVec.ofNat 64 (p.phase.toNat * 64 + p.check.toNat)
  else if n == 0x004 then p.tcyc
  else if n == 0x005 then s.gcyc c.core
  else if n == 0x006 then (if s.timeLocked (dieOf c.core) then BitVec.ofNat 64 s.timeNs else s.freeWord)
  else if n == 0x008 then p.cpevt.setWidth 64
  else if n == 0x010 then (s.core c.core).share
  else if n == 0x011 then BitVec.ofNat 64 c.slot.val
  else if n == 0x012 then t.part.setWidth 64
  else if n == 0x013 then t.prio.setWidth 64
  else if n == 0x020 then p.tvec
  else if n == 0x021 then p.tpc
  else if n == 0x022 then p.tcause.setWidth 64
  else if n == 0x023 then p.tval
  else if n == 0x024 then p.tfpc
  else if n == 0x025 then p.tscr
  else if csrDebug n then (if s.debugOpen c then p.dbgctl.setWidth 64 else 0)
  else if n == 0x031 then (if s.profileOpen c then p.profctl.setWidth 64 else 0)
  else if csrProfile n then (if s.profileOpen c then p.pmc.get ⟨(n - 0x032) % 4, by omega⟩ else 0)
  else if csrThreadReg n then bankReg p.bankT (BitVec.ofNat 5 (n - 0x040))
  else 0

/-- A write of a CSR through its access codes (R18, R233 to R236); a read-only one ignores it. -/
def Cp.setCsr (p : Cp) (n : Nat) (v : Word) : Cp :=
  if n == 0x001 then { p with check := v.getLsbD 0 }
  else if n == 0x008 then { p with cpevt := p.cpevt &&& ~~~(v.setWidth 5) }
  else if n == 0x020 then { p with tvec := v &&& ~~~(3 : Word) }
  else if n == 0x021 then { p with tpc := v }
  else if n == 0x025 then { p with tscr := v }
  else if csrDebug n then { p with dbgctl := v.setWidth 3 }
  else if n == 0x031 then { p with profctl := v.setWidth 36 }
  else if csrProfile n then { p with pmc := vmod p.pmc ⟨(n - 0x032) % 4, by omega⟩ fun _ => v }
  else if csrThreadReg n then { p with bankT := bankSet p.bankT (BitVec.ofNat 5 (n - 0x040)) v }
  else p

/-- A write of a CSR of a slot's CP; a thread register is a word of array 7 (R307, R309). -/
def State.writeCsr (s : State) (c : CpId) (n : Nat) (v : Word) : State :=
  let s1 := s.modCp c fun p => p.setCsr n v
  if csrThreadReg n then s1.writeArr c.core (s.slot c).part 7 (bankUnit c false) (n - 0x040) 1 else s1

/-- A csr instruction traps PROTECT (R208, R233, R235): a write to a handler-only CSR or any use of a thread register in
thread mode, and a write to an RWP CSR that the policy does not open. -/
def State.csrDenied (s : State) (n : Nat) (write : Bool) : Bool :=
  let thread := !(s.cp s.cur).handler
  (thread && (csrThreadReg n || (write && csrHandlerOnly n))) ||
  (write && ((csrDebug n && !s.debugOpen s.cur) || (csrProfile n && !s.profileOpen s.cur)))

/-- The csr group: the old value with latency 2 into RD when there is one, and the new value when it writes (R233). -/
def State.csrOp (s : State) (n : Nat) (reads : List Reg) (d : Option Reg) (write : Bool) (new : State → Word → Word) : Out State :=
  if s.csrDenied n write then .next (s.trapFree s.cur cPROTECT)
  else s.issue reads d.toList d.isSome fun t =>
    let old := t.csr t.cur n
    let t0 := if n == 0x006 then t.took else t
    let t1 := match d with | some r => t0.putLate r old 2 | none => t0
    let t2 := if write then t1.writeCsr t.cur n (new t old) else t1
    t2.advance

/-- csrr (R233). -/
def execCsrr (d : Reg) (n : BitVec 12) (s : State) : Out State := s.csrOp n.toNat [] (some d) false fun _ v => v
/-- csrw (R233). -/
def execCsrw (a : Reg) (n : BitVec 12) (s : State) : Out State := s.csrOp n.toNat [a] none true fun t _ => t.reg a

/-- csrs (R233): the old value with the mask's bits set is written through the access codes, so on CPEVT every bit it
holds 1 clears (R18). -/
def execCsrs (d a : Reg) (n : BitVec 12) (s : State) : Out State :=
  s.csrOp n.toNat [a] (some d) (a != 0) fun t old => old ||| t.reg a
/-- csrc (R233). -/
def execCsrc (d a : Reg) (n : BitVec 12) (s : State) : Out State :=
  s.csrOp n.toNat [a] (some d) (a != 0) fun t old => old &&& ~~~(t.reg a)

/-! ### Instruction fetch (R198, R446) -/

/-- A word of a cache line. -/
def lineWord (l : BitVec 512) (a : Nat) : W32 := BitVec.ofNat 32 (l.toNat / 2 ^ (8 * (a % 64)))

/-- What a fetch at an address finds. -/
inductive Fetched where
  | word (w : W32)
  | retire
  | miss
  | cause (c : BitVec 8)
  /-- the word holds an uncorrectable error (R307, R446) -/
  | bad (pa : PAddr)
  deriving DecidableEq, Repr, Inhabited

/-- A fetch: Local directly, with the errors of its word logged, Far through the instruction cache, the retire address in thread mode,
and ADDRCLASS elsewhere. A Local address beyond the slot's share is PROTECT, as for a load (R162). -/
def State.fetch (s : State) (c : CpId) : State × Fetched :=
  let p := s.cp c
  let a := p.pc
  if a = 0x3FFFFC && !p.handler then (s, .retire)
  else match classOf a with
  | .near =>
    match s.nearPlace c a 4 with
    | .ok pa =>
      match s.load c (s.slot c).part pa 4 with
      | (t, some b) => (t, .word (BitVec.ofNat 32 (leNat b)))
      | (t, none) => (t, .bad pa)
    | .error e => (s, .cause e)
  | .far =>
    match p.icache.find? fun l => l.part == (s.slot c).part && l.line == a.toNat / 64 with
    | some l => (s, .word (lineWord l.data a.toNat))
    | none => (s, .miss)
  | _ => (s, .cause cADDRCLASS)

/-- The 64 bytes of a line, or syndrome and DETAIL of an uncorrectable error in any of its words (DEDUCED: R446 does not say that the error
stands in the fetched word; entry 41). No error completion arrives for a fetch from outside the package (DESIGN CHOICE: R446 names no cause for
one; entry 41). -/
def State.readLine (s : State) (c : CpId) (base : PAddr) : State × Except (Word × Word) (BitVec 512) :=
  match s.readFrom c base 64 with
  | (s1, .error e) => (s1, .error e)
  | (s1, .ok b) => (s1, .ok (BitVec.ofNat 512 (leNat b)))

/-- FETCH_MISS_FILL: the line of a fetch that waits arrives, or its walk or its data fail (R446). The trap has TPC and TFPC
at the fetched address; a deferred trap that is pending by then is taken first, and the fetch is made again after tret (R296). -/
def execFetchMissFill (c : CpId) (s : State) : Out State :=
  .next <|
    match (s.cp c).run with
    | .fetchWait va =>
      let part := (s.slot c).part
      let s1 := s.modCp c fun p => { p with run := .running }
      let stop (t : State) (cause : BitVec 8) (synd detail : Word) : State :=
        if !(s.cp c).handler && !(s.cp c).dtraps.isEmpty then s1
        else if s.recRoom c.core (.cp c) || !(recorded cause || (s.cp c).handler) then
          (t.syncTrapWith c cause va synd detail va).modCp c fun p => { p with untimed := 2 }
        else s.holdRec c.core (.cp c)
      match s.place c va 4 false with
      | .error e => stop s1 e 0 0
      | .ok pa =>
        let base : PAddr := { pa with off := pa.off / 64 * 64 }
        if s.parkedBlock base then s
        else match s1.readLine c base with
        | (s2, .error e) => stop s2 cUNCORR e.1 e.2
        | (s2, .ok b) =>
          let line : ICacheLine := { part := part, line := va.toNat / 64, data := b }
          (({ s2 with cur := c } : State).cacheTranslation va).modCp c fun p => { p with icache := line :: p.icache.take 255 }
    | _ => s

/-- TINV removes cached translations and lines that overlap a range (R274); an address range cut off at 2^64 − 1. -/
def overlapsRange (base len a n : Nat) : Bool := decide (0 < len) && decide (a < base + len) && decide (base < a + n)

end Sys2Proof.Machine
end

