-- ==== Sys2Proof/Machine/Sync.lean ====
section
/-! DEFINITION. The immediate engine commands and synchronisation: records and command queue entry (R237 to R241), spat,
stgrel, sig, waitge, pub, bind, unbind, trig, launch, tinv, and counter adds in flight (R251, R264 to R274). -/
namespace Sys2Proof.Machine

/-! ### Records and the command queue -/

/-- The check of a record operand at issue (R237): the failing cause and address, or the places of its bytes. -/
def State.record (s : State) (a : Word) (align len : Nat) (write : Bool) : Except (BitVec 8 × Word) (List PAddr) :=
  s.recordPlaces s.cur a align len write

/-- The failure that is raised among several: the first cause in the order MISALIGNED, ADDRCLASS, PAGE, PROTECT, which is that of their
codes, and of equal ones the earlier operand's (R210). -/
def firstFailure : List (Option (BitVec 8 × Word)) → Option (BitVec 8 × Word)
  | [] => none
  | none :: t => firstFailure t
  | some e :: t =>
    match firstFailure t with
    | none => some e
    | some f => if f.1.toNat < e.1.toNat then some f else some e

/-- How the check of an operand fails, with the address it names. -/
def failure {α : Type} (a : Word) : Except (BitVec 8) α → Option (BitVec 8 × Word)
  | .ok _ => none
  | .error e => some (e, a)
def recordFailure {α : Type} : Except (BitVec 8 × Word) α → Option (BitVec 8 × Word)
  | .ok _ => none
  | .error e => some e

/-- A command with a checked record: a failing check traps and has no effect. -/
def State.withRecord (s : State) (a : Word) (align len : Nat) (write : Bool) (k : List PAddr → State) : State :=
  match s.record a align len write with
  | .error (e, x) => s.trapAccess s.cur e x write
  | .ok ps => k ps

/-- A record is read at issue, once no write is parked on it (R357); an uncorrectable error is a deferred command fault, and the command
has no effect (R241). -/
def State.readRecord (s : State) (a : Word) (ps : List PAddr) (k : State → List Byte → State) : State :=
  if ps.any s.parkedBlock then s
  else match s.loadPieces s.cur 16 ps with
  | (s1, .ok b) => k s1 b
  | (s1, .error pa) =>
    (s1.newId.commandFault s.cur s.ids s.pc cUNCORR (a + BitVec.ofNat 64 (16 * ps.idxOf pa))
      (a + BitVec.ofNat 64 (16 * ps.idxOf pa)) (s.synd pa 16) (s.uncorrDetail pa 16)).advance

/-- The command queue has room (R193). -/
def Slot.queueRoom (t : Slot) : Bool := decide (t.cmdq.length < 16)

/-- A command enters the queue and leaves issue (R193, R238); a full queue holds the CP at issue. -/
def State.enqueue (s : State) (i : Instr) (a b : Word) : State :=
  let c := s.cur
  if (s.slot c).queueRoom then
    let cmd : Cmd := { order := s.ids, pc := s.pc, i := i, a := a, b := b, part := s.myPart }
    (s.newId.modSlot c fun t => { t with cmdq := t.cmdq ++ [cmd] }).advance
  else s

/-- A queued command whose record, of the length that `len` finds, is checked at issue. -/
def State.queuedBy (s : State) (i : Instr) (reads : List Reg) (a b : State → Word) (align : Nat) (len : State → Nat) (write : Bool) : Out State :=
  s.issue reads [] false fun t => t.withRecord (a t) align (len t) write fun _ => t.enqueue i (a t) (b t)

/-- A queued command whose record has one length. -/
def State.queued (s : State) (i : Instr) (reads : List Reg) (a b : State → Word) (align len : Nat) (write : Bool) : Out State :=
  s.queuedBy i reads a b align (fun _ => len) write

/-- A queued command without a record. -/
def State.queuedPlain (s : State) (i : Instr) (reads : List Reg) (a : State → Word) : Out State :=
  s.issue reads [] false fun t => t.enqueue i (a t) 0

/-- A queued command that answers into RX through an interlocked entry (R238, R248): the command has the entry's number. -/
def State.queuedAnswer (s : State) (i : Instr) (x : Reg) : Out State :=
  s.issue [] [x] true fun t =>
    let c := t.cur
    if (t.slot c).queueRoom then
      let cmd : Cmd := { order := t.ids, pc := t.pc, i := i, a := 0, b := 0, part := t.myPart }
      ((t.putPending x none none 0).modSlot c fun u => { u with cmdq := u.cmdq ++ [cmd] }).advance
    else t

/-! ### Counters -/

/-- A slot's agent sends a counter add (R266). -/
def State.postAdd (s : State) (c : CpId) (agent : Agent) (pa : PAddr) (a k : Word) : State :=
  let part := (s.slot c).part
  let x : CtrAdd := { id := s.ids, agent := agent, sender := c, part := part, gen := (s.part part).gen, wid := (s.slot c).wid,
                      pa := pa, vaddr := a, inc := k }
  { s.newId with adds := s.adds ++ [x] }

/-- An agent of a slot has an add under way; only one older than a number counts. -/
def State.addsOf (s : State) (c : CpId) (agent : Agent) (id : Nat) : Bool :=
  s.adds.any fun x => x.sender == c && x.agent == agent && decide (x.id < id)

/-- The add of a Signal (R22, R267): a near counter is added to at once, a far one by a posted add. An add that follows one under way of
the same agent performs after it, because a release carries its agent's earlier writes (R282). -/
def State.signalBy (s : State) (c : CpId) (agent : Agent) (pa : PAddr) (a k : Word) : State :=
  if pa.near && !s.addsOf c agent s.ids then s.addCounter c (s.slot c).part pa k else s.postAdd c agent pa a k

/-- The CP's signal (R267). -/
def State.signal (s : State) (pa : PAddr) (a k : Word) : State := s.signalBy s.cur .cp pa a k

/-- sig (R265, R267). -/
def execSig (a b : Reg) (_scope : BitVec 3) (s : State) : Out State :=
  s.issue [a, b] [] false fun t =>
    match t.counterPlace t.cur (t.reg a) true with
    | .error e => t.trapAccess t.cur e (t.reg a) true
    | .ok pa => if t.accessesDone t.cur then (t.signal pa (t.reg a) (t.reg b)).advance else t

/-- waitge (R265, R268): it holds the CP until it observes the counter at or above the target. -/
def execWaitge (a b : Reg) (_scope : BitVec 3) (s : State) : Out State :=
  s.issue [a, b] [] false fun t =>
    match t.counterPlace t.cur (t.reg a) false with
    | .error e => t.trapAt t.cur e (t.reg a)
    | .ok pa =>
      if t.olderAccess t.cur t.ids pa 8 || t.parkedBlock pa then t
      else match t.load t.cur t.myPart pa 8 with
      | (t1, some v) => if (t.reg b).toNat ≤ leNat v then t1.advance else t1
      | (t1, none) => (t1.newId.farFault t.cur t.ids cUNCORR (t.reg a) t.pc (t.synd pa 8) (t.uncorrDetail pa 8)).advance

/-- The place of a record's byte, from the places of its 16-byte pieces. -/
def pieceAt (ps : List PAddr) (off : Nat) : PAddr := ((ps[off / 16]?).getD default).plus (off % 16)

/-- A field of a record is read alone, where the instruction reads no more of it: it waits as a record's read does. -/
def State.readField (s : State) (a : Word) (ps : List PAddr) (off len : Nat) (k : State → List Byte → State) : State :=
  let pa := pieceAt ps off
  let va := a + BitVec.ofNat 64 off
  if s.parkedBlock pa then s
  else match s.load s.cur s.myPart pa len with
  | (s1, some b) => k s1 b
  | (s1, none) =>
    (s1.newId.commandFault s.cur s.ids s.pc cUNCORR va va (s.synd pa len) (s.uncorrDetail pa len)).advance

/-- SEL is inverted by one write of the aligned word at offset 0x10 (R186, R269). -/
def State.flipSel (s : State) (c : CpId) (pa : PAddr) (va fpc : Word) : State :=
  s.changeWord c pa va fpc fun v => some (v ^^^ BitVec.ofNat 64 (2 ^ 32))

/-- pub (R265, R269): g0 as RB names no counter. -/
def execPub (a b : Reg) (n : BitVec 7) (_scope : BitVec 3) (s : State) : Out State :=
  s.issue [a, b] [] false fun t =>
    let ctr := t.counterPlace t.cur (t.reg b) true
    match firstFailure [recordFailure (t.record (t.reg a) 32 32 true), if b = 0 then none else failure (t.reg b) ctr] with
    | some (e, x) => t.trapAccess t.cur e x true
    | none =>
      t.withRecord (t.reg a) 32 32 true fun ps =>
        if t.accessesDone t.cur then
          let u := t.flipSel t.cur (pieceAt ps 0x10) (t.reg a + 0x10) t.pc
          (match ctr with
            | .ok pa => if b = 0 then u else u.signal pa (t.reg b) (n.setWidth 64)
            | .error _ => u).advance
        else t

/-- A raise of a counter to the larger of its value and v (R264). -/
def State.raiseCounter (s : State) (c : CpId) (pa : PAddr) (va v : Word) : State :=
  s.changeWord c pa va (s.cp c).pc fun x => if x.toNat < v.toNat then some v else none

/-- The region of an agent. -/
def Agent.region : Agent → Option (Fin 4)
  | .take r => some r
  | _ => none

/-- An add's partition is the one that sent it, and still owns the counter's memory (R266). -/
def State.addAllowed (s : State) (x : CtrAdd) : Bool :=
  (s.part x.part).live && (s.part x.part).gen == x.gen && s.ownerOk x.part x.pa true

/-- An add waits for an older one of its agent (R277, R282), and one of a CP for the CP's older accesses to its counter (R222). -/
def State.addWaits (s : State) (x : CtrAdd) : Bool :=
  s.addsOf x.sender x.agent x.id || (x.byCp && s.olderAccess x.sender x.id x.pa 8) || s.parkedBlock x.pa

/-- COUNTER_ADD_ARRIVE: a posted add performs at its counter, is parked there (R357), or is dropped with a record when the memory's
partition has been torn down since (R266). -/
def execCounterAddArrive (id : Nat) (s : State) : Out State :=
  .next <|
    match s.adds.find? (fun x => x.id == id) with
    | none => s
    | some x =>
      if s.addWaits x then s
      else if s.addAllowed x && !x.refused then
        match s.parkTurn (s.performAdd x) x.sender x.id x.part (s.surfaceOf x.part x.vaddr) x.pa with
        | .performs => (s.performAdd x).slotted x.part (s.surfaceOf x.part x.vaddr) x.vaddr
        | .waits => s
        | .parks d k => s.parkRec x.sender x.id x.part x.vaddr 0 d k
      else
        let s1 := if x.refused then s else s.queueRec x.sender.core (.job x.id)
          { s.slotRec x.sender cPROTECT 0x06 x.agent.region with part := x.part, wid := x.wid, vaddr := x.vaddr }
        if s1.recWaits x.sender.core (.job x.id) then
          { s1 with adds := s1.adds.map fun y => if y.id == x.id then { y with refused := true } else y }
        else { s1 with adds := s1.adds.filter fun y => y.id != id }

/-- stgrel (R264): REL of the stage rises to the sequence plus one; a stage without definition does nothing. A unit that another partition owns
by then refuses the access (R318, entry 41). -/
def execStgrel (a : Reg) (j : BitVec 4) (s : State) : Out State :=
  s.issue [a] [] false fun t =>
    if t.accessesDone t.cur then
      match (t.slot t.cur).stages.get (ix16 j) with
      | none => t.advance
      | some g =>
        if t.ownerOk t.myPart g.rel true then (t.raiseCounter t.cur g.rel g.relVa (t.reg a + 1)).advance
        else t.trapAccess t.cur cPROTECT g.relVa true
    else t

/-! ### Patterns -/

/-- spat (R251): the record is read at issue and written to the pattern slot; it checks nothing more. -/
def execSpat (a : Reg) (k : BitVec 4) (s : State) : Out State :=
  s.issue [a] [] false fun t =>
    t.withRecord (t.reg a) 64 64 false fun ps =>
      t.readRecord (t.reg a) ps fun u b =>
        (u.modSlot t.cur fun x => { x with patterns := vmod x.patterns (ix16 k) fun _ => BitVec.ofNat 512 (leNat b) }).advance

/-! ### Bound regions (R270, R271) -/

/-- A far range lies in the partition's HBM or cluster buffer, tested once in every 64 KiB and at its last byte. -/
def State.rangeBindable (s : State) (part : BitVec 5) : Nat → Word → Nat → Except (BitVec 8) Unit
  | 0, _, _ => .ok ()
  | fuel + 1, a, len =>
    match s.translate part a false with
    | .error e => .error e
    | .ok pa =>
      match pa.space with
      | .cb _ | .hbm _ =>
        let left := 65536 - a.toNat % 65536
        if len ≤ left then .ok () else s.rangeBindable part fuel (a + BitVec.ofNat 64 left) (len - left)
      | _ => .error cADDRCLASS

/-- bind (R270). -/
def execBind (x a b : Reg) (s : State) : Out State :=
  s.issue [x, a, b] [] false fun t =>
    let base := t.reg a
    let len := t.reg b
    let part := t.myPart
    let binds := (t.part part).binds
    let region : Option (BitVec 8 × Word) :=
      if base.toNat % 64 != 0 || len.toNat % 64 != 0 || decide (len.toNat < 64) then some (cMISALIGNED, base)
      else failure base (t.rangeBindable part (len.toNat / 65536 + 2) base len.toNat)
    match firstFailure [region, failure (t.reg x) (t.counterPlace t.cur (t.reg x) false)] with
    | some (e, v) => t.trapAccess t.cur e v false
    | none =>
      if binds.any (fun y => decide (y.2.1.toNat < base.toNat + len.toNat) && decide (base.toNat < y.2.1.toNat + y.2.2.toNat)) then
        t.trapAt t.cur cPROTECT base
      else if binds.length ≥ 1024 then t.trapAt t.cur cSPACE base
      else (t.modPart part fun p => { p with binds := p.binds ++ [(t.reg x, base, len)] }).advance

/-- unbind (R271). -/
def execUnbind (a : Reg) (s : State) : Out State :=
  s.issue [a] [] false fun t =>
    (t.modPart t.myPart fun p => { p with binds := p.binds.filter fun y => y.2.1 != t.reg a }).advance

/-! ### Early trigger, launch, invalidation -/

/-- A queued command that writes memory (R272). -/
def writesMemory : Instr → Bool
  | .rsave .. | .cpy .. | .cpyg .. => true
  | _ => false

/-- Every memory-writing command of the slot older than a number has completed. -/
def Slot.writesDone (t : Slot) (order : Nat) : Bool :=
  !(t.cmdq.any fun c => writesMemory c.i && decide (c.order < order)) &&
  !(t.copyq.any fun j => decide (j.cmd.order < order)) &&
  !(match t.copying with | some r => decide (r.job.cmd.order < order) | none => false)

/-- Every access of the slot's CP older than a number has performed. -/
def State.olderDone (s : State) (c : CpId) (order : Nat) : Bool :=
  let p := s.cp c
  !(p.posted.any fun w => decide (w.id < order)) &&
  !((p.lqT ++ p.lqH).any fun e => e.far.isSome && e.rem.isNone && decide (e.id < order)) &&
  !(s.adds.any fun x => x.byCp && x.sender == c && decide (x.id < order))

/-- The WIDs that a launch's tasks have reported or retired: added once. -/
def addOnce (w : Word) (l : List Word) : List Word := if l.contains w then l else l ++ [w]

/-- The trig of a slot's task is reported to dispatch once what it waits for has happened (R272). -/
def State.reportTrig (s : State) (c : CpId) : State :=
  let t := s.slot c
  match t.cp.trigged with
  | some order =>
    if !t.cp.trigReported && s.olderDone c order && t.writesDone order then
      let s1 := s.modCp c fun p => { p with trigReported := true }
      match t.launch with
      | none => s1
      | some l => { s1 with launches := s1.launches.map fun x => if x.id == l then { x with triggered := addOnce t.wid x.triggered } else x }
    else s
  | none => s

/-- The bytes of a launch's slate, by offset. -/
def Launch.fld (l : Launch) (off n : Nat) : Nat := Machine.fld l.slate off n

/-- The offset of field f in the WID: the sum of the widths below it (R340). -/
def shapeWidth (shape f : Nat) : Nat := shape / 2 ^ (6 * f) % 64
def fieldOffset (shape : Nat) : Nat → Nat
  | 0 => 0
  | f + 1 => fieldOffset shape f + shapeWidth shape f

/-- The extent of field f: 1 for an absent field. -/
def fieldExtent (shape extm1 f : Nat) : Nat :=
  let w := shapeWidth shape f
  if w = 0 then 1 else extm1 / 2 ^ (fieldOffset shape f) % 2 ^ w + 1

/-- The number of tasks of a launch (R340). -/
def taskCount (shape extm1 : Nat) : Nat := (List.range 6).foldl (fun n f => n * fieldExtent shape extm1 f) 1

/-- The tasks of a launch on this package. -/
def Launch.tasks (l : Launch) : Nat := taskCount (l.fld 0x10 8) (l.fld 0x18 8)

/-- Firmware adds to a launch's counter: its partition's tables place it (R345). -/
def State.launchSignal (s : State) (part : BitVec 5) (a : Word) (k : Nat) : State :=
  if a = 0 then s
  else match s.translate part a false with
  | .ok pa => if pa.space.package then s.firmwareAdd part pa a (BitVec.ofNat 64 k) else s
  | .error _ => s

/-- No write is parked on the block of a launch's counter, whose reads and adds would wait with it (R357). -/
def State.counterFree (s : State) (part : BitVec 5) (a : Word) : Bool :=
  a == 0 || (match s.translate part a false with | .ok pa => !s.parkedBlock pa | .error _ => true)

/-- What a launch's progress makes due: ETINC when every task has triggered or retired, then DINC when every task has
retired (R345). -/
def State.launchProgress (s : State) (id : Nat) : State :=
  match s.launches.find? (fun l => l.id == id) with
  | none => s
  | some l =>
    let ends := l.triggered.foldl (fun r w => addOnce w r) l.retired
    let etrig := BitVec.ofNat 64 (l.fld 0x30 8)
    let dsig := BitVec.ofNat 64 (l.fld 0x28 8)
    let trig := !l.trigSent && decide (l.tasks ≤ ends.length) && s.counterFree l.part etrig
    let s1 := if trig then s.launchSignal l.part etrig (l.fld 0x3C 2) else s
    let done := !l.doneSent && (l.trigSent || trig) && decide (l.tasks ≤ l.retired.length) && s1.counterFree l.part dsig
    let s2 := if done then s1.launchSignal l.part dsig (l.fld 0x38 4) else s1
    { s2 with launches := s2.launches.map fun x =>
        if x.id == id then { x with trigSent := x.trigSent || trig, doneSent := x.doneSent || done } else x }

/-- PARK_RELEASE: firmware has added escape pages; a parked write whose block now has a place performs (R357). A copy's unit and a stream's
token are written again by their engines, and launches' counter updates that waited for the block follow. -/
def execParkRelease (d : Fin 4) (k : Fin 2) (s : State) : Out State :=
  .next <|
    let l := (s.die d).ctl.get k
    let s1 := l.park.foldl (State.release d k) (l.left.foldl (State.releaseLeft d k) s)
    s.launches.foldl (fun t l => t.launchProgress l.id) s1

/-- A slot's report and what it makes due. -/
def State.reportAndProgress (s : State) (c : CpId) : State :=
  let s1 := s.reportTrig c
  match (s.slot c).launch with
  | none => s1
  | some l => s1.launchProgress l

/-- trig (R272): posted; a second one does nothing. -/
def execTrig (s : State) : Out State :=
  s.issue [] [] false fun t =>
    let c := t.cur
    let t1 := match (t.cp c).trigged with
      | none => t.newId.modCp c fun p => { p with trigged := some t.ids }
      | some _ => t
    (t1.reportAndProgress c).advance

/-- A work queue of the package (R335). -/
def State.wq (s : State) (q : Nat) : Wq :=
  if h : q / 1024 < 4 then (((s.die ⟨q / 1024, h⟩).wqs.find? fun x => x.1 == q % 1024).map Prod.snd).getD Wq.reset
  else Wq.reset
def State.setWq (s : State) (q : Nat) (w : Wq) : State :=
  if h : q / 1024 < 4 then
    s.modDie ⟨q / 1024, h⟩ fun d => { d with wqs := (q % 1024, w) :: d.wqs.filter fun x => x.1 != q % 1024 }
  else s

/-- Fields of WQ.CFG (R336). -/
def Wq.lnch (w : Wq) : Bool := w.cfg.getLsbD 24
def Wq.fn (w : Wq) : BitVec 8 := w.cfg.extractLsb' 16 8
def Wq.part (w : Wq) : BitVec 5 := w.cfg.extractLsb' 8 5
def Wq.log2sz (w : Wq) : Nat := wbits w.cfg 4 0
def Wq.enabled (w : Wq) : Bool := w.cfg.getLsbD 15 && decide (4 ≤ w.log2sz) && decide (w.log2sz ≤ 16)
/-- Slates in the queue. -/
def Wq.held (w : Wq) : Nat := (w.tail - w.head).toNat
/-- The virtual address of slate k (R336). -/
def Wq.entry (w : Wq) (k : W32) : Word := w.base + BitVec.ofNat 64 (64 * (k.toNat % 2 ^ w.log2sz))

/-- launch (R273, R337): the slate is copied into the queue's next entry and TAIL advances; a full queue holds the CP. -/
def execLaunch (a b : Reg) (s : State) : Out State :=
  s.issue [a, b] [] false fun t =>
    t.withRecord (t.reg a) 64 64 false fun ps =>
      let q := (t.reg b).toNat
      let w := t.wq q
      if decide (4095 < q) || w.part != t.myPart || !w.lnch || !w.enabled then t.trapAt t.cur cPROTECT (t.reg b)
      else if !t.accessesDone t.cur || decide (2 ^ w.log2sz ≤ w.held) then t
      else t.readRecord (t.reg a) ps fun u slate =>
        let u1 := match u.translate w.part (w.entry w.tail) true with
          | .ok pa => u.storeOrPark u.cur pa (w.entry w.tail) u.pc slate
          | .error _ => u
        (u1.setWq q { w with tail := w.tail + 1 }).advance

/-- The cached translations and instruction lines of a CP lose those of a range. -/
def Cp.dropRange (p : Cp) (part : BitVec 5) (base len : Nat) : Cp :=
  { p with ftc := p.ftc.filter fun e => !(e.part == part && overlapsRange base len e.page.va e.page.size)
           icache := p.icache.filter fun l => !(l.part == part && overlapsRange base len (64 * l.line) 64) }

/-- Cached translations and instruction lines of a range go from a core, whichever slot they were taken for (R183, R221, R274, R446). -/
def State.dropCached (s : State) (k : Fin 256) (part : BitVec 5) (base len : Nat) : State :=
  s.modCore k fun x =>
    { x with edgeTlb := x.edgeTlb.filter fun e => !(e.part == part && overlapsRange base len e.page.va e.page.size)
             slots := x.slots.map fun t => { t with cp := t.cp.dropRange part base len } }

/-- tinv (R274): a range that passes 2^64 − 1 is cut off there. -/
def execTinv (a b : Reg) (s : State) : Out State :=
  s.issue [a, b] [] false fun t =>
    let base := (t.reg a).toNat
    let len := min (t.reg b).toNat (2 ^ 64 - base)
    (t.dropCached t.cur.core t.myPart base len).advance

end Sys2Proof.Machine
end

