-- ==== Sys2Proof/Machine/Stream.lean ====
section
/-! DEFINITION. Access patterns, bindings, stream engines, the ring, and tokens on their way to taps and memory
(R172 to R187, R251 to R256, R301, R358, R359, R445, R447). -/
namespace Sys2Proof.Machine

/-! ### Access patterns (R179, R180) -/

/-- n bytes of a pattern record from an offset. -/
def patFld (p : BitVec 512) (off n : Nat) : Nat := p.toNat / 2 ^ (8 * off) % 2 ^ (8 * n)
def patBase (p : BitVec 512) : Nat := patFld p 0 8
def patStride (p : BitVec 512) (d : Nat) : Int := (BitVec.ofNat 64 (patFld p (8 + 8 * d) 8)).toInt
/-- Count − 1 of a dimension. -/
def patCnt (p : BitVec 512) (d : Nat) : Nat := patFld p (0x30 + 2 * d) 2
def patSpace (p : BitVec 512) : Nat := patFld p 0x3A 1 % 4
def patInd (p : BitVec 512) : Bool := (patFld p 0x3A 1).testBit 2
def patWrite (p : BitVec 512) : Bool := (patFld p 0x3A 1).testBit 3
def patIsrc (p : BitVec 512) : Nat := patFld p 0x3B 1
def patIsh (p : BitVec 512) : Nat := patFld p 0x3C 1

/-- Tokens below one step of dimension d. -/
def patBelow (p : BitVec 512) : Nat → Nat
  | 0 => 1
  | d + 1 => patBelow p d * (patCnt p d + 1)

/-- The number of tokens of a pattern. -/
def patTotal (p : BitVec 512) : Nat := patBelow p 5

/-- Index of dimension d at position k, dimension 0 innermost. -/
def patIndex (p : BitVec 512) (d k : Nat) : Nat := k / patBelow p d % (patCnt p d + 1)

/-- The address of position k before an index is added. -/
def patAddr (p : BitVec 512) (k : Nat) : Int :=
  (List.range 5).foldl (fun a d => a + (patIndex p d k : Int) * patStride p d) (patBase p : Int)

/-- LR and LS of position k. -/
def patLr (p : BitVec 512) (k : Nat) : Bool := patIndex p 0 k == patCnt p 0
def patLs (p : BitVec 512) (k : Nat) : Bool := k + 1 == patTotal p

/-- The footprint of a pattern (R181). -/
def patLo (p : BitVec 512) : Int :=
  (List.range 5).foldl (fun a d => a + min 0 ((patCnt p d : Int) * patStride p d)) (patBase p : Int)
def patHi (p : BitVec 512) : Int :=
  (List.range 5).foldl (fun a d => a + max 0 ((patCnt p d : Int) * patStride p d)) (patBase p : Int) + 32

/-- The fields of a record keep R179. -/
def patFieldsOk (p : BitVec 512) : Bool :=
  patSpace p != 3 && decide (patFld p 0x3A 1 < 16) && decide (patFld p 0x3D 1 ≤ 11) && patFld p 0x3E 2 == 0 &&
  ((List.range 5).all fun d => patStride p d % 32 == 0) && (patSpace p == 2 || patBase p % 32 == 0) &&
  (if patInd p then decide (patIsrc p ≤ 15) && decide (5 ≤ patIsh p) && decide (patIsh p ≤ 20)
   else patIsrc p == 0 && patIsh p == 0)

/-- SPACE suits the port (R181). -/
def patSuits (p : BitVec 512) (port : BitVec 5) : Bool :=
  match patSpace p with
  | 0 => decide (port.toNat < 16)
  | 1 => port == 16 || port == 20
  | _ => port == 17 || port == 18 || port == 19 || port == 21 || port == 22 || port == 23

/-! ### Endpoint descriptors (R358, R425) -/

/-- The peer that a descriptor of KIND 0 names: core slot and port. -/
def descCp (d : Word) : CpId := ⟨⟨wbits d 59 52, by unfold wbits bits; omega⟩, ⟨wbits d 51 51, by unfold wbits bits; omega⟩⟩
def descPort (d : Word) : BitVec 5 := d.extractLsb' 46 5
/-- The peer of a descriptor of KIND 1. -/
def descEp (d : Word) : BitVec 20 := d.extractLsb' 40 20
def descFabCp (d : Word) : CpId := ⟨⟨wbits d 39 32, by unfold wbits bits; omega⟩, ⟨wbits d 31 31, by unfold wbits bits; omega⟩⟩
def descFabPort (d : Word) : BitVec 5 := d.extractLsb' 26 5

/-- A descriptor on a far port is one that R358 or R425 accepts. No layout stands for ports 18 and 22 (entry 25). -/
def descOk (die : Fin 4) (port : BitVec 5) (d : Word) : Bool :=
  if port == 17 || port == 21 then
    wbits d 63 62 == 0 && wbits d 61 60 == 0 && wbits d 59 58 != die.val && (descPort d == 17 || descPort d == 21) && wbits d 45 0 == 0
  else if port == 19 || port == 23 then
    wbits d 63 62 == 1 && wbits d 61 60 == 0 && descEp d != 0xFFFFF && (descFabPort d == 19 || descFabPort d == 23) && wbits d 25 0 == 0
  else false

/-! ### Regions and the taps of a port -/

/-- The physical elements of a rectangle in image order (R99). -/
def Header.elems (h : Header) : List (Fin 256) :=
  (List.range h.rows).flatMap fun r => (List.range h.cols).filterMap fun k => h.phys r k

/-- The lowest element of a bank's rectangle, and its lowest tap, bound to a port (R299). `next` chooses the bank. -/
def Slot.tapOfPort (t : Slot) (r : Fin 4) (next : Bool) (p : BitVec 5) (f : BitVec 32 → Bool) : Option (Fin 256 × Fin 4) :=
  let g := t.regions.get r
  (if next then g.nextHdr else g.onHdr).elems.findSome? fun e =>
    let k := if next then (t.elems.get e).next else (t.elems.get e).on
    if k.present then (k.findTap fun b => tapPort b == p && f b).map fun q => (e, q) else none

/-- The four regions. -/
def regions4 : List (Fin 4) := [0, 1, 2, 3]

/-- A region's on bank holds a start cue for a port (R252). -/
def Slot.hasStartCue (t : Slot) (r : Fin 4) (p : BitVec 5) : Bool :=
  ((t.regions.get r).onHdr.elems).any fun e =>
    (t.elems.get e).on.present && (t.elems.get e).on.cues.any fun q => q.extractLsb' 48 4 == 1#4 && q.extractLsb' 0 5 == p

/-! ### Stops (R301) -/

/-- The rank of a cause among those met in one take cycle. ADDRCLASS, which R301 does not rank, stands beside PAGE. -/
def stopRank (c : BitVec 8) : Nat :=
  if c == cUNCORR then 0 else if c == cPAGE then 1 else if c == cADDRCLASS then 2 else if c == cGUARD then 3 else 4

/-- Of two causes of one cycle the one the region stops with (R301). -/
def StopInfo.choose (a b : StopInfo) : StopInfo :=
  if stopRank b.cause < stopRank a.cause then b
  else if stopRank b.cause == stopRank a.cause && decide (b.elem.toNat < a.elem.toNat) then b else a

/-- A stop cause joins those of the cycle. -/
def Region.addStop (r : Region) (i : StopInfo) : Region :=
  if r.counts && !r.stopRec then { r with stopDue := match r.stopDue with | none => some i | some j => some (j.choose i) } else r

/-- A stop raised by a stream names the lowest element whose tap is bound to the port, and that tap (R299). -/
def State.streamStopInfo (s : State) (c : CpId) (r : Fin 4) (p : BitVec 5) (cause : BitVec 8) (detail vaddr synd : Word) : StopInfo :=
  let (e, i) : Nat × Nat := match (s.slot c).tapOfPort r false p fun _ => true with
    | some (e, t) => ((s.region c r).onHdr.image e, 0xC0 + t.val)
    | none => (0, 0xC0)
  { cause := cause, detail := detail, port := p.setWidth 8, elem := BitVec.ofNat 8 e, index := BitVec.ofNat 8 i, vaddr := vaddr, synd := synd }

/-- A stream's stop joins those of its region. -/
def State.streamStop (s : State) (c : CpId) (r : Fin 4) (p : BitVec 5) (cause : BitVec 8) (detail vaddr synd : Word) : State :=
  s.modRegion c r fun g => g.addStop (s.streamStopInfo c r p cause detail vaddr synd)

/-! ### Checks of a binding (R181, R187, R256) -/

/-- The extents of a translated range, one 64 KiB unit after another (R182, R183): none when a unit has no translation, is
refused, lies outside the cluster buffer, or a ninth extent is needed; with the address and the PAGE detail. -/
def State.extentsFrom (s : State) (part : BitVec 5) (write : Bool) (hi : Nat) : Nat → Nat → List Extent → Except (Nat × Nat) (List Extent)
  | 0, a, _ => .error (a, 2)
  | fuel + 1, a, acc =>
    if hi ≤ a then .ok acc.reverse
    else match s.translate part (BitVec.ofNat 64 a) write with
    | .error _ => .error (a, 0)
    | .ok pa =>
      match pa.space with
      | .cb _ =>
        match acc with
        | [] => s.extentsFrom part write hi fuel (a + 65536) [⟨a, pa, 65536⟩]
        | e :: t =>
          if e.pa.space == pa.space && e.pa.off + e.len == pa.off then
            s.extentsFrom part write hi fuel (a + 65536) ({ e with len := e.len + 65536 } :: t)
          else if 8 ≤ acc.length then .error (a, 2)
          else s.extentsFrom part write hi fuel (a + 65536) (⟨a, pa, 65536⟩ :: acc)
      | _ => .error (a, 2)

/-- The extents of a pattern's footprint. Eight extents of the 8 MiB buffer are at most 1024 units. -/
def State.extentsOf (s : State) (part : BitVec 5) (p : BitVec 512) : Except (Nat × Nat) (List Extent) :=
  s.extentsFrom part (patWrite p) (patHi p).toNat 1026 ((patLo p).toNat / 65536 * 65536) []

/-- A range of slot-relative scene memory lies inside a region that a header declares for its direction (R187). -/
def Header.declares (h : Header) (write : Bool) (a n : Nat) : Bool :=
  h.smr.any fun d => (if write then d.wr else d.rd) && decide (d.off ≤ a) && decide (a + n ≤ d.off + d.len)

/-- The headers of the loaded reels that bind a tap to a port: the on bank of a take that counts as running, since no stream
can serve an ended one (R187, entry 25), and the next bank. -/
def Slot.reelsOf (t : Slot) (p : BitVec 5) : List Header :=
  regions4.flatMap fun r =>
    let g := t.regions.get r
    (if g.counts && (t.tapOfPort r false p fun _ => true).isSome then [g.onHdr] else []) ++
    (if g.next != .empty && (t.tapOfPort r true p fun _ => true).isSome then [g.nextHdr] else [])

/-- The SPACE 0 footprints of a stream lie inside what a reel declares (R187): its own, and that of its index pattern `ip`, which
the same engine reads. The addresses of an indirect pattern are judged when they are formed. -/
def Header.covers (h : Header) (p ip : BitVec 512) : Bool :=
  let inside (w : Bool) (q : BitVec 512) : Bool := h.declares w (patLo q).toNat ((patHi q).toNat - (patLo q).toNat)
  if patInd p then inside false ip else patSpace p != 0 || inside (patWrite p) p

/-- DETAIL of a GUARD stop for scene memory (R300). -/
def sceneDetail (a : Nat) : Word := BitVec.ofNat 64 (64 + a / 65536 % 64)

/-- The last byte offset a footprint reaches. -/
def patLast (p : BitVec 512) : Nat := (patHi p - 32).toNat

/-- A footprint passes 2^57, wraps, or is not canonical (R181). -/
def patWild (p : BitVec 512) : Bool :=
  decide (patLo p < 0) || decide ((2 : Int) ^ 64 < patHi p) || !canonical (BitVec.ofNat 64 (patBase p)) ||
  !canonical (BitVec.ofInt 64 (patLo p)) || (decide (patLo p < (2 : Int) ^ 56) && decide ((2 : Int) ^ 57 < patHi p))

/-- A direct SPACE 1 pattern is translated as a whole (R182). -/
def patMapped (p : BitVec 512) : Bool := patSpace p == 1 && !patInd p

/-- The check of a binding against its port, the share, and, where a reel that uses the port is loaded, that reel and the tables
(R181, R182, R256): the cause, the address and the DETAIL of its failure, or the extents. What compares a reel that is not loaded yet
is checked by its load. -/
def State.checkBinding (s : State) (c : CpId) (port : BitVec 5) (p ip : BitVec 512) : Except (BitVec 8 × Word × Word) (List Extent) :=
  let wr : Nat := if patWrite p then 4 else 0
  let t := s.slot c
  let share := ((s.core c.core).sceneShare c.slot).2
  if !patFieldsOk p || !patSuits p port then .error (cFORMAT, 0, 0)
  else if patSpace p == 2 then
    (if descOk (dieOf c.core) port (BitVec.ofNat 64 (patBase p)) && !patInd p then .ok [] else .error (cFORMAT, 0, 0))
  else if patInd p && (!patFieldsOk ip || patSpace ip != 0 || patInd ip || patWrite ip) then .error (cFORMAT, 0, 0)
  else if (if patInd p then !canonical (BitVec.ofNat 64 (patBase p)) else patWild p) then
    .error (cPAGE, BitVec.ofInt 64 (patLo p), BitVec.ofNat 64 (1 + wr))
  else if patInd p && patWild ip then .error (cPAGE, BitVec.ofInt 64 (patLo ip), 1)
  else if patSpace p == 0 && !patInd p && decide ((share : Int) < patHi p) then
    .error (cGUARD, BitVec.ofNat 64 (patLast p), sceneDetail (patLast p))
  else if patInd p && decide ((share : Int) < patHi ip) then
    .error (cGUARD, BitVec.ofNat 64 (patLast ip), sceneDetail (patLast ip))
  else if (t.reelsOf port).any (fun h => !h.covers p ip) then
    let q := if patInd p then ip else p
    .error (cGUARD, BitVec.ofNat 64 (patLast q), sceneDetail (patLast q))
  else if patMapped p && !(t.reelsOf port).isEmpty then
    match s.extentsOf t.part p with
    | .ok l => .ok l
    | .error (a, d) => .error (cPAGE, BitVec.ofNat 64 a, BitVec.ofNat 64 (d + wr))
  else .ok []

/-! ### Binding and stopping at the head of the queue (R252 to R254) -/

def execSbind (p : BitVec 5) (k : BitVec 4) (s : State) : Out State := s.queuedPlain (.sbind p k) [] fun _ => 0
def execSbindt (a : Reg) (p : BitVec 5) (k : BitVec 4) (s : State) : Out State := s.queuedPlain (.sbindt a p k) [a] fun t => t.reg a
def execSstop (p : BitVec 5) (s : State) : Out State := s.queuedPlain (.sstop p) [] fun _ => 0

/-- sbind and sbindt at the head: none while the command must wait. -/
def State.bindHead (s : State) (c : CpId) (m : Cmd) (p : BitVec 5) (k : BitVec 4) (stamp : Option Word) : Option State :=
  let t := s.slot c
  let tval := BitVec.ofNat 64 (p.toNat + k.toNat * 256)
  if (t.port p).pending.isSome then none
  else match stamp with
  | some o =>
    if 0xFFFFFFFF < o.toNat then s.commandFault c m.order m.pc cFORMAT o 0 0 0 else go t tval
  | none => go t tval
where
  go (t : Slot) (tval : Word) : Option State :=
    let pat := t.patterns.get (ix16 k)
    let ip := if patInd pat then (if h : patIsrc pat < 16 then t.patterns.get ⟨patIsrc pat, h⟩ else 0) else 0
    match s.checkBinding c p pat ip with
    | .error (cause, va, detail) => s.commandFault c m.order m.pc cause tval va 0 detail
    | .ok ext =>
      some (s.modPort c p fun q =>
        { q with pending := some { pat := pat, patSlot := k, order := m.order, extents := ext, ipat := ip
                                   stamp := stamp.map BitVec.toNat, take := none } })

/-- A region is held by a walk while a stream of it that is not paused has one (R184). -/
def State.rewalk (s : State) (c : CpId) (r : Fin 4) : State :=
  s.modRegion c r fun g => { g with walking := (s.slot c).ports.toList.any fun q => match q.run with
    | some st => st.region == r && !st.paused && st.walkVa.isSome
    | none => false }

/-- The stream on a port ends: its engine is free from the next grid cycle. What it received is still stored (R255, R445). -/
def State.endStream (s : State) (c : CpId) (p : BitVec 5) : State :=
  let gone : List (Nat × BitVec 5) := match ((s.slot c).port p).run with
    | some st => if st.paused then [] else [(st.engine, p)]
    | none => []
  let s0 := s.modSlot c fun t => { t with freed := gone ++ t.freed }
  let shut (q : Channel) : Channel :=
    if p == 17 || p == 21 then { q with isOpen := false } else if p == 19 || p == 23 then Channel.closed else q
  let s1 := s0.modPort c p fun q => { q with run := none, chan := shut q.chan }
  match ((s.slot c).port p).run with
  | some st => if st.walkVa.isSome then s1.rewalk c st.region else s1
  | none => s1

/-- sstop at the head (R254). -/
def State.stopHead (s : State) (c : CpId) (p : BitVec 5) : State :=
  (s.endStream c p).modPort c p fun q => { q with pending := none }

/-! ### Engines and lanes (R174, R178, R349) -/

/-- Engines of a slot: first and number. -/
def Core.engines (k : Core) (slot : Fin 2) : List Nat :=
  if k.split then (if slot = 0 then [0, 1, 2, 3] else [4, 5, 6, 7]) else List.range 8
/-- Timed lane pairs of a slot. -/
def Core.pairs (k : Core) (slot : Fin 2) : List Nat :=
  if k.split then (if slot = 0 then [0, 1, 2] else [3, 4, 5]) else List.range 6
/-- Elastic lanes of a slot. -/
def Core.elastics (k : Core) (slot : Fin 2) : List Nat :=
  if k.split then (if slot = 0 then [6] else [7]) else [6, 7]

/-- The running streams of a slot. -/
def Slot.streams (t : Slot) : List Stream := t.ports.toList.filterMap fun q => q.run.bind fun r => if r.paused then none else some r

/-- The lowest free engine of a slot: one that fell free in this cycle is free from the next (R255). -/
def State.freeEngine (s : State) (c : CpId) : Option Nat :=
  ((s.core c.core).engines c.slot).find? fun n =>
    !((s.slot c).streams.any fun r => r.engine == n) && !((s.slot c).freed.any fun x => x.1 == n)

/-- No stream runs on a port, nor did one end on it in this cycle (R252, R255). -/
def Slot.portIdle (t : Slot) (p : BitVec 5) : Bool := (t.port p).run.isNone && !(t.freed.any fun x => x.2 == p)

/-- The lowest free timed lane pair: no running timed stream of a slot on the grid holds it, and no timed token of an ended one is on it. -/
def State.freePair (s : State) (c : CpId) : Option Nat :=
  let k := s.core c.core
  (k.pairs c.slot).find? fun n =>
    !(([0, 1] : List (Fin 2)).any fun i => s.onGrid ⟨c.core, i⟩ && (k.slots.get i).streams.any fun r => r.timed && r.lane == n) &&
    !(k.ring.any fun t => t.timed && t.lane == n)

/-- The extents that a binding starts with: those its port holds, or where no load or binding has translated it yet, those of the
tables as they stand (R182), or the failure of that translation. -/
def State.startExtents (s : State) (c : CpId) (b : Binding) : Except (Nat × Nat) (List Extent) :=
  if patMapped b.pat && b.extents.isEmpty then s.extentsOf (s.slot c).part b.pat else .ok b.extents

/-- A stream stops its region for a footprint that the tables do not translate: the address and the DETAIL of R300. -/
def State.extentStop (s : State) (c : CpId) (p : BitVec 5) (r : Fin 4) (pat : BitVec 512) (e : Nat × Nat) : State :=
  s.streamStop c r p cPAGE (BitVec.ofNat 64 (e.2 + if patWrite pat then 4 else 0)) (BitVec.ofNat 64 e.1) 0

/-- The stream of a port that was bound for timed lanes (R174): the running one, or the pending one by the tap that is to take it. -/
def Slot.timedOn (t : Slot) (p : BitVec 5) : Bool :=
  match (t.port p).run, (t.port p).pending with
  | some st, _ => st.timed
  | none, some b =>
    patSpace b.pat == 0 && (match regions4.findSome? fun r => t.tapOfPort r false p fun _ => true with
      | some (e, i) => !tapElastic ((t.elems.get e).on.tap i)
      | none => false)
  | none, none => false

/-- A pending binding starts as a running stream of a region (R174, R178); one whose footprint has no translation stops it (R182, R300). -/
def State.startStream (s : State) (c : CpId) (p : BitVec 5) (b : Binding) (r : Fin 4) (engine : Nat) (dispatched : Bool) : State :=
  let elastic := match (s.slot c).tapOfPort r false p fun x => tapOut x == patWrite b.pat with
    | some (e, t) => tapElastic (((s.slot c).elems.get e).on.tap t)
    | none => true
  let timed := !elastic && !dispatched && patSpace b.pat == 0
  let s1 := s.modPort c p fun q => { q with pending := none }
  let ext := s.startExtents c b
  let run (lane : Nat) : Stream :=
    { pat := b.pat, patSlot := b.patSlot, order := b.order, extents := (match ext with | .ok l => l | .error _ => []), ipat := b.ipat, region := r
      engine := engine, timed := timed, lane := lane, dispatched := dispatched, pos := 0, ipos := 0, stored := 0, ahead := false, paused := false
      walkVa := none }
  if timed then
    match s.freePair c with
    | none => s1.streamStop c r p cTIMING 5 0 0
    | some n => s1.modPort c p fun q => { q with run := some (run n) }
  else
    let s2 := s1.modPort c p fun q => { q with run := some (run 0) }
    match ext with
    | .ok _ => s2
    | .error e => s2.extentStop c p r b.pat e

/-- A start at a fixed cycle: an engine must be free and the port idle (R178, R253). -/
def State.fixedStart (s : State) (c : CpId) (p : BitVec 5) (b : Binding) (r : Fin 4) : State :=
  match s.freeEngine c with
  | some n => if (s.slot c).portIdle p then s.startStream c p b r n false
              else (s.modPort c p fun q => { q with pending := none }).streamStop c r p cTIMING 5 0 0
  | none => (s.modPort c p fun q => { q with pending := none }).streamStop c r p cTIMING 5 0 0

/-- A region's take is in its cycles. -/
def Region.live (r : Region) : Bool := r.on == .running && r.startIn == 0

/-- DISPATCHED_STREAM_START (R252): a pending dispatched binding starts in the first cycle that allows it. On a timed tap it
does not start and the region stops. -/
def execDispatchedStreamStart (c : CpId) (p : BitVec 5) (s : State) : Out State :=
  .next <|
    let t := s.slot c
    let q := t.port p
    match q.pending, s.freeEngine c with
    | some b, some n =>
      if b.stamp.isSome || !t.portIdle p || !s.takesRun c then s
      else match regions4.find? fun r => (t.regions.get r).live && (t.tapOfPort r false p fun _ => true).isSome with
      | none => s
      | some r =>
        if t.hasStartCue r p then s
        else match t.tapOfPort r false p fun _ => true with
        | none => s
        | some (e, i) =>
          if tapElastic ((t.elems.get e).on.tap i) then s.startStream c p b r n true
          else (s.modPort c p fun q => { q with pending := none }).streamStop c r p cTIMING 10 0 0
    | _, _ => s

/-- STAMPED_STREAM_START (R253): in take cycle o of the take that the binding applies to. -/
def execStampedStreamStart (c : CpId) (p : BitVec 5) (s : State) : Out State :=
  .next <|
    match ((s.slot c).port p).pending with
    | none => s
    | some b =>
      match b.stamp, b.take with
      | some o, some (r, seq) =>
        let g := s.region c r
        if g.live && g.going && g.takeSeq == seq && g.lap * g.onHdr.p + g.tc == o then s.fixedStart c p b r else s
      | _, _ => s

/-! ### Addresses of tokens (R180, R181, R184) -/

/-- What forming a token's address gives. -/
inductive Formed where
  | place (pa : PAddr) (va : Word)
  | bubble
  | stop (cause : BitVec 8) (detail va synd : Word)
  | walk (va : Nat)
  deriving DecidableEq, Repr, Inhabited

/-- The offset in the share and the place of an indirect stream's next index. -/
def Stream.indexOff (st : Stream) : Nat := (patAddr st.ipat (st.ipos / 8)).toNat + 4 * (st.ipos % 8)
def State.indexPlace (s : State) (c : CpId) (st : Stream) : PAddr :=
  ⟨.scene c.core, ((s.core c.core).sceneShare c.slot).1 + st.indexOff⟩

/-- The index of an indirect stream's next token: none when the index stream has ended (R180). -/
def State.indexAt (s : State) (c : CpId) (st : Stream) : Option Nat :=
  if patTotal st.ipat ≤ st.ipos / 8 then none else some (s.leAt (s.indexPlace c st) 4)

/-- The errors on the word of a stream's next index enter the log of scene memory (R307). -/
def State.logIndex (s : State) (c : CpId) (st : Stream) : State :=
  if s.ecc.isEmpty || !patInd st.pat || decide (patTotal st.ipat ≤ st.ipos / 8) then s
  else (s.load c (s.slot c).part (s.indexPlace c st) 4).1

/-- The edge TLB's entry for an address of a partition. -/
def Core.edgeEntry (k : Core) (part : BitVec 5) (a : Nat) : Option TlbEntry :=
  k.edgeTlb.find? fun e => e.part == part && decide (e.page.va ≤ a) && decide (a < e.page.va + e.page.size)

/-- The cores of the same cluster beside a core, in the order in which they are asked: numbers one above and one below, modulo 8 (PRESUMED: R184
names no neighbours and no order; entry 19). -/
def ringNeighbours (k : Fin 256) : List (Fin 256) :=
  let b := k.val / 8 * 8
  [⟨b + (k.val % 8 + 1) % 8, by omega⟩, ⟨b + (k.val % 8 + 7) % 8, by omega⟩]

/-- An entry found in the own edge TLB, or outside the normal phase in a neighbour's (R184); a neighbour's entry does not enter the own TLB
(DESIGN CHOICE: R184 does not say; entry 19). -/
def State.edgeLookup (s : State) (c : CpId) (a : Nat) : Option TlbEntry :=
  let part := (s.slot c).part
  match (s.core c.core).edgeEntry part a with
  | some e => some e
  | none =>
    if (s.cp c).phase == 0 then none
    else (ringNeighbours c.core).findSome? fun k => (s.core k).edgeEntry part a

/-- An indirect address passes the top of the space, wraps or is not canonical (R181). -/
def wildAddr (a : Int) : Bool := decide (a < 0) || decide ((2 : Int) ^ 64 ≤ a + 31) || !canonical (BitVec.ofInt 64 a)

/-- A virtual address of an indirect SPACE 1 token. -/
def State.formVirtual (s : State) (c : CpId) (a : Int) (write : Bool) : Formed :=
  let wr : Nat := if write then 4 else 0
  match s.edgeLookup c a.toNat with
  | none => .walk a.toNat
  | some e =>
    let pa := e.page.dest.plus (a.toNat - e.page.va)
    match pa.space with
    | .cb _ =>
      if (if write then e.page.wr else e.page.rd) && s.ownerOk e.part pa write then .place pa (BitVec.ofInt 64 a)
      else .stop cPAGE (BitVec.ofNat 64 wr) (BitVec.ofInt 64 a) 0
    | _ => .stop cADDRCLASS 0 (BitVec.ofInt 64 a) 0

/-- The place of the stream's next token. -/
def State.formToken (s : State) (c : CpId) (st : Stream) : Formed :=
  let w := patWrite st.pat
  let a0 := patAddr st.pat st.pos
  let share := (s.core c.core).sceneShare c.slot
  let scene (a : Int) : Formed :=
    if a < 0 ∨ (share.2 : Int) < a + 32 then .stop cGUARD (sceneDetail a.toNat) (BitVec.ofInt 64 a) 0
    else if patInd st.pat && !(s.region c st.region).onHdr.declares w a.toNat 32 then
      .stop cGUARD (sceneDetail a.toNat) (BitVec.ofInt 64 a) 0
    else .place ⟨.scene c.core, share.1 + a.toNat⟩ (BitVec.ofInt 64 a)
  if patInd st.pat then
    match s.indexAt c st with
    | none => .stop cTIMING 6 0 0
    | some u =>
      let ipa := s.indexPlace c st
      if (s.marksAt ipa 4).any (·.two) then .stop cUNCORR (s.uncorrDetail ipa 4) (BitVec.ofNat 64 st.indexOff) (s.synd ipa 4)
      else if u = 0xFFFFFFFF then .bubble
      else
        let a := a0 + (u : Int) * (2 : Int) ^ patIsh st.pat
        if wildAddr a then .stop cPAGE (BitVec.ofNat 64 (1 + if w then 4 else 0)) (BitVec.ofInt 64 a) 0
        else if patSpace st.pat == 0 then scene a else s.formVirtual c a w
  else if patSpace st.pat == 0 then scene a0
  else
    match st.extents.find? fun e => decide ((e.va : Int) ≤ a0) && decide (a0 < (e.va + e.len : Nat)) with
    | none => .stop cPAGE (BitVec.ofNat 64 (if w then 4 else 0)) (BitVec.ofInt 64 a0) 0
    | some e =>
      let pa := e.pa.plus (a0.toNat - e.va)
      if s.ownerOk (s.slot c).part pa w then .place pa (BitVec.ofInt 64 a0)
      else .stop cPAGE (BitVec.ofNat 64 (if w then 4 else 0)) (BitVec.ofInt 64 a0) 0

/-! ### The ring (R172 to R175, R447) -/

/-- The scene-memory block of a place. -/
def blockOf (pa : PAddr) : Nat := pa.off / 2 ^ 18
/-- The station of a block (R172). -/
def blockStation (b : Nat) : Nat := 2 * b % 32
/-- A ring port serves an edge position (R176). -/
def ringReach (port row col : Nat) : Bool :=
  let q := port % 4
  match port / 4 with
  | 0 => row == 0 && col / 4 == q
  | 1 => col == 15 && row / 4 == q
  | 2 => row == 15 && col / 4 == q
  | _ => col == 0 && row / 4 == q
/-- The station at which a port meets the tap of an element: far port 16 + k shares the stations of ring ports 2k and 2k + 1, and
meets a tap at the one whose ring port serves the tap's element (R172, R177). -/
def portStation (p : BitVec 5) (e : Fin 256) : Nat :=
  let k := p.toNat - 16
  if p.toNat < 16 then 2 * p.toNat + 1
  else if ringReach (2 * k) (e.val / 16) (e.val % 16) then 4 * k + 1 else 4 * k + 3

/-- Direction (clockwise) and hops from one station to another: the fewer hops, clockwise at 16 (R173). -/
def ringPath (a b : Nat) : Bool × Nat :=
  let cw := (b + 32 - a) % 32
  if cw ≤ 16 then (true, cw) else (false, 32 - cw)

/-- A block's ring read in this grid cycle: a timed stream goes before an elastic one, and the earlier bound of two timed ones
is served (R175). Reads are tried in that order. -/
def State.blockTaken (s : State) (k : Fin 256) (blk : Nat) : Bool := (s.core k).readClaims.any fun x => x.1 == blk
def State.claimRead (s : State) (k : Fin 256) (blk order : Nat) (timed : Bool) : State :=
  s.modCore k fun x => { x with readClaims := (blk, order, timed) :: x.readClaims }

/-- A token leaves for the tap that the region binds to the port. -/
def State.pushInbound (s : State) (c : CpId) (p : BitVec 5) (st : Stream) (tok : Tok) (pos : RingPos) (src : Option PAddr) : State :=
  match (s.slot c).tapOfPort st.region false p fun b => !tapOut b with
  | none => s
  | some (e, i) =>
    let from' := match src with | some pa => blockStation (blockOf pa) | none => portStation p e
    let path := ringPath from' (portStation p e)
    let t : RingTok :=
      { id := s.ids, slot := c.slot, port := p, inbound := true, tok := tok, addr := src.getD default, va := 0, pos := pos, timed := st.timed
        order := st.order, lane := st.lane, cw := path.1, station := from', hops := path.2, region := st.region, elem := e, tap := i
        takeSeq := (s.region c st.region).takeSeq }
    (s.newId.modCore c.core fun k => { k with ring := k.ring ++ [t] }).modPort c p fun q =>
      { q with unconsumed := q.unconsumed + 1
               run := q.run.map fun r => { r with pos := r.pos + 1, ipos := if patInd r.pat then r.ipos + 1 else r.ipos, ahead := r.timed } }

/-- A miss of the edge TLB: the engine walks, and its region holds (R184): from this cycle on where the region's decision has found
it, else from the next decision on. -/
def State.startWalk (s : State) (c : CpId) (p : BitVec 5) (st : Stream) (va : Nat) : State :=
  (s.modPort c p fun q => { q with run := q.run.map fun r => { r with walkVa := some va } }).modRegion c st.region
    fun g => { g with walking := true }

/-- One read of a stream (R79, R180); it waits with a write that is parked on its block (R357). A bubble word comes from no block: it is in its tap queue after the four cycles of a read
without hops (entry 25). -/
def State.issueRead (s : State) (c : CpId) (p : BitVec 5) (st : Stream) : State :=
  let s0 := s.logIndex c st
  match s.formToken c st with
  | .stop cause detail va synd => s0.streamStop c st.region p cause detail va synd
  | .walk va => s.startWalk c p st va
  | .bubble => s0.pushInbound c p st Tok.bubble (.post 4) none
  | .place pa va =>
    let ring := patSpace st.pat == 0
    if ring && s.blockTaken c.core (blockOf pa) then
      (if st.timed then s.streamStop c st.region p cTIMING 4 va 0 else s)
    else if s.parkedBlock pa then s
    else
      match s0.load c (s.slot c).part pa 32 with
      | (s1, none) => s1.streamStop c st.region p cUNCORR (s.uncorrDetail pa 32) va (s.synd pa 32)
      | (s1, some b) =>
        let tok : Tok := ⟨BitVec.ofNat 256 (leNat b), patLr st.pat st.pos, patLs st.pat st.pos, false⟩
        if ring then (s1.claimRead c.core (blockOf pa) st.order st.timed).pushInbound c p st tok (.enter 1) (some pa)
        else s1.pushInbound c p st tok .far none

/-- STREAM_READ_ISSUE (R79, R312): a timed stream reads once in each advancing take cycle; another while fewer than 16 of its tokens
are unconsumed. A held region stops only the timed engines: the tokens of the others are awaited under hold (R312; entry 23). -/
def execStreamReadIssue (c : CpId) (p : BitVec 5) (s : State) : Out State :=
  .next <|
    let q := (s.slot c).port p
    match q.run with
    | none => s
    | some st =>
      if patWrite st.pat || st.paused || st.walkVa.isSome || st.ahead || decide (patTotal st.pat ≤ st.pos) || patSpace st.pat == 2 then s
      else if !(s.region c st.region).live then s
      else if st.timed then
        if !(s.region c st.region).going then s
        else if 16 ≤ q.unconsumed then s.streamStop c st.region p cTIMING 8 0 0
        else s.issueRead c p st
      else if 16 ≤ q.unconsumed then s
      else s.issueRead c p st

/-! ### Tokens sent by outbound taps (R445, R447) -/

/-- A tap may send one more token on a port, where `under` results are in flight to the tap and `due` would be sent (R445). Into
scene memory or the cluster buffer its credit is 16 less what it has sent and the stream has not stored. A window counts what is in flight,
because nothing beyond it may be sent. -/
def State.hasCredit (s : State) (c : CpId) (p : BitVec 5) (under due : Nat) : Bool :=
  let q := (s.slot c).port p
  let window := decide (under + due ≤ q.chan.sendEnd - q.chan.sendSeq)
  if p == 18 || p == 22 then window
  else match q.run with
  | none => false
  | some st =>
    if !patWrite st.pat || st.paused then false
    else if patSpace st.pat == 2 then q.chan.isOpen && window
    else decide (q.unstored < 16)

/-- A token joins those of the core's ring. -/
def State.addToken (s : State) (k : Fin 256) (w : RingTok) : State := s.newId.modCore k fun x => { x with ring := x.ring ++ [w] }

/-- A token of an outbound tap that has no address yet. -/
def State.formTok (s : State) (c : CpId) (p : BitVec 5) (r : Fin 4) (e : Fin 256) (t : Fin 4) (tok : Tok) : RingTok :=
  { id := s.ids, slot := c.slot, port := p, inbound := false, tok := tok, addr := default, va := 0, pos := .form, timed := false, order := 0
    lane := 0, cw := true, station := portStation p e, hops := 0, region := r, elem := e, tap := t, takeSeq := (s.region c r).takeSeq }

/-- The stream counts a token as sent. -/
def State.countSent (s : State) (c : CpId) (p : BitVec 5) : State :=
  s.modPort c p fun q =>
    { q with unstored := q.unstored + 1
             run := q.run.map fun r => { r with pos := r.pos + 1, ipos := if patInd r.pat then r.ipos + 1 else r.ipos } }

/-- An outbound token of a write stream into scene memory or the cluster buffer leaves with its address: on its lane to its block,
or through an elastic lane at its port's station to the buffer (R174, R447). The flag tells whether it has one: a walk may have to
find it, or the stream stops. -/
def State.sendWrite (s : State) (c : CpId) (p : BitVec 5) (st : Stream) (e : Fin 256) (t : Fin 4) (tok : Tok) : State × Bool :=
  match s.formToken c st with
  | .place pa va =>
    let ring := patSpace st.pat == 0
    let path := if ring then ringPath (portStation p e) (blockStation (blockOf pa)) else (true, 0)
    let w : RingTok :=
      { s.formTok c p st.region e t tok with
        addr := pa, va := va, pos := .enter 1, timed := st.timed, order := st.order, lane := st.lane, cw := path.1, hops := path.2 }
    (((s.logIndex c st).addToken c.core w).countSent c p, true)
  | .walk va => (if st.walkVa.isNone then s.startWalk c p st va else s, false)
  | .stop cause detail va synd => ((s.logIndex c st).streamStop c st.region p cause detail va synd, false)
  | .bubble => (s, false)

/-- Indices that name bubbles yield no address for a write: the engine passes over them, and they count as stored (R180, R255, entry 25). -/
def State.skipBubbles (s : State) (c : CpId) (p : BitVec 5) : Nat → State
  | 0 => s
  | n + 1 =>
    match ((s.slot c).port p).run with
    | none => s
    | some st =>
      if patTotal st.pat ≤ st.pos then s
      else match s.formToken c st with
      | .bubble =>
        (s.modPort c p fun q => { q with run := q.run.map fun r => { r with pos := r.pos + 1, ipos := r.ipos + 1, stored := r.stored + 1 } }).skipBubbles c p n
      | _ => s

/-- An indirect write stream passes over bubbles, and ends when no address of its pattern is left (R180, R255). -/
def State.passBubbles (s : State) (c : CpId) (p : BitVec 5) : State :=
  match ((s.slot c).port p).run with
  | none => s
  | some st =>
    if !patInd st.pat || !patWrite st.pat then s
    else
      let s1 := s.skipBubbles c p (patTotal st.pat)
      match ((s1.slot c).port p).run with
      | some st1 => if patTotal st1.pat ≤ st1.stored then s1.endStream c p else s1
      | none => s1

/-- A token is kept until its destination has accepted it (R372, R426). -/
def State.keepToken (s : State) (c : CpId) (p : BitVec 5) (tok : Tok) : State :=
  s.modPort c p fun q =>
    { q with chan := { q.chan with kept := q.chan.kept ++ [(q.chan.sendSeq, tok)], sendSeq := q.chan.sendSeq + 1 }
             run := q.run.map fun r => { r with pos := r.pos + 1 } }

/-- A token for another core, package or chiplet is kept until it is accepted there, and takes an elastic lane to its far port (R174, R372,
R426, R447). -/
def State.sendFar (s : State) (c : CpId) (p : BitVec 5) (r : Fin 4) (e : Fin 256) (t : Fin 4) (tok : Tok) : State :=
  let q := (s.slot c).port p
  let w : RingTok := { s.formTok c p r e t tok with pos := .enter 1, order := q.chan.sendSeq, va := BitVec.ofNat 64 (q.run.map (fun st => patBase st.pat) |>.getD 0) }
  (s.keepToken c p tok).addToken c.core w

/-- A token leaves for what the running stream of its port carries; the flag tells whether it could. One beyond the pattern's last address
waits for the next stream, since no token is dropped for want of one (R445). -/
def State.sendOn (s : State) (c : CpId) (p : BitVec 5) (st : Stream) (e : Fin 256) (t : Fin 4) (tok : Tok) : State × Bool :=
  if patSpace st.pat != 2 then
    let s1 := s.passBubbles c p
    match ((s1.slot c).port p).run with
    | some st1 => if patTotal st1.pat ≤ st1.pos then (s1, false) else s1.sendWrite c p st1 e t tok
    | none => (s1, false)
  else if patTotal st.pat ≤ st.pos then (s, false)
  else (s.sendFar c p st.region e t tok, true)

/-- A token of the core's slot and port waits for its address. -/
def Core.forming (k : Core) (slot : Fin 2) (p : BitVec 5) : Bool := k.ring.any fun t => t.slot == slot && t.port == p && t.pos == .form

/-- A token leaves an outbound tap for what its port carries. While it has no address, or none runs on its port, it waits behind those
sent before it (R85, R184, R445). -/
def State.sendToken (s : State) (c : CpId) (r : Fin 4) (e : Fin 256) (t : Fin 4) (tok : Tok) : State :=
  let p := tapPort ((s.elem c e).on.tap t)
  let waits (u : State) : State := (u.addToken c.core (u.formTok c p r e t tok)).modPort c p fun q => { q with unstored := q.unstored + 1 }
  if p == 18 || p == 22 then s.sendFar c p r e t tok
  else match ((s.slot c).port p).run with
  | none => waits s
  | some st =>
    if !patWrite st.pat || (s.core c.core).forming c.slot p then waits s
    else match s.sendOn c p st e t tok with
    | (u, true) => u
    | (u, false) => waits u

/-! ### Arrivals (R77, R78, R192, R255, R359, R447) -/

/-- A token of the core's ring list, by its number. -/
def Core.token (k : Core) (slot : Fin 2) (id : Nat) : Option RingTok := k.ring.find? fun t => t.id == id && t.slot == slot

/-- The token leaves the list. -/
def State.dropToken (s : State) (k : Fin 256) (id : Nat) : State :=
  s.modCore k fun x => { x with ring := x.ring.filter fun t => t.id != id }

/-- The token's time has come, or its path promises none. -/
def RingTok.ready (t : RingTok) : Bool := t.pos == .due || t.pos == .far

/-- A token whose path promises no time has an older one of its port and direction before it on that path: there tokens keep the
order in which they were sent (R359, entry 25), through a channel's port to its tap queue too. A ring token comes in its own cycle (R447). -/
def Core.olderToken (k : Core) (t : RingTok) : Bool :=
  let channel := t.inbound && decide (17 ≤ t.port.toNat) && t.port != 20
  (t.pos == .far || channel) && k.ring.any fun u =>
    u.slot == t.slot && u.port == t.port && u.inbound == t.inbound && decide (u.id < t.id) && (t.pos != .far || u.pos == .far || u.pos == .refused)

/-- Inbound tokens of a slot's port that have come as far as its station and are not in their tap queue yet. -/
def Core.onPort (k : Core) (slot : Fin 2) (p : BitVec 5) : Nat :=
  (k.ring.filter fun t => t.slot == slot && t.port == p && t.inbound && t.pos != .far).length

/-- The oldest token that a port keeps for its chiplet has left the core (R372). -/
def State.atChiplet (s : State) (c : CpId) (p : BitVec 5) : Bool :=
  decide (((s.core c.core).ring.filter fun t => t.slot == c.slot && t.port == p && !t.inbound && t.pos != .form).length < ((s.slot c).port p).chan.kept.length)

/-- A read stream whose last token is in its tap queue has ended (R255). -/
def State.readDone (s : State) (c : CpId) (p : BitVec 5) : State :=
  match ((s.slot c).port p).run with
  | none => s
  | some st =>
    if !patWrite st.pat && decide (patTotal st.pat ≤ st.pos) &&
        !((s.core c.core).ring.any fun t => t.slot == c.slot && t.port == p && t.inbound)
    then s.endStream c p else s

/-- A token enters the tap queue of an element. -/
def State.enterTap (s : State) (c : CpId) (e : Fin 256) (i : Fin 4) (tok : Tok) : State :=
  s.modElem c e fun x => { x with tapq := vmod x.tapq i fun q => q ++ [tok] }

/-- The sender of a crossing learns that its oldest token is accepted (R359, R427); its write stream ends at its last token or
at a token with LS (R255). -/
def State.accepted (s : State) (c : CpId) (p : BitVec 5) : State :=
  let q := (s.slot c).port p
  match q.chan.kept with
  | [] => s
  | (_, tok) :: rest =>
    let s1 := s.modPort c p fun q =>
      { q with chan := { q.chan with kept := rest }, run := q.run.map fun r => { r with stored := r.stored + 1 } }
    match q.run with
    | some st => if patSpace st.pat == 2 && (tok.ls || decide (patTotal st.pat ≤ st.stored + 1)) then s1.endStream c p else s1
    | none => s1

/-- A token of a channel enters the tap queue bound to a port: the receiver's pattern gives LR and LS (R359, R426). None
while no stream of a live take takes it, or the queue is full. -/
def State.channelEnter (s : State) (c : CpId) (p : BitVec 5) (tok : Tok) : Option State :=
  let t := s.slot c
  match (t.port p).run with
  | none => none
  | some st =>
    if patWrite st.pat || st.paused || decide (patTotal st.pat ≤ st.pos) || !s.onGrid c then none
    else match t.tapOfPort st.region false p fun b => !tapOut b with
    | none => none
    | some (e, i) =>
      if 16 ≤ (((t.elems.get e).tapq.get i).length) || !(t.regions.get st.region).counts then none
      else
        let tok' : Tok := { tok with lr := patLr st.pat st.pos, ls := patLs st.pat st.pos }
        let s1 := (s.enterTap c e i tok').modPort c p fun q =>
          { q with unconsumed := q.unconsumed + 1, run := q.run.map fun r => { r with pos := r.pos + 1 }
                   chan := { q.chan with recvSeq := q.chan.recvSeq + 1 } }
        some (if patTotal st.pat ≤ st.pos + 1 then s1.endStream c p else s1)

/-- A token of a far port takes an elastic lane at the port's station, which its tap's element serves (R172, R174, R177). -/
def State.enterLane (s : State) (c : CpId) (t : RingTok) (e : Fin 256) : State :=
  s.modCore c.core fun k => { k with ring := k.ring.map fun u =>
    if u.id == t.id then { u with pos := .enter 0, station := portStation t.port e, hops := 0 } else u }

/-- The tap queue that a result token of an attention call enters (R372): none while the destination slot is standby, belongs to another
partition or binds no such tap, and while the queue is full. -/
def State.resultTap (s : State) (c : CpId) (t : RingTok) : Option (Fin 256 × Fin 4) :=
  let u := s.slot c
  if !(s.chiplets.toList.any fun k => k.calls.any fun x => x.id == t.order && x.part == u.part) then none
  else match regions4.findSome? fun r => if (u.regions.get r).counts then u.tapOfPort r false t.port fun b => !tapOut b else none with
  | none => none
  | some (e, i) => if 16 ≤ ((u.elems.get e).tapq.get i).length then none else some (e, i)

/-- A result token waits at its chiplet for its tap queue, and then comes through its port's lane (R174, R372). -/
def State.resultEnter (s : State) (c : CpId) (t : RingTok) : State :=
  match s.resultTap c t with
  | none => s
  | some (e, i) =>
    if t.pos != .far then (s.dropToken c.core t.id).enterTap c e i t.tok
    else if 16 ≤ ((s.elem c e).tapq.get i).length + (s.core c.core).onPort c.slot t.port then s
    else s.enterLane c t e

/-- The receiver of a fabric channel tells its window: the number that it expects next, and a count (R426; entry 29). -/
def State.tellWindow (s : State) (q : Channel) (d : Word) : State :=
  s.sendVia q.route (descEp d) (.credit (descFabCp d) (descFabPort d) q.recvSeq (q.recvEnd - q.recvSeq))

/-- The sender of a token that a channel's port has taken: of a crossing the peer's port learns of it, of a fabric channel the peer package, when
its window is granted anew (R359, R426). -/
def State.channelArrive (s : State) (c : CpId) (t : RingTok) : State :=
  match s.channelEnter c t.port t.tok with
  | none => s
  | some s1 =>
    let st := ((s.slot c).port t.port).run
    let tap := st.bind fun st => (s.slot c).tapOfPort st.region false t.port fun b => !tapOut b
    if t.pos == .far then
      match tap with
      | some (e, i) => if 16 ≤ ((s.elem c e).tapq.get i).length + (s.core c.core).onPort c.slot t.port then s else s.enterLane c t e
      | none => s
    else
      let s2 := s1.dropToken c.core t.id
      let base := match st with | some st => BitVec.ofNat 64 (patBase st.pat) | none => 0
      let q := ((s.slot c).port t.port).chan
      if t.port == 17 || t.port == 21 then s2.accepted (descCp base) (descPort base)
      else s2.tellWindow { q with recvSeq := q.recvSeq + 1 } base

/-- TOKEN_ARRIVE_TAP: an inbound token enters its tap queue; one of a far port first takes an elastic lane at its port's
station (R174). A token of an ended or stopped take is discarded (R192, R255), but
a region that stopped on a page keeps its tokens for rrest (R304, entry 24). -/
def execTokenArriveTap (c : CpId) (id : Nat) (s : State) : Out State :=
  .next <|
    match (s.core c.core).token c.slot id with
    | none => s
    | some t =>
      if !t.inbound || !t.ready || !s.onGrid c || (s.core c.core).olderToken t then s
      else if t.port == 18 || t.port == 22 then s.resultEnter c t
      else if 17 ≤ t.port.toNat && t.port != 20 then s.channelArrive c t
      else if t.pos == .far && (t.port == 16 || t.port == 20) then s.enterLane c t t.elem
      else
        let g := s.region c t.region
        let keeps := g.counts || (g.on == .stopped && g.cause == cPAGE)
        if keeps && g.takeSeq == t.takeSeq then
          if 16 ≤ ((s.elem c t.elem).tapq.get t.tap).length then s
          else ((s.dropToken c.core id).enterTap c t.elem t.tap t.tok).readDone c t.port
        else ((s.dropToken c.core id).modPort c t.port fun q => { q with unconsumed := q.unconsumed - 1 }).readDone c t.port

/-- A token of a write stream is stored: its credit returns, and its stream ends with its last address, which no bubble is, or with LS
(R180, R255). -/
def State.stored (s : State) (c : CpId) (t : RingTok) : State :=
  let q := (s.slot c).port t.port
  let s1 := (s.dropToken c.core t.id).modPort c t.port fun q =>
    { q with unstored := q.unstored - 1
             run := q.run.map fun r => if r.order == t.order then { r with stored := r.stored + 1 } else r }
  match q.run with
  | some st =>
    if st.order != t.order then s1
    else if t.tok.ls || decide (patTotal st.pat ≤ st.stored + 1) then s1.endStream c t.port
    else if st.pos == st.stored + 1 then s1.passBubbles c t.port else s1
  | none => s1

/-- A token that waits for its address gets it, when it is the oldest of its port that waits and a write stream runs there. -/
def State.formNow (s : State) (c : CpId) (t : RingTok) : State :=
  let older := (s.core c.core).ring.any fun u => u.slot == t.slot && u.port == t.port && u.pos == .form && decide (u.id < t.id)
  match ((s.slot c).port t.port).run with
  | none => s
  | some st =>
    if older || !patWrite st.pat || st.paused || st.walkVa.isSome then s
    else match s.sendOn c t.port st t.elem t.tap t.tok with
    | (u, true) => (u.dropToken c.core t.id).modPort c t.port fun q => { q with unstored := q.unstored - 1 }
    | (u, false) => u

/-- A token of a far port has left its lane: it goes to the other die's core or to the other package, or stands where the chiplet takes it (R359,
R372, R426). -/
def State.leavePort (s : State) (c : CpId) (t : RingTok) : State :=
  let s1 := s.dropToken c.core t.id
  let base := t.va
  if t.port == 18 || t.port == 22 then s1
  else if t.port == 19 || t.port == 23 then s1.sendVia ((s.slot c).port t.port).chan.route (descEp base) (.token (descFabCp base) (descFabPort base) t.order t.tok)
  else
    let peer := descCp base
    s1.addToken peer.core
      { id := s.ids, slot := peer.slot, port := descPort base, inbound := true, tok := t.tok, addr := default, va := 0, pos := .far
        timed := false, order := t.order, lane := 0, cw := true, station := 0, hops := 0, region := 0, elem := 0, tap := 0, takeSeq := 0 }

/-- STREAM_WRITE_STORE: an outbound token reaches its destination, or one that waits gets its address. No sideband is stored (R180).
A token whose place refuses it stops its stream there and is neither stored nor counted (R304), and one that finds no escape entry is
parked (R357). -/
def execStreamWriteStore (c : CpId) (id : Nat) (s : State) : Out State :=
  .next <|
    match (s.core c.core).token c.slot id with
    | none => s
    | some t =>
      if t.pos == .form then s.formNow c t
      else if t.inbound || !(t.ready || t.pos == .refused) || (s.core c.core).olderToken t then s
      else if 17 ≤ t.port.toNat && t.port != 20 then s.leavePort c t
      else
        let part := (s.slot c).part
        if s.ownerOk part t.addr true then
          let s1 := s.store part t.addr (leBytes 32 t.tok.bits.toNat)
          if s.parkedBlock t.addr then s
          else match s.parkTurn s1 c t.id part (s.surfaceOf part t.va) t.addr with
          | .performs => (s1.stored c t).slotted part (s.surfaceOf part t.va) t.va
          | .waits => s
          | .parks d k => s.parkRec c t.id part t.va 0 d k
        else (s.modCore c.core fun k => { k with ring := k.ring.map fun u => if u.id == t.id then { u with pos := .refused } else u }
          ).streamStop c t.region t.port cPAGE 4 t.va 0

/-! ### Moving on the ring (R174, R175, R447): one grid cycle of a core -/

/-- A token's next place along its lane. -/
def RingTok.hop (t : RingTok) : RingTok :=
  { t with station := if t.cw then (t.station + 1) % 32 else (t.station + 31) % 32, hops := t.hops - 1 }

/-- A token arrives at its station: inbound it is three cycles from its queue, outbound it needs its block. A token of a far port has
come from or goes to another memory. -/
def RingTok.land (t : RingTok) : RingTok :=
  let ring := decide (t.port.toNat < 16)
  if t.hops = 0 then { t with pos := if t.inbound then .post (if ring then 3 else 1) else if ring then .block else .far } else t

/-- Tokens that have been under way for a cycle move on. -/
def RingTok.move (t : RingTok) : RingTok :=
  match t.pos with
  | .lane => if t.hops = 0 then t.land else t.hop.land
  | .post n => { t with pos := if n ≤ 1 then .due else .post (n - 1) }
  | .enter n => { t with pos := .enter (n - 1) }
  | _ => t

/-- A lane carries a token at a station. -/
def laneBusy (l : List RingTok) (cw : Bool) (lane station : Nat) : Bool :=
  l.any fun t => t.pos == .lane && t.cw == cw && t.lane == lane && t.station == station

/-- Tokens whose time has come enter their lanes, in the order in which they were sent. A timed token that finds its lane
taken stops its region (R174); an elastic one waits for the first free cycle. `copies n` tells that units of the copy engine, which use these
lanes too and to which R174 gives no station, pass the n-th token by (entry 25). -/
def enterLanes (elastics : Fin 2 → List Nat) (copies : Nat → Bool) : Nat → List RingTok → List (Fin 2 × Fin 4 × BitVec 5) → List RingTok × List (Fin 2 × Fin 4 × BitVec 5)
  | 0, l, stops => (l, stops)
  | n + 1, l, stops =>
    match l[l.length - (n + 1)]? with
    | none => (l, stops)
    | some t =>
      if t.pos != .enter 0 then enterLanes elastics copies n l stops
      else if t.timed then
        if laneBusy l t.cw t.lane t.station then
          enterLanes elastics copies n l ((t.slot, t.region, t.port) :: stops)
        else enterLanes elastics copies n (l.set (l.length - (n + 1)) { t with pos := .lane }) stops
      else if copies n then enterLanes elastics copies n l stops
      else
        match (elastics t.slot).find? fun k => !laneBusy l t.cw k t.station with
        | none => enterLanes elastics copies n l stops
        | some k => enterLanes elastics copies n (l.set (l.length - (n + 1)) { t with pos := .lane, lane := k }) stops

/-- Whether a write goes before another at a block: timed before elastic, then the one bound earlier (R175). -/
def RingTok.before (a b : RingTok) : Bool :=
  if a.timed != b.timed then a.timed else if a.timed then decide (a.order < b.order) || (a.order == b.order && decide (a.id < b.id))
  else decide (a.id < b.id)

/-- The writes that their blocks serve in this cycle, and the timed ones that lost to an earlier bound timed stream. -/
def serveBlocks (l : List RingTok) : List RingTok × List (Fin 2 × Fin 4 × BitVec 5) :=
  let rivals (t : RingTok) : List RingTok := l.filter fun u => u.pos == .block && u.id != t.id && blockOf u.addr == blockOf t.addr
  let loses (t : RingTok) : Bool := (rivals t).any fun u => u.before t
  (l.map fun t => if t.pos == .block && !loses t then { t with pos := .post 1 } else t,
   l.filterMap fun t => if t.pos == .block && t.timed && (rivals t).any (fun u => u.timed && u.order != t.order && u.before t)
     then some (t.slot, t.region, t.port) else none)

/-- One grid cycle of a core's ring. A token that stands at its last station has left its lane before others enter (DESIGN CHOICE: R174 does not
say whether it still occupies the lane there; entry 25). -/
def State.ringCycle (s : State) (k : Fin 256) : State :=
  let x := s.core k
  if x.ring.isEmpty then (if x.readClaims.isEmpty && x.writeClaims.isEmpty then s else s.modCore k fun x => { x with readClaims := [], writeClaims := [] })
  else
    let moved := x.ring.map RingTok.move
    let copying := x.slots.toList.any fun t => t.copying.isSome
    let (l1, st1) := enterLanes x.elastics (fun n => copying && Config.freeBool (s.fresh + n)) moved.length moved []
    let (l2, st2) := serveBlocks l1
    let writes := l2.filterMap fun t => if !t.inbound && t.pos == .post 1 then some (blockOf t.addr) else none
    let s0 : State := if copying then { s with fresh := s.fresh + moved.length } else s
    let s1 := s0.modCore k fun x => { x with ring := l2, readClaims := [], writeClaims := writes }
    let s2 := st1.foldl (fun u q => u.streamStop ⟨k, q.1⟩ q.2.1 q.2.2 cTIMING 3 0 0) s1
    st2.foldl (fun u q => u.streamStop ⟨k, q.1⟩ q.2.1 q.2.2 cTIMING 4 0 0) s2

/-! ### Translation changes (R183, R184) -/

/-- The walk of an indirect stream returns: its page enters the edge TLB of 256 entries (the oldest goes, entry 19), or the
region stops with PAGE (R184, R304). -/
def execEdgeTlbWalkReturn (c : CpId) (p : BitVec 5) (s : State) : Out State :=
  .next <|
    match ((s.slot c).port p).run with
    | none => s
    | some st =>
      match st.walkVa with
      | none => s
      | some va =>
        let part := (s.slot c).part
        let s1 := (s.modPort c p fun q => { q with run := q.run.map fun r => { r with walkVa := none } }).rewalk c st.region
        match (s.part part).page va with
        | none => s1.streamStop c st.region p cPAGE (if patWrite st.pat then 4 else 0) (BitVec.ofNat 64 va) 0
        | some g => s1.modCore c.core fun k => { k with edgeTlb := ⟨part, g⟩ :: k.edgeTlb.take 255 }

/-- A running or pending SPACE 1 stream's footprint meets a range. -/
def footMeets (p : BitVec 512) (base len : Nat) : Bool :=
  patSpace p == 1 && !patInd p && overlapsRange base len (patLo p).toNat ((patHi p).toNat - (patLo p).toNat)

/-- The extent lists of one port are rewritten in place after a change of the tables (R183). -/
def State.rewritePort (s : State) (c : CpId) (p : BitVec 5) (base len : Nat) : State :=
  let q := (s.slot c).port p
  let part := (s.slot c).part
  let s1 := match q.pending with
    | some b =>
      if footMeets b.pat base len then
        match s.extentsOf part b.pat with
        | .ok l => s.modPort c p fun q => { q with pending := some { b with extents := l } }
        | .error _ => s.modPort c p fun q => { q with pending := some { b with extents := [] } }
      else s
    | none => s
  match q.run with
  | some st =>
    if footMeets st.pat base len then
      match s.extentsOf part st.pat with
      | .ok l => s1.modPort c p fun q => { q with run := q.run.map fun r => { r with extents := l } }
      | .error (a, d) => (s1.modPort c p fun q => { q with run := q.run.map fun r => { r with extents := [] } }).streamStop c st.region p cPAGE (BitVec.ofNat 64 (d + if patWrite st.pat then 4 else 0)) (BitVec.ofNat 64 a) 0
    else s1
  | none => s1

/-- The 24 ports. -/
def ports24 : List (BitVec 5) := (List.range 24).map (BitVec.ofNat 5)
/-- The 256 cores. -/
def cores256 : List (Fin 256) := List.finRange 256

/-- A page is of one of the three sizes, and its addresses are multiples of it (R183). -/
def PageMap.ok (g : PageMap) : Bool :=
  (g.size == 2 ^ 16 || g.size == 2 ^ 21 || g.size == 2 ^ 30) && g.va % g.size == 0 && g.dest.off % g.size == 0

/-- EXTENT_REWRITE: the partition's tables change over a range, cached translations of it go, and the streams whose footprints
meet it get new extents (R183, R221). Only pages of the three sizes enter the tables. -/
def execExtentRewrite (part : BitVec 5) (base len : Word) (pages : List PageMap) (s : State) : Out State :=
  .next <|
    let b := base.toNat
    let n := min len.toNat (2 ^ 64 - b)
    let s1 := s.modPart part fun p => { p with pages := pages.filter PageMap.ok ++ p.pages.filter fun g => !overlapsRange b n g.va g.size }
    cores256.foldl (fun t k =>
      let x := t.core k
      if x.edgeTlb.isEmpty && x.slots.toList.all (fun y => y.status == 0) then t
      else ([0, 1] : List (Fin 2)).foldl (fun u i =>
        let c : CpId := ⟨k, i⟩
        if (u.slot c).part == part && (u.slot c).status != 0 then ports24.foldl (fun v p => v.rewritePort c p b n) u else u) (t.dropCached k part b n)) s1

end Sys2Proof.Machine
end

