-- ==== Sys2Proof/Machine/ReelCheck.lean ====
section
/-! DEFINITION. The loader's reading of a reel image and its checks: header, placement, sections, taps, contexts, cues, and the
edges whose producers the reel's schedule gives (R96 to R105, R243, R244, R444). -/
namespace Sys2Proof.Machine

/-! ### CRC-32C (R100) -/

/-- Eight steps of the reflected polynomial. -/
def crcStep (c : BitVec 32) : Nat → BitVec 32
  | 0 => c
  | n + 1 => crcStep (if c.getLsbD 0 then (c >>> 1) ^^^ 0x82F63B78#32 else c >>> 1) n

/-- CRC-32C of bytes. -/
def crc32c (l : List Byte) : BitVec 32 :=
  (l.foldl (fun c b => crcStep (c ^^^ b.setWidth 32) 8) 0xFFFFFFFF#32) ^^^ 0xFFFFFFFF#32

/-! ### Reports (R104, R105) -/

def rCRC : Nat := 1
def rHDR : Nat := 2
def rSEC : Nat := 3
def rOPC : Nat := 4
def rSRC : Nat := 5
def rDST : Nat := 6
def rFMT : Nat := 7
def rFMTCODE : Nat := 8
def rRND : Nat := 9
def rPLANE : Nat := 10
def rOUT : Nat := 11
def rTAP : Nat := 12
def rCUE : Nat := 13
def rMOD : Nat := 14
def rELEM : Nat := 15

/-- The load report word (R104). -/
def report (reason e site index opnd : Nat) : W32 :=
  BitVec.ofNat 32 (reason * 2 ^ 24 + e % 256 * 2 ^ 16 + site % 4 * 2 ^ 14 + index % 64 * 2 ^ 8 + opnd % 4 * 2 ^ 6)

/-- A section of an image as it fills a bank (R99). -/
structure Section where
  row : Nat
  col : Nat
  bank : Bank
  deriving DecidableEq, Repr, Inhabited

/-- The image index of a section. -/
def Section.e (x : Section) : Nat := 16 * x.row + x.col

/-- An image that passed: its header and its sections. -/
structure Image where
  hdr : Header
  secs : List Section
  deriving DecidableEq, Repr, Inhabited

/-- A pattern that waits on a port, with its index pattern, and whether the tables translate it where it is to be translated
(R182, R256). -/
structure Waiting where
  port : BitVec 5
  pat : BitVec 512
  ipat : BitVec 512
  mapped : Bool
  deriving DecidableEq, Repr, Inhabited

/-- What the loader knows of the slot and the core (R171, R191, R243, R256, R349): the share's stationary blocks and scene bytes, the
guard column and the slot of a split binding, the fused-off set, the other rectangles, the ports that other regions bind, and the
patterns that wait on ports. -/
structure LoadEnv where
  half : Option (Nat × Fin 2)
  blocks : Nat
  bytes : Nat
  fuse : BitVec 256
  others : List Header
  busy : List (BitVec 5)
  pending : List Waiting
  deriving DecidableEq, Repr, Inhabited

/-! ### Step 1: header and placement (R96, R97, R243, R244) -/

/-- An SMR entry (R97). -/
def smrOf (v : Nat) : Smr := ⟨v % 2 ^ 32, v / 2 ^ 32 % 2 ^ 24 * 32, v.testBit 56, v.testBit 57⟩

/-- An SMR entry keeps R97, within the share (R171). -/
def smrOk (v share : Nat) : Bool :=
  let m := smrOf v
  m.off % 32 == 0 && decide (0 < m.len) && decide (m.off + m.len ≤ min (4 * 2 ^ 20) share) && v / 2 ^ 58 == 0

/-- Two rectangles meet. -/
def Header.meets (a b : Header) : Bool :=
  decide (a.row0 < b.row0 + b.rows) && decide (b.row0 < a.row0 + a.rows) &&
  decide (a.col0 < b.col0 + b.cols) && decide (b.col0 < a.col0 + a.cols)

/-- The columns that a slot's regions may use: the grid, or its half of a split one (R191, R349). -/
def LoadEnv.columns (env : LoadEnv) : Nat × Nat :=
  match env.half with
  | none => (0, 16)
  | some (gc, slot) => if slot = 0 then (0, 4 * gc) else (4 * gc, 16)

/-- The header of an image at a placement: the report word of the first failure of step 1, or the header, NSEC and TOTAL. -/
def checkHeader (b : List Byte) (place : Word) (env : LoadEnv) : Except W32 (Header × Nat × Nat) :=
  let rows := fld b 6 1
  let cols := fld b 7 1
  let ii := fld b 8 1
  let p := fld b 0x0A 2
  let nsec := fld b 0x14 2
  let nsmr := fld b 0x16 2
  let smr (i : Nat) : Nat := fld b (0x20 + 8 * i) 8
  let row0 := wbits place 3 0
  let col0 := wbits place 7 4
  let h : Header := { rows := rows, cols := cols, row0 := row0, col0 := col0, ii := ii, p := p, laps := fld b 0x0C 4
                      seed := BitVec.ofNat 32 (fld b 0x10 4), smr := (List.range nsmr).map fun i => smrOf (smr i) }
  let ok := fld b 0 4 == 0x314C525A && fld b 4 2 == 1 && decide (1 ≤ rows) && decide (rows ≤ 16) && decide (1 ≤ cols) &&
    decide (cols ≤ 16) && decide (1 ≤ ii) && decide (ii ≤ 32) && fld b 9 1 == 0 && decide (1 ≤ p) && decide (p ≤ 4096) &&
    p % ii == 0 && h.laps != 0 && decide (1 ≤ nsec) && decide (nsec ≤ rows * cols) && decide (nsmr ≤ 16) && fld b 0x1C 4 == 0 &&
    ((List.range 16).all fun i => if i < nsmr then smrOk (smr i) env.bytes else smr i == 0)
  let placed := wbits place 63 8 == 0 && decide (row0 + rows ≤ 16) && decide (env.columns.1 ≤ col0) &&
    decide (col0 + cols ≤ env.columns.2) && !env.others.any h.meets
  if !ok || !placed then .error (report rHDR 0 0 0 0)
  else match h.elems.find? fun e => env.fuse.getLsbD e.val with
  | some e => .error (report rELEM (h.image e) 3 0 3)
  | none => .ok (h, nsec, fld b 0x18 4)

/-! ### Taps (R77, R78, R101, R102, R176, R177) -/

/-- A port is in reach of a position: far port 16 + k shares the stations of ring ports 2k and 2k + 1 (R172, R177). -/
def portReach (port row col : Nat) : Bool :=
  if port < 16 then ringReach port row col
  else ringReach (2 * (port - 16)) row col || ringReach (2 * (port - 16) + 1) row col

/-- The slot that owns a port of a split core: the west ports and those north and south ports whose columns lie in its half are slot
0's, and a far port goes with the first ring port of its stations (R349). -/
def portOwner (gc port : Nat) : Fin 2 :=
  let ring := if port < 16 then port else 2 * (port - 16)
  match ring / 4 with
  | 1 => 1
  | 3 => 0
  | _ => if ring % 4 < gc then 0 else 1

/-- The slot owns a port (R349). -/
def LoadEnv.owns (env : LoadEnv) (port : Nat) : Bool :=
  match env.half with
  | none => true
  | some (gc, slot) => portOwner gc port == slot

/-- A tap binding keeps R78, R101 and R177 at a physical position, its port is not bound by another region, and the binding
that waits on the port suits the reel (R187, R243, R256). A reserved bit of a binding, and a bit set beside EN 0, count as a bad
binding and so as TAP, though SEC names a reserved bit too (entry 39). -/
def tapOk (h : Header) (env : LoadEnv) (row col : Nat) (b : BitVec 32) : Bool :=
  if !tapEn b then b == 0
  else
    let p := tapPort b
    bits b.toNat 14 0 == 0 && decide (p.toNat ≤ 23) && decide (tapLf b ≤ 11) &&
    (if tapLf b = 9 then decide (1 ≤ tapTl b) && decide (tapTl b ≤ 8) else tapTl b == 0) &&
    tapCtl b == (tapLf b == 11) && (tapElastic b || decide (p.toNat < 16)) && portReach p.toNat row col && env.owns p.toNat &&
    !env.busy.contains p && (env.pending.all fun q => q.port != p || (h.covers q.pat q.ipat && q.mapped))

/-- A port is bound by at most one tap of one direction in the image; only ports 18 and 22 may be bound in both (R77). -/
def portTwice (seen : List (BitVec 5 × Bool)) (b : BitVec 32) : Bool :=
  tapEn b && (seen.contains (tapPort b, tapOut b) || (seen.contains (tapPort b, !tapOut b) && tapPort b != 18 && tapPort b != 22))

/-- The first tap of a section that fails. -/
def badTap (h : Header) (env : LoadEnv) (row col : Nat) (seen : List (BitVec 5 × Bool)) : Nat → List (BitVec 32) → Option Nat
  | _, [] => none
  | k, b :: t =>
    if !tapOk h env row col b || portTwice seen b then some k
    else badTap h env row col (if tapEn b then (tapPort b, tapOut b) :: seen else seen) (k + 1) t

/-! ### Contexts: fields that stand on their own (R43, R44, R87 to R93, R107 to R137) -/

/-- What an opcode accepts: FMT codes, the highest rounding code, modifiers as NX NY NZ ZA SAT, and the operands it uses. -/
structure OpSpec where
  fmts : List Nat
  rm : Nat
  mods : List Bool
  uses : List Bool
  deriving DecidableEq, Repr, Inhabited

def mNone : List Bool := [false, false, false, false, false]
def mSat : List Bool := [false, false, false, false, true]
def mXy : List Bool := [true, true, false, false, true]
def mXyz : List Bool := [true, true, true, false, true]
def mTrix : List Bool := [true, true, true, true, false]
def uA : List Bool := [true, false, false]
def uAB : List Bool := [true, true, false]
def uABC : List Bool := [true, true, true]
def uNone : List Bool := [false, false, false]

/-- Lanes of the source and destination formats of cvt (R124). -/
def lfWidth (c : Nat) : Nat :=
  match c with
  | 0 | 6 => 32
  | 1 | 2 | 7 => 16
  | 3 | 4 | 8 | 10 => 8
  | 5 => 4
  | 9 => 2
  | _ => 64
/-- The lane format that a cvt destination names. -/
def cvtDst (f : Nat) : Nat := if f < 5 then f else f + 1
def cvtLanes (w : CtxFields) : Nat × Nat := (256 / lfWidth (CtxOps.xa w % 16), 256 / lfWidth (cvtDst w.fmt.toNat))

/-- The acceptance row of an opcode: none for a reserved one. -/
def opSpec (op : Nat) (w : CtxFields) : Option OpSpec :=
  let i3 := [0, 1, 2]
  let mode := CtxOps.xa w % 2
  if op = 0x00 then some ⟨[0], 0, mNone, uNone⟩
  else if op ≤ 0x0F then
    some ⟨if CtxOps.ctl w then [0, 1, 2, 3] else i3, 0, if op ≤ 4 ∨ op = 7 then mSat else mNone,
      if op = 4 ∨ op = 0x0F then uABC else if op = 7 then uA else uAB⟩
  else match op with
  | 0x10 | 0x11 | 0x12 => some ⟨i3, 4, mXy, uAB⟩
  | 0x13 => some ⟨i3, 4, mXyz, uABC⟩
  | 0x14 | 0x15 | 0x18 => some ⟨i3, 0, mNone, uAB⟩
  | 0x16 | 0x17 => some ⟨i3, 0, mNone, uA⟩
  | 0x20 | 0x21 => some ⟨[0], 0, mSat, uA⟩
  | 0x22 | 0x23 => some ⟨i3, 0, mSat, uA⟩
  | 0x24 => some ⟨i3, 0, mSat, uAB⟩
  | 0x30 =>
    let (ns, nd) := cvtLanes w
    some ⟨List.range 8, 5, if w.fmt.toNat < 5 then mSat else mNone, if ns < nd then uAB else uA⟩
  | 0x31 | 0x32 => some ⟨[0, 1], 0, mNone, uAB⟩
  | 0x33 => some ⟨[0], if mode = 1 then 5 else 0, mNone, if mode = 1 then uABC else uAB⟩
  | 0x40 | 0x41 => some ⟨[0], 0, mNone, uA⟩
  | 0x42 => some ⟨[0], 0, mNone, uAB⟩
  | 0x43 | 0x44 => some ⟨List.range 5, 0, mNone, uAB⟩
  | 0x45 | 0x46 => some ⟨[0, 1], 0, mNone, uA⟩
  | 0x47 => some ⟨i3, 0, mNone, uA⟩
  | 0x48 => some ⟨i3, 0, mNone, uAB⟩
  | 0x50 | 0x54 => some ⟨[1, 2, 3, 4], 0, mTrix, uABC⟩
  | 0x51 => some ⟨[5], 0, [true, true, true, false, false], uABC⟩
  | 0x52 => some ⟨[3], 0, mTrix, uABC⟩
  | 0x53 => some ⟨[1, 2, 3, 4], 0, mTrix, uABC⟩
  | 0x55 => some ⟨[5], 0, [false, false, false, true, false], uABC⟩
  | 0x56 => some ⟨[0], 0, mNone, uNone⟩
  | 0x57 => some ⟨[0, 1, 2, 3], 0, if 2 ≤ w.fmt.toNat then mSat else mNone, uA⟩
  | 0x58 => some ⟨[0, 1], 0, mNone, uA⟩
  | 0x59 | 0x5A => some ⟨List.range 6, 0, mNone, uA⟩
  | 0x5B => some ⟨[0], 0, mNone, uA⟩
  | 0x5C => some ⟨[1, 2, 3], 0, mNone, uA⟩
  | _ => none

/-- The three source codes. -/
def CtxOps.srcs (w : CtxFields) : List (BitVec 5) := [w.srcA, w.srcB, w.srcC]

/-- A modifier that the opcode does not accept is set (R90). -/
def badMods (w : CtxFields) (sp : OpSpec) : Bool :=
  ([CtxOps.nx w, CtxOps.ny w, CtxOps.nz w, CtxOps.za w, CtxOps.sat w].zip sp.mods).any fun p => p.1 && !p.2

/-- The source codes of the operands in use. -/
def usedSrcs (w : CtxFields) (sp : OpSpec) : List (BitVec 5) := ((CtxOps.srcs w).zip sp.uses).filterMap fun p => if p.2 then some p.1 else none

/-- The context names a stationary block. -/
def usesSs (w : CtxFields) (sp : OpSpec) : Bool := (usedSrcs w sp).contains 28 || w.dw == 22

/-- Lane instructions that use XA or SB for a field of their own: they reject source 28 (R110). -/
def ownXa (op : Nat) : Bool := [0x0E, 0x18, 0x23, 0x24, 0x30, 0x31, 0x32, 0x33, 0x41, 0x43, 0x44, 0x47, 0x48].contains op

/-- The context names a stationary block where its opcode accepts one: source 28 (R110, R136) or destination 22 (R109, R136). Where
it does not, the source or the destination is what fails. -/
def selectsSs (op : Nat) (w : CtxFields) (sp : OpSpec) : Bool :=
  ((usedSrcs w sp).contains 28 && !ownXa op) || (w.dw == 22 && [0x40, 0x53, 0x5B, 0x5C].contains op)

/-- The token length and digit position of sdenc and sddec are in range (R125, R126). -/
def digitFieldsOk (op : Nat) (w : CtxFields) : Bool :=
  let n := if w.fmt = 0 then 8 else 4
  let tl := CtxOps.sb w % 16
  let k := CtxOps.xa w % 8
  decide (CtxOps.sb w < 16) && decide (1 ≤ tl) && decide (tl ≤ n) && decide (n - tl ≤ k) && decide (k < n) &&
  (if op = 0x31 then decide (CtxOps.xa w / 8 ≤ 1) && decide (CtxOps.ix w < 4) else decide (CtxOps.xa w < 8))

/-- IX holds what the opcode and its sources allow (R92, R107, R136). -/
def ixOk (op : Nat) (w : CtxFields) (sp : OpSpec) : Bool :=
  let ix := CtxOps.ix w
  match op with
  | 0x42 | 0x33 | 0x32 | 0x31 => true
  | 0x52 => ix == 0 || !(w.srcC == 29 || w.srcC == 30)
  | 0x30 =>
    let (ns, nd) := cvtLanes w
    decide (ix < max ns nd / min ns nd)
  | 0x55 => decide (ix < 4)
  | 0x56 | 0x57 => ix == 0
  | 0x58 => decide (ix < 2)
  | _ => ix == 0 || (usedSrcs w sp).contains 27

/-- XA holds what the opcode allows, the word selector of a source 28 apart (R107 to R136). -/
def xaOk (op : Nat) (w : CtxFields) (sp : OpSpec) : Bool :=
  let xa := CtxOps.xa w
  match op with
  | 0x0E => decide (xa ≤ 9)
  | 0x18 => decide (xa ≤ 7)
  | 0x23 | 0x24 => decide (xa ≤ 3)
  | 0x30 => decide (xa ≤ 8) || xa == 10
  | 0x31 | 0x32 => true
  | 0x33 | 0x43 | 0x44 => decide (xa < 2)
  | 0x41 => decide (xa ≤ 8)
  | 0x47 | 0x48 => decide (xa < 256 / (32 / 2 ^ w.fmt.toNat))
  | 0x52 => decide (xa < 16)
  | 0x55 => decide (xa < 4)
  | 0x57 | 0x5B | 0x5C => decide (xa < 8)
  | 0x58 => true
  | _ => if op < 0x50 && usesSs w sp then true else xa == 0

/-- Where a failure of a field that selects a stationary block is reported: the source that names code 28, else the destination. -/
def ssPlace (w : CtxFields) : Nat × Nat :=
  match (CtxOps.srcs w).findIdx? (· == 28) with
  | some k => (0, k)
  | none => (1, 3)

/-- MOD failures: site and operand (R104). -/
def modFailure (op : Nat) (w : CtxFields) (sp : OpSpec) (blocks : Nat) : Option (Nat × Nat) :=
  let srcs := usedSrcs w sp
  let ss := selectsSs op w sp
  let reach := if op = 0x52 then CtxOps.sb w / 8 * 8 + 7 else CtxOps.sb w
  let digits := op = 0x31 ∨ op = 0x32
  if badMods w sp then some (0, 3)
  else if ss && CtxOps.st w == 3 then some (ssPlace w)
  else if !usesSs w sp && (CtxOps.st w != 0 || (CtxOps.sb w != 0 && !decide digits)) then some (0, 3)
  else if (CtxOps.ai w != 0 && !srcs.contains 26) || (CtxOps.cd w != 0 && (!srcs.contains 25 || decide (0x50 ≤ op))) then some (0, 3)
  else if decide digits && !digitFieldsOk op w then some (0, 3)
  else if !ixOk op w sp || !xaOk op w sp then some (0, 3)
  else if op < 0x50 && ss && decide (8 ≤ CtxOps.xa w) then some (ssPlace w)
  else if ss && CtxOps.st w == 0 && decide (blocks ≤ reach) then some (ssPlace w)
  else none

/-! ### Lane formats of edges (R91, R102, R103, R110) -/

/-- A lane format that an edge carries: its code, and for .sd the token length and the integer width. The binding of a tap has no
field for the width: a length above 4 can only be INT8 (R51), and a shorter one leaves the width open, here 0 (entry 39). -/
structure LaneFmt where
  code : Nat
  tl : Nat := 0
  wid : Nat := 0
  deriving DecidableEq, Repr, Inhabited

/-- Two formats agree: they are equal, and an open width agrees with either (R103, entry 39). -/
def LaneFmt.agrees (a b : LaneFmt) : Bool := a.code == b.code && a.tl == b.tl && (a.wid == 0 || b.wid == 0 || a.wid == b.wid)

/-- The format of a tap's edge (R101, R102). -/
def tapFmt (b : BitVec 32) : LaneFmt := ⟨tapLf b, tapTl b, if 4 < tapTl b then 8 else 0⟩

/-- What an operand requires. -/
inductive Need where
  /-- any format, or none at all -/
  | anyFmt
  | code (c : Nat)
  | width (w : Nat)
  /-- digits of an integer width, of a token length when it is not 0 -/
  | digits (wid tl : Nat)
  deriving DecidableEq, Repr, Inhabited

/-- An edge's format meets a requirement; none stands for an edge that carries no format. -/
def Need.accepts (n : Need) (f : Option LaneFmt) : Bool :=
  match n, f with
  | .anyFmt, _ => true
  | _, none => false
  | .code c, some f => f.code == c
  | .width w, some f => f.code != 11 && lfWidth f.code == w
  | .digits wid tl, some f => f.code == 9 && (wid == 0 || f.wid == 0 || f.wid == wid) && (tl == 0 || f.tl == tl)

/-- The lane width that FMT selects on the width-only instructions (R132, R135). -/
def fmtWidth (w : CtxFields) : Nat := 32 / 2 ^ w.fmt.toNat

/-- What operand k of a data-plane context requires on its own. -/
def needOf (op : Nat) (w : CtxFields) (k : Nat) : Need :=
  let f := w.fmt.toNat
  let n := if f = 0 then 8 else 4
  if 1 ≤ op ∧ op ≤ 0x0E then .code (6 + f)
  else match op with
  | 0x0F => .width (fmtWidth w)
  | 0x10 | 0x11 | 0x12 | 0x13 | 0x14 | 0x15 | 0x16 | 0x17 | 0x18 | 0x20 | 0x21 | 0x22 | 0x23 | 0x24 => .code f
  | 0x30 => .code (if k = 0 then CtxOps.xa w % 16 else cvtDst f)
  | 0x31 => if k = 0 then .code 8 else .digits n (CtxOps.sb w % 16)
  | 0x32 => if k = 0 then .digits n (CtxOps.sb w % 16) else .code 7
  | 0x33 => if k = 0 then .code 0 else if k = 1 ∧ CtxOps.xa w % 2 = 1 then .code 5 else .code 10
  | 0x43 | 0x44 => .width (fmtWidth w)
  | 0x45 | 0x46 => .code (if f = 0 then 0 else 6)
  | 0x47 | 0x48 => .width (fmtWidth w)
  | 0x50 | 0x53 | 0x54 => .code f
  | 0x51 => .code 5
  | 0x52 => if k = 0 then .digits (if (CtxOps.xa w).testBit 3 then 4 else 8) 0 else .digits 0 0
  | 0x55 => .code (if k = 0 then 10 else 1)
  | 0x59 | 0x5A => .code f
  | 0x5C => .width (32 / 2 ^ f)
  | _ => .anyFmt

/-- Operand B must carry A's format (R116, R131, R132, R135). -/
def bLikeA (op : Nat) : Bool := op == 0x0F || op == 0x42 || op == 0x43 || op == 0x44 || op == 0x48

/-- The format of a context's result on the data plane from those of A and B (R91, R103). The flags tell whether A and B name
sources that carry no edge. -/
def resultFmt (op : Nat) (w : CtxFields) (a b : Option LaneFmt) (aBare bBare : Bool) : Option LaneFmt :=
  let f := w.fmt.toNat
  if 1 ≤ op ∧ op ≤ 0x0E then some ⟨6 + f, 0, 0⟩
  else match op with
  | 0x0F | 0x40 | 0x42 | 0x47 => a
  | 0x43 | 0x44 => if aBare then b else a
  | 0x48 => if bBare then a else b
  | 0x30 => some ⟨cvtDst f, 0, 0⟩
  | 0x31 => some ⟨9, CtxOps.sb w % 16, if f = 0 then 8 else 4⟩
  | 0x32 => some ⟨7, 0, 0⟩
  | 0x33 => some ⟨if CtxOps.xa w % 2 = 1 then 5 else 10, 0, 0⟩
  | 0x41 => some ⟨CtxOps.xa w % 16, 0, 0⟩
  | 0x45 | 0x46 => some ⟨if f = 0 then 0 else 6, 0, 0⟩
  | 0x57 => some ⟨match f with | 0 => 0 | 1 => 6 | 2 => 1 | _ => 2, 0, 0⟩
  | _ => some ⟨f, 0, 0⟩

/-! ### Sources, destinations, planes (R74, R87, R88, R109, R110, R136, R137) -/

/-- A source code is accepted on an operand, taps apart. Destination 17 puts a context on the control plane only where the
instruction accepts it (R109), mov and the integer ones. Where the rules name neither case, acc and one are accepted on an operand
whose lane width alone is fixed, and zero on scac's band (entry 39). -/
def srcOk (op : Nat) (w : CtxFields) (k : Nat) (used : Bool) (c : BitVec 5) : Bool :=
  let n := c.toNat
  if n = 31 then false
  else if !used then n == 29
  else if op = 0x41 then n == 25
  else if 0x50 ≤ op then
    if k = 1 ∧ op ≤ 0x55 ∧ op ≠ 0x53 then n == 28
    else if op = 0x57 ∨ op = 0x58 then n == 26
    else if op = 0x52 ∧ k = 2 then decide (n ≤ 24) || n == 29 || n == 30
    else
      let compressed := (op = 0x54 ∧ k = 0) ∨ op = 0x5A
      decide (n ≤ 24) || n == 29 || (n == 30 && !decide compressed) || (n == 27 && op != 0x52 && op != 0x55)
  else if CtxOps.ctl w && (op == 0x40 || decide (op ≤ 0x0F)) then !(n == 28 && ownXa op)
  else match n with
  | 26 => (match needOf op w k with
      | .anyFmt => true
      | .code c => c == 0 || c == 6
      | .width w => w == 32
      | .digits .. => false)
  | 27 => !(op == 0x30 || op == 0x31 || op == 0x32 || op == 0x33)
  | 28 => !ownXa op
  | 30 => (match needOf op w k with
      | .digits .. => false
      | _ => true)
  | _ => true

/-- A destination code is accepted (R109, R136). -/
def dstOk (op : Nat) (w : CtxFields) : Bool :=
  let d := w.dw.toNat
  let plain := decide (d ≤ 16) || (decide (23 ≤ d) && decide (d ≤ 26))
  let acc := decide (18 ≤ d) && decide (d ≤ 21)
  if op = 0 then d == 28
  else if op = 0x40 then decide (d ≤ 26) || d == 28
  else if op ≤ 0x0F then plain || d == 28 || d == 17 || (acc && w.fmt == 0)
  else if op ≤ 0x13 then plain || d == 28 || (acc && w.fmt == 0)
  else match op with
  | 0x50 | 0x54 | 0x55 => acc
  | 0x51 => d == 27
  | 0x52 => d == 18 || d == 20
  | 0x53 | 0x5B | 0x5C => d == 22
  | 0x56 => acc || d == 27
  | 0x57 | 0x59 | 0x5A => plain
  | 0x58 => d == 28
  | _ => plain || d == 28

/-- The first of three operands that a test accepts. -/
def firstOpnd (f : Nat → BitVec 5 → Bool) (w : CtxFields) : Option Nat :=
  ((CtxOps.srcs w).zipIdx.find? fun p => f p.2 p.1).map Prod.snd

/-- An inbound tap that a source names is bound the right way. -/
def inTapOk (k : Bank) (c : BitVec 5) : Bool :=
  match tapCode c with
  | some t => tapEn (k.tap t) && !tapOut (k.tap t)
  | none => true

/-- An outbound tap that the destination names is bound the right way. -/
def outTapOk (k : Bank) (d : BitVec 5) : Bool :=
  if h : 23 ≤ d.toNat ∧ d.toNat ≤ 26 then
    let b := k.tap ⟨d.toNat - 23, by omega⟩
    tapEn b && tapOut b
  else true

/-- A tap that the context names is bound on the control plane. -/
def outTapCtl (k : Bank) (d : BitVec 5) : Bool :=
  if h : 23 ≤ d.toNat ∧ d.toNat ≤ 26 then tapCtl (k.tap ⟨d.toNat - 23, by omega⟩) else false

/-- Image coordinates one step in a direction, when they lie in the image. -/
def stepImage (h : Header) (row col dir : Nat) : Option (Nat × Nat) :=
  match dir with
  | 0 => if row = 0 then none else some (row - 1, col)
  | 1 => if col + 1 < h.cols then some (row, col + 1) else none
  | 2 => if row + 1 < h.rows then some (row + 1, col) else none
  | _ => if col = 0 then none else some (row, col - 1)

/-- A direction leaves the grid at a physical edge. -/
def leavesGrid (h : Header) (row col dir : Nat) : Bool :=
  match dir with
  | 0 => h.row0 + row == 0
  | 1 => h.col0 + col == 15
  | 2 => h.row0 + row == 15
  | _ => h.col0 + col == 0

/-- A context on its own (R103 step 2): reason, site and operand of the first failure. -/
def ctxFailure (h : Header) (blocks : Nat) (x : Section) (op : Nat) (w : CtxFields) : Option (Nat × Nat × Nat) :=
  match opSpec op w with
  | none => some (rOPC, 0, 3)
  | some sp =>
    let uses (k : Nat) : Bool := (sp.uses[k]?).getD false
    let plain := !CtxOps.ctl w
    let ctlCodes : List Nat := [16, 17, 18, 19, 25, 27, 29, 30]
    let badSrc := firstOpnd (fun k c => !srcOk op w k (uses k) c) w
    let badIn := firstOpnd (fun _ c => plain && !inTapOk x.bank c) w
    let badPlane := firstOpnd (fun k c => uses k &&
      (if plain then (c == 25 && op != 0x41) || (match tapCode c with | some t => tapCtl (x.bank.tap t) | none => false)
       else !ctlCodes.contains c.toNat)) w
    let edge (dir : Nat) : Bool := leavesGrid h x.row x.col dir
    let inside (dir : Nat) : Bool := (stepImage h x.row x.col dir).isSome
    let noCtlTap := firstOpnd (fun k c => uses k && c == 25 && edge (CtxOps.cd w) && x.bank.ctlTap.isNone) w
    let outside := firstOpnd (fun k c => uses k &&
      ((16 ≤ c.toNat && decide (c.toNat < 20) && !inside (c.toNat - 16)) ||
       (c == 25 && !inside (CtxOps.cd w) && !edge (CtxOps.cd w)))) w
    if !sp.fmts.contains w.fmt.toNat then some (rFMTCODE, 0, 3)
    else if sp.rm < bits w.mod.toNat 3 1 then some (rRND, 0, 3)
    else match modFailure op w sp blocks with
    | some p => some (rMOD, p.1, p.2)
    | none =>
      match badSrc, badIn with
      | some k, some j => if k ≤ j then some (rSRC, 0, k) else some (rTAP, 0, j)
      | some k, none => some (rSRC, 0, k)
      | none, some j => some (rTAP, 0, j)
      | none, none =>
        if !dstOk op w then some (rDST, 1, 3)
        else if !outTapOk x.bank w.dw then some (rTAP, 1, 3)
        else match badPlane with
        | some k => some (rPLANE, 0, k)
        | none =>
          if op = 0x41 ∧ !x.bank.repl then some (rPLANE, 0, 0)
          else if outTapCtl x.bank w.dw then some (rPLANE, 1, 3)
          else match outside, noCtlTap with
          | some k, some j => if k < j then some (rOUT, 0, k) else some (rTAP, 0, j)
          | some k, none => some (rOUT, 0, k)
          | none, some j => some (rTAP, 0, j)
          | none, none =>
            if 2 ≤ w.ps.toNat ∧ w.ps.toNat ≤ 5 ∧ !inside (w.ps.toNat - 2) then some (rOUT, 0, 3) else none

/-- The first context of a section that fails. -/
def badCtx (h : Header) (blocks : Nat) (x : Section) : Nat → List (BitVec 64) → Option W32
  | _, [] => none
  | n, v :: t =>
    match ctxFailure h blocks x (v.extractLsb' 56 8).toNat (ctxFieldsOf v) with
    | some (r, site, o) => some (report r x.e site n o)
    | none => badCtx h blocks x (n + 1) t

/-! ### Cues (R82, R83, R105) -/

/-- The first cue of a section that fails. -/
def badCue (h : Header) (x : Section) (runs : List Nat) (last : Nat) : Nat → List (BitVec 64) → Option Nat
  | _, [] => none
  | n, v :: t =>
    let st := (cueTimeOf v).stamp.toNat
    match decodeCue default v with
    | .error _ => some n
    | .ok i =>
      let bad := decide (h.p ≤ st) || decide (st < last) || (match i with
        | .cueRun _ c => decide (x.bank.ctx.length ≤ c.toNat) || runs.contains st
        | .cueDrain _ _ p false _ _ _ => (x.bank.findTap fun b => tapOut b && !tapCtl b && tapPort b == p).isNone
        | _ => false)
      if bad then some n
      else badCue h x (match i with | .cueRun .. => st :: runs | _ => runs) st (n + 1) t

/-! ### Sections (R99, R103 step 2) -/

/-- n words of w bytes from an offset. -/
def wordsAt (b : List Byte) (off w n : Nat) : List Nat := (List.range n).map fun i => fld b (off + w * i) w

/-- One section at the head of the rest of the image: the report of its first failure, or the section and its length. `left` is
what remains of TOTAL. -/
def checkSection (h : Header) (env : LoadEnv) (prev : Option Nat) (seen : List (BitVec 5 × Bool)) (b : List Byte) :
    Except W32 (Section × Nat) :=
  let row := fld b 0 1
  let col := fld b 1 1
  let e := 16 * row + col
  let nctx := fld b 2 1
  let ncue := fld b 3 1
  let nimm := fld b 4 1
  let len := fld b 6 2
  let taps := (wordsAt b 8 4 4).map (BitVec.ofNat 32)
  let x : Section :=
    { row := row, col := col
      bank := { present := true, repl := (fld b 5 1).testBit 0, ctx := (wordsAt b 0x20 8 nctx).map (BitVec.ofNat 64)
                cues := (wordsAt b (0x20 + 8 * nctx) 8 ncue).map (BitVec.ofNat 64)
                imt := (wordsAt b (0x20 + 8 * nctx + 8 * ncue) 32 nimm).map (BitVec.ofNat 256), taps := taps } }
  if b.length < 40 || decide (32 < nctx) || decide (64 < ncue) || decide (8 < nimm) || len != 40 + 8 * nctx + 8 * ncue + 32 * nimm ||
      decide (b.length < len) then .error (report rSEC e 3 0 3)
  else if crc32c (b.take (len - 8)) != BitVec.ofNat 32 (fld b (len - 8) 4) then .error (report rCRC e 3 0 3)
  else if decide (h.rows ≤ row) || decide (h.cols ≤ col) || (match prev with | some q => decide (e ≤ q) | none => false) ||
      decide (2 ≤ fld b 5 1) || !zeroBytes b 0x18 8 || !zeroBytes b (len - 4) 4 then .error (report rSEC e 3 0 3)
  else match badTap h env (h.row0 + row) (h.col0 + col) seen 0 taps with
  | some k => .error (report rTAP e 3 k 3)
  | none =>
    match badCtx h env.blocks x 0 x.bank.ctx with
    | some r => .error r
    | none =>
      match badCue h x [] 0 0 x.bank.cues with
      | some n => .error (report rCUE e 2 n 3)
      | none => .ok (x, len)

/-- The ports that a section binds, with the direction. -/
def Section.ports (x : Section) : List (BitVec 5 × Bool) :=
  x.bank.taps.filterMap fun b => if tapEn b then some (tapPort b, tapOut b) else none

/-- NSEC sections in image order; after the last one nothing may remain (R103). -/
def checkSections (h : Header) (env : LoadEnv) : Nat → Option Nat → List (BitVec 5 × Bool) → List Byte → Except W32 (List Section)
  | 0, _, _, b => if b.isEmpty then .ok [] else .error (report rHDR 0 0 0 0)
  | n + 1, prev, seen, b =>
    match checkSection h env prev seen b with
    | .error r => .error r
    | .ok (x, len) =>
      match checkSections h env n (some x.e) (x.ports ++ seen) (b.drop len) with
      | .error r => .error r
      | .ok l => .ok (x :: l)

/-! ### Step 4: the producers of each edge (R103, R444) -/

/-- The formats that the last writers of a place can have given it; a place that no context can have written has none. -/
abbrev Producers := List (Option LaneFmt)

/-- Union of producer sets. -/
def Producers.join (a b : Producers) : Producers := a ++ b.filter fun x => !a.contains x

/-- A result on its way in the schedule: its remaining latency, its place (an entry of the file, or D alone), its formats, and
whether it may be predicated off. -/
structure EdgeFlight where
  rem : Nat
  entry : Option Nat
  fmts : Producers
  maybe : Bool
  deriving DecidableEq, Repr, Inhabited

/-- The schedule's state of one element. -/
structure EdgeElem where
  f : List Producers
  d : Producers
  dn : Producers
  steady : Bool
  flight : List EdgeFlight
  deriving DecidableEq, Repr, Inhabited

def EdgeElem.init : EdgeElem := ⟨List.replicate 16 [], [], [], false, []⟩

/-- An edge that fails: element, context, operand, site, reason. -/
abbrev EdgeFail := Nat × Nat × Nat × Nat × Nat

/-- The latency of a context (R112, R140). -/
def latencyOf (op : Nat) (w : CtxFields) : Nat :=
  match op with
  | 0x30 | 0x31 | 0x32 | 0x33 | 0x46 | 0x57 | 0x58 | 0x59 => 2
  | 0x45 => if w.fmt = 0 then 5 else 2
  | 0x10 | 0x11 | 0x12 | 0x13 => 3
  | 0x20 | 0x21 | 0x50 | 0x51 | 0x52 | 0x53 | 0x54 | 0x55 | 0x56 => 4
  | 0x22 | 0x23 | 0x24 => 6
  | _ => 1

/-- The element of the schedule at image coordinates: none without a section. -/
def edgeAt (secs : List Section) (es : List EdgeElem) (rc : Nat × Nat) : Option EdgeElem :=
  (secs.zip es).findSome? fun (x, y) => if (x.row, x.col) == rc then some y else none

/-- The producers of a data-plane source, and whether it carries no edge at all (R110). -/
def edgeSource (h : Header) (secs : List Section) (es : List EdgeElem) (x : Section) (y : EdgeElem) (rb : Nat) (c : BitVec 5) :
    Producers × Bool :=
  let n := c.toNat
  if n < 16 then ((y.f[(n + rb) % 16]?).getD [], false)
  else if n < 20 then
    (match (stepImage h x.row x.col (n - 16)).bind (edgeAt secs es) with
      | some z => (z.dn, false)
      | none => ([], false))
  else if n = 20 then (y.d, false)
  else match tapCode c with
  | some t => ([some (tapFmt (x.bank.tap t))], false)
  | none => ([], true)

/-- The digit position of trixi lies in its producer's token (R148): of the producer's width, and where that is open of one of
the widths that the operand takes (entry 39). -/
def digitIn (wids : List Nat) (k : Nat) (f : Option LaneFmt) : Bool :=
  match f with
  | some f => f.code != 9 || (if f.wid = 0 then wids else [f.wid]).any fun n => decide (n - f.tl ≤ k) && decide (k < n)
  | none => true

/-- The failures of a context's edges, and the formats of its result. A place that nothing has written hands on the value that
agrees with every format, so a class T result of it agrees with every consumer too; where A and B must carry one format, an edge
that carries none agrees with the other (entry 39). An outbound tap is no operand and checks nothing (R103). -/
def edgeCheck (h : Header) (secs : List Section) (es : List EdgeElem) (x : Section) (y : EdgeElem) (rb n op : Nat) (w : CtxFields) :
    List EdgeFail × Producers :=
  let sp := (opSpec op w).getD ⟨[], 0, [], [false, false, false]⟩
  let uses (k : Nat) : Bool := (sp.uses[k]?).getD false
  let a := edgeSource h secs es x y rb w.srcA
  let b := edgeSource h secs es x y rb w.srcB
  let c := edgeSource h secs es x y rb w.srcC
  let fail (k : Nat) (o : Producers × Bool) : List EdgeFail :=
    if uses k && !o.2 && o.1.any (fun p => !(needOf op w k).accepts p) then [(x.e, n, k, 0, rFMT)] else []
  let like : List EdgeFail :=
    if bLikeA op && !a.2 && !b.2 && a.1.any (fun p => b.1.any fun q => match p, q with
      | some u, some v => !u.agrees v
      | _, _ => false) then [(x.e, n, 1, 0, rFMT)] else []
  let kx := CtxOps.xa w % 8
  let digit : List EdgeFail :=
    if op = 0x52 then
      (if a.1.any (fun p => !digitIn [if (CtxOps.xa w).testBit 3 then 4 else 8] kx p) then [(x.e, n, 0, 0, rMOD)] else []) ++
      (if c.1.any (fun p => !digitIn [8, 4] (CtxOps.ix w) p) then [(x.e, n, 2, 0, rMOD)] else [])
    else []
  let as : Producers := if a.2 then [none] else a.1
  let bs : Producers := if b.2 then [none] else b.1
  let copies := [0x0F, 0x40, 0x42, 0x43, 0x44, 0x47, 0x48].contains op
  let res : Producers :=
    if !copies then [resultFmt op w none none a.2 b.2]
    else if op = 0x48 then (if b.2 then as else bs)
    else if (op = 0x43 ∨ op = 0x44) ∧ a.2 then bs else as
  (fail 0 a ++ fail 1 b ++ fail 2 c ++ like ++ digit, res)

/-- The context of an element in a cycle of the schedule (R69). -/
def schedCtx (x : Section) (y : EdgeElem) (ii tc : Nat) (first last : Bool) : Option Nat :=
  let run := x.bank.cues.findSome? fun v =>
    let t := cueTimeOf v
    let sel := t.lap == 0 || (t.lap == 1 && first) || (t.lap == 2 && last)
    if t.stamp.toNat == tc && sel then
      match decodeCue default v with
      | .ok (.cueRun _ c) => some c.toNat
      | _ => none
    else none
  match run with
  | some n => some n
  | none => if y.steady then some (tc % ii) else none

/-- The predicate of a context in the schedule: never, always, or data decides (R89, R444). -/
def schedPred (w : CtxFields) (first last : Bool) : Option Bool :=
  match w.ps.toNat with
  | 0 => some (!w.pn)
  | 6 => some (first != w.pn)
  | 7 => some (last != w.pn)
  | _ => none

/-- An element issues in a cycle: its failures and its new result. The edges of a context that the schedule never issues are not
used, tap edges among them (entry 39). -/
def schedIssue (h : Header) (secs : List Section) (es : List EdgeElem) (x : Section) (y : EdgeElem) (it tc : Nat) (first last : Bool) :
    List EdgeFail × List EdgeFlight :=
  match schedCtx x y h.ii tc first last with
  | none => ([], [])
  | some n =>
    match x.bank.ctx[n]? with
    | none => ([], [])
    | some v =>
      let op := (v.extractLsb' 56 8).toNat
      let w := ctxFieldsOf v
      let go := schedPred w first last
      if go == some false || CtxOps.ctl w || op == 0 then ([], [])
      else
        let (fs, res) := edgeCheck h secs es x y (it % 16) n op w
        let d := w.dw.toNat
        let writesD := decide (d ≤ 16) || (decide (23 ≤ d) && decide (d ≤ 26))
        let fl : List EdgeFlight :=
          if writesD then [⟨latencyOf op w, if d < 16 then some ((d + it) % 16) else none, res, go.isNone⟩] else []
        (fs, fl)

/-- The drain cues of a cycle: each writes D with a drn.f32 result at its landing, through the tap it names (R83, R88, R156). They
issue after the cycle's context (R139). -/
def schedDrains (x : Section) (tc : Nat) (first last : Bool) : List EdgeFlight :=
  x.bank.cues.filterMap fun v =>
    let t := cueTimeOf v
    let sel := t.lap == 0 || (t.lap == 1 && first) || (t.lap == 2 && last)
    if t.stamp.toNat == tc && sel then
      match decodeCue default v with
      | .ok (.cueDrain _ _ _ false _ _ _) => some ⟨latencyOf 0x57 default, none, [some ⟨0, 0, 0⟩], false⟩
      | _ => none
    else none

/-- The end of a cycle of the schedule for one element: what neighbours read, the landings in issue order, the steady flag. -/
def EdgeElem.land (y : EdgeElem) : EdgeElem :=
  let due := y.flight.filter fun f => decide (f.rem ≤ 1)
  let later := (y.flight.filter fun f => decide (1 < f.rem)).map fun f => { f with rem := f.rem - 1 }
  due.foldl (fun z f =>
    let put (old : Producers) : Producers := if f.maybe then old.join f.fmts else f.fmts
    let z1 := { z with d := put z.d }
    match f.entry with
    | some k => { z1 with f := z1.f.set k (put ((z1.f[k]?).getD [])) }
    | none => z1) { y with dn := y.d, flight := later }

/-- The begin, end and end-take cues of an element in a cycle: its steady flag afterwards, and whether the take ends. -/
def schedCues (x : Section) (tc : Nat) (first last : Bool) (steady : Bool) : Bool × Bool :=
  x.bank.cues.foldl (fun (a : Bool × Bool) v =>
    let t := cueTimeOf v
    let sel := t.lap == 0 || (t.lap == 1 && first) || (t.lap == 2 && last)
    if t.stamp.toNat == tc && sel then
      match decodeCue default v with
      | .ok (.cueBegin _) => (true, a.2)
      | .ok (.cueEnd _) => (false, a.2)
      | .ok (.cueEndtake _) => (a.1, true)
      | _ => a
    else a) (steady, false)

/-- The cycles of one lap from tc on. Answers the failures, the state, and whether the take ended. -/
def schedLap (h : Header) (secs : List Section) (lap : Nat) (first last : Bool) :
    Nat → Nat → List EdgeElem → List EdgeFail × List EdgeElem × Bool
  | 0, _, es => ([], es, false)
  | n + 1, tc, es =>
    let it := (lap * h.p + tc) / h.ii
    let rs := (secs.zip es).map fun (x, y) => schedIssue h secs es x y it tc first last
    let es1 := (secs.zip (es.zip rs)).map fun (x, y, r) =>
      let (st, _) := schedCues x tc first last y.steady
      { (({ y with flight := y.flight ++ r.2 ++ schedDrains x tc first last } : EdgeElem).land) with steady := st }
    let ended := (secs.zip es).any fun (x, y) => (schedCues x tc first last y.steady).2
    let fs := rs.flatMap Prod.fst
    if ended then (fs, es1, true)
    else
      let (fs', es', e) := schedLap h secs lap first last n (tc + 1) es1
      (fs ++ fs', es', e)

/-- The laps of the schedule: each is followed as the last one and as one before the last, until a lap's start repeats, so that
every take length is covered (R444). The fuel is the largest number of laps. -/
def schedLaps (h : Header) (secs : List Section) : Nat → Nat → List (Nat × List EdgeElem) → List EdgeElem → List EdgeFail
  | 0, _, _, _ => []
  | fuel + 1, lap, seen, es =>
    let rb := lap * (h.p / h.ii) % 16
    if lap != 0 && seen.contains (rb, es) then []
    else
      let (f1, _, _) := schedLap h secs lap (lap == 0) true h.p 0 es
      let (f2, es', ended) := schedLap h secs lap (lap == 0) false h.p 0 es
      if ended then f1 ++ f2
      else f1 ++ f2 ++ schedLaps h secs fuel (lap + 1) (if lap = 0 then seen else (rb, es) :: seen) es'

/-- Whether a failing edge comes before another: by element, context and operand. -/
def EdgeFail.before (a b : EdgeFail) : Bool :=
  decide (a.1 < b.1) || (a.1 == b.1 && (decide (a.2.1 < b.2.1) || (a.2.1 == b.2.1 && decide (a.2.2.1 < b.2.2.1))))

/-- The first failing edge. -/
def firstEdge : List EdgeFail → Option EdgeFail
  | [] => none
  | a :: t => match firstEdge t with
    | none => some a
    | some b => if EdgeFail.before b a then some b else some a

/-- Step 4 of R103. -/
def checkEdges (h : Header) (secs : List Section) : Option W32 :=
  (firstEdge (schedLaps h secs (2 ^ 32) 0 [] (secs.map fun _ => EdgeElem.init))).map fun f =>
    report f.2.2.2.2 f.1 f.2.2.2.1 f.2.1 f.2.2.1

/-- All checks of rload on the header that passed step 1 and the bytes from 0xD90 to TOTAL (R103). -/
def checkImage (h : Header) (nsec : Nat) (env : LoadEnv) (body : List Byte) : Except W32 Image :=
  match checkSections h env nsec none [] body with
  | .error r => .error r
  | .ok secs =>
    match checkEdges h secs with
    | some r => .error r
    | none => .ok ⟨h, secs⟩

end Sys2Proof.Machine
end

