-- ==== Sys2Proof/Machine/Region.lean ====
section
/-! DEFINITION. A region's grid cycle: what is due, the decision to hold, stop or advance, cues, the landing of results, the end of
a take and its stop (R66 to R71, R73, R80 to R85, R106, R139, R158, R301, R303). -/
namespace Sys2Proof.Machine

/-! ### What is due in a take cycle (R69, R71, R82) -/

/-- A cue's lap qualifier selects the region's lap. -/
def Region.lapSelects (r : Region) (q : BitVec 2) : Bool :=
  match q.toNat with
  | 0 => true
  | 1 => r.lap == 0
  | 2 => r.lastLap
  | _ => false

/-- A cue due in a take cycle: its element, its index in the list, and its instruction. -/
structure DueCue where
  elem : Fin 256
  idx : Nat
  i : Instr
  deriving DecidableEq, Repr, Inhabited

/-- A context due in a take cycle: its site, opcode and fields, and the run cue that issues it, if one does. -/
structure DueCtx where
  x : ElemSite
  op : Nat
  w : CtxFields
  i : Instr
  cue : Option (Nat × BitVec 5)
  deriving DecidableEq, Repr, Inhabited

/-- The place of context or cue n of an element. -/
def siteOf (c : CpId) (r : Fin 4) (e : Fin 256) (n : Nat) : ElemSite := ⟨c, r, e, BitVec.ofNat 6 n⟩

/-- The cues of an element that are due, in list order. -/
def State.elemCues (s : State) (c : CpId) (r : Fin 4) (e : Fin 256) : List DueCue :=
  let g := s.region c r
  let k := (s.elem c e).on
  if !k.present then []
  else k.cues.zipIdx.filterMap fun (w, n) =>
    let t := cueTimeOf w
    if t.stamp.toNat == g.tc && g.lapSelects t.lap then
      match decodeCue (siteOf c r e n) w with
      | .ok i => some ⟨e, n, i⟩
      | .error _ => none
    else none

/-- The cues of a region that are due. -/
def State.dueCues (s : State) (c : CpId) (r : Fin 4) : List DueCue := (s.region c r).onHdr.elems.flatMap (s.elemCues c r)

/-- Context n of an element: none beyond its context words, which are nop (R71). -/
def State.ctxAt (s : State) (c : CpId) (r : Fin 4) (e : Fin 256) (n : Nat) (cue : Option (Nat × BitVec 5)) : Option DueCtx :=
  match (s.elem c e).on.ctx[n]? with
  | none => none
  | some w =>
    match decodeCtx (siteOf c r e n) w with
    | .error _ => none
    | .ok i => match elemParts i with
      | some (op, x, f) => some ⟨x, op, f, i, cue⟩
      | none => none

/-- The context an element issues: a run cue's, else the steady one of the slot counter (R69). -/
def State.dueCtx (s : State) (c : CpId) (r : Fin 4) (e : Fin 256) : Option DueCtx :=
  let run := (s.elemCues c r e).findSome? fun q => match q.i with
    | .cueRun _ n => some (q.idx, n)
    | _ => none
  match run with
  | some (k, n) => s.ctxAt c r e n.toNat (some (k, n))
  | none => if (s.elem c e).steady && (s.elem c e).on.present then s.ctxAt c r e (s.region c r).slotc none else none

/-- The contexts of a region that are due, in image order. -/
def State.dueContexts (s : State) (c : CpId) (r : Fin 4) : List DueCtx :=
  (s.region c r).onHdr.elems.filterMap (s.dueCtx c r)

/-! ### Reasons to hold (R80, R83, R84, R321, R445) -/

/-- What a wait cue finds. -/
inductive WaitFound where
  | below
  | reached
  | overflow
  | uncorrectable (pa : PAddr) (va : Word)
  /-- the counter's unit has gone to another owner (R318, R351) -/
  | denied (va : Word)
  deriving DecidableEq, Repr, Inhabited

/-- The entry of the region's counter table that a cue names. -/
def Region.ctr (g : Region) (k : BitVec 4) : Option CtrEntry := g.ctrs[k.toNat]?

/-- A wait cue against its counter (R83, R84). It is read after the take's own adds to it have performed (R277). -/
def State.waitFound (s : State) (c : CpId) (r : Fin 4) (k : BitVec 4) (step : BitVec 32) : WaitFound :=
  let g := s.region c r
  match g.ctr k with
  | none => .reached
  | some t =>
    let target := t.base.toNat + g.lap * step.toNat
    if 2 ^ 64 ≤ target then .overflow
    else if s.adds.any (fun x => x.sender == c && x.agent == .take r && overlaps x.pa 8 t.pa 8) then .below
    else if !s.ownerOk (s.slot c).part t.pa false then .denied t.addr
    else match (s.load c (s.slot c).part t.pa 8).2 with
    | none => .uncorrectable t.pa t.addr
    | some b => if leNat b < target then .below else .reached

/-- The ports that a region's outbound taps bind, each with its tap. -/
def Slot.outPorts (t : Slot) (r : Fin 4) : List (Fin 256 × Fin 4 × BitVec 5) :=
  (t.regions.get r).onHdr.elems.flatMap fun e =>
    let k := (t.elems.get e).on
    ([0, 1, 2, 3] : List (Fin 4)).filterMap fun i =>
      if k.present && tapEn (k.tap i) && tapOut (k.tap i) then some (e, i, tapPort (k.tap i)) else none

/-- A token that the region sent out has not been accepted at its destination, tiles among them (R83, R290, R321). -/
def State.outstanding (s : State) (c : CpId) (r : Fin 4) : Bool :=
  let t := s.slot c
  (t.outPorts r).any (fun q => (t.port q.2.2).unstored != 0 || !(t.port q.2.2).chan.kept.isEmpty) ||
  s.tiles.any fun x => x.sender == c && x.region == r

/-- The outbound tap that an act writes. -/
def Act.outTap : Act → Option (Fin 4)
  | .write (.tapOut t) .. => some t
  | .drain _ _ _ _ _ _ (.tapOut t) => some t
  | _ => none

/-- The outbound tap that a due context writes. -/
def outTapOf (w : CtxFields) : Option (Fin 4) :=
  if h : 23 ≤ w.dw.toNat ∧ w.dw.toNat ≤ 26 then some ⟨w.dw.toNat - 23, by omega⟩ else none

/-- The outbound data-plane tap of an element that a drain cue's port names (R83). -/
def Bank.drainTap (k : Bank) (p : BitVec 5) : Option (Fin 4) := k.findTap fun b => tapOut b && !tapCtl b && tapPort b == p

/-- The outbound taps that a due context or drain cue writes, with the element. -/
def State.dueWrites (s : State) (c : CpId) (xs : List DueCtx) (qs : List DueCue) : List (Fin 256 × Fin 4) :=
  (xs.filterMap fun d => (outTapOf d.w).map fun t => (d.x.elem, t)) ++
  (qs.filterMap fun q => match q.i with
    | .cueDrain _ _ p false _ _ _ => ((s.elem c q.elem).on.drainTap p).map fun t => (q.elem, t)
    | _ => none)

/-- An elastic outbound tap that is due to be written has no credit (R80 step 3, R445). -/
def State.lacksCredit (s : State) (c : CpId) (ws : List (Fin 256 × Fin 4)) : Bool :=
  ws.any fun (e, t) =>
    let k := s.elem c e
    let b := k.on.tap t
    let under := (k.flight.filter fun f => f.act.outTap == some t).length
    tapElastic b && !s.hasCredit c (tapPort b) under (ws.filter (· == (e, t))).length

/-- The drain-add streams of the due drains to peers. -/
def tileStreams (xs : List DueCtx) (qs : List DueCue) : List (BitVec 2) :=
  (xs.filterMap fun d => if d.op = 0x58 then some (BitVec.ofNat 2 (CtxOps.xa d.w / 8)) else none) ++
  (qs.filterMap fun q => match q.i with
    | .cueDrain _ _ _ true _ strm _ => some strm
    | _ => none)

/-- A due drain to a peer has no credit of its stream: what is out, and what other regions' drains of this cycle take, is counted (R321). -/
def Slot.lacksTileCredit (t : Slot) (ss : List (BitVec 2)) : Bool :=
  ss.any fun k => decide (16 < t.tilesOut.get (ix4 k) + t.tileClaims.get (ix4 k) + (ss.filter (· == k)).length)

/-- The drains of a region that advances claim their credits (R321). -/
def State.claimTiles (s : State) (c : CpId) (ss : List (BitVec 2)) : State :=
  s.modSlot c fun t => { t with tileClaims := ss.foldl (fun v k => vmod v (ix4 k) (· + 1)) t.tileClaims }

/-- Steps 1 to 3 of R80, and the walk that holds a region (R184). -/
def State.holds (s : State) (c : CpId) (r : Fin 4) (xs : List DueCtx) (qs : List DueCue) : Bool :=
  let waits := qs.any fun q => match q.i with
    | .cueWait _ k _ step => s.waitFound c r k step == .below
    | .cueSig .. => s.outstanding c r
    | _ => false
  let empty := xs.any fun d => d.w.h && !s.tapsReady d.x d.w
  (s.region c r).walking || waits || empty || s.lacksCredit c (s.dueWrites c xs qs) ||
    (s.slot c).lacksTileCredit (tileStreams xs qs)

/-! ### Reasons to stop (R80 step 4, R81, R84, R106, R157, R300) -/

/-- A stop that names a context: SITE 0b00 for an operand, 0b01 for the destination (R104). -/
def ctxStop (g : Region) (d : DueCtx) (dest : Bool) (cause : BitVec 8) (detail : Nat) (port : BitVec 8) (synd : Word) : StopInfo :=
  { cause := cause, detail := BitVec.ofNat 64 detail, port := port, elem := BitVec.ofNat 8 (g.onHdr.image d.x.elem)
    index := BitVec.ofNat 8 (d.x.idx.toNat + if dest then 64 else 0), vaddr := 0, synd := synd }

/-- A stop that names a cue: SITE 0b10 (R104). -/
def cueStopInfo (g : Region) (e : Fin 256) (n : Nat) (cause : BitVec 8) (detail : Nat) (port : BitVec 8) : StopInfo :=
  { cause := cause, detail := BitVec.ofNat 64 detail, port := port, elem := BitVec.ofNat 8 (g.onHdr.image e)
    index := BitVec.ofNat 8 (128 + n), vaddr := 0, synd := 0 }

/-- A port carries a running write stream, or the window of an attention call (R445). The region decides before the start cues of the cycle
fire, so a stream that one of them starts does not count yet (DESIGN CHOICE: R445 gives no order of the two; entry 43). -/
def Slot.writeRuns (t : Slot) (p : BitVec 5) : Bool :=
  p == 18 || p == 22 || (match (t.port p).run with | some st => patWrite st.pat && !st.paused | none => false)

/-- The stops that a due context meets. A predicated-off context reads and writes no block, so that one whose stepped block lies outside the
share does not stop its region (DEDUCED: R65 stops it, R70 does not name the case; entry 43). -/
def State.ctxStops (s : State) (c : CpId) (r : Fin 4) (d : DueCtx) : List StopInfo :=
  let g := s.region c r
  let k := (s.siteElem d.x).on
  let pred := s.predicate d.x d.w
  let emptyTap := (s.namedTaps d.x d.w).find? fun t => ((s.siteElem d.x).tapq.get t).isEmpty
  (match emptyTap with
    | some t => if d.w.h then [] else [ctxStop g d false cTIMING 0 ((tapPort (k.tap t)).setWidth 8) 0]
    | none => []) ++
  (match outTapOf d.w with
    | some t =>
      let p := tapPort (k.tap t)
      if !tapElastic (k.tap t) && !(s.slot c).writeRuns p then [ctxStop g d true cTIMING 9 (p.setWidth 8) 0] else []
    | none => []) ++
  (if d.op = 0x58 && pred && (s.peerAt c (BitVec.ofNat 3 (CtxOps.xa d.w))).isNone
    then [ctxStop g d false cTIMING 7 0xFF 0] else []) ++
  (match s.blockGuard d.x d.op d.w with
    | some b => if pred then [ctxStop g d (d.w.dw == 22) cGUARD b 0xFF 0] else []
    | none => []) ++
  (match (s.readMarks d.x d.op d.w).find? fun m => m.1.two with
    | some (m, a, off) => [ctxStop g d false cUNCORR (a + (off % 2 ^ 16) * 256) 0xFF (m.synd.setWidth 64)]
    | none => [])

/-- The word of a cue in array 1 (R307). -/
def cueReads (e : Fin 256) (n : Nat) : Reads := ([(1, e.val, 32 + n, 1)], none)

/-- The uncorrectable error on the word of a cue. -/
def State.cueMark (s : State) (c : CpId) (q : DueCue) : Option EccMark :=
  ((s.marksOf c.core (cueReads q.elem q.idx)).find? fun m => m.1.two).map (·.1)

/-- The stops that a due cue meets. -/
def State.cueStops (s : State) (c : CpId) (r : Fin 4) (q : DueCue) : List StopInfo :=
  let g := s.region c r
  (match s.cueMark c q with
    | some m => [{ cueStopInfo g q.elem q.idx cUNCORR (1 + (32 + q.idx) * 256) 0xFF with synd := m.synd.setWidth 64 }]
    | none => []) ++
  (match q.i with
  | .cueStart _ p =>
    if !g.started && ((s.slot c).port p).pending.isNone then [cueStopInfo g q.elem q.idx cTIMING 1 (p.setWidth 8)] else []
  | .cueWait _ k _ step =>
    (match s.waitFound c r k step with
      | .overflow => [cueStopInfo g q.elem q.idx cTIMING 2 0xFF]
      | .uncorrectable pa va =>
        [{ cueStopInfo g q.elem q.idx cUNCORR 0 0xFF with detail := s.uncorrDetail pa 8, vaddr := va, synd := s.synd pa 8 }]
      | .denied va => [{ cueStopInfo g q.elem q.idx cPAGE 0 0xFF with vaddr := va }]
      | _ => [])
  | .cueDrain _ _ _ true pb _ _ => if (s.peerAt c pb).isNone then [cueStopInfo g q.elem q.idx cTIMING 7 0xFF] else []
  | .cueDrain _ _ p false _ _ _ =>
    (match (s.elem c q.elem).on.drainTap p with
      | some t => if !tapElastic ((s.elem c q.elem).on.tap t) && !(s.slot c).writeRuns p
          then [cueStopInfo g q.elem q.idx cTIMING 9 (p.setWidth 8)] else []
      | none => [])
  | _ => [])

/-! ### Results that are about to leave (R184, R445) -/

/-- The places of the next n tokens of a write stream, bubbles of its index stream passed over (R180). -/
def State.formAhead (s : State) (c : CpId) : Nat → Nat → Stream → List Formed
  | 0, _, _ => []
  | _, 0, _ => []
  | fuel + 1, n + 1, st =>
    let next : Stream := { st with pos := st.pos + 1, ipos := if patInd st.pat then st.ipos + 1 else st.ipos }
    if patTotal st.pat ≤ st.pos then []
    else match s.formToken c st with
    | .bubble => s.formAhead c fuel (n + 1) next
    | f => f :: s.formAhead c fuel n next

/-- The outbound taps that results landing in this cycle write, in landing order. -/
def State.landingTaps (s : State) (c : CpId) (r : Fin 4) : List (Fin 256 × Fin 4) :=
  (s.region c r).onHdr.elems.flatMap fun e =>
    ((s.elem c e).flight.filter fun f => decide (f.rem ≤ 1)).filterMap fun f => f.act.outTap.map fun t => (e, t)

/-- The addresses of the tokens that a landing tap sends in this cycle, with the stream that forms them. -/
def State.tapAhead (s : State) (c : CpId) (ws : List (Fin 256 × Fin 4)) (w : Fin 256 × Fin 4) : Option (BitVec 5 × Stream × List Formed) :=
  let p := tapPort ((s.elem c w.1).on.tap w.2)
  if p == 18 || p == 22 then none
  else match ((s.slot c).port p).run with
  | none => none
  | some st =>
    if patSpace st.pat == 2 || !patWrite st.pat || (s.core c.core).forming c.slot p then none
    else
      let n := (ws.filter (· == w)).length
      some (p, st, s.formAhead c (patTotal st.pat + n) n st)

/-- The stops of the tokens that land at taps in this cycle: an address that their stream cannot use, or a timed tap without a stream
(R181, R187, R445). -/
def State.tapStops (s : State) (c : CpId) (r : Fin 4) : List StopInfo :=
  let ws := s.landingTaps c r
  ws.flatMap fun w =>
    let b := (s.elem c w.1).on.tap w.2
    match s.tapAhead c ws w with
    | some (p, _, l) => l.filterMap fun f => match f with
      | .stop cause detail va synd => some (s.streamStopInfo c r p cause detail va synd)
      | _ => none
    | none => if !tapElastic b && ((s.slot c).port (tapPort b)).run.isNone then [s.streamStopInfo c r (tapPort b) cTIMING 9 0 0] else []

/-- The first walk that the addresses of the landing tokens need (R184). -/
def State.landWalk (s : State) (c : CpId) (r : Fin 4) : Option (BitVec 5 × Stream × Nat) :=
  let ws := s.landingTaps c r
  ws.findSome? fun w => match s.tapAhead c ws w with
    | some (p, st, l) => l.findSome? fun f => match f with
      | .walk va => some (p, st, va)
      | _ => none
    | none => none

/-- What an act reads at its landing: the accumulator that it adds to or drains (R139, R156, R157), or the block that trixg adds to
(R150). -/
def State.landReads (s : State) (c : CpId) (r : Fin 4) (e : Fin 256) : Act → Reads
  | .accumF i za .. => (if za then [] else [(3, e.val, 4 * i.val, 4)], none)
  | .accumI i za .. => (if za then [] else [(3, e.val, 4 * i.val, 4), (3, e.val, 4 * ((i.val + 1) % 4), 4)], none)
  | .accumG b za .. => ([], if za then none else some (s.blockPlace (siteOf c r e 0) b, 256))
  | .drain i .. => ([(3, e.val, 4 * i.val, 4)], none)
  | .drainPeer i .. => ([(3, e.val, 4 * i.val, 4)], none)
  | _ => ([], none)

/-- The results of a region that land in this cycle. -/
def State.landing (s : State) (c : CpId) (r : Fin 4) : List (Fin 256 × Flight) :=
  (s.region c r).onHdr.elems.flatMap fun e => ((s.elem c e).flight.filter fun f => decide (f.rem ≤ 1)).map fun f => (e, f)

/-- The stops of uncorrectable errors in what the landing results read (R106, R307). -/
def State.landEccStops (s : State) (c : CpId) (r : Fin 4) : List StopInfo :=
  if s.ecc.isEmpty then []
  else (s.landing c r).filterMap fun (e, f) =>
    ((s.marksOf c.core (s.landReads c r e f.act)).find? fun m => m.1.two).map fun (m, a, off) =>
      { cause := cUNCORR, detail := BitVec.ofNat 64 (a + (off % 2 ^ 16) * 256), port := 0xFF
        elem := BitVec.ofNat 8 ((s.region c r).onHdr.image e), index := f.index, vaddr := 0, synd := m.synd.setWidth 64 }

/-- A landing read of a stationary store meets a corrected error: the region holds for one cycle (R106). -/
def State.landCorrected (s : State) (c : CpId) (r : Fin 4) : Bool :=
  !s.ecc.isEmpty && (s.landing c r).any fun (e, f) => (s.marksOf c.core (s.landReads c r e f.act)).any fun m => m.2.1 == 0 && !m.1.two

/-- The stops of what lands in this cycle. -/
def State.landStops (s : State) (c : CpId) (r : Fin 4) : List StopInfo := s.tapStops c r ++ s.landEccStops c r

/-- The uncorrectable errors that a stop of this cycle has met enter the logs (R307, R319). -/
def State.logStops (s : State) (c : CpId) (r : Fin 4) (xs : List DueCtx) (qs : List DueCue) : State :=
  if s.ecc.isEmpty then s
  else
    let bad (l : Reads) : Bool := (s.marksOf c.core l).any fun m => m.1.two
    let s1 := xs.foldl (fun t d => if (s.readMarks d.x d.op d.w).any fun m => m.1.two then t.logReads d.x d.op d.w else t) s
    let s2 := qs.foldl (fun t q =>
      let t1 := if bad (cueReads q.elem q.idx) then t.logOf c (cueReads q.elem q.idx) else t
      match q.i with
      | .cueWait _ k _ step => match s.waitFound c r k step with
        | .uncorrectable pa _ => (t1.load c (s.slot c).part pa 8).1
        | _ => t1
      | _ => t1) s1
    (s.landing c r).foldl (fun t (e, f) => if bad (s.landReads c r e f.act) then t.logOf c (s.landReads c r e f.act) else t) s2

/-! ### The decision (R80, R106, R303, R352) -/

/-- Events are due at the end of the present grid cycle (entry 3). -/
def State.dueLast (s : State) (l : List Instr) : State := { s with agenda := s.agenda ++ l.map Task.ev }

/-- A held cycle is counted (R80, R416). -/
def State.held (s : State) (c : CpId) (r : Fin 4) : State :=
  (s.modRegion c r fun g => { g with held := g.held + 1, going := false }).modCp c fun p => p.count 2 1

/-- A corrected read of a stationary store holds the region for one cycle (R106). -/
def State.ssCorrected (s : State) (xs : List DueCtx) : Bool :=
  xs.any fun d => (s.readMarks d.x d.op d.w).any fun m => m.2.1 == 0 && !m.1.two

/-- The take's first read across a guard needs room for its record (R303, R352). -/
def State.guardWaits (s : State) (c : CpId) (r : Fin 4) (xs : List DueCtx) : Bool :=
  !(s.region c r).guardRecorded && !s.recRoom c.core (.guard c r) && xs.any fun d => s.guardReads d.x d.w != 0

/-- The contexts of an advancing cycle, and its drains to peers, which take a binding as it stands at issue (R139, R157, R324): they
come before the turns of the CPs. -/
def issueEvents (c : CpId) (r : Fin 4) (xs : List DueCtx) (qs : List DueCue) : List Instr :=
  (xs.map fun d => match d.cue with
    | some (k, n) => Instr.cueRun (siteOf c r d.x.elem k) n
    | none => d.i) ++
  (qs.filterMap fun q => match q.i with
    | .cueDrain .. => some q.i
    | _ => none)

/-- The other cues of an advancing cycle in list order, and at its end the landing of results (R139). -/
def cycleEvents (c : CpId) (r : Fin 4) (qs : List DueCue) : List Instr :=
  (qs.filterMap fun q => match q.i with
    | .cueRun .. => none
    | .cueStart .. => none
    | .cueDrain .. => none
    | i => some i) ++ [Instr.resultLand c r]

/-- The region advances: its start cues fire, then streams read, then contexts issue, and what is left comes at the cycle's end. -/
def State.goes (s : State) (c : CpId) (r : Fin 4) (xs : List DueCtx) (qs : List DueCue) : State :=
  let starts := if (s.region c r).started then [] else qs.filterMap fun q => match q.i with
    | .cueStart .. => some q.i
    | _ => none
  let claims := tileStreams (xs.filter fun d => s.predicate d.x d.w) qs
  (((((if claims.isEmpty then s else s.claimTiles c claims).modRegion c r fun g => { g with going := true, started := true }).dueFirst starts).dueMid
    (issueEvents c r xs qs)).dueLast (cycleEvents c r qs))

/-- REGION_CYCLE: a region's decision in a grid cycle. A running take holds, stops or advances; a draining one lands results and
may end. Every cause that the cycle meets takes part in the choice of a stop (R301). A region of a slot that is not on the grid, or
whose take has not begun, does nothing. -/
def execRegionCycle (c : CpId) (r : Fin 4) (s : State) : Out State :=
  .next <|
    let g := s.region c r
    let stopped (t : State) (l : List StopInfo) : State := t.modRegion c r fun g => l.foldl Region.addStop g
    if !s.takesRun c then s
    else match g.on with
    | .draining =>
      let stops := if g.stopRec then [] else s.landStops c r
      (if stops.isEmpty then s else stopped (s.logStops c r [] []) stops).dueLast [.resultLand c r, .takeEnded c r]
    | .running =>
      if g.startIn != 0 then s
      else if g.stopRec then s.dueLast [.resultLand c r]
      else
        let xs := s.dueContexts c r
        let qs := s.dueCues c r
        if s.holds c r xs qs then (if g.stopDue.isSome then s.dueLast [.resultLand c r] else s.held c r)
        else
          let stops := xs.flatMap (s.ctxStops c r) ++ qs.flatMap (s.cueStops c r) ++ s.landStops c r
          if !stops.isEmpty || g.stopDue.isSome then (stopped (s.logStops c r xs qs) stops).dueLast [.resultLand c r]
          else if (s.ssCorrected xs || s.landCorrected c r) && !g.eccHeld then
            (s.held c r).modRegion c r fun g => { g with eccHeld := true }
          else if s.guardWaits c r xs then (s.holdRec c.core (.guard c r)).held c r
          else match s.landWalk c r with
          | some (p, st, va) => (s.startWalk c p st va).held c r
          | none => s.goes c r xs qs
    | _ => s

/-! ### Cues (R82 to R85) -/

/-- A cue fires: its region advances in this cycle and is not about to stop. -/
def State.fires (s : State) (x : ElemSite) : Bool :=
  (s.siteRegion x).on == .running && (s.siteRegion x).going && (s.siteRegion x).stopDue.isNone

/-- A cue's effect; the corrected errors of its word are logged (R106). -/
def State.fire (s : State) (x : ElemSite) (k : State → State) : Out State :=
  .next (if s.fires x then k (s.logOf x.cp (cueReads x.elem x.idx.toNat)) else s)

/-- run: the context issues (R69). -/
def execCueRun (x : ElemSite) (n : BitVec 5) (s : State) : Out State :=
  s.fire x fun t =>
    match t.ctxAt x.cp x.region x.elem n.toNat none with
    | some d => t.dueFirst [d.i]
    | none => t

/-- A read of a stream that has just started joins those of the cycle: a timed one before those of elastic streams (R175, R312). -/
def State.dueRead (s : State) (c : CpId) (p : BitVec 5) : State :=
  let after (t : Task) : Bool := match t with
    | .ev (.streamReadIssue d q) => d.core == c.core && !(s.slot d).timedOn q
    | _ => false
  if (s.slot c).timedOn p && s.agenda.any after then s.dueBefore after [.streamReadIssue c p] else s.dueMid [.streamReadIssue c p]

/-- start: the pending binding of the port starts (R81, R252). A stream that was bound in this very cycle reads in it too (R312). -/
def execCueStart (x : ElemSite) (p : BitVec 5) (s : State) : Out State :=
  s.fire x fun t =>
    match ((t.slot x.cp).port p).pending with
    | some b =>
      let u := t.fixedStart x.cp p b x.region
      if patWrite b.pat || u.agenda.contains (.ev (.streamReadIssue x.cp p)) then u else u.dueRead x.cp p
    | none => t.modRegion x.cp x.region fun g => g.addStop (cueStopInfo g x.elem x.idx.toNat cTIMING 1 (p.setWidth 8))

/-- stop: the running stream ends after its current token; a pending binding stays (R83, R254). -/
def execCueStop (x : ElemSite) (p : BitVec 5) (s : State) : Out State := s.fire x fun t => t.endStream x.cp p

/-- drain: as drn.f32 through the tap of the port, or as drna.f32 to the peer binding (R83, R156, R157). -/
def execCueDrain (x : ElemSite) (acc : BitVec 2) (p : BitVec 5) (peer : Bool) (pb : BitVec 3) (strm : BitVec 2) (clr : Bool)
    (s : State) : Out State :=
  s.fire x fun t =>
    if peer then
      match t.peerAt x.cp pb with
      | none => t.modRegion x.cp x.region fun g => g.addStop (cueStopInfo g x.elem x.idx.toNat cTIMING 7 0xFF)
      | some b => (t.launchCue x (.drainPeer (ix4 acc) false clr pb strm b.desc b.seq true x.idx)).takeTileCredit x.cp strm
    else match (t.siteElem x).on.drainTap p with
    | none => t
    | some i => t.launchCue x (.drain (ix4 acc) 0 false clr false false (.tapOut i))

/-- The add of a region's Signal, after those that its take has under way (R22, R267, R282). -/
def State.regionSignal (s : State) (c : CpId) (r : Fin 4) (t : CtrEntry) (k : Word) : State := s.signalBy c (.take r) t.pa t.addr k

/-- sig: the region's decision has seen every token accepted; the counter is signalled (R83). -/
def execCueSig (x : ElemSite) (k : BitVec 4) (_scope : BitVec 3) (inc : BitVec 32) (s : State) : Out State :=
  s.fire x fun t =>
    match (t.siteRegion x).ctr k with
    | some e => t.regionSignal x.cp x.region e (inc.setWidth 64)
    | none => t

/-- wait: the region's decision has found the counter at its target; the cue reads it and acquires (R83, R84). -/
def execCueWait (x : ElemSite) (k : BitVec 4) (_scope : BitVec 3) (_step : BitVec 32) (s : State) : Out State :=
  s.fire x fun t =>
    match (t.siteRegion x).ctr k with
    | some e => (t.load x.cp (t.slot x.cp).part e.pa 8).1
    | none => t

/-- begin: the steady flag is set from the next cycle (R69). Cues fire in list order, so that of a begin and an end cue of one element at one
stamp the later one of the list stands (DESIGN CHOICE: R69 gives them no order; entry 43). -/
def execCueBegin (x : ElemSite) (s : State) : Out State := s.fire x fun t => t.modElem x.cp x.elem fun e => { e with steady := true }
/-- end: the steady flag is clear from the next cycle (R69). -/
def execCueEnd (x : ElemSite) (s : State) : Out State := s.fire x fun t => t.modElem x.cp x.elem fun e => { e with steady := false }
/-- endtake: the take ends after this cycle (R85). -/
def execCueEndtake (x : ElemSite) (s : State) : Out State :=
  s.fire x fun t => t.modRegion x.cp x.region fun g => { g with endDue := true }

/-! ### Landing (R73, R76, R88, R139) -/

/-- Flags enter an element's ESTAT (R61). -/
def State.setFlags (s : State) (c : CpId) (e : Fin 256) (fl : BitVec 8) : State :=
  s.modElem c e fun x => { x with estat := x.estat ||| fl }

/-- D takes a token. -/
def State.setD (s : State) (c : CpId) (e : Fin 256) (t : Tok) : State :=
  (s.modElem c e fun x => { x with d := t }).writeArr c.core (s.slot c).part 2 e.val 64 5

/-- An accumulator takes eight lanes. -/
def State.setAcc (s : State) (c : CpId) (e : Fin 256) (i : Fin 4) (v : Lanes8) : State :=
  (s.modElem c e fun x => { x with acc := vmod x.acc i fun _ => v }).writeArr c.core (s.slot c).part 3 e.val (4 * i.val) 4

/-- BP takes 64 lanes. -/
def State.setBp (s : State) (c : CpId) (e : Fin 256) (v : Vector W32 64) : State :=
  (s.modElem c e fun x => { x with bp := v }).writeArr c.core (s.slot c).part 3 e.val 16 32

/-- A token reaches its destination: a bubble writes no accumulator and no block (R76). -/
def State.deliverTok (s : State) (c : CpId) (r : Fin 4) (e : Fin 256) (dst : Dest) (t : Tok) : State :=
  match dst with
  | .f i => ((s.modElem c e fun x => { x with f := vmod x.f i fun _ => t }).writeArr c.core (s.slot c).part 2 e.val (4 * i.val) 4).setD c e t
  | .d => s.setD c e t
  | .c => s
  | .acc i => if t.k then s else s.setAcc c e i (lanes8Of t.bits)
  | .stat b w =>
    if t.k then s
    else s.store (s.slot c).part ((s.blockPlace (siteOf c r e 0) b).plus (32 * w)) (leBytes 32 t.bits.toNat)
  | .tapOut i => (s.setD c e t).sendToken c r e i t
  | .none => s

/-- A flag word of many lanes. -/
def orFlags (l : List LaneOut) : BitVec 8 := l.foldl (fun a x => a ||| x.fl) 0

/-- FP32 chunks are added lane by lane (R55, R142). -/
def addChunks (acc : List W32) (za : Bool) (cs : List W32) (fresh : List Bool) : List LaneOut :=
  (acc.zip (cs.zip fresh)).map fun (a, c, f) => addLane a za c.toNat ((fp32.exact c.toNat).isNan && !f) false

/-- Eight lanes of a list. -/
def lanes8List (l : List LaneOut) : Lanes8 := Vector.ofFn fun i : Fin 8 => BitVec.ofNat 32 ((l[i.val]?).map (·.v) |>.getD 0)

/-- The accumulator after a given one. -/
def nextAcc (a : Fin 4) : Fin 4 := ⟨(a.val + 1) % 4, by omega⟩

/-- A lane of a drain (R156): formats 0 and 1 copy, 2 and 3 round to BF16 and FP16. -/
def drainWord (fmt : BitVec 3) (sat : Bool) (v : Lanes8) : W256 × BitVec 8 :=
  if fmt.toNat < 2 then (v.word, 0)
  else
    let g := if fmt = 2 then bf16 else fp16
    let rs := v.toList.map fun x => g.deliver .rne sat 0 (fp32.exact x.toNat) (fp32.exact x.toNat).isNan
    (packLanes 16 (rs.map (·.v)), orFlags rs)

/-- Lanes that wldt lays in word n of a block (R144): its lane d·q + t takes lane 8t + n of the operand, so that every word takes four bytes. -/
def laidBytes (wb : Nat) (v : W256) (n : Nat) : List Byte :=
  leBytes 4 (packNat wb ((List.range (32 / wb)).map fun t => lane wb v (8 * t + n)))

/-- An act at its landing cycle. -/
def State.landAct (s : State) (c : CpId) (r : Fin 4) (e : Fin 256) (a : Act) : State :=
  let x := siteOf c r e 0
  let k := s.elem c e
  match a with
  | .write dst t fl => (s.setFlags c e fl).deliverTok c r e dst t
  | .writeC v fl => (((s.setFlags c e fl).modElem c e fun x => { x with c := v })).writeArr c.core (s.slot c).part 2 e.val 69 1
  | .accumF i za cs fresh fl =>
    let rs := addChunks (k.acc.get i).toList za cs fresh
    (s.setFlags c e (fl ||| orFlags rs)).setAcc c e i (lanes8List rs)
  | .accumI i za cs fl =>
    let add (v : Lanes8) (l : List Int) : List LaneOut := (v.toList.zip l).map fun (a, b) => addLaneInt a za b
    let lo := add (k.acc.get i) (cs.take 8)
    let hi := add (k.acc.get (nextAcc i)) (cs.drop 8)
    ((s.setFlags c e (fl ||| orFlags lo ||| orFlags hi)).setAcc c e i (lanes8List lo)).setAcc c e (nextAcc i) (lanes8List hi)
  | .accumG b za cs fresh fl =>
    let old := (List.range 64).map fun n => BitVec.ofNat 32 (s.leAt ((s.blockPlace x b).plus (4 * n)) 4)
    let rs := addChunks old za cs fresh
    (s.setFlags c e (fl ||| orFlags rs)).store (s.slot c).part (s.blockPlace x b) (rs.flatMap fun v => leBytes 4 v.v)
  | .overBp v => s.setBp c e v
  | .clearAcc i => s.setAcc c e i (Vector.replicate 8 0)
  | .clearBp => s.setBp c e (Vector.replicate 64 0)
  | .statWord b w v => s.store (s.slot c).part ((s.blockPlace x b).plus (32 * w)) (leBytes 32 v.toNat)
  | .statLanes b wb q v =>
    (List.range 8).foldl (fun t n => t.store (s.slot c).part ((s.blockPlace x b).plus (32 * n + 4 * q)) (laidBytes wb v n)) s
  | .drain i fmt sat clr lr ls dst =>
    let (w, fl) := drainWord fmt sat (k.acc.get i)
    let s1 := (s.setFlags c e fl).deliverTok c r e dst ⟨w, lr, ls, false⟩
    if clr then s1.setAcc c e i (Vector.replicate 8 0) else s1
  | .drainPeer i int clr pb strm desc seq cue idx =>
    let t := s.slot c
    let tile : Tile :=
      { id := s.ids, sender := c, elem := e, imgElem := BitVec.ofNat 8 ((s.region c r).onHdr.image e), region := r, cue := cue, idx := idx
        part := t.part, wid := t.wid, int := int, strm := strm, pb := pb, sendCycle := s.gcyc c.core, desc := desc, seq := seq
        lanes := k.acc.get i, takeSeq := (s.region c r).takeSeq, refused := none }
    let s1 : State := { s.newId with tiles := s.tiles ++ [tile] }
    if clr then s1.setAcc c e i (Vector.replicate 8 0) else s1

/-- One take cycle of an element's results: what is due lands in issue order, the rest comes nearer (R73, R139). -/
def State.landElem (s : State) (c : CpId) (r : Fin 4) (e : Fin 256) : State :=
  let fl := (s.elem c e).flight
  if fl.isEmpty then s
  else
    let later := (fl.filter fun f => decide (1 < f.rem)).map fun f => { f with rem := f.rem - 1 }
    ((fl.filter fun f => decide (f.rem ≤ 1)).foldl (fun t f => (t.logOf c (s.landReads c r e f.act)).landAct c r e f.act) s).modElem c e
      fun x => { x with flight := later }

/-- What neighbours read follows D and C by one take cycle (R73). -/
def State.shiftNeighbours (s : State) (c : CpId) (r : Fin 4) : State :=
  (s.region c r).onHdr.elems.foldl (fun t e => t.modElem c e fun x => { x with dn := x.d, cn := x.c }) s

/-- The take cycle advances: its timed streams read anew in the next (R312). -/
def Slot.nextReads (t : Slot) (r : Fin 4) : Slot :=
  { t with ports := t.ports.map fun q => match q.run with
    | some st => if st.region == r && st.ahead then { q with run := some { st with ahead := false } } else q
    | none => q }

/-- The landing of a region's results. -/
def State.landAll (s : State) (c : CpId) (r : Fin 4) : State :=
  (s.region c r).onHdr.elems.foldl (fun t e => t.landElem c r e) (s.shiftNeighbours c r)

/-- The counters of R66 advance. -/
def Region.count (g : Region) : Region :=
  let wrapS := decide (g.onHdr.ii ≤ g.slotc + 1)
  let wrapT := decide (g.onHdr.p ≤ g.tc + 1)
  { g with slotc := if wrapS then 0 else g.slotc + 1, it := if wrapS then g.it + 1 else g.it
           tc := if wrapT then 0 else g.tc + 1, lap := if wrapT then g.lap + 1 else g.lap
           cycles := g.cycles + 1, eccHeld := false, started := false, going := false }

/-! ### The end of a take and its stop (R62, R81, R85, R192, R255, R301, R304) -/

/-- The OR of the ESTAT registers of a region (R62). -/
def State.flagSummary (s : State) (c : CpId) (r : Fin 4) : BitVec 8 :=
  (s.region c r).onHdr.elems.foldl (fun a e => a ||| (s.elem c e).estat) 0

/-- A token whose tap a region names itself: what a ring or buffer port brings. -/
def RingTok.feeds (t : RingTok) (c : CpId) (r : Fin 4) : Bool :=
  t.inbound && t.slot == c.slot && t.region == r && (decide (t.port.toNat ≤ 16) || t.port == 20)

/-- A token that a region's outbound tap has sent and that has no place: it waits for its address, or its place refuses it. -/
def RingTok.stranded (t : RingTok) (c : CpId) (r : Fin 4) : Bool :=
  !t.inbound && t.slot == c.slot && t.region == r && (t.pos == .form || t.pos == .refused)

/-- The streams of a take that is over: read streams end and what is not yet in a tap queue is discarded; write streams end and
store what they have addressed; a stamped binding of the take is discarded (R253, R255). -/
def State.endStreams (s : State) (c : CpId) (r : Fin 4) : State :=
  let gone := (s.core c.core).ring.filter fun t => t.feeds c r || t.stranded c r
  let seq := (s.region c r).takeSeq
  let s1 := s.modCore c.core fun k => { k with ring := k.ring.filter fun t => !(t.feeds c r || t.stranded c r) }
  s1.modSlot c fun t => { t with ports := t.ports.mapFinIdx fun i q _ =>
    let lost (out : Bool) : Nat := (gone.filter fun x => x.port.toNat == i && x.inbound != out).length
    let q1 : PortCtx := { q with unconsumed := q.unconsumed - lost false, unstored := q.unstored - lost true }
    let q2 : PortCtx := match q1.run with
      | some st => if st.region == r then { q1 with run := none } else q1
      | none => q1
    match q2.pending with
    | some b => if b.take == some (r, seq) then { q2 with pending := none } else q2
    | none => q2 }

/-- The streams of a region that stopped on a page stay where they are, without an engine (R304, entry 24). -/
def State.pauseStreams (s : State) (c : CpId) (r : Fin 4) : State :=
  s.modSlot c fun t => { t with ports := t.ports.map fun q =>
    match q.run with
    | some st => if st.region == r then { q with run := some { st with paused := true } } else q
    | none => q }

/-- Drains to peers that will not land give their credits back (R81, R321). -/
def State.returnTileCredits (s : State) (c : CpId) (r : Fin 4) : State :=
  let strms := (s.region c r).onHdr.elems.flatMap fun e => (s.elem c e).flight.filterMap fun f => match f.act with
    | .drainPeer _ _ _ _ k .. => some k
    | _ => none
  s.modSlot c fun t => { t with tilesOut := strms.foldl (fun v k => vmod v (ix4 k) (· - 1)) t.tilesOut }

/-- The record of a region's stop (R299, R301). -/
def State.stopRecord (s : State) (c : CpId) (r : Fin 4) (i : StopInfo) : State :=
  let g := s.region c r
  if g.stopRec then s
  else
    (s.queueRec c.core (.region c r) { s.slotRec c i.cause 0x04 (some r) with
      port := i.port, elem := i.elem, index := i.index, vaddr := i.vaddr, tc := g.tc, lap := g.lap, synd := i.synd, detail := i.detail }).modRegion c r
      fun g => { g with stopRec := true }

/-- A stop takes effect: the region's status, its streams, CPEVT.RGN (R81, R236, R301). -/
def State.stopNow (s : State) (c : CpId) (r : Fin 4) (i : StopInfo) : State :=
  let fw := BitVec.ofNat 64 (i.port.toNat * 2 ^ 24 + (i.index.toNat % 64) * 2 ^ 16 + i.elem.toNat * 2 ^ 8 + i.cause.toNat)
  let fl := s.flagSummary c r
  let s1 := (s.returnTileCredits c r).modRegion c r fun g =>
    { g with on := .stopped, cause := i.cause, faultWord := fw, flags := fl, stopDue := none, stopRec := false, going := false, walking := false
             endDue := false, drainStop := g.on == .draining }
  let s2 := if i.cause == cPAGE then s1.pauseStreams c r else s1.endStreams c r
  s2.modCp c fun p => p.event evRGN

/-- A region that is to stop (R81, R299, R301): it holds until its record has entered the queue (R303). -/
def State.stopRegion (s : State) (c : CpId) (r : Fin 4) (i : StopInfo) : State :=
  let s1 := s.stopRecord c r i
  if s1.recWaits c.core (.region c r) then s1.held c r else s1.stopNow c r i

/-- RESULT_LAND: the end of a region's grid cycle. A stop that is due takes effect; else what is due lands, and a running
region's counters advance. -/
def execResultLand (c : CpId) (r : Fin 4) (s : State) : Out State :=
  .next <|
    let g := s.region c r
    match g.stopDue with
    | some i => s.stopRegion c r i
    | none =>
      match g.on with
      | .running =>
        if !g.going then s.held c r
        else
          let s1 := ((s.landAll c r).modSlot c fun t => t.nextReads r).modRegion c r Region.count
          if g.endDue then s1.modRegion c r fun g => { g with on := .draining, endDue := false }
          else if g.onHdr.laps ≤ (s1.region c r).lap then s1.dueFirst [.takeLastLapEnd c r]
          else s1
      | .draining => s.landAll c r
      | _ => s

/-- TAKE_LAST_LAP_END: the take has come to the end of its last lap without an end-take cue and drains (R67, R85). -/
def execTakeLastLapEnd (c : CpId) (r : Fin 4) (s : State) : Out State :=
  .next <|
    let g := s.region c r
    if g.on == .running && decide (g.onHdr.laps ≤ g.lap) then s.modRegion c r fun g => { g with on := .draining } else s

/-- Nothing of a draining take is still to come: no result in flight, no outbound token, no tile (R85, R192). -/
def State.drained (s : State) (c : CpId) (r : Fin 4) : Bool :=
  (s.region c r).onHdr.elems.all (fun e => (s.elem c e).flight.isEmpty) && !s.outstanding c r

/-- TAKE_ENDED: the last token of a draining take is delivered, and the take ends (R62, R85, R192, R236, R255). -/
def execTakeEnded (c : CpId) (r : Fin 4) (s : State) : Out State :=
  .next <|
    if (s.region c r).on == .draining && s.drained c r then
      let fl := s.flagSummary c r
      ((s.endStreams c r).modRegion c r fun g => { g with on := .ended, flags := fl }).modCp c fun p => p.event evRGN
    else s

end Sys2Proof.Machine
end

