-- ==== Sys2Proof/Machine/Reel.lean ====
section
/-! DEFINITION. The reel commands: rload, rarm, rgo, rstop, rstat, rsave and rrest at issue and at the head of the command queue, and
the saved region image (R46, R61, R63, R191, R192, R197, R237 to R250, R304, R305, R322). -/
namespace Sys2Proof.Machine

/-! ### Issue (R237, R238). At issue every byte of a record is checked: the length of an image is taken from its header as it stands, and at
least that of the parts that every image has (entry 30) -/

/-- The length of a reel image from its header at an address: at least the part before its sections (R96, R243). -/
def State.imageLen (s : State) (a : Word) : Nat :=
  let n := match s.place s.cur a 16 false, s.place s.cur (a + 16) 16 false with
    | .ok h, .ok t => if s.leAt h 4 = 0x314C525A then s.leAt (t.plus 8) 4 else 0
    | _, _ => 0
  if n ≤ 2 ^ 26 then (max 0xD90 n + 15) / 16 * 16 else 0xD90

/-- The length of a saved region image of a geometry, at least that of one element (R250). -/
def imageSize (rows cols : Nat) : Nat := 10240 + 5120 * (max 1 (min 16 rows) * max 1 (min 16 cols))

/-- The length of a saved region image from its header at an address. -/
def State.savedSize (s : State) (a : Word) : Nat :=
  match s.place s.cur a 16 false with
  | .ok h => let o := s.leAt (h.plus 8) 8; imageSize (o / 2 ^ 8 % 32) (o / 2 ^ 16 % 32)
  | .error _ => imageSize 1 1

def execRload (a b : Reg) (r : BitVec 2) (s : State) : Out State :=
  s.queuedBy (.rload a b r) [a, b] (fun t => t.reg a) (fun t => t.reg b) 64 (fun t => t.imageLen (t.reg a)) false
/-- rarm: g0 names no record (R245). -/
def execRarm (a : Reg) (r : BitVec 2) (s : State) : Out State :=
  if a = 0 then s.queuedPlain (.rarm a r) [] fun _ => 0
  else s.queued (.rarm a r) [a] (fun t => t.reg a) (fun _ => 0) 16 272 false
def execRgo (r : BitVec 2) (s : State) : Out State := s.queuedPlain (.rgo r) [] fun _ => 0
def execRstop (r : BitVec 2) (s : State) : Out State := s.queuedPlain (.rstop r) [] fun _ => 0
def execRstatState (x : Reg) (r : BitVec 2) (s : State) : Out State := s.queuedAnswer (.rstatState x r) x
def execRstatLoadrep (x : Reg) (r : BitVec 2) (s : State) : Out State := s.queuedAnswer (.rstatLoadrep x r) x
def execRstatFlags (x : Reg) (r : BitVec 2) (s : State) : Out State := s.queuedAnswer (.rstatFlags x r) x
def execRstatTclap (x : Reg) (r : BitVec 2) (s : State) : Out State := s.queuedAnswer (.rstatTclap x r) x
def execRstatHeld (x : Reg) (r : BitVec 2) (s : State) : Out State := s.queuedAnswer (.rstatHeld x r) x
def execRstatCycles (x : Reg) (r : BitVec 2) (s : State) : Out State := s.queuedAnswer (.rstatCycles x r) x
def execRstatEnergy (x : Reg) (r : BitVec 2) (s : State) : Out State := s.queuedAnswer (.rstatEnergy x r) x
def execRstatFault (x : Reg) (r : BitVec 2) (s : State) : Out State := s.queuedAnswer (.rstatFault x r) x
def execRstatOrigin (x : Reg) (r : BitVec 2) (s : State) : Out State := s.queuedAnswer (.rstatOrigin x r) x
def execRsave (a : Reg) (r : BitVec 2) (s : State) : Out State :=
  s.queuedBy (.rsave a r) [a] (fun t => t.reg a) (fun _ => 0) 256
    (fun t => let h := (t.region t.cur (ix4 r)).onHdr; imageSize h.rows h.cols) true
def execRrest (a : Reg) (r : BitVec 2) (s : State) : Out State :=
  s.queuedBy (.rrest a r) [a] (fun t => t.reg a) (fun _ => 0) 256 (fun t => t.savedSize (t.reg a)) false

/-! ### Status (R248, R249) -/

/-- Codes of LASTST. -/
def stOK : BitVec 8 := 0
def stNOTARMED : BitVec 8 := 1
def stNOTLOADED : BitVec 8 := 2
def stLOADFAIL : BitVec 8 := 3
def stARMFAIL : BitVec 8 := 4
def stRESTFAIL : BitVec 8 := 5
def stLOADABORT : BitVec 8 := 6
def stBADSTATE : BitVec 8 := 7
def stNEXTLOST : BitVec 8 := 8

/-- STATE of the state word. -/
def Region.stateCode (g : Region) : Nat :=
  match g.on, g.next with
  | .free, .empty => 0
  | .free, .loaded => 2
  | .free, .armed => 3
  | .running, _ => 4
  | .draining, _ => 5
  | .ended, _ => 6
  | .stopped, _ => 7

/-- NEXT of the state word. -/
def NextState.code : NextState → Nat
  | .empty => 0
  | .loaded => 1
  | .armed => 2

/-- The state word (R249). -/
def Region.stateWord (g : Region) : Word :=
  BitVec.ofNat 64 ((if g.on == .stopped then g.cause.toNat else 0) * 2 ^ 24 + g.lastst.toNat * 2 ^ 16 + g.next.code * 2 ^ 8 + g.stateCode)

/-- Item origin (R248). -/
def Header.origin (h : Header) : Word := BitVec.ofNat 64 (h.row0 + h.col0 * 2 ^ 4 + h.rows * 2 ^ 8 + h.cols * 2 ^ 16)

/-- Item tclap (R248). -/
def Region.tclap (g : Region) : Word :=
  if g.on == .free then 0 else BitVec.ofNat 64 (g.tc % 2 ^ 12 + g.lap % 2 ^ 32 * 2 ^ 12)

/-- The item that an rstat names. -/
def Region.item (g : Region) : Instr → Word
  | .rstatState .. => g.stateWord
  | .rstatLoadrep .. => g.loadrep.setWidth 64
  | .rstatFlags .. => g.flags.setWidth 64
  | .rstatTclap .. => g.tclap
  | .rstatHeld .. => g.held
  | .rstatCycles .. => g.cycles
  | .rstatEnergy .. => g.energy
  | .rstatFault .. => g.faultWord
  | .rstatOrigin .. => if g.on == .free then 0 else g.onHdr.origin
  | _ => 0

/-- An entry's value arrives and lands at the end of the n-th cycle of its mode from this one. -/
def State.arriveAfter (s : State) (c : CpId) (id : Nat) (v : Word) (n : Nat) : State :=
  let f (q : List LandEntry) : List LandEntry := q.map fun e => if e.id == id then { e with value := v, rem := some n } else e
  (s.modCp c fun p => { p with lqT := f p.lqT, lqH := f p.lqH }).writeArrived c id

/-- rstat at the head: its value lands at the end of the following cycle (R248). -/
def State.statHead (s : State) (c : CpId) (m : Cmd) (r : Fin 4) : State := s.arriveAfter c m.order ((s.region c r).item m.i) 2

/-! ### Reading memory for a command -/

/-- Bytes of a virtual range in 8-byte pieces; a failure comes back as the deferred fault's cause, PAGE or UNCORR, its address,
its syndrome and its DETAIL (R241, R243, R250). -/
def State.readVirt (s : State) (c : CpId) (a : Word) (n : Nat) : State × Except (BitVec 8 × Word × Word × Word) (List Byte) :=
  match s.places c false 8 ((n + 7) / 8) a with
  | .error (_, x) => (s, .error (cPAGE, x, 0, pageDetail x false))
  | .ok ps =>
    match s.loadPieces c 8 ps with
    | (s1, .ok b) => (s1, .ok (b.take n))
    | (s1, .error pa) => (s1, .error (cUNCORR, a + BitVec.ofNat 64 (8 * ps.idxOf pa), s.synd pa 8, s.uncorrDetail pa 8))

/-- A command ends in a deferred fault for an address (R241, R303). -/
def State.headFault (s : State) (c : CpId) (m : Cmd) (e : BitVec 8 × Word × Word × Word) : State :=
  s.commandFault c m.order m.pc e.1 e.2.1 e.2.1 e.2.2.1 e.2.2.2

/-- The record of a command's fault waits for room in the record queue: the command keeps its place, and those behind it wait with it (R303). -/
def State.recordWaits (s : State) (c : CpId) (m : Cmd) : Bool := s.recWaits c.core (.job m.order)

/-- A command keeps its place, its fault known. -/
def Slot.failCmd (t : Slot) (m : Cmd) : Slot :=
  { t with cmdq := t.cmdq.map fun x => if x.order == m.order then { x with failed := true } else x
           regions := t.regions.map fun g => { g with loading := g.loading.map fun x => if x.order == m.order then { x with failed := true } else x } }

/-! ### Loading (R103, R191, R192, R197, R243) -/

/-- The rectangles of the slot's other regions (R191). -/
def Slot.rectangles (t : Slot) (r : Fin 4) : List Header :=
  regions4.flatMap fun q =>
    if q == r then [] else
      let g := t.regions.get q
      (if g.on != .free then [g.onHdr] else []) ++ (if g.next != .empty then [g.nextHdr] else [])

/-- The ports that a bank's taps bind. -/
def Slot.portsOf (t : Slot) (h : Header) (next : Bool) : List (BitVec 5) :=
  h.elems.flatMap fun e =>
    let k := if next then (t.elems.get e).next else (t.elems.get e).on
    if k.present then k.taps.filterMap fun b => if tapEn b then some (tapPort b) else none else []

/-- The ports that other regions of the slot bind in their on or next banks (R243). -/
def Slot.busyPorts (t : Slot) (r : Fin 4) : List (BitVec 5) :=
  regions4.flatMap fun q =>
    if q == r then [] else
      let g := t.regions.get q
      (if g.on != .free then t.portsOf g.onHdr false else []) ++ (if g.next != .empty then t.portsOf g.nextHdr true else [])

/-- What the loader checks an image against. -/
def State.loadEnv (s : State) (c : CpId) (r : Fin 4) : LoadEnv :=
  let t := s.slot c
  let k := s.core c.core
  { half := if k.split then some (k.gc.toNat, c.slot) else none, blocks := (k.statShare c.slot).2, bytes := (k.sceneShare c.slot).2, fuse := k.fuse, others := t.rectangles r, busy := t.busyPorts r
    pending := ports24.filterMap fun p => (t.port p).pending.map fun b =>
      ⟨p, b.pat, b.ipat, !patMapped b.pat || (s.extentsOf t.part b.pat).toBool⟩ }

/-- The next bank of a region is empty (R104). -/
def State.clearNext (s : State) (c : CpId) (r : Fin 4) : State :=
  ((s.region c r).nextHdr.elems.foldl (fun t e => t.modElem c e fun x => { x with next := Bank.empty }) s).modRegion c r
    fun g => { g with next := .empty, nextHdr := Header.none }

/-- The extents of the bindings that wait on ports of the region's next bank are written, since its load comes second (R182, R243). -/
def State.patchExtents (s : State) (c : CpId) (r : Fin 4) : State :=
  s.modSlot c fun t => { t with ports := t.ports.mapFinIdx fun i q _ =>
    match q.pending with
    | some b =>
      if patMapped b.pat && (t.tapOfPort r true (BitVec.ofNat 5 i) fun _ => true).isSome then
        match s.extentsOf t.part b.pat with
        | .ok l => { q with pending := some { b with extents := l } }
        | .error _ => q
      else q
    | none => q }

/-- A checked image fills the next bank. -/
def State.fillNext (s : State) (c : CpId) (r : Fin 4) (i : Image) : State :=
  let s1 := i.secs.foldl (fun t x => match i.hdr.phys x.row x.col with
    | some e => t.modElem c e fun y => { y with next := x.bank }
    | none => t) s
  (s1.modRegion c r fun g => { g with next := .loaded, nextHdr := i.hdr }).patchExtents c r

/-- rload reaches the head: it waits while the region drains, then the region is LOADING. A lost bank is no longer told of
(R197). None while nothing is to be done. -/
def State.loadHead (s : State) (c : CpId) (m : Cmd) (r : Fin 4) : Option State :=
  let g := s.region c r
  if g.on == .draining || g.loading.isSome then none
  else some ((s.clearNext c r).modRegion c r fun g => { g with loading := some m, nextLost := false })

/-- The image of a load is read and checked: the report word and the image, or a failure to read it (R103, R243). -/
def State.readImage (s : State) (c : CpId) (r : Fin 4) (a place : Word) : State × Except (BitVec 8 × Word × Word × Word) (Except W32 Image) :=
  match s.readVirt c a 160 with
  | (s1, .error e) => (s1, .error e)
  | (s1, .ok b) =>
    let env := s.loadEnv c r
    match checkHeader b place env with
    | .error w => (s1, .ok (.error w))
    | .ok (h, nsec, total) =>
      match s1.readVirt c (a + 0xD90) (total - 0xD90) with
      | (s2, .error e) => (s2, .error e)
      | (s2, .ok body) => (s2, .ok (checkImage h nsec env body))

/-- A command leaves the queue; CPEVT.CQE is set when the queue becomes empty (R236). -/
def State.dequeue (s : State) (c : CpId) (m : Cmd) : State :=
  let s1 := s.modSlot c fun t => { t with cmdq := t.cmdq.filter fun x => x.order != m.order }
  if (s1.slot c).cmdq.isEmpty then s1.modCp c fun p => p.event evCQE else s1

/-- REEL_LOAD_COMPLETE: the load of a region ends: it passes, fails a check, or is aborted (R104, R243). -/
def execReelLoadComplete (c : CpId) (r : Fin 4) (s : State) : Out State :=
  .next <|
    match (s.region c r).loading with
    | none => s
    | some m =>
      if !s.onGrid c || s.recordWaits c m then s
      else
        let done (t : State) (st : BitVec 8) (rep : W32) : State :=
          (t.modRegion c r fun g => { g with loading := none, lastst := st, loadrep := rep }).dequeue c m
        if m.failed then done s stLOADABORT 0
        else match s.readImage c r m.a m.b with
        | (s1, .error e) =>
          let t := s1.headFault c m e
          if t.recordWaits c m then t.modSlot c fun x => x.failCmd m else done t stLOADABORT 0
        | (s1, .ok (.error w)) => done s1 stLOADFAIL w
        | (s1, .ok (.ok i)) => done (s1.fillNext c r i) stOK 0

/-! ### Arming (R84, R192, R245) -/

/-- The counter numbers of the sig and wait cues of a next bank, in image order. -/
def Slot.cueCounters (t : Slot) (r : Fin 4) : List (BitVec 4) :=
  (t.regions.get r).nextHdr.elems.flatMap fun e =>
    let k := (t.elems.get e).next
    if !k.present then [] else k.cues.filterMap fun w => match decodeCue default w with
      | .ok (.cueSig _ n _ _) => some n
      | .ok (.cueWait _ n _ _) => some n
      | _ => none

/-- The entries of a counter table, translated: the index of the first that fails (R245). -/
def State.armTable (s : State) (c : CpId) (b : List Byte) : Nat → Nat → Except Nat (List CtrEntry)
  | 0, _ => .ok []
  | n + 1, i =>
    let a := fld64 b (0x10 + 16 * i)
    match s.counterPlace c a true with
    | .error _ => .error i
    | .ok pa =>
      match s.armTable c b n (i + 1) with
      | .error j => .error j
      | .ok l => .ok (⟨a, pa, fld64 b (0x18 + 16 * i)⟩ :: l)

/-- What an arming gives: laps, seed and table, or the fault item of its failure. -/
def State.armData (s : State) (c : CpId) (r : Fin 4) (rec1 : Option (List Byte)) : Except Word (Nat × W32 × List CtrEntry) :=
  let h := (s.region c r).nextHdr
  let cues (n : Nat) (v : Nat × W32 × List CtrEntry) : Except Word (Nat × W32 × List CtrEntry) :=
    match (s.slot c).cueCounters r |>.find? fun k => decide (n ≤ k.toNat) with
    | some k => .error (k.setWidth 64)
    | none => .ok v
  match rec1 with
  | none => cues 0 (h.laps, h.seed, [])
  | some b =>
    let armf := fld b 0 4
    let nctr := fld b 0x0C 4
    if 4 ≤ armf ∨ (armf.testBit 0 ∧ fld b 4 4 = 0) ∨ 16 < nctr then .error 0x10
    else match s.armTable c b nctr 0 with
    | .error i => .error (BitVec.ofNat 64 i)
    | .ok tab =>
      cues nctr (if armf.testBit 0 then fld b 4 4 else h.laps, if armf.testBit 1 then BitVec.ofNat 32 (fld b 8 4) else h.seed, tab)

/-- rarm at the head: none while it waits. -/
def State.armHead (s : State) (c : CpId) (m : Cmd) (r : Fin 4) (plain : Bool) : Option State :=
  let g := s.region c r
  let finish (t : State) (rec1 : Option (List Byte)) : State :=
    match t.armData c r rec1 with
    | .error w => t.modRegion c r fun g => { g with next := .loaded, lastst := stARMFAIL, faultWord := w }
    | .ok (laps, seed, tab) => t.modRegion c r fun g =>
        { g with next := .armed, lastst := stOK, armLaps := laps, armSeed := seed, armTab := tab }
  if g.on == .draining then none
  else if g.next == .empty then some (s.modRegion c r fun g => { g with lastst := stNOTLOADED })
  else if plain then some (finish s none)
  else match s.readVirt c m.a 272 with
  | (s1, .ok b) => some (finish s1 (some b))
  | (s1, .error e) => some (s1.headFault c m e)

/-! ### Starting a take (R46, R61, R63, R64, R246, R253, R322) -/

/-- The LFSR's start from the seed and the image index (R46). -/
def lfsrStart (seed : W32) (e : Nat) : W32 :=
  let v := seed ^^^ (0x00010001#32 * BitVec.ofNat 32 e)
  if v = 0 then 1 else v

/-- An element at the start of a take: the bank comes on, and everything is as the "At rarm" column says. -/
def Elem.begin (x : Elem) (seed : W32) (e : Nat) : Elem :=
  { x with on := x.next, next := Bank.empty, f := Vector.replicate 16 Tok.zero, d := Tok.zero, c := 0, dn := Tok.zero, cn := 0
           flight := [], tapq := Vector.replicate 4 [], lfsr := lfsrStart seed e, estat := 0, steady := false }

/-- What is left of the take whose bank goes: its elements are off, its streams that wait on a page end with their tokens, and
its drains to peers give back their credits. -/
def State.leaveBank (s : State) (c : CpId) (r : Fin 4) : State :=
  let g := s.region c r
  let ports := if g.on == .free then [] else (s.slot c).portsOf g.onHdr false
  let s1 := (if g.on == .free then s else s.endStreams c r)
  let s2 := g.onHdr.elems.foldl (fun t e => t.modElem c e fun x => { x with on := Bank.empty, flight := [], tapq := Vector.replicate 4 [] }) s1
  ports.foldl (fun t p => t.modPort c p fun q => { q with unconsumed := 0 }) s2

/-- The armed take starts: the banks swap, take cycle (0, 0) is two cycles after this one. -/
def State.startTake (s : State) (c : CpId) (r : Fin 4) : State :=
  let s1 := s.leaveBank c r
  let g := s1.region c r
  let h : Header := { g.nextHdr with laps := g.armLaps, seed := g.armSeed }
  let s2 := h.elems.foldl (fun t e =>
    ((t.modElem c e fun x => x.begin h.seed (h.image e)).writeArr c.core (t.slot c).part 1 e.val 0 256).writeArr c.core (t.slot c).part 2 e.val 0 70) s1
  let s3 := s2.modRegion c r fun g =>
    { g with on := .running, next := .empty, onHdr := h, nextHdr := Header.none, lastst := stOK, cause := 0, faultWord := 0
             ctrs := g.armTab, held := 0, cycles := 0, energy := 0, slotc := 0, tc := 0, lap := 0, it := 0
             takeSeq := g.takeSeq + 1, startIn := 2, endDue := false, guardRecorded := false, walking := false, eccHeld := false
             started := false, going := false, stopDue := none, drainStop := false, begun := false }
  let ports := (s3.slot c).portsOf h false
  let seq := (s3.region c r).takeSeq
  ports.foldl (fun t p => t.modPort c p fun q => { q with pending := q.pending.map fun b =>
    if b.stamp.isSome && b.take.isNone then { b with take := some (r, seq) } else b }) s3

/-- rgo at the head (R197, R246). -/
def State.goHead (s : State) (c : CpId) (m : Cmd) (r : Fin 4) : Option State :=
  let g := s.region c r
  match g.on with
  | .draining => none
  | .running => some (s.commandFault c m.order m.pc cTAKEBUSY (BitVec.ofNat 64 r.val) 0 0 0)
  | _ =>
    if g.next == .armed then some (s.startTake c r)
    else some (s.modRegion c r fun g => { g with lastst := if g.nextLost && g.next == .empty then stNEXTLOST else stNOTARMED })

/-- rstop at the head (R247): a running region drains, and the read streams that feed it end. -/
def State.stopTake (s : State) (c : CpId) (r : Fin 4) : State :=
  if (s.region c r).on == .running then
    let ps := ports24.filter fun p => match ((s.slot c).port p).run with
      | some st => st.region == r && !patWrite st.pat
      | none => false
    (ps.foldl (fun t p => t.endStream c p) s).modRegion c r fun g => { g with on := .draining, going := false, startIn := 0 }
  else s

/-! ### The saved region image (R250; its layout beyond the header is entry 22) -/

/-- One byte of a flag. -/
def wBool (b : Bool) : List Byte := [if b then 1 else 0]
/-- A list with its length in two bytes. -/
def wList {α : Type} (l : List α) (f : α → List Byte) : List Byte := leBytes 2 l.length ++ l.flatMap f
def wTok (t : Tok) : List Byte := leBytes 32 t.bits.toNat ++ leBytes 1 (t.lr.toNat + 2 * t.ls.toNat + 4 * t.k.toNat)
def wPlace (a : PAddr) : List Byte := leBytes 4 (Space.index a.space) ++ leBytes 8 a.off
def wBank (k : Bank) : List Byte :=
  wBool k.present ++ wBool k.repl ++ wList k.ctx (fun v => leBytes 8 v.toNat) ++ wList k.cues (fun v => leBytes 8 v.toNat) ++
  wList k.imt (fun v => leBytes 32 v.toNat) ++ wList k.taps (fun v => leBytes 4 v.toNat)
def wHeader (h : Header) : List Byte :=
  [h.rows, h.cols, h.row0, h.col0, h.ii].flatMap (leBytes 1) ++ leBytes 2 h.p ++ leBytes 4 h.laps ++ leBytes 4 h.seed.toNat ++
  wList h.smr fun d => leBytes 4 d.off ++ leBytes 4 d.len ++ wBool d.rd ++ wBool d.wr
def wDest : Dest → List Byte
  | .f i => leBytes 1 i.val ++ leBytes 2 0
  | .d => leBytes 1 16 ++ leBytes 2 0
  | .c => leBytes 1 17 ++ leBytes 2 0
  | .acc i => leBytes 1 (18 + i.val) ++ leBytes 2 0
  | .stat b w => leBytes 1 22 ++ leBytes 1 b ++ leBytes 1 w
  | .tapOut t => leBytes 1 (23 + t.val) ++ leBytes 2 0
  | .none => leBytes 1 28 ++ leBytes 2 0
def wLanes (l : List W32) : List Byte := wList l fun v => leBytes 4 v.toNat
def wAct : Act → List Byte
  | .write d t fl => leBytes 1 0 ++ wDest d ++ wTok t ++ leBytes 1 fl.toNat
  | .writeC v fl => leBytes 1 1 ++ leBytes 8 v.toNat ++ leBytes 1 fl.toNat
  | .accumF a za cs fr fl => leBytes 1 2 ++ leBytes 1 a.val ++ wBool za ++ wLanes cs ++ wList fr wBool ++ leBytes 1 fl.toNat
  | .accumI a za cs fl => leBytes 1 3 ++ leBytes 1 a.val ++ wBool za ++ wList cs (fun v => leBytes 8 (BitVec.ofInt 64 v).toNat) ++ leBytes 1 fl.toNat
  | .accumG b za cs fr fl => leBytes 1 4 ++ leBytes 1 b ++ wBool za ++ wLanes cs ++ wList fr wBool ++ leBytes 1 fl.toNat
  | .overBp v => leBytes 1 5 ++ wLanes v.toList
  | .clearAcc a => leBytes 1 6 ++ leBytes 1 a.val
  | .clearBp => leBytes 1 7
  | .statWord b w v => leBytes 1 8 ++ leBytes 1 b ++ leBytes 1 w ++ leBytes 32 v.toNat
  | .statLanes b wb q v => leBytes 1 9 ++ leBytes 1 b ++ leBytes 1 wb ++ leBytes 1 q ++ leBytes 32 v.toNat
  | .drain a f st cl lr ls d => leBytes 1 10 ++ leBytes 1 a.val ++ leBytes 1 f.toNat ++ wBool st ++ wBool cl ++ wBool lr ++ wBool ls ++ wDest d
  | .drainPeer a i cl pb k d q cu x =>
    leBytes 1 11 ++ leBytes 1 a.val ++ wBool i ++ wBool cl ++ leBytes 1 pb.toNat ++ leBytes 1 k.toNat ++ leBytes 4 d.toNat ++
    leBytes 4 q.toNat ++ wBool cu ++ leBytes 1 x.toNat
def wElem (x : Elem) : List Byte :=
  wBank x.on ++ x.f.toList.flatMap wTok ++ wTok x.d ++ wTok x.dn ++ leBytes 8 x.c.toNat ++ leBytes 8 x.cn.toNat ++
  x.acc.toList.flatMap (fun a => a.toList.flatMap fun v => leBytes 4 v.toNat) ++ x.bp.toList.flatMap (fun v => leBytes 4 v.toNat) ++
  wList x.flight (fun f => leBytes 1 f.rem ++ wAct f.act ++ leBytes 1 f.index.toNat) ++ x.tapq.toList.flatMap (fun q => wList q wTok) ++
  leBytes 4 x.lfsr.toNat ++ leBytes 1 x.estat.toNat ++ wBool x.steady
def wStream (st : Stream) : List Byte :=
  leBytes 64 st.pat.toNat ++ leBytes 1 st.patSlot.toNat ++ leBytes 8 st.order ++
  wList st.extents (fun e => leBytes 8 e.va ++ wPlace e.pa ++ leBytes 8 e.len) ++ leBytes 64 st.ipat.toNat ++ wBool st.timed ++
  leBytes 1 st.lane ++ wBool st.dispatched ++ leBytes 8 st.pos ++ leBytes 8 st.ipos ++ leBytes 8 st.stored ++ wBool st.ahead
/-- A token that has left its tap and has no place yet. -/
def wStranded (t : RingTok) : List Byte :=
  leBytes 1 t.elem.val ++ leBytes 1 t.tap.val ++ wTok t.tok ++ wBool (t.pos == .refused) ++ wPlace t.addr ++ leBytes 8 t.va.toNat ++
  leBytes 8 t.order
/-- A binding with the offset of its stamped start in the saved take (R253). -/
def wBinding (b : Binding) : List Byte :=
  leBytes 64 b.pat.toNat ++ leBytes 1 b.patSlot.toNat ++ leBytes 8 b.order ++
  wList b.extents (fun e => leBytes 8 e.va ++ wPlace e.pa ++ leBytes 8 e.len) ++ leBytes 64 b.ipat.toNat ++ leBytes 8 (b.stamp.getD 0)

/-- A binding waits for its stamped start in a take of a region (R253). -/
def Binding.forTake (b : Binding) (r : Fin 4) (seq : W32) : Bool := b.take == some (r, seq)

def wPort (p : BitVec 5) (q : PortCtx) (keep : Bool) (r : Fin 4) (seq : W32) (waits : List RingTok) : List Byte :=
  leBytes 1 p.toNat ++ leBytes 1 q.unconsumed ++ wList waits wStranded ++
  (match q.run with
    | some st => if keep then wBool true ++ wStream st else wBool false
    | none => wBool false) ++
  (match q.pending with
    | some b => if keep && b.forTake r seq then wBool true ++ wBinding b else wBool false
    | none => wBool false) ++
  wBool q.chan.isOpen ++ leBytes 8 q.chan.sendSeq ++ leBytes 8 q.chan.sendEnd ++ leBytes 8 q.chan.recvSeq ++ leBytes 8 q.chan.recvEnd
def wRegion (g : Region) : List Byte :=
  leBytes 1 g.stateCode ++ leBytes 1 g.cause.toNat ++ wHeader g.onHdr ++ leBytes 4 g.loadrep.toNat ++ leBytes 1 g.flags.toNat ++
  leBytes 8 g.held.toNat ++ leBytes 8 g.cycles.toNat ++ leBytes 8 g.energy.toNat ++ leBytes 8 g.faultWord.toNat ++
  wList g.ctrs (fun t => leBytes 8 t.addr.toNat ++ wPlace t.pa ++ leBytes 8 t.base.toNat) ++ leBytes 1 g.slotc ++ leBytes 2 g.tc ++
  leBytes 8 g.lap ++ leBytes 8 g.it ++ wBool g.guardRecorded ++ wBool g.eccHeld ++ wBool g.started ++ wBool g.drainStop ++ wBool g.begun

/-- The length of a saved image (R250). -/
def savedLen (h : Header) : Nat := imageSize h.rows h.cols

/-- Each number once, in the order of its first place. -/
def once (l : List (BitVec 5)) : List (BitVec 5) := l.foldl (fun a p => if a.contains p then a else a ++ [p]) []

/-- The saved image of a region. -/
def State.savedImage (s : State) (c : CpId) (r : Fin 4) : List Byte :=
  let g := s.region c r
  let t := s.slot c
  let keep := g.on == .stopped && g.cause == cPAGE
  let ports := once (t.portsOf g.onHdr false)
  let waits (p : BitVec 5) : List RingTok := if keep then (s.core c.core).ring.filter fun x => x.stranded c r && x.port == p else []
  let body := wRegion g ++ wList ports (fun p => wPort p (t.port p) keep r g.takeSeq (waits p)) ++ g.onHdr.elems.flatMap (fun e => wElem (t.elems.get e))
  let rest := (body ++ List.replicate (savedLen g.onHdr - 64 - body.length) 0).take (savedLen g.onHdr - 64)
  leBytes 8 0x5653525A ++ leBytes 8 g.onHdr.origin.toNat ++ leBytes 8 g.stateWord.toNat ++ List.replicate 36 0 ++
    leBytes 4 (crc32c rest).toNat ++ rest

/-- A reader of bytes. -/
abbrev Rd := StateT (List Byte) Option

/-- A little-endian number of n bytes. -/
def rNat (n : Nat) : Rd Nat := fun l => if l.length < n then none else some (leNat (l.take n), l.drop n)
def rBits (w n : Nat) : Rd (BitVec w) := do return BitVec.ofNat w (← rNat n)
def rBool : Rd Bool := do return (← rNat 1) != 0
/-- n things. -/
def rMany {α : Type} (r : Rd α) : Nat → Rd (List α)
  | 0 => pure []
  | n + 1 => do
    let x ← r
    let t ← rMany r n
    return x :: t
def rList {α : Type} (r : Rd α) : Rd (List α) := do
  let n ← rNat 2
  rMany r n
def rFin4 : Rd (Fin 4) := do return ix4 (← rBits 2 1)
def rVec {α : Type} [Inhabited α] (n : Nat) (r : Rd α) : Rd (Vector α n) := do
  let l ← rMany r n
  return Vector.ofFn fun i : Fin n => (l[i.val]?).getD default
def rTok : Rd Tok := do
  let b ← rBits 256 32
  let f ← rNat 1
  return ⟨b, f.testBit 0, f.testBit 1, f.testBit 2⟩

/-- The memory of a number (`Space.index`). -/
def spaceOf (n : Nat) : Space :=
  if h : n < 256 then .loc ⟨n, h⟩
  else if h : n - 256 < 256 then .scene ⟨n - 256, h⟩
  else if h : n - 512 < 256 then .stat ⟨n - 512, h⟩
  else if h : n - 768 < 32 then .cb ⟨n - 768, h⟩
  else if h : n - 800 < 4 then .hbm ⟨n - 800, h⟩
  else if h : n - 804 < 2 then .kv ⟨n - 804, h⟩
  else if n = 806 then .host else .peer (BitVec.ofNat 20 (n - 807))

def rPlace : Rd PAddr := do
  let n ← rNat 4
  let o ← rNat 8
  return ⟨spaceOf n, o⟩
def rBank : Rd Bank := do
  let present ← rBool
  let repl ← rBool
  let ctx ← rList (rBits 64 8)
  let cues ← rList (rBits 64 8)
  let imt ← rList (rBits 256 32)
  let taps ← rList (rBits 32 4)
  return ⟨present, repl, ctx, cues, imt, taps⟩
def rSmr : Rd Smr := do
  let off ← rNat 4
  let len ← rNat 4
  let rd ← rBool
  let wr ← rBool
  return ⟨off, len, rd, wr⟩
def rHeader : Rd Header := do
  let rows ← rNat 1
  let cols ← rNat 1
  let row0 ← rNat 1
  let col0 ← rNat 1
  let ii ← rNat 1
  let p ← rNat 2
  let laps ← rNat 4
  let seed ← rBits 32 4
  let smr ← rList rSmr
  return ⟨rows, cols, row0, col0, ii, p, laps, seed, smr⟩
def rDest : Rd Dest := do
  let k ← rNat 1
  let a ← rNat 1
  let b ← rNat 1
  if h : k < 16 then return .f ⟨k, h⟩
  else if k = 16 then return .d
  else if k = 17 then return .c
  else if k < 22 then return .acc (ix4 (BitVec.ofNat 2 (k - 18)))
  else if k = 22 then return .stat a b
  else if k < 27 then return .tapOut (ix4 (BitVec.ofNat 2 (k - 23)))
  else return .none
def rAct : Rd Act := do
  let k ← rNat 1
  match k with
  | 0 => return .write (← rDest) (← rTok) (← rBits 8 1)
  | 1 => return .writeC (← rBits 64 8) (← rBits 8 1)
  | 2 => return .accumF (← rFin4) (← rBool) (← rList (rBits 32 4)) (← rList rBool) (← rBits 8 1)
  | 3 =>
    let a ← rFin4
    let za ← rBool
    let cs ← rList (rBits 64 8)
    return .accumI a za (cs.map BitVec.toInt) (← rBits 8 1)
  | 4 => return .accumG (← rNat 1) (← rBool) (← rList (rBits 32 4)) (← rList rBool) (← rBits 8 1)
  | 5 =>
    let l ← rList (rBits 32 4)
    return .overBp (Vector.ofFn fun i : Fin 64 => (l[i.val]?).getD 0)
  | 6 => return .clearAcc (← rFin4)
  | 7 => return .clearBp
  | 8 => return .statWord (← rNat 1) (← rNat 1) (← rBits 256 32)
  | 9 => return .statLanes (← rNat 1) (← rNat 1) (← rNat 1) (← rBits 256 32)
  | 10 => return .drain (← rFin4) (← rBits 3 1) (← rBool) (← rBool) (← rBool) (← rBool) (← rDest)
  | _ => return .drainPeer (← rFin4) (← rBool) (← rBool) (← rBits 3 1) (← rBits 2 1) (← rBits 32 4) (← rBits 32 4) (← rBool) (← rBits 6 1)
def rFlight : Rd Flight := do
  let n ← rNat 1
  let a ← rAct
  return ⟨n, a, ← rBits 8 1⟩
def rElem : Rd Elem := do
  let on ← rBank
  let f ← rVec 16 rTok
  let d ← rTok
  let dn ← rTok
  let c ← rBits 64 8
  let cn ← rBits 64 8
  let acc ← rVec 4 (rVec 8 (rBits 32 4))
  let bp ← rVec 64 (rBits 32 4)
  let flight ← rList rFlight
  let tapq ← rVec 4 (rList rTok)
  let lfsr ← rBits 32 4
  let estat ← rBits 8 1
  let steady ← rBool
  return { on := on, next := Bank.empty, f := f, d := d, c := c, dn := dn, cn := cn, acc := acc, bp := bp, flight := flight, tapq := tapq
           lfsr := lfsr, estat := estat, steady := steady }
def rExtent : Rd Extent := do
  let va ← rNat 8
  let pa ← rPlace
  let len ← rNat 8
  return ⟨va, pa, len⟩
def rStream (r : Fin 4) : Rd Stream := do
  let pat ← rBits 512 64
  let patSlot ← rBits 4 1
  let order ← rNat 8
  let extents ← rList rExtent
  let ipat ← rBits 512 64
  let timed ← rBool
  let lane ← rNat 1
  let dispatched ← rBool
  let pos ← rNat 8
  let ipos ← rNat 8
  let stored ← rNat 8
  let ahead ← rBool
  return { pat := pat, patSlot := patSlot, order := order, extents := extents, ipat := ipat, region := r, engine := 0, timed := timed
           lane := lane, dispatched := dispatched, pos := pos, ipos := ipos, stored := stored, ahead := ahead, paused := true, walkVa := none }
def rBinding : Rd Binding := do
  let pat ← rBits 512 64
  let patSlot ← rBits 4 1
  let order ← rNat 8
  let extents ← rList rExtent
  let ipat ← rBits 512 64
  let stamp ← rNat 8
  return { pat := pat, patSlot := patSlot, order := order, extents := extents, ipat := ipat, stamp := some stamp, take := none }

/-- A token of a saved region that has left its tap and has no place yet. -/
structure SavedTok where
  elem : Fin 256
  tap : Fin 4
  tok : Tok
  refused : Bool
  addr : PAddr
  va : Word
  order : Nat
  deriving DecidableEq, Repr, Inhabited

def rStranded : Rd SavedTok := do
  let e ← rBits 8 1
  let t ← rFin4
  let tok ← rTok
  let f ← rBool
  let a ← rPlace
  let va ← rBits 64 8
  let o ← rNat 8
  return ⟨⟨e.toNat, e.isLt⟩, t, tok, f, a, va, o⟩

/-- A saved port: its number, the tokens not consumed and not placed, its stream, the binding that waits for a cycle of the take, and its
channel. -/
structure SavedPort where
  p : BitVec 5
  unconsumed : Nat
  waits : List SavedTok
  run : Option Stream
  pending : Option Binding
  chan : Channel
  deriving DecidableEq, Repr, Inhabited

def rPort (r : Fin 4) : Rd SavedPort := do
  let p ← rBits 5 1
  let n ← rNat 1
  let waits ← rList rStranded
  let has ← rBool
  let run ← if has then (do return some (← rStream r)) else pure none
  let bound ← rBool
  let pending ← if bound then (do return some (← rBinding)) else pure none
  let isOpen ← rBool
  let sendSeq ← rNat 8
  let sendEnd ← rNat 8
  let recvSeq ← rNat 8
  let recvEnd ← rNat 8
  return ⟨p, n, waits, run, pending, { isOpen := isOpen, sendSeq := sendSeq, sendEnd := sendEnd, recvSeq := recvSeq, recvEnd := recvEnd, kept := [], route := none }⟩
def rCtr : Rd CtrEntry := do
  let a ← rBits 64 8
  let pa ← rPlace
  let b ← rBits 64 8
  return ⟨a, pa, b⟩
def rRegion : Rd Region := do
  let st ← rNat 1
  let cause ← rBits 8 1
  let h ← rHeader
  let loadrep ← rBits 32 4
  let flags ← rBits 8 1
  let held ← rBits 64 8
  let cycles ← rBits 64 8
  let energy ← rBits 64 8
  let fault ← rBits 64 8
  let ctrs ← rList rCtr
  let slotc ← rNat 1
  let tc ← rNat 2
  let lap ← rNat 8
  let it ← rNat 8
  let gr ← rBool
  let eh ← rBool
  let sd ← rBool
  let ds ← rBool
  let bg ← rBool
  return { Region.reset with
    on := if st = 6 then .ended else .stopped, cause := cause, onHdr := h, loadrep := loadrep, flags := flags, held := held
    cycles := cycles, energy := energy, faultWord := fault, ctrs := ctrs, slotc := slotc, tc := tc, lap := lap, it := it
    guardRecorded := gr, eccHeld := eh, started := sd, drainStop := ds, begun := bg }

/-- A region read back from its image. -/
structure Saved where
  g : Region
  ports : List SavedPort
  elems : List Elem
  deriving DecidableEq, Repr, Inhabited

def rSaved (r : Fin 4) : Rd Saved := do
  let g ← rRegion
  let ps ← rList (rPort r)
  let es ← rMany rElem (g.onHdr.rows * g.onHdr.cols)
  return ⟨g, ps, es⟩

/-! ### rsave and rrest at the head (R250, R304, R305) -/

/-- Bytes written to a virtual range: all of its places are checked before any is written. -/
def State.writeVirt (s : State) (c : CpId) (a : Word) (b : List Byte) : Except (BitVec 8 × Word × Word × Word) State :=
  match s.places c true 16 (b.length / 16) a with
  | .error (_, x) => .error (cPAGE, x, 0, pageDetail x true)
  | .ok ps => .ok ((ps.zipIdx).foldl (fun t p => t.storeOrPark c p.1 (a + BitVec.ofNat 64 (16 * p.2)) (t.cp c).pc ((b.drop (16 * p.2)).take 16)) s)

/-- The streams of a saved region leave their ports, and its tokens without a place go with them. -/
def State.detach (s : State) (c : CpId) (r : Fin 4) : State :=
  let gone := (s.core c.core).ring.filter fun t => t.stranded c r
  let seq := (s.region c r).takeSeq
  (s.modCore c.core fun k => { k with ring := k.ring.filter fun t => !t.stranded c r }).modSlot c fun t =>
    { t with ports := t.ports.mapFinIdx fun i q _ =>
      let q1 : PortCtx :=
        { q with unstored := q.unstored - (gone.filter fun x => x.port.toNat == i).length, pending := q.pending.filter fun b => !b.forTake r seq }
      match q1.run with
      | some st => if st.region == r then { q1 with run := none, unconsumed := 0 } else q1
      | none => q1 }

/-- Tokens of a region are on their way, to a tap or to a place that they have (R78, R304). -/
def State.travelling (s : State) (c : CpId) (r : Fin 4) : Bool :=
  ((s.core c.core).ring.any fun t => t.feeds c r || (!t.inbound && t.slot == c.slot && t.region == r && !t.stranded c r)) ||
  ((s.slot c).outPorts r).any (fun q => !((s.slot c).port q.2.2).chan.kept.isEmpty) || s.tiles.any fun x => x.sender == c && x.region == r

/-- rsave at the head. A region that stopped on a page first lets its tokens arrive (R78, R304). -/
def State.saveHead (s : State) (c : CpId) (m : Cmd) (r : Fin 4) : Option State :=
  let g := s.region c r
  if g.on == .ended || g.on == .stopped then
    let page := g.on == .stopped && g.cause == cPAGE
    if page && s.travelling c r then none
    else match s.writeVirt c m.a (s.savedImage c r) with
    | .error e => some (s.headFault c m e)
    | .ok s1 => some ((if page then s1.detach c r else s1).modRegion c r fun g => { g with lastst := stOK })
  else some (s.modRegion c r fun g => { g with lastst := stBADSTATE })

/-- The extents that the tables give a stream of a resumed take now (R182). -/
def State.retranslate (s : State) (c : CpId) (st : Stream) : Except (Nat × Nat) (List Extent) :=
  if patMapped st.pat then s.extentsOf (s.slot c).part st.pat else .ok st.extents

/-- A paused stream of a resumed take gets an engine again, and a timed one a lane pair of the slot's own (R174, R196, R304, R349). One that the
tables still do not translate stops its region again at once (R305). -/
def State.resumeStream (s : State) (c : CpId) (r : Fin 4) (p : BitVec 5) : State :=
  match ((s.slot c).port p).run with
  | none => s
  | some st =>
    match s.freeEngine c, (if st.timed then s.freePair c else some 0) with
    | some n, some k =>
      let ext := s.retranslate c st
      let s1 := s.modPort c p fun q => { q with run := q.run.map fun st =>
        { st with paused := false, engine := n, lane := k, extents := match ext with | .ok l => l | .error _ => [] } }
      match ext with
      | .ok _ => s1
      | .error e => s1.extentStop c p r st.pat e
    | _, _ => s.streamStop c r p cTIMING 5 0 0

/-- A token without a place comes back to its port. One that its place refused gets the place that its address has now, or its stream stops on
it again (R304, R305). -/
def State.putStranded (s : State) (c : CpId) (r : Fin 4) (p : BitVec 5) (x : SavedTok) : State :=
  let t : RingTok := { s.formTok c p r x.elem x.tap x.tok with
    pos := if x.refused then .refused else .form, addr := x.addr, va := x.va, order := x.order }
  let put (u : State) (t : RingTok) : State := (u.addToken c.core t).modPort c p fun q => { q with unstored := q.unstored + 1 }
  if !x.refused || classOf x.va != .far then put s t
  else match s.translate (s.slot c).part x.va true with
  | .ok pa => put s { t with addr := pa }
  | .error _ => (put s t).streamStop c r p cPAGE 4 x.va 0

/-- An element comes back from a saved image: its arrays 1, 2 and 3 are written (R309). -/
def State.putElem (s : State) (c : CpId) (e : Fin 256) (x : Elem) : State :=
  let part := (s.slot c).part
  ((s.modElem c e fun _ => x).writeArr c.core part 1 e.val 0 256).writeArr c.core part 2 e.val 0 70 |>.writeArr c.core part 3 e.val 0 48

/-- A saved region comes back. The windows of attention calls stand as they are: they belong to the slot's port, not to the take
(R372, R402). A take that comes back ENDED or STOPPED sets no event (DESIGN CHOICE: R192 and R236 name none for rrest; entry 36). -/
def State.restore (s : State) (c : CpId) (r : Fin 4) (v : Saved) : State :=
  let page := v.g.on == .stopped && v.g.cause == cPAGE
  let s1 := (s.leaveBank c r).clearNext c r
  let s2 := (v.g.onHdr.elems.zip v.elems).foldl (fun t (e, x) => t.putElem c e x) s1
  let s3 := s2.modRegion c r fun g =>
    { v.g with takeSeq := g.takeSeq + 1, lastst := stOK, on := if page then (if v.g.drainStop then .draining else .running) else v.g.on, cause := if page then 0 else v.g.cause
               faultWord := if page then 0 else v.g.faultWord, startIn := if page then 1 else 0, nextLost := g.nextLost }
  let s4 := v.ports.foldl (fun t q => t.modPort c q.p fun x =>
    { x with unconsumed := q.unconsumed, run := q.run
             pending := match x.pending, q.pending with
               | none, some b => some { b with take := some (r, (s3.region c r).takeSeq) }
               | b, _ => b
             chan := if q.p == 17 || q.p == 19 || q.p == 21 || q.p == 23 then q.chan else x.chan }) s3
  if !page then s4
  else
    let strms := v.elems.flatMap fun x => x.flight.filterMap fun f => match f.act with
      | .drainPeer _ _ _ _ k .. => some k
      | _ => none
    let s5 := v.ports.foldl (fun t q => q.waits.foldl (fun u x => u.putStranded c r q.p x) t) s4
    v.ports.foldl (fun t q => t.resumeStream c r q.p) (strms.foldl (fun t k => t.takeTileCredit c k) s5)

/-- rrest at the head. -/
def State.restHead (s : State) (c : CpId) (m : Cmd) (r : Fin 4) : Option State :=
  let g := s.region c r
  let t := s.slot c
  let fail (u : State) : Option State := some (u.modRegion c r fun g => { g with lastst := stRESTFAIL })
  if !((g.on == .free && g.next == .empty) || g.on == .ended || g.on == .stopped) then
    some (s.modRegion c r fun g => { g with lastst := stBADSTATE })
  else match s.readVirt c m.a 64 with
  | (s1, .error e) => some (s1.headFault c m e)
  | (s1, .ok h) =>
    let rows := fld h 8 8 / 2 ^ 8 % 32
    let cols := fld h 8 8 / 2 ^ 16 % 32
    if fld h 0 4 != 0x5653525A || rows = 0 || cols = 0 || decide (16 < rows) || decide (16 < cols) then fail s1
    else match s1.readVirt c m.a (10240 + 5120 * (rows * cols)) with
    | (s2, .error e) => some (s2.headFault c m e)
    | (s2, .ok b) =>
      if (crc32c (b.drop 64)).toNat != fld b 60 4 then fail s2
      else match (rSaved r).run (b.drop 64) with
      | none => fail s2
      | some (v, _) =>
        let env := s.loadEnv c r
        let cols := env.columns
        if (t.rectangles r).any v.g.onHdr.meets || decide (v.g.onHdr.col0 < cols.1) || decide (cols.2 < v.g.onHdr.col0 + v.g.onHdr.cols) || v.g.onHdr.elems.any (fun e => (s.core c.core).fuse.getLsbD e.val) ||
            v.ports.any (fun q => (t.port q.p).run.isSome || !env.owns q.p.toNat) then fail s2
        else some (s2.restore c r v)

end Sys2Proof.Machine
end

