-- ==== Sys2Proof/Machine/Copy.lean ====
section
/-! DEFINITION. Copies and stages, the copy engine, and the advance of the command queue (R186, R188, R190, R193, R238 to R241,
R257 to R263, R303, R306). -/
namespace Sys2Proof.Machine

/-! ### Issue (R237, R238) -/

def execCpy (a : Reg) (s : State) : Out State := s.queued (.cpy a) [a] (fun t => t.reg a) (fun _ => 0) 64 64 false
def execCpyg (a : Reg) (s : State) : Out State := s.queued (.cpyg a) [a] (fun t => t.reg a) (fun _ => 0) 64 64 false
def execStgdef (a : Reg) (j : BitVec 4) (s : State) : Out State :=
  s.queued (.stgdef a j) [a] (fun t => t.reg a) (fun _ => 0) 32 32 false

/-! ### Stages (R261 to R263) -/

/-- The fields of a stage record keep R261. -/
def stageFieldsOk (share : Nat) (b : List Byte) : Bool :=
  fld b 0 8 % 32 == 0 && fld b 8 4 % 32 == 0 && decide (32 ≤ fld b 8 4) && decide (1 ≤ fld b 0x0C 2) && decide (fld b 0x0C 2 ≤ 1024) &&
  decide (fld b 0 8 + fld b 0x0C 2 * fld b 8 4 ≤ share) && decide (fld b 0x0E 1 ≤ 5) && fld b 0x0F 1 == 0

/-- stgdef at the head (R262). A record that cannot be read ends it with PAGE or UNCORR and the failing address, as R241 states for queued
commands (entry 31). -/
def State.stageHead (s : State) (c : CpId) (m : Cmd) (j : BitVec 4) : Option State :=
  match s.readVirt c m.a 32 with
  | (s1, .error e) => some (s1.headFault c m e)
  | (s1, .ok b) =>
    let bad : Option State := some (s1.commandFault c m.order m.pc cFORMAT m.a m.a 0 0)
    if !stageFieldsOk ((s.core c.core).sceneShare c.slot).2 b then bad
    else match s1.counterPlace c (fld64 b 0x10) true, s1.counterPlace c (fld64 b 0x18) true with
    | .ok f, .ok q =>
      let g : Stage := { base := fld b 0 8, slen := fld b 8 4, n := fld b 0x0C 2, scope := BitVec.ofNat 3 (fld b 0x0E 1), fill := f, rel := q
                         fillVa := fld64 b 0x10, relVa := fld64 b 0x18 }
      some (s1.modSlot c fun t => { t with stages := vmod t.stages (ix16 j) fun _ => some g })
    | _, _ => bad

/-- Scene-memory offset of a sequence's slot (R263). -/
def Stage.slotOf (g : Stage) (seq : Word) : Nat := g.base + seq.toNat % g.n * g.slen

/-! ### Copy records (R257) -/

/-- The fields of a copy record keep R257. -/
def copyFieldsOk (gather : Bool) (b : List Byte) : Bool :=
  let fl := fld b 0x14 1
  let stgd := fl.testBit 2
  let len := fld b 0x10 4
  let nidx := fld b 0x38 4
  let elen := fld b 0x3C 4
  fld b 0 8 % 32 == 0 && (stgd || fld b 8 8 % 32 == 0) && len % 32 == 0 && decide (32 ≤ len) && decide (fl < 8) &&
  !(fl.testBit 1 && stgd) && decide (fld b 0x15 1 ≤ 5) && (if stgd then decide (fld b 0x16 1 < 16) else fld b 0x16 1 == 0) &&
  fld b 0x17 1 == 0 && (stgd || fld b 0x28 8 == 0) &&
  (if gather then fld b 0x30 8 % 4 == 0 && decide (1 ≤ nidx) && decide (nidx ≤ 2 ^ 24) && elen % 32 == 0 && len == nidx * elen
   else zeroBytes b 0x30 16)

/-- A copy record with what its command found at the head: its stage's definition and its counter's place. -/
def copyJob (m : Cmd) (gather : Bool) (b : List Byte) (stage : Option Stage) (ctr : Option (Word × PAddr)) : CopyJob :=
  let fl := fld b 0x14 1
  { cmd := m, gather := gather, src := fld64 b 0, dst := fld64 b 8, len := fld b 0x10 4, ssurf := fl.testBit 0, dsurf := fl.testBit 1
    stgd := fl.testBit 2, scope := BitVec.ofNat 3 (fld b 0x15 1), stage := stage, ctr := ctr, inc := fld64 b 0x20, seq := fld64 b 0x28
    idx := fld64 b 0x30, nidx := fld b 0x38 4, elen := fld b 0x3C 4 }

/-- cpy and cpyg at the head of the command queue (R240, R258): the record is read and checked, and the copy joins the copy
engine's queue of 8. A copy to a stage without a definition breaks its record, and a record that cannot be read ends it with PAGE or UNCORR
(entry 31). None while it waits. -/
def State.copyHead (s : State) (c : CpId) (m : Cmd) (gather : Bool) : Option State :=
  let t := s.slot c
  if 8 ≤ t.copyq.length then none
  else match s.readVirt c m.a 64 with
  | (s1, .error e) => some (s1.headFault c m e)
  | (s1, .ok b) =>
    let bad : Option State := some (s1.commandFault c m.order m.pc cFORMAT m.a m.a 0 0)
    let push (g : Option Stage) (p : Option (Word × PAddr)) : Option State :=
      some (s1.modSlot c fun t => { t with copyq := t.copyq ++ [copyJob m gather b g p] })
    let ctr := fld64 b 0x18
    if !copyFieldsOk gather b then bad
    else if (fld b 0x14 1).testBit 2 then
      match t.stages.get (ix16 (BitVec.ofNat 4 (fld b 0x16 1))) with
      | none => bad
      | some g => push (some g) none
    else if ctr = 0 then push none none
    else match s1.counterPlace c ctr true with
    | .error e => some (s1.commandFault c m.order m.pc e ctr ctr 0 (if e == cPAGE then pageDetail ctr true else 0))
    | .ok pa => push none (some (ctr, pa))

/-! ### The end of a failed copy (R260) -/

/-- The shadow of a surface whose copy failed holds undefined bytes (R260, entry 4). -/
def State.spoil (s : State) (c : CpId) (a : Word) : Nat → State
  | 0 => s
  | n + 1 =>
    match s.place c a 32 true with
    | .ok pa => (s.took.store (s.slot c).part pa (leBytes 32 (Config.freeWord256 s.fresh).toNat)).spoil c (a + 32) n
    | .error _ => s.spoil c (a + 32) n

/-- A copy ends with its record and a deferred command fault (R260). -/
def State.copyFault (s : State) (c : CpId) (j : CopyJob) (e : BitVec 8 × Word × Word × Word) : State :=
  (s.queueRec c.core (.copy c j.cmd.order)
    { s.slotRec c e.1 0x03 none with vaddr := e.2.1, pc := j.cmd.pc, synd := e.2.2.1, detail := e.2.2.2 }).deferTrap c j.cmd.order e.1 e.2.1 j.cmd.pc

/-- The record of a failed copy waits for room, and the copy engine with it before the next copy of its queue (R303). -/
def State.copyRecWaits (s : State) (c : CpId) : Bool := (s.core c.core).recWait.any fun w => match w.key with | .copy d _ => d == c | _ => false

/-! ### Starting (R186, R188, R258) -/

/-- Two ranges of numbers meet. -/
def meets (a n b m : Nat) : Bool := decide (0 < n) && decide (0 < m) && decide (a < b + m) && decide (b < a + n)

/-- Where the scene memory of the address space begins (R161). -/
def sceneBase : Nat := 0x400000

/-- A virtual range meets a region that a running or armed take of the slot declares, or declares for writing (R188). -/
def Slot.declared (t : Slot) (write : Bool) (a : Word) (n : Nat) : Bool :=
  let hit (h : Header) : Bool := h.smr.any fun d => (!write || d.wr) && meets (a.toNat - sceneBase) n d.off d.len
  classOf a == .scene && t.regions.toList.any fun g => (g.counts && hit g.onHdr) || (g.next == .armed && hit g.nextHdr)

/-- The indices of a gather as they stand in memory, looked at before the copy reads them; one that cannot be read names nothing. -/
def State.gatherIndex (s : State) (c : CpId) (j : CopyJob) (i : Nat) : Nat :=
  match s.place c (j.idx + BitVec.ofNat 64 (4 * i)) 4 false with
  | .ok pa => if (s.marksAt pa 4).any (·.two) then 0xFFFFFFFF else s.leAt pa 4
  | .error _ => 0xFFFFFFFF

/-- The source of a copy meets a region declared for writing. -/
def State.sourceDeclared (s : State) (c : CpId) (j : CopyJob) (src : Word) : Bool :=
  let t := s.slot c
  if j.gather then
    t.declared true j.idx (4 * j.nidx) || (List.range j.nidx).any fun i =>
      let x := s.gatherIndex c j i
      x != 0xFFFFFFFF && t.declared true (src + BitVec.ofNat 64 (x * j.elen)) j.elen
  else t.declared true src j.len

/-- A surface record as an engine resolves it: the published extent, the shadow, and the length (R185, R186). -/
structure Surf where
  pub : Word
  shadow : Word
  len : Nat
  deriving DecidableEq, Repr, Inhabited

def surfOf (b : List Byte) : Surf :=
  if (fld b 0x14 1).testBit 0 then ⟨fld64 b 8, fld64 b 0, fld b 0x10 4⟩ else ⟨fld64 b 0, fld64 b 8, fld b 0x10 4⟩

/-- A surface that a copy names is resolved: the failure of its read, PAGE or UNCORR with the failing address (entry 31), or FORMAT when it is
shorter than the copy (R258). -/
def State.resolveSurf (s : State) (c : CpId) (j : CopyJob) (named : Bool) (a : Word) :
    State × Except (BitVec 8 × Word × Word × Word) (Option Surf) :=
  if !named then (s, .ok none)
  else match s.readVirt c a 32 with
  | (s1, .error e) => (s1, .error e)
  | (s1, .ok b) =>
    let f := surfOf b
    if f.len < j.len then (s1, .error (cFORMAT, j.cmd.a, 0, 0)) else (s1, .ok (some f))

/-- The copy engine takes the next copy from its queue. -/
def Slot.takeCopy (t : Slot) : Slot := { t with copyq := t.copyq.drop 1 }

/-- The engine's own posted add to n bytes of a place is under way: the engine's accesses there perform after it (R277). -/
def State.engineAdds (s : State) (c : CpId) (pa : PAddr) (n : Nat) : Bool :=
  s.adds.any fun x => x.sender == c && x.agent == .engine && overlaps x.pa 8 pa n

/-- What the wait for a stage's slot finds. -/
inductive StageTurn where
  | free (s : State)
  | waits (s : State)
  | failed (s : State) (e : BitVec 8 × Word × Word × Word)

/-- A copy to a stage waits until its slot is released (R258, R263). REL is read as the engine reads any place: it waits with the engine's own
adds and with writes parked there, its errors are logged and an uncorrectable one ends the copy, and a unit that another partition owns by then
refuses it with PAGE (R260, R277, R318, R319; entry 41). -/
def State.stageTurn (s : State) (c : CpId) (j : CopyJob) : StageTurn :=
  match j.stage with
  | none => .free s
  | some g =>
    if j.seq.toNat < g.n then .free s
    else if s.parkedBlock g.rel || s.engineAdds c g.rel 8 then .waits s
    else if !s.ownerOk (s.slot c).part g.rel false then .failed s (cPAGE, g.relVa, 0, pageDetail g.relVa false)
    else match s.load c (s.slot c).part g.rel 8 with
    | (s1, none) => .failed s1 (cUNCORR, g.relVa, s.synd g.rel 8, s.uncorrDetail g.rel 8)
    | (s1, some v) => if j.seq.toNat + 1 ≤ leNat v + g.n then .free s1 else .waits s1

/-- The destination of a copy. -/
def CopyJob.dest (j : CopyJob) (d : Option Surf) : Word :=
  match d, j.stage with
  | some f, _ => f.shadow
  | none, some g => BitVec.ofNat 64 (sceneBase + g.slotOf j.seq)
  | none, none => j.dst

/-- COPY_START: the copy engine of a slot starts the next copy of its queue, once the takes that R188 names have ended
and its stage's slot is released. -/
def execCopyStart (c : CpId) (s : State) : Out State :=
  .next <|
    let t := s.slot c
    match t.copying, t.copyq with
    | none, j :: _ =>
      if !s.onGrid c || s.copyRecWaits c then s
      else
        let ends (u : State) (e : BitVec 8 × Word × Word × Word) : State := (u.copyFault c j e).modSlot c Slot.takeCopy
        match s.resolveSurf c j j.ssurf j.src with
        | (s1, .error e) => ends s1 e
        | (s1, .ok sf) =>
          match s1.resolveSurf c j j.dsurf j.dst with
          | (s2, .error e) => ends s2 e
          | (s2, .ok df) =>
            let src := match sf with | some f => f.pub | none => j.src
            let dst := j.dest df
            if t.declared false dst j.len || s.sourceDeclared c j src then s
            else match s2.stageTurn c j with
            | .waits u => { s with cores := u.cores, clusters := u.clusters, dies := u.dies }
            | .failed u e => ends u e
            | .free u =>
              let run : CopyRun :=
                { job := j, srcBase := src, srcLimit := sf.map (·.len), dstBase := dst
                  dstLen := match df with | some f => f.len | none => 0, unit := 0, index := none, parked := none }
              u.modSlot c fun t => { t.takeCopy with copying := some run }
    | _, _ => s

/-! ### Units (R258, R259, R260) -/

/-- The units of a copy. -/
def CopyJob.units (j : CopyJob) : Nat := j.len / 32

/-- What a unit's turn gives. -/
inductive UnitOut where
  | moved (s : State)
  | blocked (s : State)
  | failed (s : State) (e : BitVec 8 × Word × Word × Word)

/-- An engine writes 32 bytes at a place. -/
def State.writeUnit (s : State) (c : CpId) (pa : PAddr) (b : List Byte) : State :=
  match pa.space with
  | .peer _ => s.askWrite c pa b
  | _ => (s.store (s.slot c).part pa b).askWrite c pa b

/-- The run of a slot's copy engine changes. -/
def State.modCopy (s : State) (c : CpId) (f : CopyRun → CopyRun) : State := s.modSlot c fun t => { t with copying := t.copying.map f }

/-- The index of i of an indexed copy: its 4 bytes are read once, and kept for the units of i (R259). None while a write is parked
on it (R357). -/
def State.copyIndex (s : State) (c : CpId) (r : CopyRun) (i : Nat) : Option (State × Except (BitVec 8 × Word × Word × Word) Nat) :=
  let a := r.job.idx + BitVec.ofNat 64 (4 * i)
  match r.index with
  | some (j, x) => if j = i then some (s, .ok x) else read a
  | none => read a
where
  read (a : Word) : Option (State × Except (BitVec 8 × Word × Word × Word) Nat) :=
    match s.place c a 4 false with
    | .error _ => some (s, .error (cPAGE, a, 0, pageDetail a false))
    | .ok pa =>
      if s.parkedBlock pa || s.engineAdds c pa 4 then none
      else match s.readFrom c pa 4 with
      | (s1, .error e) => some (s1, .error (cUNCORR, a, e.1, e.2))
      | (s1, .ok b) => some (s1.modCopy c fun r => { r with index := some (i, leNat b) }, .ok (leNat b))

/-- The source of a unit: a virtual address, zeros for the index that names none, or a failure. -/
def State.unitSource (s : State) (c : CpId) (r : CopyRun) : Option (State × Except (BitVec 8 × Word × Word × Word) (Option Word)) :=
  let j := r.job
  if j.gather then
    let i := r.unit / (j.elen / 32)
    let off := 32 * (r.unit % (j.elen / 32))
    (s.copyIndex c r i).map fun
    | (s1, .error e) => (s1, .error e)
    | (s1, .ok x) =>
      let va := r.srcBase + BitVec.ofNat 64 (x * j.elen + off)
      if x = 0xFFFFFFFF then (s1, .ok none)
      else match r.srcLimit with
      | some n => if n < x * j.elen + off + 32 then (s1, .error (cPAGE, va, 0, pageDetail va false)) else (s1, .ok (some va))
      | none => (s1, .ok (some va))
  else some (s, .ok (some (r.srcBase + BitVec.ofNat 64 (32 * r.unit))))

/-- A block of scene memory whose ring read, or ring write, a stream or an earlier unit has in this grid cycle: each block serves one of
each, and a stream goes first (R175). -/
def Core.readBusy (k : Core) (pa : PAddr) : Bool :=
  match pa.space with
  | .scene _ => k.readClaims.any fun x => x.1 == blockOf pa
  | _ => false
def Core.writeBusy (k : Core) (pa : PAddr) : Bool :=
  match pa.space with
  | .scene _ => k.writeClaims.contains (blockOf pa)
  | _ => false

/-- A unit of the copy engine has a block's ring read, or its ring write, of this grid cycle. -/
def State.claimBlock (s : State) (k : Fin 256) (write : Bool) (pa : PAddr) : State :=
  match pa.space with
  | .scene _ => s.modCore k fun x =>
      if write then { x with writeClaims := blockOf pa :: x.writeClaims } else { x with readClaims := (blockOf pa, 0, false) :: x.readClaims }
  | _ => s

/-- The unit's value goes to its destination. A write that needs an escape entry when none is free is parked at the controller (R357).
`s0` is the state in which the unit stays when it waits. -/
def State.unitWrite (s0 s : State) (c : CpId) (r : CopyRun) (v : List Byte) : UnitOut :=
  let va := r.dstBase + BitVec.ofNat 64 (32 * r.unit)
  match s.place c va 32 true with
  | .error _ => .failed s (cPAGE, va, 0, pageDetail va true)
  | .ok pa =>
    if (s.core c.core).writeBusy pa || s.engineAdds c pa 32 then .blocked s0
    else
      let s1 := s.writeUnit c pa v
      let part := (s.slot c).part
      match s.parkTurn s1 c r.job.cmd.order part (s.surfaceOf part va) pa with
      | .performs => .moved (((s1.slotted part (s.surfaceOf part va) va).claimBlock c.core true pa).modCopy c fun r => { r with unit := r.unit + 1, parked := none })
      | .waits => .blocked s0
      | .parks d k => .blocked ((s0.parkRec c r.job.cmd.order part va r.job.cmd.pc d k).modCopy c fun r => { r with parked := some pa })

/-- One unit is read and then written. Its read waits with the writes parked on its block (R357). -/
def State.copyUnit (s : State) (c : CpId) (r : CopyRun) : UnitOut :=
  match s.unitSource c r with
  | none => .blocked s
  | some (s1, .error e) => .failed s1 e
  | some (s1, .ok none) => s1.unitWrite s1 c r (List.replicate 32 0)
  | some (s1, .ok (some va)) =>
    match s1.place c va 32 false with
    | .error _ => .failed s1 (cPAGE, va, 0, pageDetail va false)
    | .ok pa =>
      if (s1.core c.core).readBusy pa || s1.parkedBlock pa || s1.engineAdds c pa 32 then .blocked s1
      else match s1.readFrom c pa 32 with
      | (s2, .error e) => .failed s2 (cUNCORR, va, e.1, e.2)
      | (s2, .ok v) => s1.unitWrite (s2.claimBlock c.core false pa) c r v

/-- A copy that fails at a unit ends there (R260). -/
def State.copyFails (s : State) (c : CpId) (r : CopyRun) (e : BitVec 8 × Word × Word × Word) : State :=
  let t := s.copyFault c r.job e
  (if r.job.dsurf then t.spoil c r.dstBase (r.dstLen / 32) else t).modSlot c fun x => { x with copying := none }

/-- Up to n units of the copy in progress move (R258: 256 bytes in a grid cycle). -/
def State.copyUnits (s : State) (c : CpId) : Nat → State
  | 0 => s
  | n + 1 =>
    match (s.slot c).copying with
    | none => s
    | some r =>
      if r.job.units ≤ r.unit then s
      else match s.copyUnit c r with
      | .moved t => t.copyUnits c n
      | .blocked t => t
      | .failed t e => t.copyFails c r e

/-- One grid cycle of a slot's copy engine: up to 8 units, of which a split binding gives each half every other one (R258, R349). -/
def State.copyCycle (s : State) (c : CpId) : State :=
  if (s.slot c).copying.isSome && s.onGrid c then s.copyUnits c (if (s.core c.core).split then 4 else 8) else s

/-! ### Completing (R186, R258, R264) -/

/-- The signal of an engine at its counter (R267, R282). -/
def State.engineSignal (s : State) (c : CpId) (pa : PAddr) (vaddr k : Word) : State := s.signalBy c .engine pa vaddr k

/-- What a copy does after its last unit: a stage's FILL rises, or the counter is signalled. A unit that another partition owns by then refuses
the raise, which is dropped with a record as a signal is (R266, R318; entry 41). -/
def State.copySignal (s : State) (c : CpId) (j : CopyJob) : State :=
  match j.stage, j.ctr with
  | some g, _ =>
    if s.ownerOk (s.slot c).part g.fill true then s.raiseCounter c g.fill g.fillVa (j.seq + 1)
    else s.newId.queueRec c.core (.job s.ids) { s.slotRec c cPROTECT 0x06 none with vaddr := g.fillVa }
  | none, some (a, pa) => s.engineSignal c pa a j.inc
  | none, none => s

/-- COPY_COMPLETE: every unit has moved; the surface is published, then the stage or the counter is signalled (R258). A raise of FILL follows
the engine's earlier adds, because a release carries its agent's earlier writes (R282). -/
def execCopyComplete (c : CpId) (s : State) : Out State :=
  .next <|
    let t := s.slot c
    match t.copying with
    | none => s
    | some r =>
      if r.unit < r.job.units || !s.onGrid c || (r.job.stage.isSome && s.addsOf c .engine s.ids) then s
      else
        let done (u : State) : State := ((u.copySignal c r.job).modSlot c fun x => { x with copying := none }).reportAndProgress c
        if !r.job.dsurf then done s
        else
          let a := r.job.dst + 0x10
          match s.place c a 8 true with
          | .ok pa => if s.parkedBlock pa || s.engineAdds c pa 8 then s else done (s.flipSel c pa a r.job.cmd.pc)
          | .error _ => s.copyFails c r (cPAGE, a, 0, pageDetail a true)

/-! ### The command queue (R193, R240) -/

/-- The region that a region command is addressed to. -/
def regionOf : Instr → Option (Fin 4)
  | .rload _ _ r | .rarm _ r | .rgo r | .rstop r | .rsave _ r | .rrest _ r | .rstatState _ r | .rstatLoadrep _ r | .rstatFlags _ r
  | .rstatTclap _ r | .rstatHeld _ r | .rstatCycles _ r | .rstatEnergy _ r | .rstatFault _ r | .rstatOrigin _ r => some (ix4 r)
  | _ => none

/-- The commands that may take effect: the head, and region commands that pass only region commands to other regions. -/
def passing : List Cmd → List (Fin 4) → List Cmd
  | [], _ => []
  | m :: t, seen =>
    match regionOf m.i with
    | some r => if seen.contains r then passing t seen else m :: passing t (r :: seen)
    | none => if seen.isEmpty then [m] else []

/-- A write is parked on the record that a command reads at the head (R357). -/
def State.recordParked (s : State) (c : CpId) (m : Cmd) : Bool :=
  readsRecord m.i && (match s.places c false 16 4 m.a with | .ok ps => ps.any s.parkedBlock | .error _ => false)

/-- A command's effect when it is its turn: none while it waits. An rload keeps its place until its load ends. -/
def State.headAct (s : State) (c : CpId) (m : Cmd) : Option State :=
  let gone (o : Option State) : Option State := o.map fun t => if t.recordWaits c m then t.modSlot c fun x => x.failCmd m else t.dequeue c m
  if m.failed then (if (s.region c ((regionOf m.i).getD 0)).loading == some m then none else gone (some s))
  else if s.recordParked c m then none
  else match m.i with
  | .rload _ _ r => s.loadHead c m (ix4 r)
  | .rarm a r => gone (s.armHead c m (ix4 r) (a == 0))
  | .rgo r => gone (s.goHead c m (ix4 r))
  | .rstop r => gone (some (s.stopTake c (ix4 r)))
  | .rsave _ r => gone (s.saveHead c m (ix4 r))
  | .rrest _ r => gone (s.restHead c m (ix4 r))
  | .sbind p k => gone (s.bindHead c m p k none)
  | .sbindt _ p k => gone (s.bindHead c m p k (some m.a))
  | .sstop p => gone (some (s.stopHead c p))
  | .cpy _ => gone (s.copyHead c m false)
  | .cpyg _ => gone (s.copyHead c m true)
  | .stgdef _ j => gone (s.stageHead c m j)
  | i => match regionOf i with
    | some r => gone (some (s.statHead c m r))
    | none => gone (some s)

/-- COMMAND_QUEUE_ADVANCE: one command of a slot takes effect. -/
def execCommandQueueAdvance (c : CpId) (s : State) : Out State :=
  .next <|
    let t := s.slot c
    if !s.onGrid c then s
    else
      let s1 := (((passing t.cmdq []).takeWhile fun m => !s.recordWaits c m).findSome? (s.headAct c)).getD s
      s1.reportAndProgress c

end Sys2Proof.Machine
end

