-- ==== Sys2Proof/Machine/Cluster.lean ====
section
/-! DEFINITION. The cluster: peer bindings, drain-add tiles and barriers (R158, R316 to R330). -/
namespace Sys2Proof.Machine

/-! ### Peer descriptors (R323) -/

def descV (d : W32) : Bool := d.getLsbD 31
def descMode (d : W32) : Bool := d.getLsbD 28
def descCol (d : W32) : Nat := bits d.toNat 27 24
def descRow (d : W32) : Nat := bits d.toNat 23 20
def descAcc (d : W32) : Fin 4 := ix4 (d.extractLsb' 16 2)
def descReg (d : W32) : Fin 4 := ix4 (d.extractLsb' 12 2)
/-- The peer core and slot, on the sender's die. -/
def peerOf (die : Fin 4) (d : W32) : CpId :=
  ⟨coreOf die (ix8 (d.extractLsb' 3 3)) (ix8 (d.extractLsb' 0 3)), ⟨(d.extractLsb' 8 1).toNat, (d.extractLsb' 8 1).isLt⟩⟩

/-- The reserved bits of a descriptor, and every bit but V when V is 0, are zero. -/
def descReserved (d : Word) : Bool :=
  wbits d 63 32 == 0 && wbits d 30 29 == 0 && wbits d 19 18 == 0 && wbits d 15 14 == 0 && wbits d 11 9 == 0 && wbits d 7 6 == 0 &&
  (d.getLsbD 31 || d == 0)

/-- A core belongs to a partition on its die (R349, R350). -/
def State.coreOfPart (s : State) (k : Fin 256) (p : BitVec 5) : Bool :=
  ((s.die (dieOf k)).ptab.get (ix32 p)).cores.getLsbD (k.val % 64)

/-- A slot holds no task that can take tiles: EMPTY, RETIRED or STOPPED, or its core is quarantined (R324, R325). -/
def State.vacant (s : State) (c : CpId) : Bool :=
  let t := s.slot c
  (s.core c.core).cquar || t.status == 0x00 || t.status == 0x03 || t.status == 0x04

/-- The take instance that a binding names (R324): 0 when the peer is absent. -/
def State.peerTake (s : State) (part : BitVec 5) (c : CpId) (r : Fin 4) : W32 :=
  if s.vacant c || (s.slot c).part != part then 0
  else
    let g := s.region c r
    if g.counts then g.takeSeq else g.takeSeq + 1

/-- A slot's peer binding changes (R324). -/
def State.setPeer (s : State) (p : BitVec 3) (b : Option PeerBind) : State :=
  (s.modSlot s.cur fun x => { x with peers := vmod x.peers (ix8 p) fun _ => b }).advance

/-- cpeer (R324): a binding is taken when the peer's answer is there; V = 0 asks nothing. -/
def execCpeer (a : Reg) (p : BitVec 3) (s : State) : Out State :=
  s.issue [a] [] false fun t =>
    let d := t.reg a
    let w := d.setWidth 32
    let peer := peerOf (dieOf t.cur.core) w
    if !descReserved d || (descV w && !t.coreOfPart peer.core t.myPart) then t.trapAt t.cur cPROTECT d
    else if descV w then t.asks fun u => u.setPeer p (some ⟨w, u.peerTake u.myPart peer (descReg w)⟩)
    else t.setPeer p none

/-! ### Tiles (R158, R320 to R327) -/

def Tile.peer (t : Tile) : CpId := peerOf (dieOf t.sender.core) t.desc
/-- The image position that takes the tile. -/
def Tile.position (t : Tile) : Nat × Nat :=
  if descMode t.desc then (descRow t.desc, descCol t.desc) else (t.imgElem.toNat / 16, t.imgElem.toNat % 16)

/-- Two tiles of one stream have one destination accumulator. -/
def Tile.sameDest (a b : Tile) : Bool :=
  a.strm == b.strm && a.peer == b.peer && descReg a.desc == descReg b.desc && descAcc a.desc == descAcc b.desc && a.position == b.position

/-- Two tiles apply in order: those for one accumulator in one stream (R327), and those that one element sent in one stream (R158). -/
def Tile.ordered (a b : Tile) : Bool := a.sameDest b || (a.strm == b.strm && a.sender == b.sender && a.elem == b.elem)

/-- The rank of a tile's sender: cluster, core, physical element. -/
def Tile.rank (t : Tile) : Nat := t.sender.core.val * 256 + t.elem.val

/-- One tile applies before another (R327). -/
def Tile.before (a b : Tile) : Bool :=
  decide (a.sendCycle.toNat < b.sendCycle.toNat) || (a.sendCycle == b.sendCycle &&
    (decide (a.rank < b.rank) || (a.rank == b.rank && decide (a.id < b.id))))

/-- What becomes of a tile that has reached its destination: the element that takes it, or the first failing check (R325). -/
def State.tileTarget (s : State) (t : Tile) : Except DropReason (Fin 256) :=
  let c := t.peer
  let g := s.region c (descReg t.desc)
  if s.vacant c || t.seq = 0 then .error .absent
  else if (s.slot c).part != t.part then .error .absent
  else if !(s.slot c).bound then .error .preempt
  else if !g.counts || g.takeSeq != t.seq then .error .ended
  else match g.onHdr.phys t.position.1 t.position.2 with
  | none => .error .absent
  | some e => if (s.elem c e).on.present then .ok e else .error .absent

/-- The tile is gone and its credit returns to the slot that sent it, whatever task that holds by then (R321; entry 43). -/
def State.endTile (s : State) (t : Tile) : State :=
  ({ s with tiles := s.tiles.filter fun u => u.id != t.id } : State).modSlot t.sender fun x => { x with tilesOut := vmod x.tilesOut (ix4 t.strm) (· - 1) }

/-- The lanes of an accumulator with a tile added (R158). -/
def tileAdd (int : Bool) (acc tile : Lanes8) : List LaneOut :=
  (acc.toList.zip tile.toList).map fun (a, b) =>
    if int then addLaneInt a false b.toInt else addLane a false b.toNat (fp32.exact b.toNat).isNan false

/-- A tile applies to its accumulator, which the add reads: a corrected error is logged, and an uncorrectable one stops the region and the add
does not happen (R106, R158, R307). The tile then waits, and its region's stop drops it as ENDED (R325; entry 43). -/
def State.applyTile (s : State) (t : Tile) (e : Fin 256) : State :=
  let c := t.peer
  let r := descReg t.desc
  let g := s.region c r
  let a := descAcc t.desc
  let reads : Reads := ([(3, e.val, 4 * a.val, 4)], none)
  match (s.marksOf c.core reads).find? fun m => m.1.two with
  | some (m, k, off) =>
    if g.stopDue.isSome then s
    else (s.logOf c reads).modRegion c r fun g => g.addStop
      { cause := cUNCORR, detail := BitVec.ofNat 64 (k + (off % 2 ^ 16) * 256), port := 0xFF, elem := BitVec.ofNat 8 (g.onHdr.image e), index := 0
        vaddr := 0, synd := m.synd.setWidth 64 }
  | none =>
    let s1 := s.logOf c reads
    let rs := tileAdd t.int ((s1.elem c e).acc.get a) t.lanes
    ((s1.setFlags c e (orFlags rs)).setAcc c e a (lanes8List rs)).endTile t

/-- A count field of 16 bits that stops at 0xFFFF. -/
def bump16 (v : Word) (lo : Nat) : Word :=
  let f := wbits v (lo + 15) lo
  if f = 0xFFFF then v else v + BitVec.ofNat 64 (2 ^ lo)

/-- CDLOG takes a drop (R326). -/
def cdlogNote (v : Word) (why : DropReason) (t : Tile) : Word :=
  let (lo, rsn) : Nat × Nat := match why with | .absent => (48, 1) | .preempt => (32, 2) | .ended => (16, 3)
  let counts := bump16 v lo
  BitVec.ofNat 64 (wbits counts 63 16 * 2 ^ 16 + rsn * 2 ^ 14 + (t.peer.core.val % 8) * 2 ^ 11 + t.strm.toNat * 2 ^ 9 + t.pb.toNat * 2 ^ 6)

/-- A dropped tile (R326): its record is written, and until that has entered the sender's queue the tile waits, refused (R303). -/
def State.dropTile (s : State) (t : Tile) (why : DropReason) : State :=
  let f : RecFields := { s.slotRec t.sender cDROP 0x05 (some t.region) with
    part := t.part, wid := t.wid, elem := t.imgElem, index := BitVec.ofNat 8 ((if t.cue then 0x80 else 0) + t.idx.toNat)
    detail := t.strm.setWidth 64 }
  let s1 := if t.refused.isSome then s
    else (s.queueRec t.sender.core (.job t.id) f).modCluster (clusterOf t.peer.core) fun k => { k with cdlog := cdlogNote k.cdlog why t }
  if s1.recWaits t.sender.core (.job t.id) then { s1 with tiles := s1.tiles.map fun u => if u.id == t.id then { u with refused := some why } else u }
  else s1.endTile t

/-- TILE_ARRIVE: a tile is checked and applied, or dropped. A tile waits behind an earlier one that R158 or R327 orders before it. -/
def execTileArrive (id : Nat) (s : State) : Out State :=
  .next <|
    match s.tiles.find? (fun t => t.id == id) with
    | none => s
    | some t =>
      if s.tiles.any (fun u => u.ordered t && u.before t) then s
      else match t.refused, s.tileTarget t with
      | some why, _ => s.dropTile t why
      | none, .ok e => s.applyTile t e
      | none, .error why => s.dropTile t why

/-! ### Barriers (R328 to R330) -/

/-- Participants of a barrier: 17 to 31 are treated as 0. -/
def Cluster.participants (k : Cluster) (b : BitVec 4) : Nat :=
  let n := (k.barN.get (ix16 b)).toNat
  if n ≤ 16 then n else 0

/-- The slot may use the barrier (R329). -/
def State.barrierOk (s : State) (b : BitVec 4) : Bool :=
  let k := s.cluster (clusterOf s.cur.core)
  decide (0 < k.participants b) && k.barPart.get (ix16 b) == s.myPart

/-- An arrival at the barrier unit. -/
def Cluster.arrival (k : Cluster) (b : BitVec 4) : Cluster :=
  let i := ix16 b
  let n := k.barArr.get i + 1
  if k.participants b ≤ n then { k with barArr := vmod k.barArr i fun _ => 0, barGen := vmod k.barGen i (· + 1) }
  else { k with barArr := vmod k.barArr i fun _ => n }

/-- cbar.arr (R329). -/
def execCbarArr (b : BitVec 4) (s : State) : Out State :=
  s.issue [] [] false fun t =>
    let i := ix16 b
    let gen := (t.cluster (clusterOf t.cur.core)).barGen.get i
    if !t.barrierOk b then t.trapAt t.cur cPROTECT (b.setWidth 64)
    else if !t.accessesDone t.cur then t
    else
      let t1 := t.modSlot t.cur fun x => { x with barAph := vmod x.barAph i fun _ => gen, barPend := vmod x.barPend i fun _ => true }
      (t1.modCluster (clusterOf t.cur.core) fun k => k.arrival b).advance

/-- cbar.wait (R329). A wait that holds already is completed by whatever makes the generation advance, a write of CBARCFG too (R328). -/
def execCbarWait (b : BitVec 4) (s : State) : Out State :=
  s.issue [] [] false fun t =>
    let i := ix16 b
    let x := t.slot t.cur
    if !x.cp.waitFor && !t.barrierOk b then t.trapAt t.cur cPROTECT (b.setWidth 64)
    else if !x.barPend.get i then t.leaveWait
    else if (t.cluster (clusterOf t.cur.core)).barGen.get i = x.barAph.get i then t.modCp t.cur fun p => { p with waitFor := true }
    else (t.modSlot t.cur fun x => { x with barPend := vmod x.barPend i fun _ => false }).leaveWait

/-- CBARCFG_WRITE (R328): PART and N are set, ARR is 0 and GEN advances. -/
def execCbarcfgWrite (cl : Fin 32) (b : BitVec 4) (v : Word) (s : State) : Out State :=
  .next <| s.modCluster cl fun k =>
    { k with barPart := vmod k.barPart (ix16 b) fun _ => v.extractLsb' 16 5, barN := vmod k.barN (ix16 b) fun _ => v.extractLsb' 0 5
             barArr := vmod k.barArr (ix16 b) fun _ => 0, barGen := vmod k.barGen (ix16 b) (· + 1) }

/-- CBARCFG as it reads (R328). -/
def Cluster.barWord (k : Cluster) (b : BitVec 4) : Word :=
  let i := ix16 b
  BitVec.ofNat 64 ((k.barGen.get i).toNat * 2 ^ 32 + (k.barPart.get i).toNat * 2 ^ 16 + k.barArr.get i % 32 * 2 ^ 8 + (k.barN.get i).toNat)

/-! ### Injection into the cluster buffer (R319) -/

/-- The fields of an injection register (R309); what is reserved is not kept (R19). -/
def injFields (v : Word) : Word := v &&& 0xF000003F00007FFF#64

def execCbinjWrite (cl : Fin 32) (v : Word) (s : State) : Out State := .next <| s.modCluster cl fun k => { k with cbinj := injFields v }

end Sys2Proof.Machine
end

