-- ==== Sys2Proof/Machine/Mask.lean ====
section
/-! DEFINITION. Mask programs: their check, their value on one pair and on a tile, document-run tables, and mload (R384 to R396). -/
namespace Sys2Proof.Machine

/-! ### Instruction words (R386, R388) -/

def maskOp (w : BitVec 16) : Nat := bits w.toNat 15 11
def maskCi (w : BitVec 16) : Nat := bits w.toNat 10 8
def maskKs (w : BitVec 16) : Bool := w.getLsbD 0
def maskReserved (w : BitVec 16) : Nat := bits w.toNat 7 1

/-- The constant of a program. -/
def MaskProg.const (p : MaskProg) (i : Nat) : Int := ((p.k[i]?).getD 0).toInt

/-- The parameter c of an instruction. -/
def MaskProg.param (p : MaskProg) (w : BitVec 16) : Int := if maskKs w then p.const (maskCi w) else 0

/-- Leaves, and the instructions that take a parameter. -/
def maskLeaf (op : Nat) : Bool := decide (1 ≤ op) && decide (op ≤ 0x0D)
def maskTakes (op : Nat) : Bool := (decide (1 ≤ op) && decide (op ≤ 8)) || op == 0x0A || op == 0x0B
def maskReservedOp (op : Nat) : Bool := op == 0 || op == 0x0E || op == 0x0F || (decide (0x13 ≤ op) && decide (op ≤ 0x1E))

/-- The limit of R388 on c. -/
def maskLimit (op : Nat) (c : Int) : Bool :=
  if op = 0x02 ∨ op = 0x0B then decide (1 ≤ c) else if op = 0x03 then decide (0 ≤ c) else true

/-! ### Load-time checks (R395) -/

/-- The first row of R395 that a word fails at a depth. -/
def MaskProg.wordFault (p : MaskProg) (w : BitVec 16) (depth : Nat) : Option Nat :=
  let op := maskOp w
  if maskReservedOp op then some 1
  else if maskReserved w != 0 || (!maskKs w && maskCi w != 0) || (!maskTakes op && (maskCi w != 0 || maskKs w)) then some 2
  else if maskTakes op && !maskLimit op (p.param w) then some 3
  else if maskLeaf op && decide (8 ≤ depth) then some 4
  else if ((op == 0x10 || op == 0x11) && decide (depth < 2)) || (op == 0x12 && depth == 0) then some 5
  else if op == 0x1F && depth != 1 then some 6
  else none

/-- The depth after a word. -/
def maskDepth (w : BitVec 16) (depth : Nat) : Nat :=
  let op := maskOp w
  if maskLeaf op then depth + 1 else if op = 0x10 ∨ op = 0x11 then depth - 1 else depth

/-- The first non-zero word after m.end. -/
def maskTail : List (BitVec 16) → Nat → Option Nat
  | [], _ => none
  | w :: t, i => if w != 0 then some i else maskTail t (i + 1)

/-- The walk of R395: reason and index of the first failure. -/
def MaskProg.walk (p : MaskProg) : List (BitVec 16) → Nat → Nat → Option (Nat × Nat)
  | [], _, _ => some (7, 32)
  | w :: t, i, depth =>
    match p.wordFault w depth with
    | some r => some (r, i)
    | none =>
      if maskOp w = 0x1F then (maskTail t (i + 1)).map fun j => (8, j)
      else p.walk t (i + 1) (maskDepth w depth)

/-- The program of a record (R385). -/
def maskProg (b : List Byte) : MaskProg :=
  { w := (List.range 32).map fun i => BitVec.ofNat 16 (fld b (2 * i) 2), k := (List.range 8).map fun i => fld64 b (0x40 + 8 * i) }

/-- The program holds m.samedoc or m.docge before its m.end (R394). -/
def MaskProg.readsDocs (p : MaskProg) : Bool := (p.w.takeWhile fun w => maskOp w != 0x1F).any fun w => maskOp w == 0x09 || maskOp w == 0x0A

/-! ### Document-run tables (R393) -/

/-- The document of a position. -/
def docOf (l : List (Nat × Nat)) (p : Nat) : Nat := (l.foldl (fun d r => if r.1 ≤ p then some r.2 else d) none).getD 0

/-- Runs keep R393: STARTs increase strictly and DOCs do not decrease. -/
def runsRise : List (Nat × Nat) → Bool
  | a :: b :: t => decide (a.1 < b.1) && decide (a.2 ≤ b.2) && runsRise (b :: t)
  | _ => true

/-- A table's runs, none when it breaks R393. -/
def docRuns (nrun : Nat) (b : List Byte) : Option (List (Nat × Nat)) :=
  let l := (List.range nrun).map fun r => (fld b (8 + 8 * r) 4, fld b (12 + 8 * r) 4)
  match l with
  | [] => none
  | x :: _ => if x.1 == 0 && zeroBytes b 4 4 && runsRise l then some l else none

/-! ### One pair (R388) -/

/-- Documents of the queries and of the keys. -/
structure Docs where
  q : List (Nat × Nat)
  k : List (Nat × Nat)
  deriving DecidableEq, Repr, Inhabited

/-- The value of a leaf on a pair. -/
def maskPair (d : Docs) (op : Nat) (c i j : Int) : Bool :=
  let dq : Int := docOf d.q i.toNat
  let dk : Int := docOf d.k j.toNat
  match op with
  | 0x01 => decide (j ≤ i + c)
  | 0x02 => decide (0 ≤ i - j) && decide (i - j < c)
  | 0x03 => decide (-c ≤ i - j) && decide (i - j ≤ c)
  | 0x04 => decide (i < c) && decide (j < c)
  | 0x05 => decide (c ≤ j)
  | 0x06 => decide (j < c)
  | 0x07 => decide (c ≤ i)
  | 0x08 => decide (i < c)
  | 0x09 => dq == dk
  | 0x0A => decide (dq - c ≤ dk)
  | 0x0B => (i - j) % c == 0
  | 0x0C => true
  | _ => false

/-- The stack machine over truth values. -/
def MaskProg.evalPair (p : MaskProg) (d : Docs) (i j : Int) : List (BitVec 16) → List Bool → Bool
  | [], st => st.headD false
  | w :: t, st =>
    let op := maskOp w
    match st with
    | a :: b :: r =>
      if op = 0x1F then a
      else if op = 0x10 then p.evalPair d i j t ((b && a) :: r)
      else if op = 0x11 then p.evalPair d i j t ((b || a) :: r)
      else if op = 0x12 then p.evalPair d i j t ((!a) :: b :: r)
      else p.evalPair d i j t (maskPair d op (p.param w) i j :: st)
    | [a] =>
      if op = 0x1F then a
      else if op = 0x12 then p.evalPair d i j t [!a]
      else p.evalPair d i j t (maskPair d op (p.param w) i j :: st)
    | [] => p.evalPair d i j t (maskPair d op (p.param w) i j :: st)

/-- The pair is allowed. -/
def MaskProg.allows (p : MaskProg) (d : Docs) (i j : Nat) : Bool := p.evalPair d i j p.w []

/-! ### One tile (R389 to R391) -/

/-- The three values of a tile. -/
inductive Tri where
  | t
  | f
  | u
  deriving DecidableEq, Repr, Inhabited

def Tri.and : Tri → Tri → Tri
  | .f, _ => .f
  | _, .f => .f
  | .t, .t => .t
  | _, _ => .u
def Tri.or : Tri → Tri → Tri
  | .t, _ => .t
  | _, .t => .t
  | .f, .f => .f
  | _, _ => .u
def Tri.not : Tri → Tri
  | .t => .f
  | .f => .t
  | .u => .u

/-- The positions of a tile. -/
structure TileRange where
  qlo : Int
  qhi : Int
  klo : Int
  khi : Int
  deriving DecidableEq, Repr, Inhabited

/-- T under one condition, F under another, else U. -/
def tri (a b : Bool) : Tri := if a then .t else if b then .f else .u

/-- The value of a leaf over a tile (R389). -/
def maskTile (d : Docs) (op : Nat) (c : Int) (x : TileRange) : Tri :=
  let dlo := x.qlo - x.khi
  let dhi := x.qhi - x.klo
  let dq (p : Int) : Int := docOf d.q p.toNat
  let dk (p : Int) : Int := docOf d.k p.toNat
  match op with
  | 0x01 => tri (decide (x.khi ≤ x.qlo + c)) (decide (x.qhi + c < x.klo))
  | 0x02 => tri (decide (0 ≤ dlo) && decide (dhi < c)) (decide (dhi < 0) || decide (c ≤ dlo))
  | 0x03 => tri (decide (-c ≤ dlo) && decide (dhi ≤ c)) (decide (c < dlo) || decide (dhi < -c))
  | 0x04 => tri (decide (x.qhi < c) && decide (x.khi < c)) (decide (c ≤ x.qlo) || decide (c ≤ x.klo))
  | 0x05 => tri (decide (c ≤ x.klo)) (decide (x.khi < c))
  | 0x06 => tri (decide (x.khi < c)) (decide (c ≤ x.klo))
  | 0x07 => tri (decide (c ≤ x.qlo)) (decide (x.qhi < c))
  | 0x08 => tri (decide (x.qhi < c)) (decide (c ≤ x.qlo))
  | 0x09 => tri (dq x.qlo == dq x.qhi && dq x.qhi == dk x.klo && dk x.klo == dk x.khi) (decide (dq x.qhi < dk x.klo) || decide (dk x.khi < dq x.qlo))
  | 0x0A => tri (decide (dq x.qhi - c ≤ dk x.klo)) (decide (dk x.khi < dq x.qlo - c))
  | 0x0B => tri (c == 1 || (dlo == dhi && dlo % c == 0)) (decide (c * (dhi / c) < dlo))
  | 0x0C => .t
  | _ => .f

/-- The stack machine over tile values. -/
def MaskProg.evalTile (p : MaskProg) (d : Docs) (x : TileRange) : List (BitVec 16) → List Tri → Tri
  | [], st => st.headD .u
  | w :: t, st =>
    let op := maskOp w
    match st with
    | a :: b :: r =>
      if op = 0x1F then a
      else if op = 0x10 then p.evalTile d x t (b.and a :: r)
      else if op = 0x11 then p.evalTile d x t (b.or a :: r)
      else if op = 0x12 then p.evalTile d x t (a.not :: b :: r)
      else p.evalTile d x t (maskTile d op (p.param w) x :: st)
    | [a] =>
      if op = 0x1F then a
      else if op = 0x12 then p.evalTile d x t [a.not]
      else p.evalTile d x t (maskTile d op (p.param w) x :: st)
    | [] => p.evalTile d x t (maskTile d op (p.param w) x :: st)

/-- The class of a tile: T is FULL, F EMPTY, U PARTIAL. -/
def MaskProg.classOf (p : MaskProg) (d : Docs) (x : TileRange) : Tri := p.evalTile d x p.w []

/-! ### Mask slots (R384) and mload (R396) -/

/-- The program of a partition's mask slot on a chiplet. -/
def Chiplet.mask (k : Chiplet) (part : BitVec 5) (slot : BitVec 4) : Option MaskProg :=
  (k.masks.find? fun x => x.1 == (part, slot)).map (·.2)

/-- A program is installed whole. -/
def Chiplet.install (k : Chiplet) (part : BitVec 5) (slot : BitVec 4) (p : MaskProg) : Chiplet :=
  { k with masks := ((part, slot), p) :: k.masks.filter fun x => x.1 != (part, slot) }

/-- The report of a failed mload waits at its chiplets until its record has entered the core's queue (R303, R396). -/
def State.settleMload (s : State) (c : CpId) : State :=
  match (s.slot c).mreport with
  | none => s
  | some r => if s.recWaits c.core (.job r.order) then s else s.modSlot c fun x => { x with mreport := none }

/-- mload (R396): both chiplets install the program, or a deferred command fault names reason and word, whose report stays at the chiplet
while the record queue is full. It waits while an earlier report is kept (R303). -/
def execMload (a : Reg) (k : BitVec 4) (s : State) : Out State :=
  s.issue [a] [] false fun t =>
    if (t.slot t.cur).mreport.isSome then t
    else t.withRecord (t.reg a) 64 128 false fun ps =>
      t.readRecord (t.reg a) ps fun u b =>
        let p := maskProg b
        match p.walk p.w 0 0 with
        | none => ((u.modChiplet 0 fun c => c.install t.myPart k p).modChiplet 1 fun c => c.install t.myPart k p).answered none
        | some (r, i) =>
          let rep : Report := ⟨cFORMAT, u.ids, u.pc, BitVec.ofNat 64 (i + 256 * r), t.reg a, 0, 0⟩
          let v := u.newId.modSlot u.cur fun x => { x with mreport := some rep }
          ((v.commandFault u.cur rep.order rep.pc rep.cause rep.tval rep.vaddr 0 0).settleMload u.cur).answered none

end Sys2Proof.Machine
end

