-- ==== Sys2Proof/Machine/Kv.lean ====
section
/-! DEFINITION. The attention chiplets' cache: pools, pages, blocks, sequences and their instructions (R363 to R369, R375, R377 to
R382, R401). A chiplet acts in the issue cycle, and its answer
comes later (entry 4). -/
namespace Sys2Proof.Machine

/-! ### Pools (R364) -/

def poolEn (w : Word) : Bool := w.getLsbD 63
def poolPart (w : Word) : BitVec 5 := w.extractLsb' 58 5
/-- The HBM tier holds the pool's pages. -/
def poolHbm (w : Word) : Bool := w.getLsbD 57
def poolFmt (w : Word) : Nat := wbits w 56 55
/-- Head dimension D. -/
def poolD (w : Word) : Nat := 64 * 2 ^ wbits w 54 53
def poolHkv (w : Word) : Nat := wbits w 52 47 + 1
def poolLayers (w : Word) : Nat := wbits w 46 39 + 1
/-- Bytes of an element of K, V and queries. -/
def poolB (w : Word) : Nat := if poolFmt w = 0 then 2 else 1
/-- Bytes of one vector. -/
def poolVec (w : Word) : Nat := poolD w * poolB w
/-- BLKPG. -/
def poolPages (w : Word) : Nat := (poolLayers w * 2 * 16 * poolHkv w * poolVec w + 65535) / 65536

/-- The place of a 6-bit number among 64. -/
def ix64 (p : BitVec 6) : Fin 64 := ⟨p.toNat, p.isLt⟩
/-- The configuration of a pool. -/
def Chiplet.pool (k : Chiplet) (p : BitVec 6) : Word := k.kvpool.get (ix64 p)
/-- FREE of a pool. -/
def Chiplet.freeCount (k : Chiplet) (p : BitVec 6) : Nat := (k.free.filter fun x => x.1 == p).length
/-- KVPOOL as it reads. -/
def Chiplet.poolWord (k : Chiplet) (p : BitVec 6) : Word := k.pool p ||| BitVec.ofNat 64 (k.freeCount p)
/-- The pool is enabled and a partition's. -/
def Chiplet.owns (k : Chiplet) (p : BitVec 6) (part : BitVec 5) : Bool := poolEn (k.pool p) && poolPart (k.pool p) == part

/-! ### Pages (R363, R369) -/

/-- A page's first byte: SRAM pages are 0 to 8191, HBM pages follow (R366). -/
def pagePlace (home : Fin 2) (page : Nat) : PAddr :=
  ⟨.kv home, if page < 8192 then page * 65536 else 2 ^ 47 + (page - 8192) * 65536⟩

/-- Pages return, each to the list of the chiplet that holds it. -/
def State.pushPages (s : State) (p : BitVec 6) (home : Fin 2) (pages : List Nat) : State :=
  s.modChiplet home fun k => { k with free := k.free ++ pages.map fun g => (p, home, g) }

/-- The first n pages of one home on a pool's list, none when it holds fewer. -/
def Chiplet.firstPages (k : Chiplet) (p : BitVec 6) (home : Fin 2) (n : Nat) : Option (List Nat) :=
  let l := (k.free.filter fun x => x.1 == p && x.2.1 == home).map fun x => x.2.2
  if n ≤ l.length then some (l.take n) else none

/-- Pages leave a pool's list. -/
def Chiplet.popPages (k : Chiplet) (p : BitVec 6) (home : Fin 2) (pages : List Nat) : Chiplet :=
  { k with free := k.free.filter fun x => !(x.1 == p && x.2.1 == home && pages.contains x.2.2) }

/-- The cached block of a pool that was released longest ago. -/
def Chiplet.oldestCached (k : Chiplet) (p : BitVec 6) : Option KvBlock :=
  (k.blocks.filter fun b => b.pool == p && b.refs == 0).foldl
    (fun o b => match o with | none => some b | some x => if b.released < x.released then some b else some x) none

/-- A block goes: its tag leaves the tag table and its pages return. -/
def State.freeBlock (s : State) (k : Fin 2) (b : KvBlock) : State :=
  (s.modChiplet k fun c => { c with blocks := c.blocks.filter fun x => x.id != b.id }).pushPages b.pool b.home b.pages

/-- Pages for one block, in the order of R369. A block's pages have one home (entry 33). -/
def State.takePages (s : State) (k : Fin 2) (p : BitVec 6) (n : Nat) : Nat → Option (State × Fin 2 × List Nat)
  | 0 => none
  | fuel + 1 =>
    let c := s.chiplet k
    let other := 1 - k
    match c.firstPages p k n, c.firstPages p other n with
    | some l, _ => some (s.modChiplet k fun c => c.popPages p k l, k, l)
    | none, some l => some (s.modChiplet k fun c => c.popPages p other l, other, l)
    | none, none =>
      match c.oldestCached p with
      | some b => (s.freeBlock k b).takePages k p n fuel
      | none =>
        let o := s.chiplet other
        match o.firstPages p other 64 with
        | none => none
        | some l =>
          if o.owns p (poolPart (c.pool p)) && decide (128 ≤ o.freeCount p) then
            ((s.modChiplet other fun o => o.popPages p other l).modChiplet k fun c =>
              { c with free := c.free ++ l.map fun g => (p, other, g) }).takePages k p n fuel
          else none

/-- Empty blocks of a pool, all or none. -/
def State.takeBlocks (s : State) (k : Fin 2) (p : BitVec 6) : Nat → Option (State × List KvBlock)
  | 0 => some (s, [])
  | m + 1 =>
    let c := s.chiplet k
    let w := c.pool p
    match s.takePages k p (poolPages w) (c.blocks.length + (s.chiplet (1 - k)).freeCount p / 64 + 2) with
    | none => none
    | some (s1, home, pages) =>
      let b : KvBlock :=
        { id := s1.ids, pool := p, part := poolPart w, home := home, pages := pages, ids := [], key := none, written := []
          refs := 1, tagged := false, released := 0 }
      match s1.newId.takeBlocks k p m with
      | none => none
      | some (s2, l) => some (s2, b :: l)

/-! ### Blocks (R364, R367, R368) -/

def Chiplet.block (k : Chiplet) (id : Nat) : Option KvBlock := k.blocks.find? fun b => b.id == id
def Chiplet.modBlock (k : Chiplet) (id : Nat) (f : KvBlock → KvBlock) : Chiplet :=
  { k with blocks := k.blocks.map fun b => if b.id == id then f b else b }

/-- The byte offset in a block of a vector: layer, K or V, position, head (R364; the order is entry 33's). -/
def vecOffset (w : Word) (layer : Nat) (v : Bool) (pos head : Nat) : Nat :=
  (((layer * 2 + v.toNat) * 16 + pos) * poolHkv w + head) * poolVec w

/-- The place of a byte of a block. -/
def KvBlock.place (b : KvBlock) (off : Nat) : PAddr := (pagePlace b.home ((b.pages[off / 65536]?).getD 0)).plus (off % 65536)

/-- The key of a full block. -/
def blockKey (salt : BitVec 256) (prev : BitVec 128) (ids : List W32) : BitVec 128 :=
  BitVec.ofNat 128 (leNat (shake256 (leBytes 32 salt.toNat ++ leBytes 16 prev.toNat ++ ids.flatMap fun i => leBytes 4 i.toNat) 16))

def KvBlock.full (b : KvBlock) : Bool := b.ids.length == 16
/-- Full, and written in every layer at all 16 positions. -/
def KvBlock.isSealed (b : KvBlock) (layers : Nat) : Bool :=
  b.full && (List.range layers).all fun l => (List.range 16).all fun p => b.written.contains (l, p)

/-- The tagged block of a key. -/
def Chiplet.tag (k : Chiplet) (part : BitVec 5) (pool : BitVec 6) (key : BitVec 128) : Option KvBlock :=
  k.blocks.find? fun b => b.tagged && b.part == part && b.pool == pool && b.key == some key

/-- A written bit is set; a block that is then sealed enters the tag table unless its key is there. -/
def Chiplet.setWritten (k : Chiplet) (id layer pos : Nat) : Chiplet :=
  let k1 := k.modBlock id fun b => if b.written.contains (layer, pos) then b else { b with written := (layer, pos) :: b.written }
  match k1.block id with
  | none => k1
  | some b =>
    match b.key with
    | none => k1
    | some key =>
      if !b.tagged && b.isSealed (poolLayers (k.pool b.pool)) && (k1.tag b.part b.pool key).isNone
      then k1.modBlock id fun b => { b with tagged := true } else k1

/-- A reference to a block ends (R367, R380). -/
def State.dropRef (s : State) (k : Fin 2) (id : Nat) : State :=
  match (s.chiplet k).block id with
  | none => s
  | some b =>
    if 1 < b.refs then s.modChiplet k fun c => c.modBlock id fun b => { b with refs := b.refs - 1 }
    else if b.tagged then s.newId.modChiplet k fun c => c.modBlock id fun b => { b with refs := 0, released := s.ids }
    else s.freeBlock k b

/-- A reference to each block begins. -/
def Chiplet.addRefs (k : Chiplet) (ids : List Nat) : Chiplet :=
  ids.foldl (fun c i => c.modBlock i fun b => { b with refs := b.refs + 1 }) k

/-! ### Sequences (R366) -/

/-- The chiplet that a handle names. -/
def hdlChip (h : Word) : Fin 2 := if h.getLsbD 61 then 1 else 0
/-- A sequence handle. -/
def seqHandle (k : Fin 2) (q : KvSeq) : Word :=
  BitVec.ofNat 64 (2 ^ 62 + k.val * 2 ^ 61 + q.part.toNat * 2 ^ 56 + q.pool.toNat * 2 ^ 50 + q.gen.toNat * 2 ^ 24 + q.index)
/-- A block handle. -/
def blockHandle (k : Fin 2) (b : KvBlock) (pos : Nat) : Word :=
  BitVec.ofNat 64 (2 ^ 63 + k.val * 2 ^ 61 + b.part.toNat * 2 ^ 56 + b.pool.toNat * 2 ^ 50 + b.home.val * 2 ^ 49
    + b.pages.headD 0 * 2 ^ 20 + pos)

/-- The live sequence of a partition that a handle names, in an enabled pool of the partition; none for a stale handle (R366,
R375). -/
def State.seqOf (s : State) (part : BitVec 5) (h : Word) : Option KvSeq :=
  let k := s.chiplet (hdlChip h)
  if wbits h 63 62 != 1 || wbits h 60 56 != part.toNat then none
  else (k.seqs.find? fun q => seqHandle (hdlChip h) q == h && q.live).bind fun q => if k.owns q.pool part then some q else none

def Chiplet.modSeq (k : Chiplet) (i : Nat) (f : KvSeq → KvSeq) : Chiplet :=
  { k with seqs := k.seqs.map fun q => if q.index == i then f q else q }

/-- A free entry of the sequence table: its number and generation. -/
def Chiplet.freeEntry (k : Chiplet) : Option (Nat × BitVec 26) :=
  match k.seqs.find? fun q => !q.live with
  | some q => some (q.index, q.gen)
  | none => if k.seqs.length < 1048576 then some (k.seqs.length, 0) else none

/-- A new sequence takes an entry. -/
def Chiplet.addSeq (k : Chiplet) (q : KvSeq) : Chiplet :=
  if q.index < k.seqs.length then k.modSeq q.index fun _ => q else { k with seqs := k.seqs ++ [q] }

/-- The salt of a partition. -/
def Chiplet.saltOf (k : Chiplet) (part : BitVec 5) : BitVec 256 := k.salt.get (ix32 part)

/-- One token ID is appended to a sequence, from a supply of empty blocks; a block that becomes full gets its key (R377). -/
def Chiplet.appendId (x : Chiplet × List KvBlock) (i : Nat) (id : W32) : Chiplet × List KvBlock :=
  match x.1.seqs.find? fun q => q.index == i with
  | none => x
  | some q =>
    let (k, rest) : Chiplet × List KvBlock :=
      if q.t % 16 != 0 then x
      else match x.2 with
        | [] => x
        | b :: r => (({ x.1 with blocks := x.1.blocks ++ [b] } : Chiplet).modSeq i fun q => { q with blocks := q.blocks ++ [b.id] }, r)
    let bid := match k.seqs.find? fun q => q.index == i with | some q => (q.blocks[q.t / 16]?).getD 0 | none => 0
    let prev := if q.t < 16 then (0 : BitVec 128)
      else (((q.blocks[q.t / 16 - 1]?).bind k.block).bind (·.key)).getD 0
    let k1 := (k.modBlock bid fun b =>
      let ids := b.ids ++ [id]
      { b with ids := ids, key := if ids.length = 16 then some (blockKey (k.saltOf b.part) prev ids) else b.key }).modSeq i
        fun q => { q with t := q.t + 1 }
    (k1, rest)

/-! ### kvapp (R377) -/

/-- A token record: its IDs, none when it breaks R377. -/
def tokenIds (b : List Byte) : Option (List W32) :=
  let n := fld b 0x40 1
  if n = 0 || decide (16 < n) || !zeroBytes b 0x41 63 then none
  else some ((List.range n).map fun i => BitVec.ofNat 32 (fld b (4 * i) 4))

/-- Blocks needed for n more positions after T. -/
def blocksNeeded (t n : Nat) : Nat := (t + n + 15) / 16 - (t + 15) / 16

/-- IDs enter a sequence; the answer is the handle of the block that holds the last one. -/
def State.append (s : State) (k : Fin 2) (q : KvSeq) (fresh : List KvBlock) (ids : List W32) : State × Word :=
  let k1 := (ids.foldl (fun x i => Chiplet.appendId x q.index i) (s.chiplet k, fresh)).1
  let h := match k1.seqs.find? fun x => x.index == q.index with
    | none => 0
    | some q1 => match ((q1.blocks[(q1.t - 1) / 16]?).bind k1.block) with
      | none => 0
      | some b => blockHandle k b ((q1.t - 1) % 16)
  (s.modChiplet k fun _ => k1, h)

/-- kvapp. -/
def execKvapp (x a b : Reg) (s : State) : Out State :=
  s.issue [a, b] [x] false fun t =>
    t.withRecord (t.reg b) 64 128 false fun ps =>
      t.readRecord (t.reg b) ps fun u r =>
        let h := t.reg a
        match u.seqOf u.myPart h with
        | none => u.trapAnswer cPROTECT h
        | some q =>
          match tokenIds r with
          | none => u.trapAnswerFree cFORMAT
          | some ids =>
            match u.takeBlocks (hdlChip h) q.pool (blocksNeeded q.t ids.length) with
            | none => u.trapAnswer cKVEMPTY 0
            | some (v, fresh) =>
              let y := v.append (hdlChip h) q fresh ids
              y.1.answered (some (x, y.2))

/-! ### kvlook (R378, R401) -/

/-- The longest run of tagged blocks along the chain of keys. -/
def Chiplet.matches (k : Chiplet) (part : BitVec 5) (pool : BitVec 6) (r : List Byte) : Nat → Nat → BitVec 128 → List Nat
  | 0, _, _ => []
  | n + 1, i, prev =>
    let key := blockKey (k.saltOf part) prev ((List.range 16).map fun j => BitVec.ofNat 32 (fld r (64 * i + 4 * j) 4))
    match k.tag part pool key with
    | none => []
    | some b => b.id :: k.matches part pool r n (i + 1) key

/-- The chiplet on which kvlook creates a sequence. -/
def State.poolChip (s : State) (part : BitVec 5) (p : BitVec 6) : Option (Fin 2) :=
  if (s.chiplet 0).owns p part then some 0 else if (s.chiplet 1).owns p part then some 1 else none

/-- A sequence starts with a list of blocks. -/
def State.startSeq (s : State) (k : Fin 2) (part : BitVec 5) (pool : BitVec 6) (e : Nat × BitVec 26) (blocks : List Nat) (t : Nat) :
    State × Word :=
  let q : KvSeq := { index := e.1, gen := e.2, live := true, part := part, pool := pool, t := t, blocks := blocks }
  (s.modChiplet k fun c => c.addSeq q, seqHandle k q)

/-- kvlook. The prefix record is checked over 32 bytes with write permission, because the chiplet writes HANDLE. -/
def execKvlook (x a b : Reg) (s : State) : Out State :=
  s.issue [a, b] [x] false fun t =>
    t.withRecord (t.reg a) 64 32 true fun ps =>
      t.readRecord (t.reg a) ps fun u r =>
        let n := (t.reg b).toNat
        if fld64 r 8 >>> 6 != 0 || decide (65536 < n) then u.trapAnswerFree cFORMAT
        else
          let p := (fld64 r 8).setWidth 6
          match u.poolChip u.myPart p with
          | none => u.trapAnswer cPROTECT (t.reg a)
          | some k =>
            let ia := fld64 r 0x10
            if ia.toNat % 4 != 0 then u.trapAccess u.cur cMISALIGNED ia false
            else match u.places u.cur false 4 (16 * n) ia with
            | .error (e, y) => u.trapAccess u.cur e y false
            | .ok ip =>
              if ip.any u.parkedBlock then u
              else match u.loadPieces u.cur 4 ip with
              | (v, .error pa) =>
                (v.newId.commandFault u.cur u.ids u.pc cUNCORR (t.reg a) (ia + BitVec.ofNat 64 (4 * ip.idxOf pa))
                  (u.synd pa 4) (u.uncorrDetail pa 4)).answered none
              | (v, .ok ids) =>
                match (v.chiplet k).freeEntry with
                | none => v.trapAnswer cKVEMPTY 1
                | some e =>
                  let m := (v.chiplet k).matches v.myPart p ids n 0 0
                  let y := (v.modChiplet k fun c => c.addRefs m).startSeq k v.myPart p e m (16 * m.length)
                  (y.1.storeOrPark v.cur (pieceAt ps 0) (t.reg a) v.pc (leBytes 8 y.2.toNat)).answered (some (x, BitVec.ofNat 64 m.length))

/-! ### kvfork and kvrel (R379, R380) -/

/-- The bytes of a page take those of another. The errors that the read meets are logged, an uncorrectable one stays with its word, and
the first codeword written takes an armed injection (R309, R365, R383). -/
def State.copyPage (s : State) (src dst : PAddr) : State :=
  let ms := s.marksAt src 65536
  let s1 := s.logMarks s.cur s.myPart src ms
  let clean := s.mem.filter fun x => decide (x.1 < dst.key) || decide (dst.key + 65536 ≤ x.1)
  let moved := s.mem.filter fun x => decide (src.key ≤ x.1) && decide (x.1 < src.key + 65536)
  let here (m : EccMark) : Bool := decide (dst.key / 8 ≤ m.word) && decide (m.word < dst.key / 8 + 8192)
  let s2 : State :=
    { s1 with mem := moved.foldl (fun m x => memSet m (dst.key + (x.1 - src.key)) x.2) clean, ecc := s1.ecc.filter fun m => !here m }
  let s3 := s2.store s.myPart dst (s.bytesAt src 8)
  { s3 with ecc := ((ms.filter (·.two)).map fun m => { m with word := dst.key / 8 + (m.word - src.key / 8) }) ++ s3.ecc }

/-- A block takes the content of another: IDs, key, written bits and bytes. -/
def State.copyBlock (s : State) (old new : KvBlock) : State × KvBlock :=
  ((old.pages.zip new.pages).foldl (fun t x => t.copyPage (pagePlace old.home x.1) (pagePlace new.home x.2)) s,
   { new with ids := old.ids, key := old.key, written := old.written })

/-- Blocks of a fork: sealed ones are shared, the others copied into the supply in order. -/
def State.forkBlocks (s : State) (k : Fin 2) (layers : Nat) : List Nat → List KvBlock → State × List Nat
  | [], _ => (s, [])
  | id :: rest, supply =>
    match (s.chiplet k).block id with
    | none => s.forkBlocks k layers rest supply
    | some b =>
      if b.isSealed layers then
        let y := (s.modChiplet k fun c => c.addRefs [id]).forkBlocks k layers rest supply
        (y.1, id :: y.2)
      else match supply with
        | [] => s.forkBlocks k layers rest []
        | n :: more =>
          let z := s.copyBlock b n
          let y := (z.1.modChiplet k fun c => { c with blocks := c.blocks ++ [z.2] }).forkBlocks k layers rest more
          (y.1, n.id :: y.2)

/-- kvfork. -/
def execKvfork (x a b : Reg) (s : State) : Out State :=
  s.issue [a, b] [x] false fun t =>
    let h := t.reg a
    let k := hdlChip h
    match t.seqOf t.myPart h with
    | none => t.trapAnswer cPROTECT h
    | some q =>
      let n := (t.reg b).toNat
      if q.blocks.length < n then t.trapAnswerFree cFORMAT
      else
        let c := t.chiplet k
        let layers := poolLayers (c.pool q.pool)
        let bs := q.blocks.take n
        let copies := (bs.filter fun i => match c.block i with | some b => !b.isSealed layers | none => false).length
        match c.freeEntry with
        | none => t.trapAnswer cKVEMPTY 1
        | some e =>
          match t.takeBlocks k q.pool copies with
          | none => t.trapAnswer cKVEMPTY 0
          | some (u, supply) =>
            let y := u.forkBlocks k layers bs supply
            let z := y.1.startSeq k t.myPart q.pool e y.2 (if n = q.blocks.length then q.t else 16 * n)
            z.1.answered (some (x, z.2))

/-- A sequence is released. -/
def State.releaseSeq (s : State) (k : Fin 2) (q : KvSeq) : State :=
  q.blocks.foldl (fun t i => t.dropRef k i)
    (s.modChiplet k fun c => c.modSeq q.index fun q => { q with live := false, gen := q.gen + 1, blocks := [], t := 0 })

/-- kvrel. -/
def execKvrel (a : Reg) (s : State) : Out State :=
  s.issue [a] [] false fun t =>
    match t.seqOf t.myPart (t.reg a) with
    | none => t.trapAnswer cPROTECT (t.reg a)
    | some q => (t.releaseSeq (hdlChip (t.reg a)) q).answered none

/-! ### ringset and kvpool (R381, R382) -/

/-- The entries of a ring record. -/
def ringEntries (n : Nat) (b : List Byte) : List RingEntry :=
  (List.range n).map fun i =>
    let w := fld b (16 + 16 * i) 4
    { ep := BitVec.ofNat 20 w, chip := w.testBit 20, skip := w.testBit 31, blk0 := fld b (24 + 16 * i) 4, nblk := fld b (28 + 16 * i) 4 }

/-- Ranges that share no block. -/
def disjointRanges : List RingEntry → Bool
  | [] => true
  | x :: t => t.all (fun y => x.nblk == 0 || y.nblk == 0 || decide (x.blk0 + x.nblk ≤ y.blk0) || decide (y.blk0 + y.nblk ≤ x.blk0))
      && disjointRanges t

/-- A ring is installed on a chiplet. -/
def Chiplet.setRing (k : Chiplet) (r : BitVec 8) (l : List RingEntry) : Chiplet :=
  { k with rings := (r, l) :: k.rings.filter fun x => x.1 != r }

/-- The ring of a number; empty when none is installed. -/
def Chiplet.ring (k : Chiplet) (r : Nat) : List RingEntry := ((k.rings.find? fun x => x.1.toNat == r).map (·.2)).getD []

/-- A chiplet number of a record. -/
def chipOf (n : Nat) : Fin 2 := if n % 2 = 1 then 1 else 0

/-- ringset. -/
def execRingset (a : Reg) (r : BitVec 8) (s : State) : Out State :=
  s.privileged fun s => s.issue [a] [] false fun t =>
    let addr := t.reg a
    t.withRecord addr 64 16 false fun ps =>
      t.readRecord addr ps fun u b =>
        let n := fld b 2 2
        if n = 0 || decide (64 < n) then u.trapAnswerFree cFORMAT
        else u.withRecord addr 64 (16 + 16 * n) false fun ps =>
          u.readRecord addr ps fun v b =>
            let l := ringEntries n b
            if disjointRanges (l.filter fun e => !e.skip) then
              (v.modChiplet (chipOf (fld b 0 1)) fun c => c.setRing r l).answered none
            else v.trapAnswerFree cFORMAT

/-- Free pages pass from one pool to another. -/
def Chiplet.movePages (k : Chiplet) (src dst : BitVec 6) (n : Nat) : Chiplet :=
  let l := (k.free.filter fun x => x.1 == src).take n
  { k with free := (k.free.filter fun x => !l.contains x) ++ l.map fun x => (dst, x.2) }

/-- kvpool. -/
def execKvpool (a : Reg) (s : State) : Out State :=
  s.privileged fun s => s.issue [a] [] false fun t =>
    t.withRecord (t.reg a) 32 32 true fun ps =>
      t.readRecord (t.reg a) ps fun u b =>
        let k := chipOf (fld b 0 1)
        let src := BitVec.ofNat 6 (fld b 1 1)
        let dst := BitVec.ofNat 6 (fld b 2 1)
        if 64 ≤ fld b 1 1 || decide (64 ≤ fld b 2 1) then u.trapAnswerFree cFORMAT
        else if !(u.chiplet k).owns src u.myPart || !(u.chiplet k).owns dst u.myPart then u.trapAnswer cPROTECT (t.reg a)
        else
          let n := min (fld b 4 4) ((u.chiplet k).freeCount src)
          ((u.modChiplet k fun c => c.movePages src dst n).storeOrPark u.cur (pieceAt ps 8) (t.reg a + 8) u.pc (leBytes 8 n)).answered none

/-! ### KVPOOL (R364) and KVINJ (R365) -/

/-- The pages that a pool holds by number, before any has been given away (entry 33). -/
def poolShare (p : BitVec 6) (hbm : Bool) : List Nat :=
  if hbm then (List.range 48128).map fun i => 8192 + p.toNat * 48128 + i else (List.range 128).map fun i => p.toNat * 128 + i

/-- A page of a chiplet is on a list or in a block. -/
def State.pageUsed (s : State) (k : Fin 2) (g : Nat) : Bool :=
  s.chiplets.toList.any fun c => (c.free.any fun x => x.2.1 == k && x.2.2 == g) || (c.blocks.any fun b => b.home == k && b.pages.contains g)

/-- KVPOOL_WRITE: ignored while the pool holds a live sequence or for a reserved code; else the cached blocks go, a block that a call
still reads loses its tag and its key, and an enabled pool holds the pages of its share that are nowhere else (R364; entry 33). -/
def execKvpoolWrite (ch : Fin 2) (p : BitVec 6) (v : Word) (s : State) : Out State :=
  .next <|
    let c := s.chiplet ch
    if (c.seqs.any fun q => q.live && q.pool == p) || wbits v 56 55 == 3 || wbits v 54 53 == 3 then s
    else
      let s1 := (c.blocks.filter fun b => b.pool == p && b.refs == 0).foldl (fun t b => t.freeBlock ch b) s
      let s2 := s1.modChiplet ch fun c =>
        { c with kvpool := vmod c.kvpool (ix64 p) fun _ => v &&& 0xFFFFFF8000000000
                 blocks := c.blocks.map fun b => if b.pool == p then { b with tagged := false, key := none } else b }
      if poolEn v then s2.pushPages p ch ((poolShare p (poolHbm v)).filter fun g => !s2.pageUsed ch g) else s2

/-- KVINJ_WRITE. -/
def execKvinjWrite (ch : Fin 2) (v : Word) (s : State) : Out State := .next <| s.modChiplet ch fun k => { k with kvinj := injFields v }

/-! ### The record of a call (R371, R372) -/

def Call.flag (c : Call) (i : Nat) : Bool := (fld c.bytes 0 2).testBit i
def Call.scap (c : Call) : Bool := c.flag 0
def Call.kvin (c : Call) : Bool := c.flag 1
def Call.lse (c : Call) : Bool := c.flag 2
def Call.o16 (c : Call) : Bool := c.flag 3
def Call.bias (c : Call) : Bool := c.flag 4
def Call.masked (c : Call) : Bool := c.flag 5
def Call.ringed (c : Call) : Bool := c.flag 6
def Call.hq (c : Call) : Nat := fld c.bytes 6 1
def Call.nq (c : Call) : Nat := fld c.bytes 0x10 4
def Call.qpos0 (c : Call) : Nat := fld c.bytes 0x14 4
def Call.nk (c : Call) : Nat := fld c.bytes 0x18 4
def Call.nnew (c : Call) : Nat := fld c.bytes 0x1C 2
def Call.layer (c : Call) : Nat := fld c.bytes 0x1F 1
def Call.biasa (c : Call) : Word := fld64 c.bytes 0x28
def Call.ctra (c : Call) : Word := fld64 c.bytes 0x40
/-- The chiplet of the call's port (R363). -/
def Call.chip (c : Call) : Fin 2 := if c.port == 18 then 0 else 1
/-- Destination of the results. -/
def Call.dest (c : Call) : CpId :=
  ⟨⟨bits (fld c.bytes 4 2) 7 0, by unfold bits; omega⟩, if (fld c.bytes 4 2).testBit 8 then 1 else 0⟩
/-- Tokens of a vector, of the new keys and values, of a query row, and of the call. -/
def Call.vecToks (c : Call) : Nat := poolVec c.pool / 32
def Call.kvToks (c : Call) : Nat := if c.kvin then c.nnew * poolHkv c.pool * 2 * c.vecToks else 0
def Call.rowToks (c : Call) : Nat := c.hq * c.vecToks
def Call.need (c : Call) : Nat := c.kvToks + c.nq * c.rowToks

/-- Every input token of the call has been taken (R372). -/
def Call.isFed (c : Call) : Bool := decide (c.need ≤ c.taken)

end Sys2Proof.Machine
end

