-- ==== Sys2Proof/Machine/Attention.lean ====
section
/-! DEFINITION. Attention calls: their arithmetic, admission, input, rows, results and completion, ring members, and mstat (R370 to
R376, R381, R392 to R399, R402). -/
namespace Sys2Proof.Machine

/-! ### Key tiles and documents (R370, R381) -/

/-- The key positions of a ring's entry (R381). -/
def Call.span (c : Call) (e : RingEntry) : Nat × Nat :=
  if e.skip then (0, 0) else (min c.nk (16 * e.blk0), min c.nk (16 * (e.blk0 + e.nblk)))

/-- The key positions that the calling chiplet computes over: its ring range, or all below NK (R381). -/
def Call.range (c : Call) : Nat × Nat :=
  if !c.ringed then (0, c.nk)
  else match c.ring with
  | [] => (0, 0)
  | e :: _ => c.span e

/-- The key tiles of a range: first and last position of each (R370, R398). -/
def tilesOf (lo hi : Nat) : List (Nat × Nat) :=
  if hi ≤ lo then []
  else (List.range ((hi - 1) / 128 + 1 - lo / 128)).map fun i =>
    let t := lo / 128 + i
    (max lo (128 * t), min (hi - 1) (128 * t + 127))

/-- The key tiles that the calling chiplet computes. -/
def Call.tiles (c : Call) : List (Nat × Nat) := tilesOf c.range.1 c.range.2

/-- The key tiles that the call counts: in a ring those of every member, each clipped to its range (R398). -/
def Call.counted (c : Call) : List (Nat × Nat) :=
  if c.ringed then c.ring.flatMap fun e => tilesOf (c.span e).1 (c.span e).2 else c.tiles

/-- The documents of the call. -/
def Call.docs (c : Call) : Docs := ⟨c.docq, c.dock⟩

/-- The class of a tile of query tile u (R389, R392). -/
def Call.tileClass (c : Call) (u : Nat) (k : Nat × Nat) : Tri :=
  match c.mask with
  | some p =>
    if c.masked then
      p.classOf c.docs ⟨c.qpos0 + 128 * u, c.qpos0 + min (128 * u + 127) (c.nq - 1), k.1, k.2⟩
    else .t
  | none => .t

/-! ### Arithmetic (R370, R381) -/

/-- The format of K, V and queries. -/
def poolFloat (w : Word) : Fmt :=
  match poolFmt w with
  | 0 => bf16
  | 1 => e4m3
  | _ => e5m2

/-- The values of a vector's bytes. -/
def vecValues (w : Word) (b : List Byte) : List XVal :=
  (List.range (poolD w)).map fun i => (poolFloat w).exact (fld b (i * poolB w) (poolB w))

/-- m, l and o of one query row and head. -/
structure AttnAcc where
  m : XVal
  l : XVal
  o : List XVal
  deriving DecidableEq, Repr, Inhabited

def AttnAcc.start (d : Nat) : AttnAcc := ⟨.inf true, .pzero, List.replicate d .pzero⟩

/-- 2^((x − y) × L2E), each step rounded as R370 writes it. -/
def expDiff (x y : XVal) : XVal := exp2FP32 (rfp32 ((XVal.sumExact false [x, y.neg]).mul cL2E))

/-- The exact sum of products, rounded. -/
def dotFP32 (a b : List XVal) : XVal := rfp32 (XVal.sumExact false (List.zipWith XVal.mul a b))

/-- One tile of R370, from its scores and value vectors. -/
def AttnAcc.tile (a : AttnAcc) (f : Fmt) (ss : List XVal) (vs : List (List XVal)) : AttnAcc :=
  let mn := ss.foldl xmax a.m
  if mn = .inf true then a
  else
    let r := expDiff a.m mn
    let p := ss.map fun x => expDiff x mn
    let pf := p.map fun x => f.exact (f.rne x)
    { m := mn
      l := addFP32 (mulFP32 r a.l) (rfp32 (XVal.sumExact false p))
      o := a.o.mapIdx fun d x => addFP32 (mulFP32 r x) (dotFP32 pf (vs.map fun v => (v[d]?).getD .pzero)) }

/-- Two members of a ring are merged (R381). -/
def AttnAcc.merge (a b : AttnAcc) : AttnAcc :=
  let mn := xmax a.m b.m
  if mn = .inf true then a
  else
    let x := expDiff a.m mn
    let y := expDiff b.m mn
    { m := mn, l := addFP32 (mulFP32 x a.l) (mulFP32 y b.l), o := List.zipWith (fun p q => addFP32 (mulFP32 x p) (mulFP32 y q)) a.o b.o }

/-- The output codes. -/
def AttnAcc.out (a : AttnAcc) (o16 : Bool) : List Nat :=
  a.o.map fun x => if a.l.isZero then 0 else ((if o16 then bf16 else fp32).roundDiv .rne 0 x a.l).code

/-- The log-sum-exp code. -/
def AttnAcc.lseCode (a : AttnAcc) : Nat :=
  if a.l.isZero then roundFP32 (.inf true) else roundFP32 (XVal.sumExact false [a.m, mulFP32 (log2FP32 a.l) cLN2])

/-! ### Reading what a call uses -/

/-- The calling slot still holds the call's task, which may have retired or stopped since. -/
def State.callHere (s : State) (c : Call) : Bool :=
  let t := s.slot c.caller
  t.wid == c.wid && t.part == c.part && t.status != 0

/-- The place of an address as the call's chiplet reaches it: near addresses are those of the calling slot. -/
def State.callPlace (s : State) (c : Call) (a : Word) (n : Nat) (write : Bool) : Except (BitVec 8) PAddr :=
  if classOf a = .far then s.translate c.part a write
  else if s.callHere c then s.nearPlace c.caller a n else .error cPAGE

/-- A byte of the call's bias; what a peer's memory holds is free (entry 18). -/
def State.biasByte (s : State) (c : Call) (a : Word) : Byte :=
  match s.callPlace c a 1 false with
  | .ok pa => (match pa.space with | .peer ep => Config.garbledByte (2 ^ 64 + ep.toNat) pa.off | _ => s.byteAt pa)
  | .error _ => 0

/-- Bytes of a bias row. -/
def biasStride (nk : Nat) : Nat := (2 * nk + 31) / 32 * 32

/-- The bias of a pair. -/
def State.biasAt (s : State) (c : Call) (i j : Nat) : XVal :=
  let a := c.biasa + BitVec.ofNat 64 (i * biasStride c.nk + 2 * j)
  bf16.exact (leNat [s.biasByte c a, s.biasByte c (a + 1)])

/-- The block of a position. -/
def State.callBlock (s : State) (c : Call) (j : Nat) : KvBlock :=
  (((c.blocks[j / 16]?).bind (s.chiplet c.chip).block)).getD default

/-- The place of K or V of a position and head. -/
def State.kvPlace (s : State) (c : Call) (v : Bool) (j head : Nat) : PAddr :=
  (s.callBlock c j).place (vecOffset c.pool c.layer v (j % 16) head)

/-- K or V of a position and head. -/
def State.kvVec (s : State) (c : Call) (v : Bool) (j head : Nat) : List XVal :=
  vecValues c.pool (s.bytesAt (s.kvPlace c v j head) (poolVec c.pool))

/-- The score of a pair. -/
def State.score (s : State) (c : Call) (partialTile : Bool) (q : List XVal) (i j head : Nat) : XVal :=
  let allowed := !partialTile || (match c.mask with | some p => p.allows c.docs (c.qpos0 + i) j | none => true)
  if !allowed then .inf true
  else
    let x := mulFP32 (dotFP32 q (s.kvVec c false j head)) (fp32.exact (fld c.bytes 0x20 4))
    let cap := fp32.exact (fld c.bytes 0x24 4)
    let y := if c.scap then mulFP32 cap (actValue 2 (divFP32 x cap)) else x
    if c.bias then addFP32 y (s.biasAt c i j) else y

/-- m, l and o of row i and a query head, over the chiplet's own range. -/
def State.rowHead (s : State) (c : Call) (i : Nat) (toks : List W256) (h : Nat) : AttnAcc :=
  let w := c.pool
  let g := h / (c.hq / poolHkv w)
  let q := vecValues w (((toks.drop (h * c.vecToks)).take c.vecToks).flatMap fun x => leBytes 32 x.toNat)
  c.tiles.foldl (fun a k =>
    match c.tileClass (i / 128) k with
    | .f => a
    | cls =>
      let js := (List.range (k.2 + 1 - k.1)).map (· + k.1)
      a.tile (poolFloat w) (js.map fun j => s.score c (cls == .u) q i j g) (js.map fun j => s.kvVec c true j g)) (AttnAcc.start (poolD w))

/-- The members of the call's ring other than the caller, in entry order. -/
def Call.members (c : Call) : List Nat :=
  (List.range c.ring.length).filter fun n => n != 0 && match c.ring[n]? with | some e => !e.skip | none => false

/-- The members' parts are merged in entry order. -/
def Call.mergeRing (c : Call) (i h : Nat) (a : AttnAcc) : AttnAcc :=
  if !c.ringed then a
  else c.members.foldl (fun x n =>
    match ((c.parts.find? fun y => y.1 == n).bind fun y => y.2[i * c.hq + h]?) with
    | some p => x.merge ⟨fp32.exact p.m.toNat, fp32.exact p.l.toNat, p.o.map fun v => fp32.exact v.toNat⟩
    | none => x) a

/-! ### Results (R372) -/

/-- Codes of a width as 256-bit words; missing lanes are zero. -/
def wordsOf (w : Nat) (codes : List Nat) : List W256 :=
  let n := 256 / w
  (List.range ((codes.length + n - 1) / n)).map fun i => BitVec.ofNat 256 (packNat w ((codes.drop (i * n)).take n))

/-- The tokens of a row. -/
def Call.rowTokens (c : Call) (i : Nat) (accs : List AttnAcc) : List Tok :=
  let l := accs.flatMap (fun a => wordsOf (if c.o16 then 16 else 32) (a.out c.o16)) ++
    (if c.lse then wordsOf 32 (accs.map AttnAcc.lseCode) else [])
  l.mapIdx fun n x => ⟨x, n + 1 == l.length, n + 1 == l.length && i + 1 == c.nq, false⟩

/-- Result tokens of a call not yet in a tap queue. -/
def State.waitingResults (s : State) (c : Call) : Nat :=
  ((s.core c.dest.core).ring.filter fun t => t.inbound && t.port == c.port && t.slot == c.dest.slot && t.order == c.id).length

/-- Result tokens leave for their destination. -/
def State.sendResults (s : State) (c : Call) (l : List Tok) : State :=
  l.foldl (fun u x =>
    let t : RingTok :=
      { id := u.ids, slot := c.dest.slot, port := c.port, inbound := true, tok := x, addr := default, va := 0, pos := .far, timed := false
        order := c.id, lane := 0, cw := true, station := 0, hops := 0, region := 0, elem := 0, tap := 0, takeSeq := 0 }
    u.newId.modCore c.dest.core fun k => { k with ring := k.ring ++ [t] }) s

/-! ### Calls of a chiplet -/

def State.modCall (s : State) (c : Call) (f : Call → Call) : State :=
  s.modChiplet c.chip fun k => { k with calls := k.calls.map fun x => if x.id == c.id then f x else x }
/-- The calls of a slot and port in admission order. One that waits for input of a task that has left the slot stands behind the others. -/
def State.callsOf (s : State) (c : CpId) (p : BitVec 5) : List Call :=
  let l := (s.chiplet (if p == 18 then 0 else 1)).calls.filter fun x => x.caller == c && x.port == p
  let stale (x : Call) : Bool := !s.callHere x && !x.isFed
  l.filter (fun x => !stale x) ++ l.filter stale

/-- A field of the record is written, where it can still be reached. -/
def State.callWrite (s : State) (c : Call) (off : Nat) (v : Word) : State :=
  match s.callPlace c (c.recAddr + BitVec.ofNat 64 off) 8 true with
  | .ok pa =>
    if !pa.space.package then s
    else if s.callHere c then s.storeOrPark c.caller pa (c.recAddr + BitVec.ofNat 64 off) c.pc (leBytes 8 v.toNat)
    else s.store c.part pa (leBytes 8 v.toNat)
  | .error _ => s

/-- Results of a call that have not been delivered are gone. -/
def State.dropResults (s : State) (c : Call) : State :=
  (s.modCall c fun x => { x with out := [] }).modCore c.dest.core fun k =>
    { k with ring := k.ring.filter fun t => !(t.inbound && t.port == c.port && t.slot == c.dest.slot && t.order == c.id) }

/-- The call's references end. -/
def State.dropBlocks (s : State) (c : Call) : State := c.blocks.foldl (fun t i => t.dropRef c.chip i) s

/-- A failed call's report waits at its chiplet until its record has entered the core's queue (R303, R376). -/
def State.settleCall (s : State) (c : Call) : State :=
  match c.report with
  | none => s
  | some r => if s.recWaits c.caller.core (.job r.order) then s else s.modCall c fun x => { x with report := none }

/-- A call's failure is reported; the task, while it runs on, takes the deferred trap (R344, R376). -/
def State.reportCall (s : State) (c : Call) (r : Report) : State :=
  if s.callHere c && (s.slot c.caller).status != 0x03 then s.commandFault c.caller r.order r.pc r.cause r.tval r.vaddr r.synd r.detail
  else s.queueRec c.caller.core (.job r.order) { s.slotRec c.caller r.cause 0x03 none with
    part := c.part, wid := c.wid, vaddr := r.vaddr, pc := r.pc, synd := r.synd, detail := r.detail }

/-- A call ends with a failure (R376): RESULT, no further result token, and a report, which waits at the chiplet for the record queue. -/
def State.callFail (s : State) (c : Call) (e : BitVec 8 × Word × Word × Word) : State :=
  let (cause, va, synd, detail) := e
  let rep : Report := ⟨cause, c.order, c.pc, c.recAddr, va, synd, detail⟩
  let s1 := (((s.callWrite c 0x58 (BitVec.ofNat 64 (2 + 256 * cause.toNat))).dropBlocks c).dropResults c).modCall c fun x =>
    { x with failed := true, blocks := [], input := [], report := some rep }
  (s1.reportCall c rep).settleCall { c with report := some rep }

/-! ### Windows (R372, R402) -/

/-- A slot with an admitted call on a port has a window of 16 tokens from what has been accepted; one without has none. -/
def State.attnGrant (s : State) (c : CpId) (p : BitVec 5) : State :=
  let has := (s.callsOf c p).any s.callHere
  s.modPort c p fun q =>
    { q with chan := { q.chan with
        sendEnd := if has then max q.chan.sendEnd (q.chan.sendSeq - q.chan.kept.length + 16) else q.chan.sendSeq } }

/-! ### attn (R376) -/

/-- attn: what the record cannot pass at issue traps; else the call is admitted, with its blocks, program and ring. -/
def execAttn (a : Reg) (s : State) : Out State :=
  s.issue [a] [] false fun t =>
    let addr := t.reg a
    t.withRecord addr 64 128 true fun ps =>
      t.readRecord addr ps fun u b =>
        let p := BitVec.ofNat 5 (fld b 2 1)
        let h := fld64 b 8
        if fld b 2 1 != 18 && fld b 2 1 != 22 then u.trapFree u.cur cFORMAT
        else
          let k : Fin 2 := if p == 18 then 0 else 1
          match (if hdlChip h == k then u.seqOf u.myPart h else none) with
          | none => u.trapAnswer cPROTECT addr
          | some q =>
            if 64 ≤ (u.callsOf u.cur p).length then u
            else
              let x := u.chiplet k
              let call : Call :=
                { id := u.ids, caller := u.cur, part := u.myPart, wid := (u.slot u.cur).wid, order := u.ids, pc := u.pc, port := p
                  recAddr := addr, bytes := b, pool := x.pool q.pool, blocks := q.blocks, t := q.t
                  mask := if (fld b 0 2).testBit 5 then x.mask u.myPart (BitVec.ofNat 4 (fld b 3 1)) else none
                  ring := if (fld b 0 2).testBit 6 then x.ring (fld b 7 1) else []
                  started := false, failed := false, ctr := none, docq := [], dock := [], taken := 0, input := [], rowsDone := 0
                  out := [], report := none, counts := Vector.replicate 4 0, parts := [] }
              ((u.newId.modChiplet k fun c => { c.addRefs q.blocks with calls := c.calls ++ [call] }).attnGrant u.cur p).answered none

/-! ### The start of a call (R376, R394) -/

/-- The limits of R371. -/
def State.callFieldsOk (s : State) (c : Call) : Bool :=
  let b := c.bytes
  let cap := fp32.exact (fld b 0x24 4)
  decide (fld b 0 2 < 128) && (if c.masked then decide (fld b 3 1 < 16) else fld b 3 1 == 0) && decide (fld b 4 2 < 512) &&
  s.coreOfPart c.dest.core c.part && c.hq % poolHkv c.pool == 0 && decide (1 ≤ c.hq) && decide (c.hq ≤ 128) &&
  (c.ringed || fld b 7 1 == 0) && decide (1 ≤ c.nq) && decide (c.nq ≤ 65536) && decide (1 ≤ c.nk) && decide (c.nk ≤ c.t) &&
  (if c.kvin then decide (1 ≤ c.nnew) && decide (c.nnew ≤ 4096) && decide (c.nnew ≤ c.nk) else c.nnew == 0) &&
  decide (fld b 0x1E 1 ≤ 4) && decide (c.layer < poolLayers c.pool) && (!c.scap || (cap.isFinite && !cap.isZero && !cap.sign)) &&
  (c.bias || c.biasa == 0) && zeroBytes b 0x50 8 && (!c.masked || c.mask.isSome)

/-- Every key position is written for the layer or new, and no new one is written (R376). -/
def State.callWritten (s : State) (c : Call) : Bool :=
  let has (j : Nat) : Bool := (s.callBlock c j).written.contains (c.layer, j % 16)
  let (lo, hi) := c.range
  let new := c.nk - c.nnew
  (List.range (hi - lo)).all (fun i => decide (new ≤ lo + i) || has (lo + i)) && (List.range c.nnew).all fun i => !has (new + i)

/-- The ring's entries cover the keys. -/
def Call.ringCovers (c : Call) : Bool :=
  !c.ringed || (!c.ring.isEmpty && (List.range ((c.nk + 15) / 16)).all fun i =>
    c.ring.any fun e => !e.skip && decide (e.blk0 ≤ i) && decide (i < e.blk0 + e.nblk))

/-- The cause of an address that a call cannot read: a missing translation is PAGE. -/
def pageCause (e : BitVec 8) : BitVec 8 := if e == cPROTECT then cPROTECT else cPAGE

/-- Places of n 8-byte pieces of a table. -/
def State.tablePlaces (s : State) (c : Call) : Nat → Word → Except (BitVec 8 × Word × Word × Word) (List PAddr)
  | 0, _ => .ok []
  | n + 1, a =>
    match s.callPlace c a 8 false with
    | .error e => .error (pageCause e, a, 0, if e == cPROTECT then 0 else pageDetail a false)
    | .ok pa =>
      if !pa.space.package then .error (cPAGE, a, 0, pageDetail a false)
      else match s.tablePlaces c n (a + 8) with
      | .ok l => .ok (pa :: l)
      | .error e => .error e

/-- A table's copy has an uncorrectable error: the chiplet's log takes it too (R383, R400). Where the copy stands is free (entry 34). -/
def State.tableError (s : State) (c : Call) (pa : PAddr) : State :=
  let m := s.badMark pa 8
  s.took.modChiplet c.chip fun k => { k with kvlog := k.kvlog.note s.ftime (s.freeWord.toNat % 2 ^ 48) m.two m.inj c.caller.slot c.part m.synd s.freeWord }

/-- A document-run table is read whole. -/
def State.readDocs (s : State) (c : Call) (a : Word) : State × Except (BitVec 8 × Word × Word × Word) (List (Nat × Nat)) :=
  if a == 0 then (s, .ok [(0, 0)])
  else if a.toNat % 64 != 0 then (s, .error (cFORMAT, c.recAddr, 0, 0))
  else match s.tablePlaces c 1 a with
  | .error e => (s, .error e)
  | .ok p0 =>
    match s.loadPieces c.caller 8 p0 with
    | (s1, .error pa) => (s1.tableError c pa, .error (cUNCORR, a, s.synd pa 8, s.uncorrDetail pa 8))
    | (s1, .ok b) =>
      let n := fld b 0 4
      if n = 0 || decide (65536 < n) then (s1, .error (cFORMAT, c.recAddr, 0, 0))
      else match s1.tablePlaces c (n + 1) a with
      | .error e => (s1, .error e)
      | .ok ps =>
        match s1.loadPieces c.caller 8 ps with
        | (s2, .error pa) => (s2.tableError c pa, .error (cUNCORR, a + BitVec.ofNat 64 (8 * ps.idxOf pa), s1.synd pa 8, s1.uncorrDetail pa 8))
        | (s2, .ok r) =>
          match docRuns n r with
          | some l => (s2, .ok l)
          | none => (s2, .error (cFORMAT, c.recAddr, 0, 0))

/-- The bias is reachable: tested once in every 64 KiB and at its last byte. -/
def State.biasReach (s : State) (c : Call) (len : Nat) : Nat → Nat → Option (BitVec 8 × Word × Word × Word)
  | 0, _ => none
  | n + 1, off =>
    let o := min off (len - 1)
    let a := c.biasa + BitVec.ofNat 64 o
    match s.callPlace c a 1 false with
    | .error e => some (pageCause e, a, 0, if e == cPROTECT then 0 else pageDetail a false)
    | .ok _ => if o + 1 = len then none else s.biasReach c len n (off + 65536)

/-- The completion counter's place. -/
def State.callCounter (s : State) (c : Call) : Except (BitVec 8 × Word × Word × Word) (Option PAddr) :=
  if c.ctra == 0 then .ok none
  else if c.ctra.toNat % 8 != 0 then .error (cMISALIGNED, c.ctra, 0, 0)
  else match s.callPlace c c.ctra 8 true with
  | .error e => .error (e, c.ctra, 0, if e == cPAGE then pageDetail c.ctra true else 0)
  | .ok pa => if pa.space.package then .ok (some pa) else .error (cADDRCLASS, c.ctra, 0, 0)

/-- The checks of a call's start: its documents and counter, or the failure. -/
def State.callCheck (s : State) (c : Call) :
    State × Except (BitVec 8 × Word × Word × Word) (List (Nat × Nat) × List (Nat × Nat) × Option PAddr) :=
  let format : BitVec 8 × Word × Word × Word := (cFORMAT, c.recAddr, 0, 0)
  if !s.callFieldsOk c || !s.callWritten c || !c.ringCovers then (s, .error format)
  else
    let reads := c.masked && (match c.mask with | some p => p.readsDocs | none => false)
    let (s1, dq) := if reads then s.readDocs c (fld64 c.bytes 0x30) else (s, .ok [(0, 0)])
    match dq with
    | .error e => (s1, .error e)
    | .ok q =>
      let (s2, dk) := if reads then s1.readDocs c (fld64 c.bytes 0x38) else (s1, .ok [(0, 0)])
      match dk with
      | .error e => (s2, .error e)
      | .ok k =>
        let len := c.nq * biasStride c.nk
        match (if c.bias then s2.biasReach c len (len / 65536 + 2) 0 else none) with
        | some e => (s2, .error e)
        | none =>
          match s2.callCounter c with
          | .error e => (s2, .error e)
          | .ok pa => (s2, .ok (q, k, pa))

/-- ATTN_CALL_START: the head call of a slot and port starts, or fails. -/
def execAttnCallStart (c : CpId) (p : BitVec 5) (s : State) : Out State :=
  .next <|
    match s.callsOf c p with
    | [] => s
    | x :: _ =>
      if x.started || x.failed || !s.callHere x then s
      else match s.callCheck x with
      | (s1, .error e) => s1.callFail x e
      | (s1, .ok (q, k, pa)) => s1.modCall x fun y => { y with started := true, docq := q, dock := k, ctr := pa }

/-! ### Tiles counted (R361, R398, R416) -/

/-- The energy that an EMPTY tile saves, in microjoule, rounded down (R398; entry 14). -/
def skippedEnergy (w : Word) (hq rows keys : Nat) : Nat :=
  let mac := 2 * rows * keys * poolD w * hq * (if poolFmt w = 0 then 287 else 144)
  let bytes := keys * poolHkv w * poolD w * 2 * poolB w * (if poolHbm w then 7100 else 500)
  (mac + bytes) / 1000000000

/-- The tiles of query tile u enter the counts. -/
def State.countTiles (s : State) (c : Call) (u : Nat) : State :=
  let rows := min 128 (c.nq - 128 * u)
  let cls := c.counted.map fun k => (k, c.tileClass u k)
  let n (t : Tri) : Nat := (cls.filter fun x => x.2 == t).length
  let empty := cls.filter fun x => x.2 == .f
  let blocks := empty.foldl (fun a x => a + (x.1.2 / 16 + 1 - x.1.1 / 16)) 0
  let uj := empty.foldl (fun a x => a + skippedEnergy c.pool c.hq rows (x.1.2 + 1 - x.1.1)) 0
  let add : List Nat := [n .t, n .u, n .f, blocks]
  let s1 := s.modCall c fun x => { x with counts := Vector.ofFn fun i : Fin 4 => x.counts.get i + BitVec.ofNat 64 ((add[i.val]?).getD 0) }
  let s2 := s1.modDie (dieOf c.caller.core) fun d => { d with eskip := vmod d.eskip (ix32 c.part) (· + BitVec.ofNat 64 uj) }
  if s.callHere c then s2.modCp c.caller fun p => p.count 5 (n .f) else s2

/-! ### Rows (R370, R372, R383, R402) -/

/-- Every K and V vector, and byte of the bias, that a row reads. -/
def State.rowReads (s : State) (c : Call) (i : Nat) : List (PAddr × Nat) :=
  (c.tiles.filter fun k => c.tileClass (i / 128) k != .f).flatMap fun k =>
    (List.range (k.2 + 1 - k.1)).flatMap fun n =>
      let j := k.1 + n
      (List.range (poolHkv c.pool)).flatMap (fun h => [(s.kvPlace c false j h, poolVec c.pool), (s.kvPlace c true j h, poolVec c.pool)]) ++
      (if c.bias then ([0, 1] : List Nat).filterMap fun o =>
        match s.callPlace c (c.biasa + BitVec.ofNat 64 (i * biasStride c.nk + 2 * j + o)) 1 false with
        | .ok pa => some (pa, 1)
        | .error _ => none
      else [])

/-- The places are read: errors are logged; the place of an uncorrectable one comes back. -/
def State.scanReads (s : State) (c : Call) : List (PAddr × Nat) → State × Option (PAddr × Nat)
  | [] => (s, none)
  | a :: t =>
    match s.load c.caller c.part a.1 a.2 with
    | (s1, none) => (s1, some a)
    | (s1, some _) => s1.scanReads c t

/-- Parts that a member has given for the call. -/
def Call.partsOf (c : Call) (n : Nat) : List RingPart := ((c.parts.find? fun x => x.1 == n).map (·.2)).getD []

/-- Rows whose last query token has arrived. -/
def Call.rowsIn (c : Call) : Nat := if c.rowToks = 0 then 0 else (c.taken - c.kvToks) / c.rowToks

/-- The next row can be computed: its queries are here, and the members' parts of it, and no result of an earlier row has to leave
first. -/
def Call.rowReady (c : Call) : Bool :=
  c.started && !c.failed && c.out.isEmpty && decide (c.rowsDone < c.nq) && decide (c.rowsDone < c.rowsIn) &&
  (!c.ringed || c.members.all fun n => decide ((c.rowsDone + 1) * c.hq ≤ (c.partsOf n).length))

/-- The reads of a row's bias from host or peer memory leave the package, on the interface that HSTEER names for the function, one for each 64
bytes and the row's first (R403, R428). -/
def State.askBias (s : State) (c : Call) (i : Nat) : State :=
  if !c.bias then s
  else
    let a (j : Nat) : Word := c.biasa + BitVec.ofNat 64 (i * biasStride c.nk + 2 * j)
    (List.range c.nk).foldl (fun t j =>
      match s.callPlace c (a j) 2 false with
      | .error _ => t
      | .ok pa =>
        if j != 0 && pa.off % 64 != 0 then t
        else match pa.space with
        | .host => t.hostRequest c.part pa.off false []
        | .peer ep => t.askPeer c.caller.core c.part ep pa.off 64 false []
        | _ => t) s

/-- An uncorrectable error in the copy of a masked call's program or tables: it may be there at any row, its syndrome and its place are free
(R400, entry 34), and the chiplet's log takes it. -/
def State.copyError (s : State) (c : Call) : Option State :=
  if c.masked && Config.freeBool s.fresh then
    let t : State := { s with fresh := s.fresh + 3 }
    let note (l : ErrLog) : ErrLog := l.note s.ftime ((Config.freeWord (s.fresh + 2)).toNat % 2 ^ 48) true false c.caller.slot c.part
      ((Config.freeWord (s.fresh + 1)).extractLsb' 0 8) (Config.freeWord (s.fresh + 2))
    some (t.modChiplet c.chip fun k => { k with kvlog := note k.kvlog })
  else none

/-- One row is computed. -/
def State.doRow (s0 : State) (c : Call) : State :=
  let i := c.rowsDone
  let s := (if c.masked then s0.took else s0).askBias c i
  let (s1, bad) := if s.ecc.isEmpty then (s, none) else s.scanReads c (s.rowReads c i)
  match s0.copyError c, bad with
  | some t, _ => t.callFail c (cUNCORR, 0, Config.freeWord (s0.fresh + 1) &&& 255, 0)
  | none, some a => s1.callFail c (cUNCORR, 0, s.synd a.1 a.2, s.uncorrDetail a.1 a.2)
  | none, none =>
    let s2 := if i % 128 = 0 then s1.countTiles c (i / 128) else s1
    let toks := c.input.take c.rowToks
    let accs := (List.range c.hq).map fun h => c.mergeRing i h (s1.rowHead c i toks h)
    s2.modCall c fun x => { x with rowsDone := i + 1, input := x.input.drop c.rowToks, out := c.rowTokens i accs }

/-- Results leave while fewer than 16 wait for the destination's tap queue (R372). -/
def State.sendOut (s : State) (c : Call) : State :=
  let n := 16 - s.waitingResults c
  (s.modCall c fun x => { x with out := x.out.drop n }).sendResults c (c.out.take n)

/-- Results that can leave do, and a row that can be computed is. -/
def State.doRows (s : State) (c : CpId) (p : BitVec 5) (id : Nat) : Nat → State
  | 0 => s
  | n + 1 =>
    match (s.callsOf c p).find? fun x => x.id == id with
    | none => s
    | some x =>
      if !x.out.isEmpty then (s.sendOut x).doRows c p id n
      else if x.rowReady then (s.doRow x).doRows c p id n
      else s

/-! ### Input (R372, R373, R376) -/

/-- An input token of the new keys and values is written to its block; the last one of a position sets its written bit. -/
def State.writeKv (s : State) (c : Call) (n : Nat) (v : W256) : State :=
  let vec := n / c.vecToks
  let head := vec / 2 % poolHkv c.pool
  let j := c.nk - c.nnew + vec / (2 * poolHkv c.pool)
  let s1 := s.store c.part ((s.kvPlace c (vec % 2 == 1) j head).plus (32 * (n % c.vecToks))) (leBytes 32 v.toNat)
  if (n + 1) % (2 * poolHkv c.pool * c.vecToks) = 0 then
    s1.modChiplet c.chip fun k => k.setWritten ((c.blocks[j / 16]?).getD 0) c.layer (j % 16)
  else s1

/-- The last query token of a ring call's row has arrived: its queries go to the members (R381). -/
def State.askMembers (s : State) (c : Call) : State :=
  if c.ringed && c.started && !c.failed && decide (0 < c.rowsIn) && (c.taken - c.kvToks) % c.rowToks == 0 then
    c.members.foldl (fun t n =>
      match c.ring[n]? with
      | some e => t.toFabric e.ep (.ringQuery e.chip c.id (c.rowsIn - 1) (c.input.drop (c.input.length - c.rowToks)))
      | none => t) s
  else s

/-- ATTN_INPUT_TOKEN: the oldest token that the slot has sent on the port goes to its call; a failed call discards it. -/
def execAttnInputToken (c : CpId) (p : BitVec 5) (t : Tok) (s : State) : Out State :=
  .next <|
    match ((s.slot c).port p).chan.kept, (s.callsOf c p).find? fun x => s.callHere x && decide (x.taken < x.need) with
    | (_, y) :: rest, some x =>
      if y != t || !(x.started || x.failed) || !s.atChiplet c p then s
      else
        let s1 := s.modPort c p fun q => { q with chan := { q.chan with kept := rest } }
        let s2 := if !x.failed && decide (x.taken < x.kvToks) then s1.writeKv x x.taken t.bits else s1
        let y : Call :=
          { x with taken := x.taken + 1, input := if x.failed || decide (x.taken < x.kvToks) then x.input else x.input ++ [t.bits] }
        (((s2.modCall x fun _ => y).askMembers y).attnGrant c p).doRows c p x.id 3
    | _, _ => s

/-! ### Completion (R373) -/

/-- A call leaves its chiplet; the last one of a slot and port takes the window with it (R402). -/
def State.removeCall (s : State) (c : Call) : State :=
  (((s.dropResults c).modChiplet c.chip fun k => { k with calls := k.calls.filter fun x => x.id != c.id })).attnGrant c.caller c.port

/-- The signal of a call. A task that has left its slot has no near memory any more, and its far add carries its own name. -/
def State.callSignal (s : State) (c : Call) (pa : PAddr) : State :=
  let inc := fld64 c.bytes 0x48
  if s.callHere c then s.engineSignal c.caller pa c.ctra inc
  else if pa.near then s
  else
    let x : CtrAdd := { id := s.ids, agent := .engine, sender := c.caller, part := c.part, gen := (s.part c.part).gen, wid := c.wid
                        pa := pa, vaddr := c.ctra, inc := inc }
    { s.newId with adds := s.adds ++ [x] }

/-- The engine's last acts for a call. -/
def State.finishCall (s : State) (c : Call) : State :=
  let s1 := ([0, 1, 2, 3] : List (Fin 4)).foldl (fun t i => t.callWrite c (0x60 + 8 * i.val) (c.counts.get i)) s
  let s2 := s1.callWrite c 0x58 1
  let s3 := match c.ctr with
    | some pa => s2.callSignal c pa
    | none => s2
  (s3.dropBlocks c).removeCall c

/-- ATTN_CALL_COMPLETE: paused rows go on; when every result is accepted, the counts, RESULT and the signal follow in this order. A
failed call leaves once its record has entered the queue and its input has been taken. A call that has all its input completes though its
task has left the slot; no rule ends one that has not, and it stays (R402, entry 34). -/
def execAttnCallComplete (c : CpId) (p : BitVec 5) (s : State) : Out State :=
  .next <|
    match s.callsOf c p with
    | [] => s
    | x :: _ =>
      if x.report.isSome then s.settleCall x
      else if x.failed then (if x.isFed then s.removeCall x else s)
      else if x.started && x.rowsDone == x.nq && x.isFed && x.out.isEmpty && s.waitingResults x == 0 then s.finishCall x
      else s.doRows c p x.id 3

/-! ### Ring members (R381) -/

/-- A member's parts join those it has given. -/
def Call.addParts (c : Call) (n : Nat) (l : List RingPart) : Call :=
  { c with parts := (c.parts.filter fun x => x.1 != n) ++ [(n, c.partsOf n ++ l)] }

/-- RING_MEMBER_PARTIAL: a member's m, l and o for the heads of its next rows, whose queries it has been sent; or a
position of its range that is not written for the layer, or an uncorrectable error in a block of it, which ends the call (R376; the syndrome is
free). -/
def execRingMemberPartial (c : CpId) (p : BitVec 5) (member : Nat) (parts : List RingPart) (bad : MemberFault) (s : State) : Out State :=
  .next <|
    match s.callsOf c p with
    | [] => s
    | x :: _ =>
      if !x.started || x.failed || !x.ringed || !x.members.contains member then s
      else if bad = .uncorrectable then s.took.callFail x (cUNCORR, 0, s.freeWord &&& 255, 0)
      else if bad = .unwritten then s.callFail x (cFORMAT, x.recAddr, 0, 0)
      else if parts.length % x.hq != 0 || decide (x.rowsIn * x.hq < (x.partsOf member).length + parts.length) || parts.any (fun y => y.o.length != poolD x.pool) then s
      else (s.modCall x fun z => z.addParts member parts).doRows c p x.id 3

/-- RING_MEMBER_SILENT: a member does not answer for a row that it was sent, and the call ends with ADDRCLASS. -/
def execRingMemberSilent (c : CpId) (p : BitVec 5) (s : State) : Out State :=
  .next <|
    match s.callsOf c p with
    | [] => s
    | x :: _ =>
      if x.started && !x.failed && x.ringed && x.members.any (fun n => decide ((x.partsOf n).length < x.rowsIn * x.hq)) then
        s.callFail x (cADDRCLASS, 0, 0, 0)
      else s

/-! ### mstat (R397) -/

/-- A count of a call: of the call in flight, or of the record, of which QPORT and the count alone are read. -/
def State.mstat (s : State) (sel : Fin 4) (x a : Reg) : Out State :=
  s.issue [a] [x] false fun t =>
    let addr := t.reg a
    t.withRecord addr 64 128 false fun ps =>
      t.readField addr ps 2 1 fun u b =>
        if leNat b != 18 && leNat b != 22 then u.trapFree u.cur cFORMAT
        else match (u.callsOf u.cur (BitVec.ofNat 5 (leNat b))).find? fun c => c.recAddr == addr && !c.failed && u.callHere c with
        | some c => u.answered (some (x, c.counts.get sel))
        | none => u.readField addr ps (0x60 + 8 * sel.val) 8 fun v b => v.answered (some (x, BitVec.ofNat 64 (leNat b)))

def execMstatFull (x a : Reg) (s : State) : Out State := s.mstat 0 x a
def execMstatPart (x a : Reg) (s : State) : Out State := s.mstat 1 x a
def execMstatEmpty (x a : Reg) (s : State) : Out State := s.mstat 2 x a
def execMstatSkipb (x a : Reg) (s : State) : Out State := s.mstat 3 x a

end Sys2Proof.Machine
end

