-- ==== Sys2Proof/Machine/Die.lean ====
section
/-! DEFINITION. The die: work queues and launches, dispatch of tasks to slots, pre-emption and the slot swap, HBM sparing, die
crossings, the fault buffer and energy (R195 to R197, R302, R303, R306, R333 to R361). -/
namespace Sys2Proof.Machine

/-! ### Work queues (R335 to R337) -/

/-- An MSI-X vector of a function is signalled (R405), on the interface that HSTEER names (R403). -/
def State.msix (s : State) (fn : BitVec 8) (v : Nat) : State := s.emit (.msix fn (s.steers fn) v)

/-- ERR records a refusal (R337). -/
def errNote (e : Word) (reason : Nat) (seq : W32) : Word :=
  BitVec.ofNat 64 (min 255 (wbits e 63 56 + 1) * 2 ^ 56 + reason * 2 ^ 48 + seq.toNat)

/-- A queue's ERR records a refusal. -/
def State.noteErr (s : State) (q : Nat) (reason : Nat) (seq : W32) : State :=
  let w := s.wq q
  s.setWq q { w with err := errNote w.err reason seq }

/-- A host write to TAIL is accepted (R337). -/
def Wq.tailOk (w : Wq) (v : W32) : Bool :=
  !w.lnch && decide ((v - w.tail).toNat + w.held ≤ 2 ^ w.log2sz)

/-- A function may use a queue's window: its own queue, or any as function 0 in management space (R334, R335, R404). -/
def Wq.opens (w : Wq) (fn : BitVec 8) : Bool := fn == 0 || w.fn == fn

/-- WQ_TAIL_WRITE (R337): what is not accepted is discarded and recorded with reason BADTAIL. -/
def execWqTailWrite (fn : BitVec 8) (q : Fin 4096) (v : W32) (s : State) : Out State :=
  .next <|
    let w := s.wq q.val
    if !w.opens fn then s
    else if w.tailOk v then s.setWq q.val { w with tail := v }
    else s.noteErr q.val 7 v

/-- The slots of the package. -/
def allSlots : List CpId := cores256.flatMap fun k => [⟨k, 0⟩, ⟨k, 1⟩]

/-- The queue's most recent launch. -/
def State.lastLaunch (s : State) (q : Nat) : Option Launch :=
  s.launches.foldl (fun b l => if l.queue == q && (match b with | some x => decide (x.id < l.id) | none => true) then some l else b) none

/-- WQ_RING_WRITE (R335): CPEVT.DB of the slot that runs the WID in the queue's most recent launch. -/
def execWqRingWrite (fn : BitVec 8) (q : Fin 4096) (wid : Word) (s : State) : Out State :=
  .next <|
    if !(s.wq q.val).opens fn then s
    else match s.lastLaunch q.val with
    | none => s
    | some l =>
      match allSlots.find? fun c => (s.slot c).launch == some l.id && (s.slot c).wid == wid && ((s.slot c).status == 1 || (s.slot c).status == 2) with
      | none => s
      | some c => s.modCp c fun p => p.event evDB

/-! ### Slates (R338 to R341) -/

def Launch.shape (l : Launch) : Nat := l.fld 0x10 8
def Launch.extm1 (l : Launch) : Nat := l.fld 0x18 8
/-- Placement level of field f. -/
def shapePl (shape f : Nat) : Nat := shape / 2 ^ (36 + 3 * f) % 8

/-- The WID of the k-th task in increasing order (R340). -/
def widOf (shape extm1 : Nat) : Nat → Nat → Nat
  | 0, _ => 0
  | n + 1, k =>
    let f := 5 - n
    k % fieldExtent shape extm1 f * 2 ^ fieldOffset shape f + widOf shape extm1 n (k / fieldExtent shape extm1 f)

/-- Check 1 of R341. -/
def shapeOk (shape extm1 last : Nat) : Bool :=
  let fs := List.range 6
  let sum := fieldOffset shape 6
  decide (sum ≤ 64) && (List.range 5).all (fun f => shapeWidth shape f != 0 || shapeWidth shape (f + 1) == 0) &&
  decide (extm1 < 2 ^ sum) && fs.all (fun f => decide (shapePl shape f ≤ 4)) &&
  (List.range 5).all (fun f => shapeWidth shape (f + 1) == 0 || decide (shapePl shape f ≤ shapePl shape (f + 1))) &&
  decide (shape < 2 ^ 63) && last == 0

/-- A far address that a partition's tables place in its HBM or cluster buffer. -/
def State.farOk (s : State) (part : BitVec 5) (a : Word) (write : Bool) : Bool :=
  match s.translate part a write with
  | .ok pa => pa.space.package
  | .error _ => false

/-- Firmware of a die reads bytes of a partition's far memory: none where they are unreadable, for want of a translation or by an
uncorrectable error, which is logged (R307, R341). -/
def State.firmwareRead (s : State) (d : Fin 4) (part : BitVec 5) (a : Word) (n : Nat) : State × Option (List Byte) :=
  match s.translate part a false with
  | .ok pa => if pa.space.package then s.load ⟨coreOf d 0 0, 0⟩ part pa n else (s, none)
  | .error _ => (s, none)

/-- An optional counter address of a slate: aligned, and readable (R265, R338, R341). -/
def State.slateCounterOk (s : State) (d : Fin 4) (part : BitVec 5) (a : Word) : State × Bool :=
  if a == 0 then (s, true)
  else if a.toNat % 8 != 0 then (s, false)
  else match s.firmwareRead d part a 8 with
  | (t, r) => (t, r.isSome)

/-- The dependence record's bytes. -/
def State.depBytes (s : State) (part : BitVec 5) (a : Word) : List Byte :=
  match s.translate part a false with
  | .ok pa => s.bytesAt pa 64
  | .error _ => []

/-- Check 3 of R341 on ENTRY: a near one lies in the slot's local store, which firmware does not read. -/
def State.entryOk (s : State) (d : Fin 4) (part : BitVec 5) (entry : Word) : State × Bool :=
  if entry.toNat % 4 != 0 then (s, false)
  else if classOf entry == .near then (s, true)
  else match s.firmwareRead d part entry 4 with
  | (t, r) => (t, r.isSome)

/-- Check 3 of R341 on DEPREC and the counters that it names. -/
def State.depsOk (s : State) (d : Fin 4) (part : BitVec 5) (dep : Word) (ndep : Nat) : State × Bool :=
  if ndep = 0 then (s, dep == 0)
  else if dep.toNat % 64 != 0 then (s, false)
  else match s.firmwareRead d part dep 64 with
  | (t, none) => (t, false)
  | (t, some r) => (t, (List.range (min ndep 4)).all fun i =>
      let a := fld64 r (16 * i)
      a.toNat % 8 == 0 && t.farOk part a false)

/-- Check 3 of R341. -/
def State.slateAddrOk (s : State) (d : Fin 4) (part : BitVec 5) (b : List Byte) : State × Bool :=
  let (s1, e) := s.entryOk d part (fld64 b 0)
  let (s2, r) := s1.depsOk d part (fld64 b 0x20) (fld b 0x3E 1)
  let (s3, x) := s2.slateCounterOk d part (fld64 b 0x28)
  let (s4, y) := s3.slateCounterOk d part (fld64 b 0x30)
  (s4, e && r && x && y)

/-- A write is parked on a block that firmware reads of a slate: reads of it wait (R357). -/
def State.slateWaits (s : State) (part : BitVec 5) (b : List Byte) : Bool :=
  [fld64 b 0, fld64 b 0x20, fld64 b 0x28, fld64 b 0x30].any fun a => match s.translate part a false with
    | .ok pa => s.parkedBlock pa
    | .error _ => false

/-- The cores of a partition on a die. -/
def State.partCores (s : State) (p : BitVec 5) (d : Fin 4) : List (Fin 256) :=
  cores256.filter fun k => dieOf k == d && s.coreOfPart k p

/-- The instance of a placement level that a core belongs to. -/
def instanceOf (pl : Nat) (k : Fin 256) : Nat :=
  match pl with
  | 1 => k.val
  | 2 => k.val / 8
  | 3 => k.val / 64
  | _ => 0

/-- The most tasks that one instance of a level binds at once in a partition's cores of some dies. -/
def mostAtOnce (pl : Nat) (ks : List (Fin 256)) : Nat :=
  ks.foldl (fun m k => max m (ks.filter fun j => instanceOf pl j == instanceOf pl k).length) 0

/-- The dies that a launch may use (R340). -/
def launchDies (shape : Nat) (home : Fin 4) : List (Fin 4) :=
  if (List.range 6).any fun f => shapeWidth shape f != 0 && shapePl shape f == 4 then [0, 1, 2, 3] else [home]

/-- The die of a queue. -/
def dieOfQueue (q : Nat) : Fin 4 := ⟨q / 1024 % 4, by omega⟩

/-- Check 4 of R341. -/
def State.placeOk (s : State) (p : BitVec 5) (q shape extm1 : Nat) : Bool :=
  let ks := (launchDies shape (dieOfQueue q)).flatMap (s.partCores p)
  let wide := (List.range 6).any fun f => shapeWidth shape f != 0 && shapePl shape f == 4
  let dies := ([0, 1, 2, 3] : List (Fin 4)).filter fun d => !(s.partCores p d).isEmpty
  (!shape.testBit 62 || decide (fieldExtent shape extm1 0 ≤ mostAtOnce (shapePl shape 0) ks)) && (!wide || decide (1 < dies.length))

/-- The first check of R341 that a slate of queue q fails. -/
def State.slateRefusal (s : State) (q : Nat) (b : List Byte) : State × Option Nat :=
  let part := (s.wq q).part
  let shape := fld b 0x10 8
  let extm1 := fld b 0x18 8
  if !shapeOk shape extm1 (fld b 0x3F 1) then (s, some 1)
  else if shape / 2 ^ 57 % 32 != part.toNat then (s, some 2)
  else match s.slateAddrOk (dieOfQueue q) part b with
  | (t, false) => (t, some 3)
  | (t, true) =>
    if !s.placeOk part q shape extm1 then (t, some 4)
    else if 4 < fld b 0x3E 1 then (t, some 6)
    else (t, none)

/-- The dependences of an accepted slate. -/
def State.slateDeps (s : State) (part : BitVec 5) (b : List Byte) : List Dep :=
  let r := s.depBytes part (fld64 b 0x20)
  (List.range (fld b 0x3E 1)).map fun i => ⟨fld64 r (16 * i), fld64 r (16 * i + 8), 0, false⟩

/-- A launch's slate copy in the partition's launch table, which holds 1024 copies of up to 128 bytes (R343, R431; the index is entry 11's choice). -/
def State.launchPlace (s : State) (part : BitVec 5) (d : Fin 4) (id : Nat) : PAddr :=
  let a := ((s.die d).ptab.get (ix32 part)).ltab.toNat
  ⟨.hbm ⟨a / 2 ^ 37 % 4, by omega⟩, a % 2 ^ 37 + 128 * (id % 1024)⟩

/-- A virtual address that a partition's tables give a place. -/
def Part.vaOf (p : Part) (pa : PAddr) : Option Word :=
  p.pages.findSome? fun g =>
    if g.dest.space == pa.space && decide (g.dest.off ≤ pa.off) && decide (pa.off < g.dest.off + g.size) then
      some (BitVec.ofNat 64 (g.va + (pa.off - g.dest.off)))
    else none

/-- A launch is accepted (R341). -/
def State.accept (s : State) (q : Nat) (seq : W32) (part : BitVec 5) (b : List Byte) (gang : Option Word) : State :=
  let l : Launch :=
    { id := s.ids, queue := q, seq := seq, part := part, slate := b, deps := s.slateDeps part b, started := [], triggered := [], retired := []
      doneSent := false, trigSent := false, gang := gang }
  let s1 := s.newId.setBytes (s.launchPlace part (dieOfQueue q) s.ids) b
  { s1 with launches := s1.launches ++ [l] }

/-- A refused slate: ERR and the interrupt to the queue's function (R341, R405). -/
def State.refuse (s : State) (q : Nat) (reason : Nat) (seq : W32) : State := (s.noteErr q reason seq).msix (s.wq q).fn 0

/-- The TDISP state of a function (R407); the physical function has none and stays unlocked. -/
def State.tdiOf (s : State) (fn : BitVec 8) : Tdi := if h : fn.toNat < 253 then s.tdi.get ⟨fn.toNat, h⟩ else .unlocked

/-- SLATE_TAKE (R337, R341): firmware takes the next slate of an enabled queue and accepts or refuses it. HEAD advances. It waits while
a write is parked on what it reads (R357). -/
def execSlateTake (q : Fin 4096) (s : State) : Out State :=
  .next <|
    let w := s.wq q.val
    if !w.enabled || w.held = 0 || s.tdiOf w.fn == .error then s
    else
      let s0 := s.setWq q.val { w with head := w.head + 1 }
      match s.translate w.part (w.entry w.head) false with
      | .error _ => s0.refuse q.val 3 w.head
      | .ok pa =>
        if s.parkedBlock pa then s
        else match s0.load ⟨coreOf (dieOfQueue q.val) 0 0, 0⟩ w.part pa 64 with
        | (s1, none) => s1.refuse q.val 3 w.head
        | (s1, some b) =>
          if s.slateWaits w.part b then s
          else match s1.slateRefusal q.val b with
          | (s2, some r) => s2.refuse q.val r w.head
          | (s2, none) => s2.accept q.val w.head w.part b none

/-! ### Dependences (R342) -/

/-- One dependence of a launch changes. -/
def Launch.setDep (l : Launch) (i : Nat) (f : Dep → Dep) : Launch := { l with deps := l.deps.mapIdx fun j d => if j = i then f d else d }

/-- One launch changes. -/
def State.modLaunch (s : State) (id : Nat) (f : Launch → Launch) : State :=
  { s with launches := s.launches.map fun l => if l.id == id then f l else l }

/-- DEPENDENCE_READ (R342): a value below the last one refuses the launch with WRAP. A word with an uncorrectable error, or with a write
parked on it, gives no value. -/
def execDependenceRead (launch : Nat) (i : Fin 4) (s : State) : Out State :=
  .next <|
    match s.launches.find? fun l => l.id == launch with
    | none => s
    | some l =>
      match l.deps[i.val]? with
      | none => s
      | some d =>
        if d.met then s
        else match s.translate l.part d.addr false with
        | .error _ => s
        | .ok pa =>
          if s.parkedBlock pa then s
          else match s.firmwareRead (dieOfQueue l.queue) l.part d.addr 8 with
          | (s1, none) => s1
          | (s1, some b) =>
          let v := BitVec.ofNat 64 (leNat b)
          if v.toNat < d.last.toNat then
            ({ s1 with launches := s1.launches.filter fun x => x.id != launch } : State).refuse l.queue 5 l.seq
          else s1.modLaunch launch fun x => x.setDep i.val fun d => { d with last := v, met := decide (d.target.toNat ≤ v.toNat) }

/-! ### The initial state of a task (R343) -/

/-- Fields of CFG of a bind record (R346). -/
def cfgLsb (v : Word) : BitVec 5 := v.extractLsb' 0 5
def cfgGc (v : Word) : BitVec 2 := v.extractLsb' 6 2
def cfgSmb (v : Word) : BitVec 7 := v.extractLsb' 8 7
def cfgSsb (v : Word) : BitVec 7 := v.extractLsb' 16 7
def cfgPart (v : Word) : BitVec 5 := v.extractLsb' 24 5
def cfgPrio (v : Word) : BitVec 3 := v.extractLsb' 29 3
def cfgCheck (v : Word) : Bool := v.getLsbD 33
def cfgPhase (v : Word) : BitVec 2 := v.extractLsb' 34 2

/-- The RW fields of CFG that a record keeps; CMD reads 0 (R346). -/
def cfgFields (v : Word) : Word := v &&& 0xFFFF000EFF7F7FDF#64

/-- CFG as it reads: STATUS holds the last refusal, or the slot's state. -/
def Slot.cfgWord (t : Slot) : Word := t.cfg ||| ((if t.refusal = 0 then t.status else t.refusal).setWidth 64 <<< 40)

/-- The bytes of a task's slate: those of its launch, or what stands at SLATE. -/
def State.slateBytes (s : State) (part : BitVec 5) (va : Word) (l : Option Launch) : Option (List Byte) :=
  match l with
  | some l => some l.slate
  | none => match s.translate part va false with
    | .ok pa => some (s.bytesAt pa 64)
    | .error _ => none

/-- The CP of a task that starts (R343). A slate that dispatch cannot read leaves ENTRY and ARG free values (entry 4). -/
def Cp.start (slate wid tvec cfg share entry arg : Word) : Cp :=
  let b := Cp.reset.bankT
  let b1 := bankSet (bankSet (bankSet b 1 wid) 2 arg) 3 slate
  { Cp.reset with pc := entry &&& ~~~(3 : Word), bankT := bankSet (bankSet b1 30 0x3FFFFC) 31 share, check := cfgCheck cfg
                  phase := cfgPhase cfg, tvec := tvec &&& ~~~(3 : Word), run := .running }

/-- The launch that a record's SLATE names: the one whose copy the partition's tables place there. -/
def State.launchAt (s : State) (part : BitVec 5) (slate : Word) : Option Launch :=
  s.launches.find? fun l => l.part == part && (s.part part).vaOf (s.launchPlace part (dieOfQueue l.queue) l.id) == some slate

/-- The slot with a task's initial image (R343). -/
def State.startImage (s : State) (c : CpId) (l : Option Launch) : Slot :=
  let t := s.slot c
  let part := cfgPart t.cfg
  let lsb := (cfgLsb t.cfg).toNat * 4096
  let share := BitVec.ofNat 64 (if c.slot = 0 then lsb else 65536 - lsb)
  let (entry, arg) : Word × Word := match s.slateBytes part t.slate l with
    | some b => (fld64 b 0, fld64 b 8)
    | none => (s.freeWord, Config.freeWord (s.fresh + 1))
  { Slot.reset with
    slate := t.slate, wid := t.wid, tvec := t.tvec, cfg := t.cfg, part := part, prio := cfgPrio t.cfg, launch := l.map (·.id), tilesOut := t.tilesOut
    cp := Cp.start t.slate t.wid t.tvec t.cfg share entry arg }

/-! ### Pre-emption and the swap (R195 to R197, R306) -/

/-- The other slot of a core. -/
def otherSlot (c : CpId) : CpId := { c with slot := 1 - c.slot }

/-- A token of a slot that is being stopped leaves its lane: an inbound one enters its tap queue, an outbound one its block or the path of
its far port, on which it is delivered during the swap (R196, R306). One without an address keeps its place in the image. -/
def State.flushToken (s : State) (c : CpId) (t : RingTok) : State :=
  let place (x : RingPos) : State := s.modCore c.core fun k => { k with ring := k.ring.map fun u => if u.id == t.id then { u with pos := x } else u }
  let comes (f : State → RingTok → State) : State :=
    let u := f (place .due) { t with pos := .due }
    if ((u.core c.core).token c.slot t.id).isNone then u else place .far
  if t.pos == .far || t.pos == .form || t.pos == .refused then s
  else if t.inbound && (t.port == 18 || t.port == 22) then comes fun u x => u.resultEnter c x
  else if t.inbound && decide (17 ≤ t.port.toNat) && t.port != 20 then comes fun u x => u.channelArrive c x
  else if t.inbound then
    let g := s.region c t.region
    if g.takeSeq == t.takeSeq && (g.counts || (g.on == .stopped && g.cause == cPAGE)) then
      ((s.dropToken c.core t.id).enterTap c t.elem t.tap t.tok).readDone c t.port
    else (s.dropToken c.core t.id).modPort c t.port fun q => { q with unconsumed := q.unconsumed - 1 }
  else if 16 ≤ t.port.toNat then place .far
  else if s.ownerOk (s.slot c).part t.addr true then (s.store (s.slot c).part t.addr (leBytes 32 t.tok.bits.toNat)).stored c t
  else (place .refused).streamStop c t.region t.port cPAGE 4 t.va 0

/-- A next bank is lost by the pre-emption; a load restarts (R197). -/
def State.loseNext (s : State) (c : CpId) (r : Fin 4) : State :=
  let g := s.region c r
  let s1 := if g.loading.isSome then s.modRegion c r fun g => { g with loading := none } else s
  if g.next == .empty then s1
  else (s1.clearNext c r).modRegion c r fun g => { g with nextLost := true, lastst := stNEXTLOST }

/-- The bound slot's time on its core is counted up to now (R348). -/
def State.charge (s : State) (c : CpId) : State :=
  if (s.slot c).bound then
    s.modCore c.core fun k => { k with ran := vmod k.ran c.slot (· + (s.ftime - k.ranFrom)), ranFrom := s.ftime }
  else s

/-- An answer on its way to the CP comes into its register in the image: to the next thread cycle of the resumed slot it is there (R374). -/
def State.answerIn (s : State) (c : CpId) : State :=
  let p := s.cp c
  let t := s.modCp c fun p => { p with answerDue := false, answer := none }
  match p.answer with
  | none => t
  | some (r, v) => (t.modCp c fun p => if p.handler then { p with bankH := bankSet p.bankH r v } else { p with bankT := bankSet p.bankT r v }).writeArr
      c.core (s.slot c).part 7 (bankUnit c p.handler) r.toNat 1

/-- A bound slot stops at this grid cycle: a trap that is due is entered, a region stop that is due takes effect, and lanes empty
into tap queues (R195, R306). -/
def State.preempt (s : State) (c : CpId) : State :=
  let s := (s.charge c).answerIn c
  let p := s.cp c
  let s1 := match firstTrap p.dtraps with
    | some d =>
      if p.handler || p.run != CpRun.running || p.untimed != 0 then s
      else s.modCp c fun p => { (p.trapEntry d.cause d.tval d.fpc p.pc) with dtraps := p.dtraps.erase d }
    | none => s
  let s2 : State := regions4.foldl (fun t r => match (t.region c r).stopDue with | some i => (t.stopRecord c r i).stopNow c r i | none => t) s1
  let s3 : State := ((s2.core c.core).ring.filter fun x => x.slot == c.slot).foldl (fun t x => t.flushToken c x) s2
  regions4.foldl (fun t r => t.loseNext c r) s3

/-- A store of a slot that is being emptied performs, or stays at its controller: parked, or behind a parked one (R357). -/
def State.leaveStore (s : State) (c : CpId) (w : Posted) : State :=
  let part := (s.slot c).part
  let leave (t : State) (parked : Bool) : State :=
    match parkPlace w.pa with
    | none => t
    | some (d, k) => (t.dropPosted c w.id).modDie d fun x => x.modCtl k fun l =>
        { l with park := l.park.filter (· != (c, w.id)), left := l.left ++ [(part, { w with parked := parked })] }
  if w.parked || s.parkedBlock w.pa then leave s w.parked
  else match s.parkTurn (s.performStore c w) c w.id part w.surf w.pa with
  | .performs => (s.completeStore c w).slotted part w.surf w.vaddr
  | .waits => leave s false
  | .parks d k => leave (s.parkRec c w.id part w.vaddr w.fpc d k) true

/-- A token on its way out, as a store. -/
def State.tokenStore (s : State) (c : CpId) (t : RingTok) : Posted :=
  { id := t.id, pa := t.addr, surf := s.surfaceOf (s.slot c).part t.va, vaddr := t.va, fpc := 0, bytes := leBytes 32 t.tok.bits.toNat, parked := false }

/-- What a slot sent before its image goes still performs: its posted stores, and tokens on their way out that have a place which takes
them. Result tokens of attention calls stay at their chiplet (R372). -/
def State.drainOut (s : State) (c : CpId) : State :=
  let s1 := (s.cp c).posted.foldl (fun t w => t.leaveStore c w) s
  let s2 := ((s1.core c.core).ring.filter fun t => t.slot == c.slot && !t.inbound && t.pos != .form && t.pos != .refused).foldl
    (fun t x => if 17 ≤ x.port.toNat && x.port != 20 then t.leavePort c x
      else if t.ownerOk (t.slot c).part x.addr true then t.leaveStore c (t.tokenStore c x) else t) s1
  let s3 : State := { s2 with dies := s2.dies.map fun d => { d with ctl := d.ctl.map fun k =>
    { k with park := k.park.filter fun x => x.1 != c || s2.adds.any fun a => a.id == x.2 } } }
  s3.modCore c.core fun k => { k with ring := k.ring.filter fun t => t.slot != c.slot || (t.inbound && (t.port == 18 || t.port == 22)) }

/-- The slot's image is discarded; its record stays (R347), and the tiles that it has in flight hold its credits until they are applied or
dropped (R321). -/
def Slot.discard (t : Slot) : Slot := { Slot.reset with slate := t.slate, wid := t.wid, tvec := t.tvec, cfg := t.cfg, tilesOut := t.tilesOut }

/-- A slot becomes EMPTY; a scan that was to bind it ends. -/
def State.emptySlot (s : State) (c : CpId) : State :=
  ((s.drainOut c).modSlot c Slot.discard).modCore c.core fun k => { k with swap := if k.swap == some c.slot then none else k.swap }

/-- The scan that binds a standby slot begins. -/
def State.beginSwap (s : State) (k : Fin 256) (i : Fin 2) : State := s.modCore k fun x => { x with swap := some i }

/-- A slot takes a state. -/
def State.setStatus (s : State) (c : CpId) (v : BitVec 8) : State := s.modSlot c fun t => { t with status := v, refusal := 0 }

/-- CORESHARE and the guard column follow the record of a slot that is bound, and its rushes start anew; those of a task that is bound beside it
under a split binding go on (R170, R415). -/
def State.setShare (s : State) (c : CpId) : State :=
  let v := (s.slot c).cfg
  let beside := (s.slot (otherSlot c)).bound
  s.modCore c.core fun k =>
    { k with ssb := cfgSsb v, smb := cfgSmb v, lsb := cfgLsb v, gc := cfgGc v, ranFrom := s.ftime, rushes := if beside then k.rushes else []
             rushcnt := if beside then k.rushcnt else 0
             rushFrom := if beside then vmod k.rushFrom c.slot fun _ => k.rushcnt else Vector.replicate 2 0 }

/-- Units that were another partition's pass to `p`. -/
def passes {n : Nat} (held : Vector (Option (BitVec 5)) n) (p : BitVec 5) (i : Nat) : Bool :=
  match held[i]? with | some (some q) => q != p | _ => false
/-- The units of a share are a partition's. -/
def hold {n : Nat} (held : Vector (Option (BitVec 5)) n) (p : BitVec 5) (first count : Nat) : Vector (Option (BitVec 5)) n :=
  held.mapFinIdx fun i o _ => if first ≤ i ∧ i < first + count then some p else o

/-- Bytes of memory, by key, become zeros; their words carry no error. -/
def State.zeroKeys (s : State) (f : Nat → Bool) : State :=
  { s with mem := s.mem.filter (fun x => !f x.1), ecc := s.ecc.filter fun m => !f (8 * m.word) }

/-- The share of a slot's record passes to the record's partition: what another partition's task has held of it is zeroed first (R343). -/
def State.claimShare (s : State) (c : CpId) : State :=
  let cfg := (s.slot c).cfg
  let p := cfgPart cfg
  let k : Core := { s.core c.core with ssb := cfgSsb cfg, smb := cfgSmb cfg, lsb := cfgLsb cfg }
  let l := k.localShare c.slot
  let m := k.sceneShare c.slot
  let b := k.statShare c.slot
  let inside (x : Nat) (r : Nat × Nat) : Bool := decide (r.1 ≤ x) && decide (x < r.1 + r.2)
  (s.zeroKeys fun key =>
    let off := key % 2 ^ 64
    let sp := key / 2 ^ 64
    (sp == c.core.val && inside off l && passes k.localHeld p (off / 4096)) ||
    (sp == 256 + c.core.val && inside off m && passes k.sceneHeld p (off / 65536)) ||
    (sp == 512 + c.core.val && inside (off % 2 ^ 14 / 256) b && passes k.statHeld p (off % 2 ^ 14 / 256))).modCore c.core fun x =>
      { x with localHeld := hold x.localHeld p (l.1 / 4096) (l.2 / 4096), sceneHeld := hold x.sceneHeld p (m.1 / 65536) (m.2 / 65536)
               statHeld := hold x.statHeld p b.1 b.2 }

/-- Everything that a partition's tasks have held in the cores is zeroed (R343, R412). -/
def State.zeroHeld (s : State) (p : BitVec 5) : State :=
  let mine {n : Nat} (held : Vector (Option (BitVec 5)) n) (i : Nat) : Bool := held[i]? == some (some p)
  let s1 := s.zeroKeys fun key =>
    let off := key % 2 ^ 64
    let sp := key / 2 ^ 64
    let k := s.core ⟨sp % 256, by omega⟩
    (sp / 256 == 0 && mine k.localHeld (off / 4096)) || (sp / 256 == 1 && mine k.sceneHeld (off / 65536)) ||
    (sp / 256 == 2 && mine k.statHeld (off % 2 ^ 14 / 256))
  let free {n : Nat} (held : Vector (Option (BitVec 5)) n) : Vector (Option (BitVec 5)) n := held.map fun o => if o == some p then none else o
  { s1 with cores := s1.cores.map fun k => { k with localHeld := free k.localHeld, sceneHeld := free k.sceneHeld, statHeld := free k.statHeld } }

/-- A slot is bound: PART and PRIO come from its record (R234, R306), and its instruction and translation caches are empty (R221, R446). -/
def State.bindNow (s : State) (c : CpId) : State :=
  ((s.setStatus c 0x01).modSlot c fun t =>
    { t with part := cfgPart t.cfg, prio := cfgPrio t.cfg, cp := { t.cp with ftc := [], icache := [] } }).setShare c |>.claimShare c

/-! ### The continuity store (R194, R195, R307, R309): the standby slot's record is its content, and its words carry ECC -/

/-- The 8-byte words of an element's place in an image (R194): its on bank, its rotating file, D and C, and its accumulators and BP, by
array of R307 and word of that array. -/
def imageWord (w : Nat) : Option (Nat × Nat × Nat) :=
  let e := w / 249
  let o := w % 249
  if 256 ≤ e then none else if o < 130 then some (1, e, o) else if o < 200 then some (2, e, o - 130) else if o < 248 then some (3, e, o - 200) else none
/-- The word of an image that a word of an element's arrays goes to. -/
def wordOfImage (arr e w : Nat) : Nat := 249 * e + (if arr = 1 then w else if arr = 2 then 130 + w else 200 + w)

/-- The array, unit and word of a mark, when it lies in an array of a core. -/
def EccMark.inCore (m : EccMark) (core : Fin 256) : Option (Nat × Nat × Nat) :=
  let x := m.word / 2 ^ 64 - 2 ^ 64
  if m.word % 2 ^ 64 != 0 || decide (m.word / 2 ^ 64 < 2 ^ 64) || x / 2 ^ 31 != core.val then none
  else some (x / 2 ^ 28 % 8, x / 2 ^ 20 % 256, x % 2 ^ 20)

/-- The errors of a core's arrays `lo` to `hi` are logged for a slot. -/
def State.logArrays (s : State) (c : CpId) (lo hi : Nat) : State :=
  s.ecc.foldl (fun t m => match m.inCore c.core with
    | some (a, e, w) => if lo ≤ a ∧ a ≤ hi then (t.readArr c (t.slot c).part a e w 1).1 else t
    | none => t) s

/-- The overflow area of a slot (R194, R346): 640 KiB from DOVFBASE + 640 KiB × OVF, a physical address of the die's firmware. -/
def State.overflowArea (s : State) (c : CpId) : PAddr :=
  let a := (s.die (dieOf c.core)).dovfbase.toNat + 655360 * wbits (s.slot c).cfg 63 48
  ⟨.hbm ⟨a / 2 ^ 37 % 4, by omega⟩, a % 2 ^ 37⟩

/-- Bytes of the variable part of a slot's image: 40 for a result in flight or a token of a tap queue (R194; entry 42). -/
def Slot.variableBytes (t : Slot) : Nat :=
  min 655360 (40 * t.elems.toList.foldl (fun n e => n + e.flight.length + e.tapq.toList.foldl (fun m q => m + q.length) 0) 0)

/-- The variable part of an image is written to the slot's overflow area, in a layout that is open (R194; entry 42). -/
def State.spill (s : State) (c : CpId) : State :=
  let n := (s.slot c).variableBytes
  if n = 0 then s
  else
    let t : State := { s with fresh := s.fresh + n / 32 + 1 }
    t.store (s.slot c).part (s.overflowArea c) (freeBytes s.fresh n)

/-- It is read back when the slot is bound: the errors that the read meets are logged (R307; entry 42). -/
def State.unspill (s : State) (c : CpId) : State :=
  let n := (s.slot c).variableBytes
  if n = 0 || s.ecc.isEmpty then s else (s.load c (s.slot c).part (s.overflowArea c) n).1

/-- A scan puts the image of slot `inn` into the registers and writes that of slot `out`, if there is one, to the store: the errors of
both are logged, and a word that cannot be corrected stays so where it is put (entry 42). An armed injection marks the first word
written (R309). -/
def State.exchange (s : State) (inn : CpId) (out : Option CpId) : State :=
  let s1 := if s.ecc.isEmpty then s else
    let t := match out with | some o => (s.logArrays inn 6 6).logArrays o 1 3 | none => s.logArrays inn 6 6
    { t with ecc := t.ecc.filterMap fun m =>
        match m.inCore inn.core with
        | none => some m
        | some (a, e, w) =>
          if a = 6 then (if m.two then (imageWord w).map fun x => { m with word := arrWord inn.core x.1 x.2.1 x.2.2 } else none)
          else if 1 ≤ a ∧ a ≤ 3 then
            (if m.two && out.isSome then some { m with word := arrWord inn.core 6 0 (wordOfImage a e w) } else none)
          else some m }
  match out with
  | some o => s1.injectArr o.core (s1.slot o).part 6 0 0
  | none => s1

/-- SLOT_SWAP_DONE: the scan has exchanged the images, and the resumed slot runs (R195, R196). A slot that a gang's stop has taken since is not
resumed (R434). -/
def execSlotSwapDone (core : Fin 256) (s : State) : Out State :=
  .next <|
    match (s.core core).swap with
    | none => s
    | some i =>
      let c : CpId := ⟨core, i⟩
      let out := if (s.slot (otherSlot c)).status == 0x02 then some (otherSlot c) else none
      let s1 := s.modCore core fun k => { k with swap := none }
      let s2 := match out with | some o => s1.spill o | none => s1
      if (s.slot c).status == 0x02 then ((s2.exchange c out).unspill c).bindNow c else s2

/-- A task's initial image is written to the store while the other slot is bound. -/
def State.storeImage (s : State) (c : CpId) : State :=
  (if s.ecc.isEmpty then s else { s with ecc := s.ecc.filter fun m => match m.inCore c.core with | some (6, _, _) => false | _ => true }
    ).injectArr c.core (s.slot c).part 6 0 0

/-- A pre-emption of the bound slot by the standby one: the statuses exchange, and the standby slot is bound when the scan ends. -/
def State.swapSlots (s : State) (c : CpId) : State := ((s.preempt c).setStatus c 0x02).beginSwap c.core (otherSlot c).slot

/-! ### Commands (R346, R347) -/

/-- The record of a command: CFG is written. -/
def State.writeCfg (s : State) (c : CpId) (cfg : Word) : State := s.modSlot c fun t => { t with cfg := cfgFields cfg }

/-- A refused command sets STATUS; the fields written with it stand (R346). -/
def State.refuseCmd (s : State) (c : CpId) (cfg : Word) (v : BitVec 8) : State := (s.writeCfg c cfg).modSlot c fun t => { t with refusal := v }

/-- A command meets a quarantined core or a swap in progress (R347). -/
def State.cmdBlocked (s : State) (c : CpId) : Option (BitVec 8) :=
  if (s.core c.core).cquar then some 0x10 else if (s.core c.core).swap.isSome then some 0x12 else none

/-- The shares of a record are within CORESHARE's limits and agree with the other slot's record (R170, R347). -/
def State.recordOk (s : State) (c : CpId) (cfg : Word) : Bool :=
  let o := s.slot (otherSlot c)
  decide ((cfgSsb cfg).toNat ≤ 64) && decide ((cfgSmb cfg).toNat ≤ 64) && decide ((cfgLsb cfg).toNat ≤ 16) &&
  (o.status == 0 || (cfgSsb o.cfg == cfgSsb cfg && cfgSmb o.cfg == cfgSmb cfg && cfgLsb o.cfg == cfgLsb cfg && cfgGc o.cfg == cfgGc cfg)) &&
  (cfgGc cfg == 0 || (cfgSmb cfg).toNat % 4 == 0)

/-- Both partitions' policies permit a split binding (R349). -/
def State.splitOk (s : State) (c : CpId) : Bool :=
  (s.part (cfgPart (s.slot c).cfg)).pflags.getLsbD 2 && (s.part (cfgPart (s.slot (otherSlot c)).cfg)).pflags.getLsbD 2

/-- The time of the two slots of a core counts anew from a binding on (R348). -/
def State.freshTime (s : State) (k : Fin 256) : State := s.modCore k fun x => { x with ran := Vector.replicate 2 0, ranFrom := s.ftime }

/-- BIND with a launch. A share that passes to another partition's task is zeroed first. Under a split binding the task waits for the
other half, and is bound with it, or beside it when that is bound already (R349). The cores of a die in recovery stay gated (R409). -/
def State.bindCmd (s : State) (c : CpId) (cfg : Word) (l : Option Launch) : State :=
  let o := otherSlot c
  let other := (s.slot o).status
  let s0 := s.writeCfg c cfg
  if (s.die (dieOf c.core)).recovery then s
  else if (s.slot c).status != 0 || !s.recordOk c cfg then s.refuseCmd c cfg 0x11
  else if cfgGc cfg != 0 && (other == 0x01 || other == 0x02) && !s0.splitOk c then s.refuseCmd c cfg 0x11
  else
    let image := s0.startImage c l
    let s1 := ({ s0 with fresh := s0.fresh + 2 }.modSlot c fun _ => image).freshTime c.core
    let waits := (s1.setStatus c 0x02).claimShare c
    if cfgGc cfg == 0 then
      if other == 0x01 then waits.storeImage c else s1.bindNow c
    else if other == 0x02 then (s1.bindNow c).bindNow o
    else if other == 0x01 then s1.bindNow c
    else waits

/-- CMD_BIND (R347). -/
def execCmdBind (c : CpId) (cfg : Word) (s : State) : Out State :=
  .next <|
    match s.cmdBlocked c with
    | some v => s.refuseCmd c cfg v
    | none => s.bindCmd c cfg (s.launchAt (cfgPart cfg) (s.slot c).slate)

/-- CMD_SWAP (R347): BADREC on a split core and for any other pairing of states. -/
def execCmdSwap (c : CpId) (cfg : Word) (s : State) : Out State :=
  .next <|
    match s.cmdBlocked c with
    | some v => s.refuseCmd c cfg v
    | none =>
      let a := (s.slot c).status
      let b := (s.slot (otherSlot c)).status
      if (s.core c.core).split then s.refuseCmd c cfg 0x11
      else if a == 0x01 && b == 0x02 then (s.writeCfg c cfg).swapSlots c
      else if a == 0x02 && b == 0x01 then (s.writeCfg c cfg).swapSlots (otherSlot c)
      else s.refuseCmd c cfg 0x11

/-- A slot is unbound: a BOUND one stops first, and a STANDBY other slot is then bound, as when the slot was about to be bound. -/
def State.unbind (s : State) (c : CpId) : State :=
  let bound := (s.slot c).status == 0x01
  let s1 := (if bound then s.preempt c else s).emptySlot c
  if (bound || (s.core c.core).swap == some c.slot) && (s1.slot (otherSlot c)).status == 0x02 && (s1.core c.core).swap.isNone
  then s1.beginSwap c.core (otherSlot c).slot else s1

/-- CMD_UNBIND (R347). -/
def execCmdUnbind (c : CpId) (cfg : Word) (s : State) : Out State :=
  .next <|
    match s.cmdBlocked c with
    | some v => s.refuseCmd c cfg v
    | none => if (s.slot c).status == 0 then s.refuseCmd c cfg 0x11 else (s.writeCfg c cfg).unbind c

/-- CMD_RING (R347). -/
def execCmdRing (c : CpId) (cfg : Word) (s : State) : Out State :=
  .next <|
    match s.cmdBlocked c with
    | some v => s.refuseCmd c cfg v
    | none =>
      if (s.slot c).status == 0x01 || (s.slot c).status == 0x02 then
        ((s.writeCfg c cfg).modSlot c fun t => { t with refusal := 0 }).modCp c fun p => p.event evDB
      else s.refuseCmd c cfg 0x11

/-! ### The state of a gang (R430, R432, R435) -/

def State.modGang (s : State) (gid : Word) (f : Gang → Gang) : State :=
  { s with gangs := s.gangs.map fun g => if g.gid == gid then f g else g }

/-- The states at which the gang record's counter is signalled. -/
def GangState.signals : GangState → Bool
  | .confirmed => true
  | .aborted => true
  | .stopped => true
  | _ => false

/-- The initiator signals the gang record's counter, once. -/
def State.gangSignal (s : State) (g : Gang) : State :=
  let s1 := s.modGang g.gid fun g => { g with signalled := true }
  match g.ctr with
  | none => s1
  | some (va, pa) =>
    if pa.near then s1.addCounter g.home g.part pa g.inc
    else
      let x : CtrAdd :=
        { id := s1.ids, agent := .engine, sender := g.home, part := g.part, gen := (s1.part g.part).gen, wid := (s1.slot g.home).wid
          pa := pa, vaddr := va, inc := g.inc }
      { s1.newId with adds := s1.adds ++ [x] }

/-- A gang enters a state; the initiator writes STATUS of the record and signals its counter. -/
def State.enterState (s : State) (gid : Word) (x : GangState) : State :=
  match s.gang gid with
  | none => s
  | some g =>
    let s1 := s.modGang gid fun g => { g with state := x, since := s.timeNs }
    if !g.initHere then s1
    else
      let s2 := s1.firmwareStore g.part (pieceAt g.recPlaces 0x68) (g.recVa + 0x68) (leBytes 8 x.code)
      if x.signals && !g.signalled then s2.gangSignal g else s2

/-- A confirmed gang whose local tasks have all retired is RETIRED. -/
def State.gangRetire (s : State) (gid : Word) : State :=
  match s.gang gid with
  | none => s
  | some g =>
    let isOver := match g.launch.bind fun i => s.launches.find? fun l => l.id == i with
      | some l => decide (l.tasks ≤ l.retired.length)
      | none => false
    if g.state == .confirmed && isOver then s.enterState gid .retired else s

/-! ### Starting and retiring tasks (R340, R343 to R345) -/

/-- The gang of a launch has started, or it has none (R433). -/
def State.gangGo (s : State) (l : Launch) : Bool :=
  match l.gang with
  | none => true
  | some g => match s.gang g with | some x => x.started && (x.state == .committed || x.state == .confirmed) | none => false

/-- A core keeps the placement of a launch's tasks (R340). -/
def State.coreFits (s : State) (l : Launch) (wid : Word) (k : Fin 256) : Bool :=
  s.coreOfPart k l.part && (launchDies l.shape (dieOfQueue l.queue)).contains (dieOf k) &&
  (List.range 6).all fun f =>
    let hi := 2 ^ (fieldOffset l.shape (f + 1))
    shapeWidth l.shape f == 0 || shapePl l.shape f == 0 ||
      l.started.all fun x => x.1.toNat / hi != wid.toNat / hi || instanceOf (shapePl l.shape f) x.2.core == instanceOf (shapePl l.shape f) k

/-- A task is the next of an eligible launch, in increasing WID (R340, R342). -/
def State.taskReady (s : State) (l : Launch) (wid : Word) : Bool :=
  l.deps.all (·.met) && s.gangGo l && decide (l.started.length < l.tasks) &&
  s.tdiOf (s.part l.part).fn != .error && wid == BitVec.ofNat 64 (widOf l.shape l.extm1 6 l.started.length)

/-- The description of a partition on a core's die (R350). -/
def State.ptabOf (s : State) (k : Fin 256) (p : BitVec 5) : Ptab := (s.die (dieOf k)).ptab.get (ix32 p)

/-- A core is one of the cores that a partition keeps to itself: the lowest RESV of its cores on the die (R348; entry 13). -/
def State.reserved (s : State) (p : BitVec 5) (k : Fin 256) : Bool :=
  ((s.partCores p (dieOf k)).take (s.ptabOf k p).resv.toNat).contains k

/-- A task of a partition may share a core as R348 lets it: no other partition keeps the core to itself, and the one whose task holds the
other slot is in COLOC, and has this one in its own. -/
def State.shareOk (s : State) (p : BitVec 5) (c : CpId) : Bool :=
  let o := s.slot (otherSlot c)
  (List.range 32).all (fun q => q == p.toNat || !s.reserved (BitVec.ofNat 5 q) c.core) &&
  (!(o.status == 0x01 || o.status == 0x02) || o.part == p ||
    (!s.reserved p c.core && (s.ptabOf c.core p).coloc.getLsbD o.part.toNat && (s.ptabOf c.core o.part).coloc.getLsbD p.toNat))

/-- A partition may have a task bound on a core: QUOTA bounds the cores that it has bound at once (R348). -/
def State.quotaOk (s : State) (p : BitVec 5) (k : Fin 256) : Bool :=
  let has (j : Fin 256) : Bool := (s.core j).slots.toList.any fun t => t.bound && t.part == p
  has k || decide ((cores256.filter has).length < (s.ptabOf k p).quota.toNat)

/-- A gang that has answered ACK and has not started keeps a core for one of its tasks (R432, R433). -/
def State.gangHolds (s : State) (k : Fin 256) : Bool :=
  s.gangs.any fun g => (g.state == .ready || g.state == .committed || g.state == .confirmed) && !g.started && g.slots.any fun c => c.core == k

/-- The scheduling parameters, and what gangs keep, let a task of a partition start in a slot (R348, R432). -/
def State.scheduleOk (s : State) (p : BitVec 5) (c : CpId) : Bool :=
  !s.gangHolds c.core && s.shareOk p c && ((s.slot (otherSlot c)).bound || s.quotaOk p c.core)

/-- One task is bound: dispatch writes the record of an EMPTY slot and binds the next task of an eligible launch; the record keeps
its TVEC, PHASE and CHECK, and takes CORESHARE as it stands and the slate's priority and partition (R341, R343, R346). -/
def State.startOne (s : State) (launch : Nat) (wid : Word) (c : CpId) : Option State :=
  match s.launches.find? fun l => l.id == launch with
  | none => none
  | some l =>
    if !s.taskReady l wid || !s.coreFits l wid c.core || !s.scheduleOk l.part c || (s.slot c).status != 0 || (s.cmdBlocked c).isSome then none
    else
      let old := (s.slot c).cfg
      let k := s.core c.core
      let cfg := (old &&& ~~~(0xFF7F7FDF#64)) ||| BitVec.ofNat 64 (l.shape / 2 ^ 54 % 8 * 2 ^ 29 + l.part.toNat * 2 ^ 24
        + k.ssb.toNat * 2 ^ 16 + k.smb.toNat * 2 ^ 8 + k.gc.toNat * 2 ^ 6 + k.lsb.toNat)
      let va := ((s.part l.part).vaOf (s.launchPlace l.part (dieOfQueue l.queue) l.id)).getD s.freeWord
      let s1 := s.took.modSlot c fun t => { t with slate := va, wid := wid }
      let s2 := s1.bindCmd c cfg (some l)
      if (s2.slot c).status == 0 then none else some (s2.modLaunch launch fun x => { x with started := x.started ++ [(wid, c)] })

/-- The slots that take the other tasks of a co-resident group whose first task goes to `c`: EMPTY ones of other cores of the same
instance, lowest core first, whose other slot is BOUND just when `c`'s is, so that all tasks are bound or all stand by. -/
def State.groupSlots (s : State) (l : Launch) (wid : Word) (c : CpId) : List CpId :=
  let other (d : CpId) : Bool := (s.slot (otherSlot d)).status == 0x01
  (cores256.filter fun k => k != c.core && instanceOf (shapePl l.shape 0) k == instanceOf (shapePl l.shape 0) c.core
    && s.coreFits l wid k && !s.gangHolds k && (s.cmdBlocked ⟨k, 0⟩).isNone).filterMap fun k =>
      ([⟨k, 0⟩, ⟨k, 1⟩] : List CpId).find? fun d => (s.slot d).status == 0 && other d == other c

/-- The next tasks of a launch go to slots, one each: none when one of them cannot start. -/
def State.startAll (s : State) (launch : Nat) (l : Launch) (n : Nat) : List CpId → Option State
  | [] => some s
  | c :: t => match s.startOne launch (BitVec.ofNat 64 (widOf l.shape l.extm1 6 n)) c with
    | none => none
    | some u => u.startAll launch l (n + 1) t

/-- The next task of a launch is bound to a slot; a group at field 0 of a launch with CO is bound all at once, the others of it to the
slots that fit (R339, R340, R348). None when that cannot be. -/
def State.startNext (s : State) (l : Launch) (c : CpId) : Option State :=
  let n := l.started.length
  let e := fieldExtent l.shape l.extm1 0
  let wid := BitVec.ofNat 64 (widOf l.shape l.extm1 6 n)
  if !l.shape.testBit 62 then s.startOne l.id wid c
  else if n % e != 0 then none
  else
    let cs := c :: (s.groupSlots l wid c).take (e - 1)
    match s.startAll l.id l n cs with
    | none => none
    | some u => if cs.length = e ∧ cs.all (fun d => (u.slot d).status == (u.slot c).status) then some u else none

/-- The priority of a launch's tasks. -/
def Launch.prio (l : Launch) : Nat := l.shape / 2 ^ 54 % 8

/-- One launch's tasks are bound before another's of its partition: those of higher priority, and of equal priority those accepted
earlier (R348). -/
def Launch.precedes (x l : Launch) : Bool :=
  x.part == l.part && (decide (l.prio < x.prio) || (x.prio == l.prio && decide (x.id < l.id)))

/-- TASK_START: firmware binds the next task of an eligible launch to a slot, unless a task that goes before it could have the slot
(R348). -/
def execTaskStart (launch : Nat) (wid : Word) (c : CpId) (s : State) : Out State :=
  .next <|
    match s.launches.find? fun l => l.id == launch with
    | none => s
    | some l =>
      if wid != BitVec.ofNat 64 (widOf l.shape l.extm1 6 l.started.length) then s
      else if s.launches.any fun x => x.precedes l && (s.startNext x c).isSome then s
      else (s.startNext l c).getD s

/-- The regions of a slot end as by rstop (R247, R344). -/
def State.stopTakes (s : State) (c : CpId) : State := regions4.foldl (fun t r => t.stopTake c r) s

/-- The commands that retirement discards go, with the bindings that wait. -/
def State.discardQueue (s : State) (c : CpId) : State :=
  let s1 := s.modSlot c fun t => { t with cmdq := [], ports := t.ports.map fun q => { q with pending := none } }
  regions4.foldl (fun t r => t.modRegion c r fun g => { g with loading := none }) s1

/-- A retired task's slot: a STANDBY other slot is bound as by a swap (R344). -/
def State.retired (s : State) (c : CpId) : State :=
  let t := s.slot c
  let s1 := (s.setStatus c 0x03).modCp c fun p => { p with run := .stopped }
  let s2 := match t.launch with
    | none => s1
    | some l =>
      let u := (s1.modLaunch l fun x => { x with retired := addOnce t.wid x.retired }).launchProgress l
      match (s1.launches.find? fun x => x.id == l).bind (·.gang) with
      | some gid => u.gangRetire gid
      | none => u
  if (s2.slot (otherSlot c)).status == 0x02 && !(s2.core c.core).split then s2.beginSwap c.core (otherSlot c).slot else s2

/-- Everything that the task has under way outside its CP has ended: counter adds of its takes and engines, collectives, the record of
a failed mload, its outbound tokens and its tiles, those of stopped regions too, and the calls that have their input (R280). -/
def State.engineDone (s : State) (c : CpId) : Bool :=
  let t := s.slot c
  !s.adds.any (fun x => x.sender == c) && t.colls.isEmpty && t.mreport.isNone &&
  !((s.core c.core).ring.any fun x => x.slot == c.slot && !x.inbound && x.pos != .form && x.pos != .refused) &&
  !s.tiles.any (fun x => x.sender == c && x.wid == t.wid && x.part == t.part) &&
  !s.chiplets.toList.any fun k => k.calls.any fun x => x.caller == c && x.wid == t.wid && x.part == t.part && (x.isFed || x.report.isSome)

/-- TASK_RETIRE (R344): the thread has fetched at the retire address. First the slot's accesses and memory-writing commands end,
then what is left of the queue is discarded and the takes drain, then the slot is RETIRED. -/
def execTaskRetire (c : CpId) (s : State) : Out State :=
  .next <|
    let t := s.slot c
    if !t.bound then s
    else match t.cp.run with
    | .retiring false =>
      if s.accessesDone c && t.writesDone s.ids then
        ((s.discardQueue c).stopTakes c).modCp c fun p => { p with run := .retiring true }
      else s
    | .retiring true =>
      if s.accessesDone c && t.regions.toList.all (fun g => !g.counts) && s.engineDone c then s.retired c else s
    | _ => s

/-- The live slots of the co-resident group of a slot's task, or the slot alone. -/
def State.groupOf (s : State) (c : CpId) : List CpId :=
  match (s.slot c).launch.bind fun i => s.launches.find? fun l => l.id == i with
  | none => [c]
  | some l =>
    if !l.shape.testBit 62 then [c]
    else
      let g (w : Word) : Nat := w.toNat / 2 ^ fieldOffset l.shape 1
      (l.started.filter fun x => g x.1 == g (s.slot c).wid && (s.slot x.2).launch == some l.id && (s.slot x.2).wid == x.1 &&
        ((s.slot x.2).status == 0x01 || (s.slot x.2).status == 0x02)).map (·.2)

/-- The cores that a swap of some cores takes with it, since a co-resident group is pre-empted and resumed only as a whole. -/
def State.swapCores (s : State) : Nat → List (Fin 256) → List (Fin 256)
  | 0, ks => ks
  | n + 1, ks =>
    let more := (ks.flatMap fun k => (s.groupOf ⟨k, 0⟩ ++ s.groupOf ⟨k, 1⟩).map (·.core)).filter fun k => !ks.contains k
    if more.isEmpty then ks else s.swapCores n (ks ++ more.dedup)

/-- The bound slot of a core whose other slot stands by and whose swap nothing prevents (R195, R347, R348, R349). -/
def State.swappable (s : State) (core : Fin 256) : Option CpId :=
  let k := s.core core
  if k.split || k.cquar || k.swap.isSome then none
  else ([⟨core, 0⟩, ⟨core, 1⟩] : List CpId).find? fun c =>
    let o := s.slot (otherSlot c)
    (s.slot c).status == 0x01 && o.status == 0x02 && ((s.slot c).part == o.part || s.quotaOk o.part core)

/-- A core is swapped, with the cores that go with it; nothing happens when one of them cannot be. -/
def State.swapWhole (s : State) (core : Fin 256) : State :=
  let cs := (s.swapCores 256 [core]).map s.swappable
  if cs.all Option.isSome then (cs.filterMap id).foldl State.swapSlots s else s

/-- The quantum of a slot's partition is over: it counts units of 100 µs, and fabric time elevenths of a nanosecond. -/
def State.quantumOver (s : State) (c : CpId) : Bool :=
  decide ((s.ptabOf c.core (s.slot c).part).quantum.toNat * 1100000 ≤ s.ftime - (s.core c.core).ranFrom)

/-- The other slot has had less of the core's time than its partition's weight gives it. -/
def State.owesTime (s : State) (c : CpId) : Bool :=
  let k := (s.charge c).core c.core
  let w (d : CpId) : Nat := (s.ptabOf d.core (s.slot d).part).weight.toNat
  decide (k.ran.get (otherSlot c).slot * w c < k.ran.get c.slot * w (otherSlot c))

/-- A core is to change its task (R348): a task of higher priority of the same partition stands by, or the quantum is over and the weights give
the core to another partition's. -/
def State.swapWanted (s : State) (core : Fin 256) : Bool :=
  match s.swappable core with
  | none => false
  | some c =>
    let a := s.slot c
    let b := s.slot (otherSlot c)
    if a.part == b.part then decide (a.prio.toNat < b.prio.toNat) else s.quantumOver c && s.owesTime c

/-- SCHEDULER_QUANTUM: firmware swaps a core whose task is to change (R348). -/
def execSchedulerQuantum (core : Fin 256) (s : State) : Out State :=
  .next <| if s.swapWanted core then s.swapWhole core else s

/-- An EMPTY slot stands beside a task of lower priority of a launch's partition, which the core runs. -/
def State.besideLower (s : State) (l : Launch) (c : CpId) : Bool :=
  let o := s.slot (otherSlot c)
  o.status == 0x01 && o.part == l.part && decide (o.prio.toNat < l.prio)

/-- What firmware owes its partitions in this grid cycle (R348): the cores whose task is to change, and the next task of an eligible launch while a
task of lower priority of its partition runs where it could. Which of the slots that fit it gets is open, and a free value names it (entry 13). -/
def State.scheduling (s : State) : List Instr :=
  let swaps := (cores256.filter fun k => (s.core k).slots.toList.all (fun t => t.status != 0) && s.swapWanted k).map Instr.schedulerQuantum
  let starts := s.launches.filterMap fun l =>
    let wid := BitVec.ofNat 64 (widOf l.shape l.extm1 6 l.started.length)
    if !s.taskReady l wid then none
    else
      let cs := allSlots.filter fun c => (s.slot c).status == 0 && s.coreFits l wid c.core && s.scheduleOk l.part c && (s.cmdBlocked c).isNone
      if cs.any (s.besideLower l) then (cs[s.freeWord.toNat % cs.length]?).map fun c => Instr.taskStart l.id wid c else none
  swaps ++ starts

/-! ### Bank sparing (R354) -/

/-- SPCTL_GO: a write of SPCTL. -/
def execSpctlGo (d : Fin 4) (k : Fin 2) (v : Word) (s : State) : Out State :=
  .next <| s.modDie d fun x => x.modCtl k fun l =>
    let pch : BitVec 6 := v.extractLsb' 12 6
    let go := v.getLsbD 63 && !l.spBusy && !l.spUsed.contains pch
    let used := if v.getLsbD 60 || go then pch :: l.spUsed.filter (· != pch) else l.spUsed.filter (· != pch)
    { l with spPch := pch, spBank := v.extractLsb' 0 6, spDone := l.spDone && !v.getLsbD 61, spUsed := used, spBusy := l.spBusy || go
             spB := if go then 0 else l.spB }

/-- A mark lies in a row of the bank that is being spared: address bits [13:8] name the pseudo-channel of a stack, and which bank and row
an address has is the package's (entry 38). -/
def HbmCtl.inRow (l : HbmCtl) (d : Fin 4) (k : Fin 2) (m : EccMark) : Bool :=
  let off := 8 * m.word % 2 ^ 64
  8 * m.word / 2 ^ 64 == Space.index (.hbm d) && ctlOf off == k && off / 256 % 64 == l.spPch.toNat &&
  Config.hbmBank off == l.spBank.toNat && Config.hbmRow off == l.spB.toNat

/-- A row is read with correction and written to the spare: its errors are logged; what is corrected is good afterwards, and what cannot
be is marked poisoned (R354). -/
def State.copyRow (s : State) (d : Fin 4) (k : Fin 2) : State :=
  let l := (s.die d).ctl.get k
  let t := (s.ecc.filter (l.inRow d k)).foldl (fun t m => t.logAt ⟨coreOf d 0 0, 0⟩ 0 ⟨.hbm d, 8 * m.word % 2 ^ 64⟩ m) s
  { t with ecc := t.ecc.filter fun m => m.two || !l.inRow d k m }

/-- SPARE_ROW_COPY: the next row is copied, and the last one sets DONE. What a row holds does not change. -/
def execSpareRowCopy (d : Fin 4) (k : Fin 2) (s : State) : Out State :=
  .next <| (if ((s.die d).ctl.get k).spBusy && !s.ecc.isEmpty then s.copyRow d k else s).modDie d fun x => x.modCtl k fun l =>
    if !l.spBusy then l
    else if l.spB.toNat + 1 = 16384 then { l with spB := l.spB + 1, spBusy := false, spDone := true }
    else { l with spB := l.spB + 1 }

/-- SPCTL as it reads. -/
def HbmCtl.spWord (l : HbmCtl) : Word :=
  BitVec.ofNat 64 (l.spBusy.toNat * 2 ^ 62 + l.spDone.toNat * 2 ^ 61 + (if l.spUsed.contains l.spPch then 2 ^ 60 else 0)
    + l.spB.toNat * 2 ^ 32 + l.spPch.toNat * 2 ^ 12 + l.spBank.toNat)

/-! ### Injection (R309, R353) -/

def execEinjWrite (core : Fin 256) (v : Word) (s : State) : Out State := .next <| s.modCore core fun k => { k with einj := injFields v }
def execHinjWrite (d : Fin 4) (k : Fin 2) (v : Word) (s : State) : Out State :=
  .next <| s.modDie d fun x => x.modCtl k fun l => { l with hinj := injFields v }

/-! ### Die crossings (R358, R359) -/

/-- The pattern that a port works on: the running stream's, else the pending binding's. -/
def PortCtx.pattern (q : PortCtx) : Option (BitVec 512) :=
  match q.run with
  | some st => some st.pat
  | none => q.pending.map (·.pat)

/-- A pattern names a slot and port of another die. -/
def names (p : BitVec 512) (c : CpId) (q : BitVec 5) : Bool :=
  let d := BitVec.ofNat 64 (patBase p)
  patSpace p == 2 && wbits d 63 62 == 0 && descCp d == c && descPort d == q

/-- What a receiver has granted in all (R359): its tap queue holds 16 tokens, and its pattern's count is not exceeded. -/
def PortCtx.grantEnd (q : PortCtx) (total : Nat) : Nat := max q.chan.recvEnd (min total (q.chan.recvSeq - q.unconsumed + 16))

/-- CROSSING_CHANNEL_OPEN: a write pattern and a read pattern are bound and each names the other, in one partition. A bound
receiver grants its first window; tokens of an earlier channel are gone. -/
def execCrossingChannelOpen (a : CpId) (p : BitVec 5) (b : CpId) (q : BitVec 5) (s : State) : Out State :=
  .next <|
    let x := (s.slot a).port p
    let y := (s.slot b).port q
    match x.pattern, y.pattern with
    | some w, some r =>
      if names w b q && names r a p && patWrite w && !patWrite r && (s.slot a).part == (s.slot b).part && !x.chan.isOpen && !y.chan.isOpen then
        let first := if s.onGrid b then min 16 (patTotal r) else 0
        let s1 := s.modCore b.core fun k => { k with ring := k.ring.filter fun t => !(t.slot == b.slot && t.port == q && t.inbound) }
        (s1.modPort a p fun z => { z with chan := { Channel.closed with isOpen := true, sendEnd := first } }).modPort b q fun z =>
          { z with chan := { Channel.closed with isOpen := true, recvEnd := first } }
      else s
    | _, _ => s

/-- WINDOW_GRANT: the receiver of an open channel grants what its tap queue has room for (R359, R426). A fabric channel sends a
credit flit with its window: the next sequence number it expects, and a count (R359). -/
def execWindowGrant (c : CpId) (p : BitVec 5) (s : State) : Out State :=
  .next <|
    let t := s.slot c
    let q := t.port p
    match q.pattern with
    | none => s
    | some r =>
      if !q.chan.isOpen || patWrite r || !s.onGrid c || patSpace r != 2 then s
      else
        let e := q.grantEnd (patTotal r)
        let d := BitVec.ofNat 64 (patBase r)
        let s1 := s.modPort c p fun z => { z with chan := { z.chan with recvEnd := e } }
        if e = q.chan.recvEnd then s
        else if wbits d 63 62 == 0 then s1.modPort (descCp d) (descPort d) fun z => { z with chan := { z.chan with sendEnd := e } }
        else s1.tellWindow { q.chan with recvEnd := e } d

/-! ### The fault buffer (R302, R303, R360) -/

/-- Records in the buffer. -/
def Die.held (d : Die) : Nat := (d.fbTail - d.fbHead).toNat

/-- The management core's interrupt stands while the buffer holds a record (R360). -/
def Die.interrupt (d : Die) : Bool := d.fbTail != d.fbHead

/-- A record enters the buffer, at the slot of its count. -/
def Die.accept (d : Die) (r : FaultRec) : Die :=
  let i := d.fbTail.toNat % 1024
  { d with fbTail := d.fbTail + 1, fbuf := (i, r) :: d.fbuf.filter fun x => x.1 != i }

/-- The records of a source that wait, the grid cycles until its next offer, and its back-off. -/
structure RecQueue where
  recs : List FaultRec
  offerIn : Nat
  backoff : Nat
  deriving DecidableEq, Repr, Inhabited

/-- The oldest record is offered: a full buffer refuses it, and the back-off doubles up to 1 ms (R303). -/
def RecQueue.offer (q : RecQueue) (full : Bool) : RecQueue :=
  if full then { q with offerIn := q.backoff, backoff := min 1100000 (2 * q.backoff) } else ⟨q.recs.drop 1, 0, 1100⟩

/-- FAULT_RECORD_OFFER: a source of records offers its oldest one to the fault buffer of its die. -/
def execFaultRecordOffer (x : RecSource) (s : State) : Out State :=
  .next <|
    let (d, q) : Fin 4 × RecQueue := match x with
      | .core k => (dieOf k, ⟨(s.core k).recq, (s.core k).offerIn, (s.core k).backoff⟩)
      | .hbm d k => let l := (s.die d).ctl.get k; (d, ⟨l.recs, l.offerIn, l.backoff⟩)
    match q.recs with
    | [] => s
    | r :: _ =>
      if q.offerIn != 0 then s
      else
        let full := decide (1024 ≤ (s.die d).held)
        let n := q.offer full
        let s1 := if full then s else s.modDie d fun y => y.accept r
        match x with
        | .core k => s1.modCore k fun y => ({ y with recq := n.recs, offerIn := n.offerIn, backoff := n.backoff } : Core).enterRecs
        | .hbm d k => s1.modDie d fun y => y.modCtl k fun l => { l with recs := n.recs, offerIn := n.offerIn, backoff := n.backoff }

/-- The partition that a record names. -/
def recPart (r : FaultRec) : BitVec 5 := r.extractLsb' 16 5

/-- A consumed record is reported to function 0, and to the tenant's function when its policy asks (R360, R405, R412). -/
def State.reportRec (s : State) (r : FaultRec) : State :=
  let p := s.part (recPart r)
  let s1 := s.msix 0 1
  if p.live && p.pflags.getLsbD 3 then s1.msix p.fn 1 else s1

/-- FBCTL_HEAD_WRITE: a value outside HEAD to TAIL is ignored (R360). -/
def execFbctlHeadWrite (d : Fin 4) (v : W32) (s : State) : Out State :=
  .next <|
    let x := s.die d
    let n := (v - x.fbHead).toNat
    if x.held < n then s
    else
      let recs := (List.range n).filterMap fun i => (x.fbuf.find? fun y => y.1 == (x.fbHead.toNat + i) % 1024).map (·.2)
      recs.foldl State.reportRec (s.modDie d fun x => { x with fbHead := v })

/-! ### Energy (R361; how much each slot and take uses is entry 14's) -/

/-- A slot's share of a sample goes to its task, to each take it runs and to its partition. -/
def State.creditSlot (s : State) (d : Fin 4) (c : CpId) (uj : Word) : State :=
  let t := s.slot c
  (s.modSlot c fun x => { x with energy := x.energy + uj, regions := x.regions.map fun g => if g.counts then { g with energy := g.energy + uj } else g }).modDie d
    fun x => { x with epart := vmod x.epart (ix32 t.part) (· + uj) }

/-- The energy of a sample is divided: each share is free, and what is left belongs to no partition. -/
def State.divide (s : State) (d : Fin 4) : List CpId → Word → State
  | [], left => s.modDie d fun x => { x with eunattr := x.eunattr + left }
  | c :: t, left =>
    let e := Config.energy s.fresh
    let share := if e.toNat ≤ left.toNat then e else left
    (s.took.creditSlot d c share).divide d t (left - share)

/-- ENERGY_SAMPLE: one sample of a die's rails. -/
def execEnergySample (d : Fin 4) (uj : Word) (s : State) : Out State :=
  .next <| s.divide d (allSlots.filter fun c => dieOf c.core == d && s.onGrid c) uj

end Sys2Proof.Machine
end

