-- ==== Sys2Proof/Machine/Registers.lean ====
section
/-! DEFINITION. The management space: the map of its registers, their access codes, and the guard on what a locked TDI has bound
(R18, R19, R334, R365, R404, R407). Offsets count bytes of BAR 0 of the physical function. -/
namespace Sys2Proof.Machine

/-! ### The map -/

/-- A 64-bit register or word of the map. -/
inductive MReg where
  | wqBase (q : Fin 4096)
  | wqCfg (q : Fin 4096)
  | wqTail (q : Fin 4096)
  | wqHead (q : Fin 4096)
  | wqErr (q : Fin 4096)
  | wqRing (q : Fin 4096)
  /-- words 0 to 3 of a bind record -/
  | bindRec (c : CpId) (w : Fin 4)
  | ptab (d : Fin 4) (p : BitVec 5) (off : Nat)
  | fbctl (d : Fin 4)
  | fbuf (d : Fin 4) (i : Nat) (off : Nat)
  | epart (d : Fin 4) (p : BitVec 5)
  | eunattr (d : Fin 4)
  | eskip (d : Fin 4) (p : BitVec 5)
  | pwrstat (d : Fin 4)
  | hlogStat (d : Fin 4) (k : Fin 2)
  | hlogAddr (d : Fin 4) (k : Fin 2)
  | hinj (d : Fin 4) (k : Fin 2)
  | spctl (d : Fin 4) (k : Fin 2)
  | elogStat (k : Fin 256) (a : Fin 8)
  | elogAddr (k : Fin 256) (a : Fin 8)
  | einj (k : Fin 256)
  | fuse (k : Fin 256) (w : Nat)
  | cquar (k : Fin 256)
  | gdcnt (k : Fin 256)
  | cblogStat (cl : Fin 32)
  | cblogAddr (cl : Fin 32)
  | cbinj (cl : Fin 32)
  | cdlog (cl : Fin 32)
  | cbarcfg (cl : Fin 32) (b : BitVec 4)
  | owner (cl : Fin 32) (u : Fin 128)
  | granule (d : Fin 4) (g : Fin 94)
  /-- a word of the key of a key ID: firmware's is 0, partition p's is p + 1 -/
  | key (d : Fin 4) (k : Fin 2) (id : Fin 33) (w : Fin 4)
  /-- what the operator's firmware programs of the fabric: EP, and the route of an endpoint -/
  | ep
  | route (e : BitVec 20)
  | ftstat (d : Fin 4)
  | dovfbase (d : Fin 4)
  | mbcmd
  | mbarg (i : Fin 4)
  | mbstat
  | kvpool (ch : Fin 2) (p : BitVec 6)
  | salt (ch : Fin 2) (p : BitVec 5) (w : Nat)
  | kvlogStat (ch : Fin 2)
  | kvlogAddr (ch : Fin 2)
  | kvinj (ch : Fin 2)
  | hsteer (fn : BitVec 8)
  | reserved
  deriving DecidableEq, Repr, Inhabited

/-- A register of a die's work queue q. -/
def wqReg (q : Fin 4096) (o : Nat) : MReg :=
  match o with
  | 0x00 => .wqBase q
  | 0x08 => .wqCfg q
  | 0x10 => .wqTail q
  | 0x18 => .wqHead q
  | 0x20 => .wqErr q
  | 0x28 => .wqRing q
  | _ => .reserved

/-- A register of a core block. -/
def coreReg (k : Fin 256) (o : Nat) : MReg :=
  if o < 0x80 then (if o % 16 = 0 then .elogStat k ⟨o / 16 % 8, by omega⟩ else .elogAddr k ⟨o / 16 % 8, by omega⟩)
  else if o = 0x80 then .einj k
  else if 0x100 ≤ o ∧ o < 0x120 then .fuse k ((o - 0x100) / 8)
  else if o = 0x120 then .cquar k
  else if o = 0x128 then .gdcnt k
  else .reserved

/-- A register of a cluster block. -/
def clusterReg (cl : Fin 32) (o : Nat) : MReg :=
  if o = 0 then .cblogStat cl
  else if o = 0x08 then .cblogAddr cl
  else if o = 0x10 then .cbinj cl
  else if o = 0x18 then .cdlog cl
  else if 0x100 ≤ o ∧ o < 0x180 then .cbarcfg cl (BitVec.ofNat 4 ((o - 0x100) / 8))
  else if 0x200 ≤ o ∧ o < 0x600 then .owner cl ⟨(o - 0x200) / 8 % 128, by omega⟩
  else .reserved

/-- A register of an HBM controller block; the places in the block are entry 26's choice. -/
def ctlReg (d : Fin 4) (k : Fin 2) (o : Nat) : MReg :=
  match o with
  | 0x000 => .hlogStat d k
  | 0x008 => .hlogAddr d k
  | 0x010 => .hinj d k
  | 0x018 => .spctl d k
  | _ =>
    if h : 0x400 ≤ o ∧ o < 0x400 + 8 * 94 then .granule d ⟨(o - 0x400) / 8, by omega⟩
    else if h : 0x800 ≤ o ∧ o < 0x800 + 32 * 33 then .key d k ⟨(o - 0x800) / 32, by omega⟩ ⟨o / 8 % 4, by omega⟩
    else .reserved

/-- A die's management space at an aligned offset (R334, R420, R429). -/
def dieReg (d : Fin 4) (o : Nat) : MReg :=
  if o < 0x010000 then wqReg ⟨d.val * 1024 + o / 64 % 1024, by omega⟩ (o % 64)
  else if o < 0x011000 then
    let x := o - 0x010000
    .bindRec ⟨⟨d.val * 64 + x / 64 % 64, by omega⟩, ⟨x / 32 % 2, by omega⟩⟩ ⟨x / 8 % 4, by omega⟩
  else if 0x020000 ≤ o ∧ o < 0x022000 then .ptab d (BitVec.ofNat 5 ((o - 0x020000) / 256)) (o % 256)
  else if o = 0x030000 then .fbctl d
  else if 0x040000 ≤ o ∧ o < 0x050000 then .fbuf d ((o - 0x040000) / 64) (o % 64)
  else if 0x060000 ≤ o ∧ o < 0x060100 then .epart d (BitVec.ofNat 5 ((o - 0x060000) / 8))
  else if o = 0x060100 then .eunattr d
  else if 0x060200 ≤ o ∧ o < 0x060300 then .eskip d (BitVec.ofNat 5 ((o - 0x060200) / 8))
  else if o = 0x060800 then .pwrstat d
  else if 0x070000 ≤ o ∧ o < 0x072000 then ctlReg d ⟨(o - 0x070000) / 0x1000 % 2, by omega⟩ (o % 0x1000)
  else if 0x080000 ≤ o ∧ o < 0x0C0000 then coreReg ⟨d.val * 64 + (o - 0x080000) / 0x1000 % 64, by omega⟩ (o % 0x1000)
  else if 0x0C0000 ≤ o ∧ o < 0x0C8000 then clusterReg ⟨d.val * 8 + (o - 0x0C0000) / 0x1000 % 8, by omega⟩ (o % 0x1000)
  else if o = 0x0E0800 then .ftstat d
  else if o = 0x0F0000 then .dovfbase d
  else if d = 0 ∧ o = 0x0F0100 then .mbcmd
  else if d = 0 ∧ 0x0F0108 ≤ o ∧ o < 0x0F0128 then .mbarg ⟨(o - 0x0F0108) / 8 % 4, by omega⟩
  else if d = 0 ∧ o = 0x0F0128 then .mbstat
  else .reserved

/-- A chiplet's management space (R365). -/
def chipletReg (ch : Fin 2) (o : Nat) : MReg :=
  if o < 0x200 then .kvpool ch (BitVec.ofNat 6 (o / 8))
  else if 0x1000 ≤ o ∧ o < 0x1400 then .salt ch (BitVec.ofNat 5 ((o - 0x1000) / 32)) (o / 8 % 4)
  else if o = 0x2000 then .kvlogStat ch
  else if o = 0x2008 then .kvlogAddr ch
  else if o = 0x2010 then .kvinj ch
  else .reserved

/-- The offset at which the model has the fabric's programming, beyond BAR 0: the spec gives it no place (R424; entry 29). -/
def fabricBase : Nat := 2 ^ 32

/-- BAR 0 of the physical function at an aligned offset (R404), and beyond it what the spec gives no place. -/
def mreg (off : Nat) : MReg :=
  if off % 8 ≠ 0 then .reserved
  else if off < 0x4000000 then dieReg ⟨off / 0x1000000 % 4, by omega⟩ (off % 0x1000000)
  else if off < 0x6000000 then chipletReg ⟨off / 0x1000000 % 2, by omega⟩ (off % 0x1000000)
  else if off < 0x6000000 + 8 * 253 then .hsteer (BitVec.ofNat 8 ((off - 0x6000000) / 8))
  else if off = fabricBase then .ep
  else if 2 * fabricBase ≤ off ∧ off < 2 * fabricBase + 8 * 2 ^ 20 then .route (BitVec.ofNat 20 ((off - 2 * fabricBase) / 8))
  else .reserved

/-! ### Reading -/

/-- The bytes of a PTAB entry (R350). -/
def Ptab.bytes (p : Ptab) : List Byte :=
  [p.state, p.pflags, p.fn, p.weight] ++ leBytes 2 p.quota.toNat ++ leBytes 2 p.resv.toNat ++ leBytes 2 p.quantum.toNat ++
  leBytes 2 p.ngran.toNat ++ leBytes 4 p.coloc.toNat ++ leBytes 8 p.cores.toNat ++ leBytes 8 p.ptroot.toNat ++
  leBytes 8 p.ltab.toNat ++ leBytes 8 p.btab.toNat ++ leBytes 8 p.escrow.toNat ++ List.replicate 8 0 ++
  (p.tkdig ++ List.replicate 64 0).take 64 ++ (p.rkdig ++ List.replicate 64 0).take 64 ++ List.replicate 64 0

/-- MBSTAT (R413). -/
def Mailbox.stat (m : Mailbox) : Word := BitVec.ofNat 64 (m.busy.toNat * 2 ^ 63 + m.detail.toNat * 256 + m.result.toNat)

/-- What a register reads as; write-only registers and reserved offsets read zero (R18, R334). -/
def State.readReg (s : State) : MReg → Word
  | .wqBase q => (s.wq q.val).base
  | .wqCfg q => (s.wq q.val).cfg
  | .wqTail q => (s.wq q.val).tail.setWidth 64
  | .wqHead q => (s.wq q.val).head.setWidth 64
  | .wqErr q => (s.wq q.val).err
  | .wqRing _ => 0
  | .bindRec c w =>
    let t := s.slot c
    match w with
    | 0 => t.slate
    | 1 => t.wid
    | 2 => t.tvec
    | _ => t.cfgWord
  | .ptab d p off => fld64 ((s.die d).ptab.get (ix32 p)).bytes off
  | .fbctl d => (s.die d).fbTail ++ (s.die d).fbHead
  | .fbuf d i off => match (s.die d).fbuf.find? fun x => x.1 == i with
    | some x => x.2.extractLsb' (8 * off) 64
    | none => 0
  | .epart d p => (s.die d).epart.get (ix32 p)
  | .eunattr d => (s.die d).eunattr
  | .eskip d p => (s.die d).eskip.get (ix32 p)
  | .pwrstat d => (s.die d).pwrstat
  | .hlogStat d k => ((s.die d).ctl.get k).hlog.stat
  | .hlogAddr d k => ((s.die d).ctl.get k).hlog.addr
  | .hinj d k => ((s.die d).ctl.get k).hinj
  | .spctl d k => ((s.die d).ctl.get k).spWord
  | .elogStat k a => ((s.core k).elog.get a).stat
  | .elogAddr k a => ((s.core k).elog.get a).addr
  | .einj k => (s.core k).einj
  | .fuse k w => (s.core k).fuse.extractLsb' (64 * w) 64
  | .cquar k => BitVec.ofNat 64 (s.core k).cquar.toNat
  | .gdcnt k => (s.core k).gdcnt
  | .cblogStat cl => (s.cluster cl).cblog.stat
  | .cblogAddr cl => (s.cluster cl).cblog.addr
  | .cbinj cl => (s.cluster cl).cbinj
  | .cdlog cl => (s.cluster cl).cdlog
  | .cbarcfg cl b => (s.cluster cl).barWord b
  | .owner cl u => BitVec.ofNat 64 (((s.cluster cl).owners.get u).isSome.toNat * 128 + ((s.cluster cl).ownerPart.get u).toNat)
  | .granule d g => match (s.die d).granules.get g with
    | some p => BitVec.ofNat 64 (128 + p.toNat)
    | none => 0
  | .key .. => 0
  | .ep => s.ep.setWidth 64
  | .route e => match s.routeTo e with | some p => BitVec.ofNat 64 (128 + p.val) | none => 0
  | .ftstat d => (s.die d).ftstat
  | .dovfbase d => (s.die d).dovfbase
  | .mbcmd => s.mailbox.cmd
  | .mbarg i => s.mailbox.arg.get i
  | .mbstat => s.mailbox.stat
  | .kvpool ch p => (s.chiplet ch).poolWord p
  | .salt _ _ _ => 0
  | .kvlogStat ch => (s.chiplet ch).kvlog.stat
  | .kvlogAddr ch => (s.chiplet ch).kvlog.addr
  | .kvinj ch => (s.chiplet ch).kvinj
  | .hsteer fn => BitVec.ofNat 64 (s.steers fn).toNat
  | .reserved => 0

/-! ### What a locked TDI has bound (R407) -/

/-- The function's TDI has frozen its resources: from CONFIG_LOCKED onward, in ERROR too. -/
def State.locked (s : State) (fn : BitVec 8) : Bool := s.tdiOf fn != .unlocked
/-- A partition whose function is locked. -/
def State.partLocked (s : State) (p : BitVec 5) : Bool := (s.part p).live && s.locked (s.part p).fn

/-- A function's TDI takes a state, and its vector 2 is signalled (R405). -/
def State.setTdi (s : State) (fn : BitVec 8) (x : Tdi) : State :=
  if h : fn.toNat < 253 then ({ s with tdi := vmod s.tdi ⟨fn.toNat, h⟩ fun _ => x } : State).msix fn 2 else s

/-- The partitions of a function. -/
def State.partsOf (s : State) (fn : BitVec 8) : List (BitVec 5) :=
  ((List.range 32).map (BitVec.ofNat 5)).filter fun p => (s.part p).live && (s.part p).fn == fn

/-- Every slot of a partition is unbound. -/
def State.unbindPart (s : State) (p : BitVec 5) : State :=
  (allSlots.filter fun c => (s.slot c).status != 0 && (s.slot c).part == p).foldl (fun t c => t.unbind c) s

/-- A key or salt of 256 bits with one of its words written (R351, R365). -/
def setKeyWord (v : BitVec 256) (w : Nat) (x : Word) : BitVec 256 :=
  (v &&& ~~~(BitVec.ofNat 256 (0xFFFFFFFFFFFFFFFF * 2 ^ (64 * w)))) ||| BitVec.ofNat 256 (x.toNat * 2 ^ (64 * w))

/-- A key is installed as a partition's key ID in every controller (R351, R412). -/
def State.installKey (s : State) (p : BitVec 5) (key : BitVec 256) : State :=
  let s1 := s.modPart p fun x => { x with key := key }
  { s1 with dies := s1.dies.map fun d => { d with ctl := d.ctl.map fun l => { l with keys := vmod l.keys (keyId (some p)) fun _ => key } } }

/-- A partition's key is overwritten: what was written under it reads as unpredictable bytes (R351). -/
def State.rekey (s : State) (p : BitVec 5) : State := s.took.installKey p (Config.drawKey s.fresh)

/-- The escrow packages that PTAB names for a partition (R350, R418). -/
def State.escrowEps (s : State) (p : BitVec 5) : List (BitVec 20) :=
  let e := ((s.die 0).ptab.get (ix32 p)).escrow
  ([e.extractLsb' 0 20, e.extractLsb' 20 20] : List (BitVec 20)).filter (· != 0xFFFFF)

/-- A session is opened with each escrow package of a partition (R418). -/
def State.askEscrow (s : State) (p : BitVec 5) (restore : Bool) : State :=
  (s.escrowEps p).foldl (fun t ep =>
    ({ t with escrowAsks := if t.escrowAsks.contains (ep, p) then t.escrowAsks else t.escrowAsks ++ [(ep, p)] } : State).toFabric ep (.escrowAsk p restore)) s

/-- A partition's key is escrowed: it goes to each escrow package when its measurements have come (R418). -/
def State.escrowKey (s : State) (p : BitVec 5) : State := s.askEscrow p false

/-- A TDI enters ERROR, unless it is there: its partitions' slots are unbound and their keys overwritten, and the new keys escrowed
(R418). -/
def State.tdiError (s : State) (fn : BitVec 8) : State :=
  if s.tdiOf fn == .error then s
  else ((s.partsOf fn).foldl (fun t p => ((t.unbindPart p).rekey p).escrowKey p) s).setTdi fn .error

/-- The fields of WQ.CFG (R336). -/
def wqCfgFields (v : Word) : Word := v &&& 0x1FF9F1F#64

/-- The function of a key ID's partition. -/
def State.fnOfKey (s : State) (id : Fin 33) : List (BitVec 8) := if id = 0 then [] else [(s.part (BitVec.ofNat 5 (id.val - 1))).fn]

/-- An owner register's new owner (R318, R351). -/
def ownerField (v : Word) : Option (BitVec 5) := if v.getLsbD 7 then some (v.setWidth 5) else none

/-- The functions whose bound resources a write of a register touches: the present owner's, and that of the owner written. -/
def State.boundFns (s : State) (r : MReg) (v : Word) : List (BitVec 8) :=
  let fns (o : Option (BitVec 5)) : List (BitVec 8) := (o.map fun p => (s.part p).fn).toList
  match r with
  | .wqBase q => [(s.wq q.val).fn]
  | .wqCfg q => [(s.wq q.val).fn, (wqCfgFields v).extractLsb' 16 8]
  | .ptab d p _ => [((s.die d).ptab.get (ix32 p)).fn]
  | .owner cl u => fns ((s.cluster cl).owners.get u) ++ fns (ownerField v)
  | .granule d g => fns ((s.die d).granules.get g) ++ fns (ownerField v)
  | .key _ _ id _ => s.fnOfKey id
  | .hsteer fn => [fn]
  | _ => []

/-- The first locked function whose bound resource a write touches. -/
def State.boundFn (s : State) (r : MReg) (v : Word) : Option (BitVec 8) := (s.boundFns r v).find? s.locked

/-! ### Writing -/

/-- The fields of an error log's STAT (R308). -/
def statFields (v : Word) : Word := v &&& 0xFFFFFFFF003FFF07#64
/-- The fields of CDLOG (R326). -/
def cdlogFields (v : Word) : Word := v &&& 0xFFFFFFFFFFFFFFC0#64

/-- A register with a row of its own in the opcode table is written by that row. -/
def rowOf (r : MReg) (v : Word) : Option Instr :=
  match r with
  | .wqTail q => some (.wqTailWrite 0 q (v.setWidth 32))
  | .wqRing q => some (.wqRingWrite 0 q v)
  | .bindRec c w =>
    if w != 3 then none
    else match wbits v 39 36 with
    | 1 => some (.cmdBind c v)
    | 2 => some (.cmdSwap c v)
    | 3 => some (.cmdUnbind c v)
    | 4 => some (.cmdRing c v)
    | _ => none
  | .fbctl d => some (.fbctlHeadWrite d (v.setWidth 32))
  | .hinj d k => some (.hinjWrite d k v)
  | .spctl d k => some (.spctlGo d k v)
  | .einj k => some (.einjWrite k v)
  | .cbinj cl => some (.cbinjWrite cl v)
  | .cbarcfg cl b => some (.cbarcfgWrite cl b v)
  | .kvpool ch p => some (.kvpoolWrite ch p v)
  | .kvinj ch => some (.kvinjWrite ch v)
  | _ => none

/-- The row that a mailbox command starts (R413). -/
def mailboxRow (code : Nat) : Option Instr :=
  match code with
  | 1 => some .create
  | 2 => some .destroy
  | 3 => some .cores
  | 4 => some .queue
  | 5 => some .escrow
  | 6 => some .checkpoint
  | 7 => some .restore
  | 8 => some .power
  | _ => none

/-- A mailbox command ends: RESULT, BUSY and vector 3 (R405, R413). -/
def State.mailboxDone (s : State) (result detail : Nat) : State :=
  ({ s with mailbox := { s.mailbox with busy := false, result := BitVec.ofNat 8 result, detail := BitVec.ofNat 8 detail } } : State).msix 0 3

/-- A write to MBCMD: firmware takes it, unless the die is in recovery and runs none (R409). -/
def State.mailboxGo (s : State) (v : Word) : State :=
  if s.mailbox.busy then s
  else if (s.die 0).recovery then { s with mailbox := { s.mailbox with cmd := v &&& 0x80000000000000FF } }
  else
    let s1 := { s with mailbox := { s.mailbox with cmd := v &&& 0xFF, busy := v.getLsbD 63 } }
    if !v.getLsbD 63 then s1
    else match mailboxRow (wbits v 7 0) with
    | some i => s1.dueFirst [i]
    | none => s1.mailboxDone 6 0

/-- The unit of a cluster buffer is assigned, or to no one; firmware writes zeros to it first (R318). -/
def State.setOwner (s : State) (cl : Fin 32) (u : Fin 128) (o : Option (BitVec 5)) : State :=
  let s1 := s.modCluster cl fun k => { k with owners := vmod k.owners u fun _ => o }
  if (s.cluster cl).owners.get u == o then s1
  else
    let base := (⟨.cb cl, u.val * 65536⟩ : PAddr).key
    s1.zeroKeys fun x => decide (base ≤ x) && decide (x < base + 65536)

/-- A granule is given to a partition or to firmware, whose key it is read under from now on (R351). -/
def State.setGranule (s : State) (d : Fin 4) (g : Fin 94) (o : Option (BitVec 5)) : State :=
  if (s.die d).granules.get g == o then s
  else s.modDie d fun x => { x with granules := vmod x.granules g fun _ => o }

/-- A register without a row of its own takes a value through its access codes. -/
def State.writeReg (s : State) (r : MReg) (v : Word) : State :=
  match r with
  | .wqBase q => let w := s.wq q.val; s.setWq q.val { w with base := v &&& ~~~(63 : Word) }
  | .wqCfg q => let w := s.wq q.val; s.setWq q.val { w with cfg := wqCfgFields v }
  | .wqErr q => let w := s.wq q.val; s.setWq q.val { w with err := w.err &&& ~~~v }
  | .bindRec c w =>
    match w with
    | 0 => s.modSlot c fun t => { t with slate := v &&& ~~~(63 : Word) }
    | 1 => s.modSlot c fun t => { t with wid := v }
    | 2 => s.modSlot c fun t => { t with tvec := v &&& ~~~(3 : Word) }
    | _ => if wbits v 39 36 = 0 then s.writeCfg c v else s.refuseCmd c v ((s.cmdBlocked c).getD 0x11)
  | .hlogStat d k => s.modDie d fun x => x.modCtl k fun l => { l with hlog := { l.hlog with stat := statFields v } }
  | .hlogAddr d k => s.modDie d fun x => x.modCtl k fun l => { l with hlog := { l.hlog with addr := v } }
  | .elogStat k a => s.modCore k fun c => c.modLog a fun l => { l with stat := statFields v }
  | .elogAddr k a => s.modCore k fun c => c.modLog a fun l => { l with addr := v }
  | .cquar k => s.modCore k fun c => { c with cquar := v.getLsbD 0 }
  | .cblogStat cl => s.modCluster cl fun k => { k with cblog := { k.cblog with stat := statFields v } }
  | .cblogAddr cl => s.modCluster cl fun k => { k with cblog := { k.cblog with addr := v } }
  | .cdlog cl => s.modCluster cl fun k => { k with cdlog := cdlogFields v }
  | .owner cl u => (s.setOwner cl u (ownerField v)).modCluster cl fun k => { k with ownerPart := vmod k.ownerPart u fun _ => v.setWidth 5 }
  | .granule d g => s.setGranule d g (ownerField v)
  | .key d k id w => s.modDie d fun x => x.modCtl k fun l => { l with keys := vmod l.keys id fun y => setKeyWord y w.val v }
  | .ep => { s with ep := v.setWidth 20 }
  | .route e => { s with routes := (if h : v.getLsbD 7 ∧ wbits v 4 0 < 18 then [(e, ⟨wbits v 4 0, h.2⟩)] else []) ++ s.routes.filter fun x => x.1 != e }
  | .dovfbase d => s.modDie d fun x => { x with dovfbase := v &&& ~~~(65535 : Word) }
  | .mbcmd => s.mailboxGo v
  | .mbarg i => if s.mailbox.busy then s else { s with mailbox := { s.mailbox with arg := vmod s.mailbox.arg i fun _ => v } }
  | .salt ch p w => s.modChiplet ch fun k => { k with salt := vmod k.salt (ix32 p) fun x => setKeyWord x w v }
  | .kvlogStat ch => s.modChiplet ch fun k => { k with kvlog := { k.kvlog with stat := statFields v } }
  | .kvlogAddr ch => s.modChiplet ch fun k => { k with kvlog := { k.kvlog with addr := v } }
  | .hsteer fn => if h : fn.toNat < 253 then { s with hsteer := vmod s.hsteer ⟨fn.toNat, h⟩ fun _ => v.getLsbD 0 } else s
  | _ => s

/-- REGISTER_WRITE: a write of the physical function's driver, or of firmware, at an offset of the management space. A register
with its own row is written by that row next; a write that would change what a locked TDI has bound is discarded, and the TDI
enters ERROR. -/
def execRegisterWrite (off : Nat) (v : Word) (s : State) : Out State :=
  .next <|
    let r := mreg off
    let changes := match r with
      | .ptab .. => v != s.readReg r
      | .key d k id w => (((s.die d).ctl.get k).keys.get id).extractLsb' (64 * w.val) 64 != v
      | _ => (s.writeReg r v).readReg r != s.readReg r
    match rowOf r v with
    | some i => s.dueFirst [i]
    | none =>
      match s.boundFn r v with
      | some fn => if changes then s.tdiError fn else s
      | none => s.writeReg r v

end Sys2Proof.Machine
end

