-- ==== Sys2Proof/Machine/Firmware.lean ====
section
/-! DEFINITION. Firmware: the mailbox commands, partitions and policy records, escrow, checkpoint and restore, power (R412, R413,
R417 to R420). -/
namespace Sys2Proof.Machine

/-! ### The mailbox (R413) -/

/-- A command runs while the mailbox is busy with its code. -/
def State.mailboxRuns (s : State) (code : Nat) : Bool := s.mailbox.busy && s.mailbox.cmd == BitVec.ofNat 64 code
def State.mbarg (s : State) (i : Fin 4) : Word := s.mailbox.arg.get i

/-- The outcome of a command: a new state, with which it is done or waits for another package, or RESULT and DETAIL of its failure. -/
inductive MbOut where
  | ok (t : State)
  | waits (t : State)
  | error (e : Nat × Nat)

/-- A command's row: nothing when the mailbox does not hold it; its effect and RESULT 0, or its failure without effect. One that would change a
resource of a function, among `fns`, whose TDI is locked gives RESULT 5 and sends that TDI to ERROR (R407, R413). -/
def State.command (s : State) (code : Nat) (fns : List (BitVec 8)) (f : State → MbOut) : Out State :=
  .next <|
    if !s.mailboxRuns code then s
    else match f s, fns.find? s.locked with
    | .error (r, d), _ => s.mailboxDone r d
    | _, some fn => (s.tdiError fn).mailboxDone 5 0
    | .ok t, none => t.mailboxDone 0 0
    | .waits t, none => t

/-! ### Policy records and partitions (R412) -/

/-- The limits of a policy record. -/
def policyOk (b : List Byte) : Bool :=
  fld b 0 4 == 0x4C4F505A && fld b 4 2 == 1 && decide (fld b 6 1 < 16) && zeroBytes b 7 1 && decide (1 ≤ fld b 8 1) && zeroBytes b 9 1 &&
  decide (1 ≤ fld b 0xA 2) && decide (fld b 0xA 2 ≤ 256) && decide (1 ≤ fld b 0xE 2) && decide (fld b 0xE 2 ≤ 100) &&
  zeroBytes b 0x14 12 && zeroBytes b 7277 3

/-- SIG is TKEY's over bytes 0 to 0xF7F (ML-DSA-65, FIPS 204). -/
def policySigned (b : List Byte) : Bool :=
  mldsaVerify ((b.drop 0x40).take 1952) (b.take 0xF80) ((b.drop 0xF80).take 3309)

/-- Granules that no partition owns, in address order; the last of each die stays with firmware, which keeps its tables there
(entry 26). -/
def State.freeGranules (s : State) : List (Fin 4 × Fin 94) :=
  ([0, 1, 2, 3] : List (Fin 4)).flatMap fun d =>
    ((List.finRange 94).filter fun g => decide (g.val < 93) && ((s.die d).granules.get g).isNone).map fun g => (d, g)

/-- A granule passes to a partition, whose key it is read under from now on. -/
def State.giveGranule (s : State) (p : BitVec 5) (x : Fin 4 × Fin 94) : State :=
  s.setGranule x.1 x.2 (some p)

/-- The launch table that firmware gives a partition on a die (R343, R350; its place is entry 26's). -/
def launchTable (d : Fin 4) (p : BitVec 5) : Word := BitVec.ofNat 64 (d.val * 2 ^ 37 + 93 * 2 ^ 30 + p.toNat * 2 ^ 17)

/-- PTAB of a new partition on a die. -/
def newPtab (b : List Byte) (d : Fin 4) (p : BitVec 5) (fn : BitVec 8) (ngran : Nat) (root btab : Word) : Ptab :=
  let rk := (b.drop 0x7E0).take 1952
  { state := 1, pflags := BitVec.ofNat 8 (fld b 6 1), fn := fn, weight := BitVec.ofNat 8 (fld b 8 1), quota := BitVec.ofNat 16 (fld b 0xA 2)
    resv := BitVec.ofNat 16 (fld b 0xC 2), quantum := BitVec.ofNat 16 (fld b 0xE 2), ngran := BitVec.ofNat 16 ngran
    coloc := BitVec.ofNat 32 (fld b 0x10 4), cores := 0, ptroot := root &&& ~~~(4095 : Word), ltab := launchTable d p, btab := btab
    escrow := 0xFFFFFFFFFF, tkdig := shake256 ((b.drop 0x40).take 1952) 64
    rkdig := if rk.all (· == 0) then List.replicate 64 0 else shake256 rk 64 }

/-- The pages by which firmware maps the launch tables of a partition into its address space, read-only, at a far address of its choosing, which is
free (R343; entry 11). -/
def launchPages (p : BitVec 5) (x : Word) : List PageMap :=
  let base := 2 ^ 55 + x.toNat % 2 ^ 36 * 2 ^ 19
  ([0, 1, 2, 3] : List (Fin 4)).flatMap fun d => ([0, 1] : List Nat).map fun i =>
    { va := base + d.val * 2 ^ 17 + i * 2 ^ 16, size := 2 ^ 16, dest := ⟨.hbm d, (launchTable d p).toNat % 2 ^ 37 + i * 2 ^ 16⟩, rd := true, wr := false, surface := none }

/-- A partition is created from a checked record. -/
def State.createPart (s : State) (b : List Byte) (p : BitVec 5) (fn : BitVec 8) (grans : List (Fin 4 × Fin 94)) : State :=
  let rk := (b.drop 0x7E0).take 1952
  let s1 := grans.foldl (fun t g => t.giveGranule p g) s
  let salt := BitVec.ofNat 256 (fld b 0x20 32)
  let s2 := ([0, 1] : List (Fin 2)).foldl (fun t k => t.modChiplet k fun c => { c with salt := vmod c.salt (ix32 p) fun _ => salt }) s1
  let s3 := ([0, 1, 2, 3] : List (Fin 4)).foldl (fun t d =>
    let e := newPtab b d p fn (grans.filter fun g => g.1 == d).length (Config.freeWord (s.fresh + 1)) (Config.freeWord (s.fresh + 2))
    t.modDie d fun x => { x with ptab := vmod x.ptab (ix32 p) fun _ => e }) s2
  let m := shake256 (b.take 0xF80) 64
  let s4 := s3.modPart p fun x =>
    { live := true, gen := x.gen + 1, fn := fn, pflags := BitVec.ofNat 8 (fld b 6 1), tkey := (b.drop 0x40).take 1952
      rkey := if rk.all (· == 0) then [] else rk, key := 0, pages := launchPages p (Config.freeWord (s.fresh + 3)), binds := [], meas := some m }
  { s4.installKey p (Config.drawKey s.fresh) with fresh := s.fresh + 4, meas := (0x10 + p.toNat, m) :: s4.meas.filter fun x => x.1 != 0x10 + p.toNat }

/-- Firmware reads a record from host memory while a command runs, by requests of function 0 (R403, R413). -/
def State.hostReads (s : State) (code addr : Nat) : State :=
  if s.mailboxRuns code then s.requestOf 0 addr false [] else s

/-- CREATE: the policy record stands in host memory; SIG is checked first. -/
def execCreate (s : State) : Out State :=
  let a1 := s.mbarg 1
  let p : BitVec 5 := a1.setWidth 5
  let fn : BitVec 8 := (s.mbarg 2).setWidth 8
  (s.hostReads 1 (s.mbarg 0).toNat).command 1 [fn] fun s =>
    let b := s.bytesAt ⟨.host, (s.mbarg 0).toNat⟩ 7280
    let n := wbits a1 31 16
    let free := s.freeGranules
    if !policySigned b then .error (1, 0)
    else if !policyOk b then .error (2, 0)
    else if wbits a1 15 5 != 0 || wbits a1 63 32 != 0 then .error (2, 1)
    else if 252 < (s.mbarg 2).toNat then .error (2, 2)
    else if (s.part p).live then .error (4, 0)
    else if free.length < n then .error (3, 0)
    else .ok (s.createPart b p fn (free.take n))

/-- A partition is destroyed: slots unbound, shares and units zeroed, mask slots emptied, key overwritten, PTAB cleared. -/
def State.destroyPart (s : State) (p : BitVec 5) : State :=
  let s1 := (s.unbindPart p).rekey p
  let s2 := s1.zeroHeld p
  let s3 := (List.finRange 32).foldl (fun t cl =>
    (List.finRange 128).foldl (fun t u => if (t.cluster cl).owners.get u == some p then t.setOwner cl u none else t) t) s2
  let s4 := ([0, 1] : List (Fin 2)).foldl (fun t k => t.modChiplet k fun c =>
    { c with masks := c.masks.filter (fun x => x.1.1 != p), salt := vmod c.salt (ix32 p) fun _ => 0 }) s3
  let s5 := ([0, 1, 2, 3] : List (Fin 4)).foldl (fun t d => t.modDie d fun x =>
    { x with ptab := vmod x.ptab (ix32 p) (fun _ => Ptab.reset), granules := x.granules.map fun o => if o == some p then none else o }) s4
  { (s5.modPart p fun x => { Part.reset with gen := x.gen }) with
      launches := s5.launches.filter (fun l => l.part != p), meas := s5.meas.filter fun x => x.1 != 0x10 + p.toNat }

/-- DESTROY. -/
def execDestroy (s : State) : Out State :=
  let p : BitVec 5 := (s.mbarg 1).setWidth 5
  s.command 2 (if (s.part p).live then [(s.part p).fn] else []) fun s =>
    if 31 < (s.mbarg 1).toNat then .error (2, 1) else if !(s.part p).live then .error (4, 0) else .ok (s.destroyPart p)

/-- The partitions that use a core. -/
def State.coreParts (s : State) (k : Fin 256) : List (BitVec 5) := ((List.range 32).map (BitVec.ofNat 5)).filter fun p => s.coreOfPart k p

/-- CORES: a core serves at most two partitions (R349). -/
def execCores (s : State) : Out State :=
  let p : BitVec 5 := (s.mbarg 1).setWidth 5
  let old := ((s.die (ix4 ((s.mbarg 2).setWidth 2))).ptab.get (ix32 p)).cores
  s.command 3 (if (s.part p).live && old != s.mbarg 3 then [(s.part p).fn] else []) fun s =>
    let d : Fin 4 := ix4 ((s.mbarg 2).setWidth 2)
    let mask := s.mbarg 3
    if 31 < (s.mbarg 1).toNat then .error (2, 1)
    else if 3 < (s.mbarg 2).toNat then .error (2, 2)
    else if !(s.part p).live then .error (4, 0)
    else if cores256.any (fun k => dieOf k == d && mask.getLsbD (k.val % 64) && decide (2 ≤ ((s.coreParts k).filter (· != p)).length)) then .error (3, 0)
    else .ok (s.modDie d fun x => { x with ptab := vmod x.ptab (ix32 p) fun t => { t with cores := mask } })

/-- QUEUE: BASE and CFG are written once CFG.PART and CFG.FN agree with the partition's function. -/
def execQueue (s : State) : Out State :=
  let cfg := wqCfgFields (s.mbarg 1)
  let q := (s.mbarg 0).toNat
  let p : BitVec 5 := cfg.extractLsb' 8 5
  let fn : BitVec 8 := cfg.extractLsb' 16 8
  let same := (s.wq q).cfg == cfg && (s.wq q).base == s.mbarg 2
  s.command 4 (if same then [] else [(s.wq q).fn, fn]) fun s =>
    if 4096 ≤ q then .error (2, 0)
    else if cfg != s.mbarg 1 || fn != (s.part p).fn then .error (2, 1)
    else if (s.mbarg 2).toNat % 64 != 0 then .error (2, 2)
    else if !(s.part p).live then .error (4, 0)
    else let w := s.wq q; .ok (s.setWq q { w with base := s.mbarg 2, cfg := cfg })

/-! ### Escrow (R418) -/

/-- ESCROW. -/
def execEscrow (s : State) : Out State :=
  let p : BitVec 5 := (s.mbarg 1).setWidth 5
  let same := ([0, 1, 2, 3] : List (Fin 4)).all fun d => ((s.die d).ptab.get (ix32 p)).escrow == s.mbarg 2
  s.command 5 (if (s.part p).live && !same then [(s.part p).fn] else []) fun s =>
    if 31 < (s.mbarg 1).toNat then .error (2, 1)
    else if wbits (s.mbarg 2) 63 40 != 0 then .error (2, 2)
    else if !(s.part p).live then .error (4, 0)
    else .ok ((([0, 1, 2, 3] : List (Fin 4)).foldl (fun t d => t.modDie d fun x =>
      { x with ptab := vmod x.ptab (ix32 p) fun t => { t with escrow := s.mbarg 2 } }) s).escrowKey p)

/-! ### Checkpoint and restore (R417) -/

/-- A safe-tier list: its entries (KIND, EP, BASE, LEN), none when it breaks R413. -/
def State.tierList (s : State) (a : Word) : Option (List (Nat × BitVec 20 × Word × Word)) :=
  let h := s.bytesAt ⟨.host, a.toNat⟩ 64
  let n := fld h 0 4
  if a.toNat % 64 != 0 || n = 0 || decide (1024 < n) || !zeroBytes h 4 60 then none
  else
    let b := s.bytesAt ⟨.host, a.toNat + 64⟩ (32 * n)
    let l := (List.range n).map fun i => (fld b (32 * i) 1, BitVec.ofNat 20 (fld b (32 * i + 4) 4), fld64 b (32 * i + 8), fld64 b (32 * i + 16))
    if l.all fun x => decide (x.1 ≤ 1) && x.2.2.1.toNat % 65536 == 0 && x.2.2.2.toNat % 65536 == 0 then some l else none

/-- A memory key lies in a granule of a list. -/
def inGranules (gs : List (Fin 4 × Nat)) (key : Nat) : Bool :=
  gs.any fun g =>
    let base := (⟨.hbm g.1, g.2 * 2 ^ 30⟩ : PAddr).key
    decide (base ≤ key) && decide (key < base + 2 ^ 30)

/-- A memory key lies in a page of a block of the cache. -/
def KvBlock.holds (b : KvBlock) (key : Nat) : Bool :=
  b.pages.any fun g => let base := (pagePlace b.home g).key; decide (base ≤ key) && decide (key < base + 65536)

/-- The granules of a partition. -/
def State.granulesWith (s : State) (p : BitVec 5) : List (Fin 4 × Nat) :=
  ([0, 1, 2, 3] : List (Fin 4)).flatMap fun d =>
    ((List.finRange 94).filter fun g => (s.die d).granules.get g == some p).map fun g => (d, g.val)

/-- What is sealed for a partition: its granules, its part of the KV cache, its images and its key; the caches of a CP are in no image (R194). -/
def State.sealPart (s : State) (list : Word) (p : BitVec 5) : SafeCopy :=
  let gs := s.granulesWith p
  let bs := ([0, 1] : List (Fin 2)).flatMap fun k => ((s.chiplet k).blocks.filter fun b => b.part == p).map fun b => (k, b)
  { list := list, written := [], part := p, key := (s.part p).key, granules := gs
    mem := s.mem.filter (fun x => inGranules gs x.1 || bs.any fun b => b.2.holds x.1), blocks := bs
    seqs := ([0, 1] : List (Fin 2)).flatMap fun k => ((s.chiplet k).seqs.filter fun q => q.live && q.part == p).map fun q => (k, q)
    slots := (allSlots.filter fun c => (s.slot c).status != 0 && (s.slot c).part == p).map fun c =>
      (c, { s.slot c with cp := { s.cp c with ftc := [], icache := [] } }) }

/-- Bytes of a sealed copy: granules, pages, images of 512 KiB and 640 KiB, and the wrapped key (R194; entry 27). -/
def SafeCopy.size (x : SafeCopy) : Nat :=
  x.granules.length * 2 ^ 30 + (x.blocks.map fun b => b.2.pages.length * 65536).sum + x.slots.length * (524288 + 655360) + 40

/-- The sealed bytes of a checkpoint go to the entries of its list in their order, as many as remain: to host memory by requests of function 0, or to
a peer package through the Swemal ports (R417). Answers what has been written to host memory. -/
def State.writeTier (s : State) (n : Nat) : List (Nat × BitVec 20 × Word × Word) → Nat → Nat → State × List (Nat × List Byte)
  | [], _, _ => (s, [])
  | (kind, ep, base, len) :: t, from_, left =>
    let m := min left len.toNat
    let b := (List.range m).map fun j => Config.sealedByte n (from_ + j)
    if m = 0 then (s, [])
    else if kind = 0 then
      let (s1, w) := ((s.setBytes ⟨.host, base.toNat⟩ b).requestOf 0 base.toNat true b).writeTier n t (from_ + m) (left - m)
      (s1, (base.toNat, b) :: w)
    else (s.toFabric ep (.safe base b)).writeTier n t (from_ + m) (left - m)

/-- The live partitions. -/
def State.liveParts (s : State) : List (BitVec 5) := ((List.range 32).map (BitVec.ofNat 5)).filter fun p => (s.part p).live

/-- A bound slot is pre-empted and, once its image is sealed, bound again. -/
def State.pause (s : State) (c : CpId) : State :=
  let s1 := s.preempt c
  if (s.core c.core).split then s1 else (s1.setStatus c 0x02).beginSwap c.core c.slot

/-- CHECKPOINT: every bound slot is pre-empted, and each partition's HBM, images and wrapped key go to the safe tier; the keys are
escrowed anew (R418). A list that has no room for them lacks resources (entry 27). -/
def execCheckpoint (s : State) : Out State :=
  (s.hostReads 6 (s.mbarg 0).toNat).command 6 [] fun s =>
    match s.tierList (s.mbarg 0) with
    | none => .error (2, 0)
    | some l =>
      let s1 := (allSlots.filter fun c => (s.slot c).bound).foldl State.pause s
      let copies := s1.liveParts.map fun p => s1.sealPart (s.mbarg 0) p
      let size := (copies.map SafeCopy.size).sum
      if (l.map fun x => x.2.2.2.toNat).sum < size then .error (3, 0)
      else
        let (s2, w) := s1.took.writeTier s1.fresh l 0 size
        let s3 := { s2 with safe := copies.map (fun (x : SafeCopy) => { x with written := w }) ++ s2.safe.filter fun (x : SafeCopy) => x.list != s.mbarg 0 }
        .ok (s3.liveParts.foldl State.escrowKey s3)

/-- A sealed copy stands in host memory as it was written. -/
def State.stands (s : State) (x : SafeCopy) : Bool := x.written.all fun w => s.bytesAt ⟨.host, w.1⟩ w.2.length == w.2

/-- A sealed copy can be put back: its partition lives, and no other one owns its granules. -/
def State.restorable (s : State) (x : SafeCopy) : Bool :=
  (s.part x.part).live && x.granules.all fun g =>
    if h : g.2 < 94 then (match (s.die g.1).granules.get ⟨g.2, h⟩ with | some q => q == x.part | none => true) else false

/-- A granule returns to a partition. -/
def State.putGranule (s : State) (p : BitVec 5) (g : Fin 4 × Nat) : State :=
  if h : g.2 < 94 then s.modDie g.1 fun d => { d with granules := vmod d.granules ⟨g.2, h⟩ fun _ => some p } else s

/-- An image returns to an EMPTY slot: a STOPPED one stays stopped, any other stands by until it is bound again (R196). -/
def State.putImage (s : State) (x : CpId × Slot) : State :=
  if (s.slot x.1).status != 0 then s
  else
    let s1 := s.modSlot x.1 fun _ => x.2
    if x.2.status == 0x04 || x.2.status == 0x03 then s1
    else
      let s2 := s1.setStatus x.1 0x02
      if (s2.slot (otherSlot x.1)).bound || (s2.core x.1.core).swap.isSome then s2 else s2.beginSwap x.1.core x.1.slot

/-- A block of the cache returns, unless its number or one of its pages has gone to another since (entry 27). -/
def State.putBlock (s : State) (x : Fin 2 × KvBlock) : State :=
  let others := (s.chiplet x.1).blocks.filter fun b => !(b.id == x.2.id && b.part == x.2.part)
  if others.any (fun b => b.id == x.2.id || (b.home == x.2.home && b.pages.any x.2.pages.contains)) then s
  else (s.modChiplet x.1 fun k => { k with blocks := others ++ [x.2] }).modChiplet x.2.home fun k =>
    { k with free := k.free.filter fun f => !(f.2.1 == x.2.home && x.2.pages.contains f.2.2) }

/-- A sequence returns to its place in the table, unless another partition's stands there. -/
def State.putSeq (s : State) (x : Fin 2 × KvSeq) : State :=
  if (s.chiplet x.1).seqs.any fun q => q.index == x.2.index && q.live && q.part != x.2.part then s
  else s.modChiplet x.1 fun k => { k with seqs := x.2 :: k.seqs.filter fun q => q.index != x.2.index }

/-- A sealed copy is put back, each granule at its original physical address, under the key it was sealed with, which is escrowed when it changes
(R417, R418). -/
def State.unseal (s : State) (x : SafeCopy) : State :=
  let s1 := x.granules.foldl (fun t g => t.putGranule x.part g) s
  let gone (key : Nat) : Bool := inGranules x.granules key || x.blocks.any fun b => b.2.holds key
  let s2 := { s1 with mem := x.mem.foldl (fun (m : Memory) (c : Host.Cell) => memSet m c.1 c.2) (s1.mem.filter fun c => !gone c.1) }
  let s3 := x.seqs.foldl State.putSeq (x.blocks.foldl State.putBlock s2)
  let s4 := x.slots.foldl State.putImage (s3.installKey x.part x.key)
  if (s.part x.part).key == x.key then s4 else s4.escrowKey x.part

/-- The partitions that a RESTORE names. -/
def State.restoreParts (s : State) : List (BitVec 5) :=
  let a1 := s.mbarg 1
  if a1.getLsbD 8 then s.liveParts else [a1.setWidth 5]

/-- RESTORE. The package puts back the copies that it has sealed itself, which no other one unwraps (R417). Without one it is a substitute: it asks
the escrow packages for the keys, and the command ends when they are here (R418, R442; entry 27). -/
def execRestore (s : State) : Out State :=
  let a1 := s.mbarg 1
  (s.hostReads 7 (s.mbarg 0).toNat).command 7 ((s.restoreParts.filter fun q => (s.part q).live).map fun q => (s.part q).fn) fun s =>
    match s.tierList (s.mbarg 0) with
    | none => .error (2, 0)
    | some l =>
      if wbits a1 7 5 != 0 || wbits a1 63 9 != 0 then .error (2, 1)
      else
        let copies := s.safe.filter fun x => x.list == s.mbarg 0 && s.restoreParts.contains x.part
        let s1 := l.foldl (fun t x => if x.1 = 0 then t.requestOf 0 x.2.2.1.toNat false [] else t) s
        if copies.isEmpty then
          if !s.restoreParts.all fun q => (s.part q).live then .error (4, 0)
          else if s.restoreParts.isEmpty || s.restoreParts.any fun q => (s.escrowEps q).isEmpty then .error (3, 0)
          else .waits (s.restoreParts.foldl (fun t q => t.askEscrow q true) s1)
        else if !copies.all s.restorable then .error (4, 0)
        else if !copies.all s.stands then .error (3, 0)
        else .ok (copies.foldl State.unseal s1)

/-! ### Power (R419, R420) -/

/-- POWER. -/
def execPower (s : State) : Out State :=
  s.command 8 [] fun s =>
    if 65535 < (s.mbarg 0).toNat then .error (2, 0) else .ok { s with powerLimit := (s.mbarg 0).setWidth 16 }

/-- The power of the package over the last windows of its dies, in mW (R419, R420). -/
def State.power (s : State) : Nat := (s.dies.toList.map fun d => wbits d.pwrstat 63 40).sum

/-- POWER_CONTROL_WINDOW: a millisecond of a die ends. PWRSTAT takes its power, its temperature and the cycles that were skipped in it, per 65,536
(R420). How many firmware skips in the next one is its choice, `skip`; it skips some while the package draws more than PL (R419; entry 28). -/
def execPowerControlWindow (d : Fin 4) (pmw : BitVec 24) (temp : BitVec 8) (skip : BitVec 16) (s : State) : Out State :=
  .next <|
    let x := s.die d
    let skipped := BitVec.ofNat 16 (if x.winCycles = 0 then 0 else min 65535 (x.winSkipped * 65536 / x.winCycles))
    let s1 := s.modDie d fun x => { x with pwrstat := pmw ++ temp ++ skipped ++ (0 : BitVec 16), winCycles := 0, winSkipped := 0 }
    s1.modDie d fun x => { x with toSkip := if s1.powerLimit.toNat * 1000 < s1.power then (if skip = 0 then 1 else skip) else skip }

end Sys2Proof.Machine
end

