-- ==== Sys2Proof/Machine/Host.lean ====
section
/-! DEFINITION. The host side: TDISP, SPDM and IDE, host accesses through the BARs, the debug window, and reset (R17, R18, R309, R403
to R411, R414, R415). -/
namespace Sys2Proof.Machine

/-! ### TDISP (R407) -/

/-- A virtual function. -/
def isVf (fn : BitVec 8) : Bool := fn != 0 && decide (fn.toNat ≤ 252)

/-- TDISP_MESSAGE: LOCK leads from CONFIG_UNLOCKED to CONFIG_LOCKED, START from there to RUN; any other message is refused. -/
def execTdispMessage (fn : BitVec 8) (m : TdispMsg) (s : State) : Out State :=
  .next <|
    let x := s.tdiOf fn
    let no := s.emit (.tdisp fn false x)
    if !isVf fn then no
    else match m, x with
    | .lockInterface, .unlocked => (s.setTdi fn .locked).emit (.tdisp fn true .locked)
    | .startInterface, .locked => (s.setTdi fn .run).emit (.tdisp fn true .run)
    | .getState, _ => s.emit (.tdisp fn true x)
    | _, _ => no

/-- STOP_INTERFACE: the TDI leaves ERROR, and firmware destroys the function's partitions. One that is unlocked already changes no
state (R405). -/
def execStopInterface (fn : BitVec 8) (s : State) : Out State :=
  .next <|
    if !isVf fn then s.emit (.tdisp fn false (s.tdiOf fn))
    else
      let s1 := if s.tdiOf fn == .error then (s.partsOf fn).foldl State.destroyPart s else s
      (if s.tdiOf fn == .unlocked then s1 else s1.setTdi fn .unlocked).emit (.tdisp fn true .unlocked)

/-! ### SPDM (R409 to R411; response codes are those of SPDM 1.3, entry 6) -/

/-- An answer to a function. -/
def State.spdmAnswer (s : State) (fn : BitVec 8) (code : Nat) (data : List Byte) : State := s.emit (.spdm fn code data)

def State.sessions (s : State) (fn : BitVec 8) : Nat := if h : fn.toNat < 253 then s.spdm.get ⟨fn.toNat, h⟩ else 0
def State.setSessions (s : State) (fn : BitVec 8) (n : Nat) : State :=
  if h : fn.toNat < 253 then { s with spdm := vmod s.spdm ⟨fn.toNat, h⟩ fun _ => n } else s

/-- The link configuration with which the package starts: the lanes of each port (entry 6). -/
def bootLinks : List Byte := (List.range 18).map fun _ => BitVec.ofNat 8 LinkPort.reset.lanes

/-- What the boot stages have recorded (R409): the boot ROM of each die, as four digests; the management firmware; the vendor's scheduler policy; and
the fused-off sets with the link configuration. -/
def State.bootMeasurements (s : State) : List (Nat × List Byte) :=
  [(1, (List.range 4).flatMap fun d => shake256 (Config.bootRom d) 64), (2, shake256 (Config.firmwareImage 0) 64), (3, shake256 Config.schedulerPolicy 64),
   (4, shake256 ((s.cores.toList.flatMap fun k => leBytes 32 k.fuse.toNat) ++ bootLinks) 64)]

/-- The measurements that a function reports: the boot indices and the policies of its own partitions, or every one on function 0. -/
def State.measurements (s : State) (fn : BitVec 8) : List (Nat × List Byte) :=
  s.bootMeasurements ++
  s.meas.filter fun x => fn == 0 || (s.partsOf fn).any fun p => x.1 == 0x10 + p.toNat

/-- Measurement blocks: index, length, digest. -/
def measBytes (l : List (Nat × List Byte)) : List Byte := l.flatMap fun x => leBytes 1 x.1 ++ leBytes 2 x.2.length ++ x.2

/-- A signature of the package's identity key, which die 0's ROM derives from its seed (R410, R411). ML-DSA's 32 random bytes are free. -/
def State.identitySign (s : State) (m : List Byte) : List Byte := mldsaSign (leBytes 32 Config.identitySeed.toNat) (leBytes 32 (Config.freeWord256 s.fresh).toNat) m

/-- GET_VERSION: SPDM 1.3. -/
def execGetVersion (fn : BitVec 8) (_msg : List Byte) (s : State) : Out State := .next (s.spdmAnswer fn 0x04 [0x13])
/-- GET_CAPABILITIES: the services of R410; the flags are not laid out by the spec. -/
def execGetCapabilities (fn : BitVec 8) (_msg : List Byte) (s : State) : Out State := .next (s.spdmAnswer fn 0x61 [])
/-- NEGOTIATE_ALGORITHMS: ML-DSA-65 (1) and SHAKE256 (2) are all that is offered. -/
def execNegotiateAlgorithms (fn : BitVec 8) (_msg : List Byte) (s : State) : Out State := .next (s.spdmAnswer fn 0x63 [1, 2])
/-- GET_DIGESTS: the SHAKE256 digest of the chain. -/
def execGetDigests (fn : BitVec 8) (_msg : List Byte) (s : State) : Out State := .next (s.spdmAnswer fn 0x01 (shake256 Config.certificateChain 64))
/-- GET_CERTIFICATE. -/
def execGetCertificate (fn : BitVec 8) (_msg : List Byte) (s : State) : Out State := .next (s.spdmAnswer fn 0x02 Config.certificateChain)
/-- CHALLENGE: a signature of the identity key over the request and the measurements. -/
def execChallenge (fn : BitVec 8) (msg : List Byte) (s : State) : Out State :=
  .next (s.took.spdmAnswer fn 0x03 (s.identitySign (msg ++ measBytes (s.measurements fn))))
/-- GET_MEASUREMENTS: the function's indices, signed. -/
def execGetMeasurements (fn : BitVec 8) (msg : List Byte) (s : State) : Out State :=
  .next <|
    let m := measBytes (s.measurements fn)
    s.took.spdmAnswer fn 0x60 (m ++ s.identitySign (msg ++ m))
/-- KEY_EXCHANGE: a session begins, authenticated by the identity key. -/
def execKeyExchange (fn : BitVec 8) (msg : List Byte) (s : State) : Out State :=
  .next ((s.took.setSessions fn (s.sessions fn + 1)).spdmAnswer fn 0x64 (s.identitySign msg))
/-- FINISH. -/
def execFinish (fn : BitVec 8) (_msg : List Byte) (s : State) : Out State := .next (s.spdmAnswer fn 0x65 [])
/-- END_SESSION. -/
def execEndSession (fn : BitVec 8) (_msg : List Byte) (s : State) : Out State :=
  .next ((s.setSessions fn (s.sessions fn - 1)).spdmAnswer fn 0x6C [])

/-- IDE_KM installs a key: of an interface's Link IDE, or of one of its 256 Selective IDE streams, which is bound to the function while its TDI is
unlocked (R408). -/
def execIdeKm (fn : BitVec 8) (hif : Fin 2) (stream : Option (BitVec 8)) (key : BitVec 256) (s : State) : Out State :=
  .next <|
    match stream with
    | none => { s with linkIde := vmod s.linkIde hif fun _ => some key }
    | some n =>
      let s1 := { s with streams := vmod s.streams hif fun l => (n, key) :: l.filter fun x => x.1 != n }
      if h : fn.toNat < 253 then (if s.tdiOf fn == .unlocked then { s1 with ide := vmod s1.ide ⟨fn.toNat, h⟩ fun _ => some (hif, n) } else s1) else s1

/-! ### Host requests (R403, R404, R408) -/

/-- A request is accepted: of a function there is, and, once its TDI is locked, on its bound stream only. -/
def State.accepts (s : State) (fn : BitVec 8) (hif : Fin 2) (ide : Option (BitVec 8)) : Bool :=
  decide (fn.toNat < 253) && (!(s.tdiOf fn == .locked || s.tdiOf fn == .run) ||
    match s.boundStream fn with
    | some (h, st) => hif == h && ide == some st
    | none => false)

/-- A request that completes with Unsupported Request, and is logged to function 0 when a locked TDI refused it. -/
def State.unsupported (s : State) (fn : BitVec 8) (hif : Fin 2) (ide : Option (BitVec 8)) : State :=
  let s1 := s.emit (.unsupported fn)
  if s.accepts fn hif ide then s1 else s1.emit (.refusedRequest fn)

/-- The size of a BAR in bytes, 0 for one that the function does not have. -/
def State.barSize (s : State) (fn : BitVec 8) (bar : BitVec 3) : Nat :=
  match bar with
  | 0 => if fn == 0 then 0x8000000 else 0
  | 2 => 0x40000
  | 4 => 2 ^ 30 * ((s.partsOf fn).flatMap s.granulesWith).length
  | 5 => 0x10000
  | _ => 0

/-- The place of a byte of BAR 4. -/
def State.bar4 (s : State) (fn : BitVec 8) (off : Nat) : Option PAddr :=
  let gs := ((s.partsOf fn).flatMap s.granulesWith)
  let sorted := gs.mergeSort fun a b => decide (a.1.val * 128 + a.2 ≤ b.1.val * 128 + b.2)
  sorted[off / 2 ^ 30]?.map fun g => ⟨.hbm g.1, g.2 * 2 ^ 30 + off % 2 ^ 30⟩

/-- The owner of a place of HBM. -/
def State.ownerOf (s : State) (a : PAddr) : BitVec 5 :=
  match a.space with
  | .hbm d => if h : a.off / 2 ^ 30 < 94 then ((s.die d).granules.get ⟨a.off / 2 ^ 30, h⟩).getD 0 else 0
  | _ => 0

/-- A host write into BAR 4, in pieces that stay inside a granule. -/
def State.hostStore (s : State) (fn : BitVec 8) : Nat → Nat → List Byte → State
  | 0, _, _ => s
  | n + 1, off, b =>
    let k := min b.length (2 ^ 30 - off % 2 ^ 30)
    match s.bar4 fn off with
    | none => s
    | some pa =>
      let s1 := s.store (s.ownerOf pa) pa (b.take k)
      if k = b.length then s1 else s1.hostStore fn n (off + k) (b.drop k)

/-- The aligned words that n bytes from an offset touch. -/
def wordsTouched (off n : Nat) : List Nat := if n = 0 then [] else (List.range ((off + n - 1) / 8 + 1 - off / 8)).map (· + off / 8)

/-- A word of a write: bytes that the write does not carry keep the value given. -/
def wordOfWrite (old : Word) (off : Nat) (data : List Byte) (w : Nat) : Word :=
  BitVec.ofNat 64 (leNat ((List.range 8).map fun i =>
    let a := 8 * w + i
    if off ≤ a then (data[a - off]?).getD (old.extractLsb' (8 * i) 8) else old.extractLsb' (8 * i) 8))

/-- What the bytes not written of a management register keep: its value, or zero where a 1 acts. -/
def State.keptBytes (s : State) (r : MReg) : Word :=
  match r with
  | .wqErr _ => 0
  | .spctl .. => s.readReg r &&& ~~~(BitVec.ofNat 64 (2 ^ 63 + 2 ^ 61))
  | r => s.readReg r

/-! ### The debug window (R414, R415) -/

def State.dwselOf (s : State) (fn : BitVec 8) : Word := if h : fn.toNat < 253 then s.dwsel.get ⟨fn.toNat, h⟩ else 0

/-- The slot that DWSEL names. -/
def selected (v : Word) : CpId := ⟨⟨wbits v 7 0, by unfold wbits bits; omega⟩, if v.getLsbD 8 then 1 else 0⟩

/-- The window answers: a virtual function in RUN with IDE, whose policy permits DEBUG. -/
def State.windowOpen (s : State) (fn : BitVec 8) : Bool :=
  isVf fn && s.tdiOf fn == .run && (s.boundStream fn).isSome && (s.partsOf fn).any fun p => (s.part p).pflags.getLsbD 0

/-- The selected slot runs a task of the function's partition. -/
def State.selectedValid (s : State) (fn : BitVec 8) : Bool :=
  let t := s.slot (selected (s.dwselOf fn))
  (t.status == 0x01 || t.status == 0x02) && (s.partsOf fn).contains t.part

/-- The code of the bkpt that halted a CP. -/
def Cp.haltCode (p : Cp) : Option (BitVec 15) := match p.run with | .halted c => some c | _ => none

/-- Entries written to the rushes since a slot was bound. -/
def Core.rushed (k : Core) (slot : Fin 2) : Nat := k.rushcnt - k.rushFrom.get slot

/-- The rushes entry at index x of the window: the last one whose number since the slot's binding is x modulo 2048. -/
def Core.rush (k : Core) (slot : Fin 2) (x : Nat) : BitVec 128 :=
  let back := (k.rushed slot + 2047 - x) % 2048
  if back < k.rushed slot then (k.rushes[back]?).getD 0 else 0

/-- A word of the debug window. -/
def State.debugRead (s : State) (fn : BitVec 8) (o : Nat) : Word :=
  if !s.windowOpen fn then 0
  else
    let c := selected (s.dwselOf fn)
    let p := s.cp c
    let valid := s.selectedValid fn
    let halted := valid && p.haltCode.isSome
    if o = 0 then s.dwselOf fn
    else if o = 8 then
      BitVec.ofNat 64 (valid.toNat + halted.toNat * 2 + (halted && p.handler).toNat * 4 + (if halted then (p.haltCode.getD 0).toNat * 2 ^ 16 else 0))
    else if !halted then 0
    else if o = 0x18 then p.pc
    else if o = 0x20 then BitVec.ofNat 64 ((s.core c.core).rushed c.slot % 2 ^ 32)
    else if 0x100 ≤ o ∧ o < 0x200 then bankReg p.bankT (BitVec.ofNat 5 ((o - 0x100) / 8))
    else if 0x200 ≤ o ∧ o < 0x300 then bankReg p.bankH (BitVec.ofNat 5 ((o - 0x200) / 8))
    else if 0x400 ≤ o ∧ o < 0x600 then s.csr c ((o - 0x400) / 8)
    else if 0x8000 ≤ o then ((s.core c.core).rush c.slot ((o - 0x8000) / 16)).extractLsb' (8 * (o % 16)) 64
    else 0

/-- A write of a word of the debug window, GO apart. -/
def State.debugWrite (s : State) (fn : BitVec 8) (o : Nat) (v : Word) : State :=
  if !s.windowOpen fn then s
  else
    let c := selected (s.dwselOf fn)
    let lands := s.selectedValid fn && (s.cp c).haltCode.isSome
    if o = 0 then (if h : fn.toNat < 253 then { s with dwsel := vmod s.dwsel ⟨fn.toNat, h⟩ fun _ => v &&& 0x1FF } else s)
    else if !lands then s
    else if o = 0x18 then s.modCp c fun p => { p with pc := v &&& ~~~(3 : Word) }
    else if 0x100 ≤ o ∧ o < 0x200 then s.modCp c fun p => { p with bankT := bankSet p.bankT (BitVec.ofNat 5 ((o - 0x100) / 8)) v }
    else s

/-- The halted CP that a write of GO reaches. -/
def State.goTarget (s : State) (fn : BitVec 8) : Option CpId :=
  let c := selected (s.dwselOf fn)
  if s.windowOpen fn && s.selectedValid fn && (s.cp c).haltCode.isSome then some c else none

/-- DEBUG_STEP: the halted CP issues one thread instruction when DBGCTL.STEP is 1. -/
def execDebugStep (fn : BitVec 8) (s : State) : Out State :=
  .next <|
    match s.goTarget fn with
    | none => s
    | some c => if (s.cp c).dbgctl.getLsbD 1 then s.modCp c fun p => { p with stepOne := true } else s

/-- DEBUG_RUN: the CP leaves its halt. -/
def execDebugRun (fn : BitVec 8) (s : State) : Out State :=
  .next <|
    match s.goTarget fn with
    | none => s
    | some c => s.modCp c fun p => { p with run := .running, stepOne := false }

/-- A write of a word of the debug window; bits of GO start their rows. -/
def State.debugWord (s : State) (fn : BitVec 8) (o : Nat) (v : Word) : State :=
  if o = 0x10 then
    s.dueFirst ((if v.getLsbD 0 then [Instr.debugStep fn] else []) ++ (if v.getLsbD 1 then [Instr.debugRun fn] else []))
  else s.debugWrite fn o v

/-! ### HOST_WRITE, HOST_READ, HOST_ATOMICOP -/

/-- A word of BAR 2: the window of queue q, for its own function only. -/
def State.queueWord (s : State) (fn : BitVec 8) (o : Nat) (v : Word) : State :=
  let q : Fin 4096 := ⟨o / 64 % 4096, by omega⟩
  if (s.wq q.val).fn != fn then s
  else match o % 64 with
  | 0x00 => s.dueFirst [.wqTailWrite fn q (v.setWidth 32)]
  | 0x10 => let w := s.wq q.val; s.setWq q.val { w with err := w.err &&& ~~~v }
  | 0x18 => s.dueFirst [.wqRingWrite fn q v]
  | _ => s

/-- A word of BAR 2 as it reads. -/
def State.queueRead (s : State) (fn : BitVec 8) (o : Nat) : Word :=
  let w := s.wq (o / 64 % 4096)
  if w.fn != fn then 0
  else match o % 64 with
  | 0x00 => w.tail.setWidth 64
  | 0x08 => w.head.setWidth 64
  | 0x10 => w.err
  | _ => 0

/-- HOST_WRITE. BAR 7 stands for the host's own memory (entry 18). -/
def execHostWrite (fn : BitVec 8) (hif : Fin 2) (ide : Option (BitVec 8)) (bar : BitVec 3) (off : Nat) (data : List Byte) (s : State) :
    Out State :=
  if bar == 7 then
    (if 2 ^ 64 < off + data.length then .fault .noSuchAddress else .next (s.setBytes ⟨.host, off⟩ data))
  else if !s.accepts fn hif ide || s.barSize fn bar = 0 then .next (s.unsupported fn hif ide)
  else if s.barSize fn bar < off + data.length then .fault .noSuchAddress
  else
    let ws := wordsTouched off data.length
    .next <|
      match bar with
      | 0 => s.dueFirst (ws.map fun w => .registerWrite (8 * w) (wordOfWrite (s.keptBytes (mreg (8 * w))) off data w))
      | 2 => ws.foldl (fun t w =>
          t.queueWord fn (8 * w) (wordOfWrite (if 8 * w % 64 = 0x10 then 0 else t.queueRead fn (8 * w)) off data w)) s
      | 4 => s.hostStore fn (data.length + 1) off data
      | _ => ws.foldl (fun t w => t.debugWord fn (8 * w) (wordOfWrite (t.debugRead fn (8 * w)) off data w)) s

/-- Bytes of a word-wise window. -/
def bytesOfWords (f : Nat → Word) (off len : Nat) : List Byte := (List.range len).map fun i => (f ((off + i) / 8 * 8)).extractLsb' (8 * ((off + i) % 8)) 8

/-- A host read of BAR 4; none for an uncorrectable error. -/
def State.hostLoad (s : State) (fn : BitVec 8) : Nat → Nat → Nat → State × Option (List Byte)
  | 0, _, _ => (s, some [])
  | n + 1, off, len =>
    let k := min len (2 ^ 30 - off % 2 ^ 30)
    match s.bar4 fn off with
    | none => (s, some [])
    | some pa =>
      match s.load ⟨coreOf (match pa.space with | .hbm d => d | _ => 0) 0 0, 0⟩ (s.ownerOf pa) pa k with
      | (s1, none) => (s1, none)
      | (s1, some b) =>
        if k = len then (s1, some b)
        else match s1.hostLoad fn n (off + k) (len - k) with
        | (s2, some r) => (s2, some (b ++ r))
        | (s2, none) => (s2, none)

/-- HOST_READ. -/
def execHostRead (fn : BitVec 8) (hif : Fin 2) (ide : Option (BitVec 8)) (bar : BitVec 3) (off : Nat) (len : Nat) (s : State) : Out State :=
  if bar == 7 then
    (if 2 ^ 64 < off + len then .fault .noSuchAddress else .next (s.emit (.readData fn (s.bytesAt ⟨.host, off⟩ len))))
  else if !s.accepts fn hif ide || s.barSize fn bar = 0 then .next (s.unsupported fn hif ide)
  else if s.barSize fn bar < off + len then .fault .noSuchAddress
  else
    .next <|
      match bar with
      | 0 => s.emit (.readData fn (bytesOfWords (fun o => s.readReg (mreg o)) off len))
      | 2 => s.emit (.readData fn (bytesOfWords (s.queueRead fn) off len))
      | 4 => match s.hostLoad fn (len + 1) off len with
        | (s1, some b) => s1.emit (.readData fn b)
        | (s1, none) => s1.emit (.unsupported fn)
      | _ => s.emit (.readData fn (bytesOfWords (s.debugRead fn) off len))

/-- The new value of an AtomicOp of n bytes (R406). -/
def atomicNew (op : HostAtomic) (n old : Nat) : Nat :=
  match op with
  | .fetchAdd v => (old + v.toNat) % 2 ^ (8 * n)
  | .swap v => v.toNat % 2 ^ (8 * n)
  | .cas c v => if old = c.toNat % 2 ^ (8 * n) then v.toNat % 2 ^ (8 * n) else old

/-- HOST_ATOMICOP: 32 or 64 bits, aligned, in BAR 4; any other completes with Unsupported Request (R406). -/
def execHostAtomicop (fn : BitVec 8) (hif : Fin 2) (ide : Option (BitVec 8)) (bar : BitVec 3) (off : Nat) (size : Nat) (op : HostAtomic)
    (s : State) : Out State :=
  if !s.accepts fn hif ide || bar != 4 || (size != 4 && size != 8) || off % size != 0 then .next (s.unsupported fn hif ide)
  else match s.bar4 fn off with
  | none => .fault .noSuchAddress
  | some pa =>
    .next <|
      match s.load ⟨coreOf (match pa.space with | .hbm d => d | _ => 0) 0 0, 0⟩ (s.ownerOf pa) pa size with
      | (s1, none) => s1.emit (.unsupported fn)
      | (s1, some b) => (s1.store (s.ownerOf pa) pa (leBytes size (atomicNew op size (leNat b)))).emit (.readData fn b)

/-! ### Reset (R17, R18, R309; entry 28) -/

/-- The part of memory that does not belong to the package. -/
def outsideMem (m : Memory) : Memory := m.filter fun x => decide (806 * 2 ^ 64 ≤ x.1)

/-- A die's boot ROM accepts its firmware: the vendor key's digest is the fused one, and the key's signature of the image verifies (R409). -/
def bootVerifies (d : Nat) : Bool :=
  shake256 (Config.vendorKey d) 64 == Config.vendorDigest d && mldsaVerify (Config.vendorKey d) (Config.firmwareImage d) (Config.firmwareSig d)

/-- COLD_RESET: every field takes its reset value. The fuse masks are written at test and stay, and so does what lies outside the
package: host and peer memory, the endpoint and the routes that the operator has programmed, what has left and what is still to come. A die whose boot ROM
refuses its firmware stays in recovery (R409). -/
def execColdReset (s : State) : Out State :=
  .next { State.reset with
    cores := Vector.ofFn fun k => { Core.reset with fuse := (s.cores.get k).fuse }
    dies := Vector.ofFn fun d => { Die.reset with recovery := !bootVerifies d.val }
    mem := outsideMem s.mem, ep := s.ep, routes := s.routes, inbox := s.inbox, outbox := s.outbox, fresh := s.fresh, ids := s.ids }

/-- An error log survives a warm reset. -/
def HbmCtl.warm (k : HbmCtl) : HbmCtl := { HbmCtl.reset with hlog := k.hlog, spUsed := k.spUsed }

/-- What a core keeps over a warm reset: its fuses, its error logs, and whose bytes its near memory holds (R343). -/
def Core.warm (k : Core) : Core :=
  { Core.reset with fuse := k.fuse, elog := k.elog, localHeld := k.localHeld, sceneHeld := k.sceneHeld, statHeld := k.statHeld }

/-- WARM_RESET: RS fields keep their values, and GCYC counts on from the cold reset (R234); every other register takes its reset value,
so EINJ.ARM is cleared. Memories keep their bytes, but no key survives: HBM reads as unpredictable bytes (R351). -/
def execWarmReset (s : State) : Out State :=
  .next { State.reset with
    cores := s.cores.map Core.warm
    clusters := Vector.ofFn fun k => { Cluster.reset with cblog := (s.clusters.get k).cblog, cdlog := (s.clusters.get k).cdlog }
    dies := Vector.ofFn fun d =>
      { Die.reset with gcyc := (s.dies.get d).gcyc, recovery := (s.dies.get d).recovery, ctl := (s.dies.get d).ctl.map HbmCtl.warm }
    chiplets := Vector.ofFn fun k => { Chiplet.reset with kvlog := (s.chiplets.get k).kvlog }
    mem := s.mem, ecc := s.ecc, ep := s.ep, routes := s.routes, inbox := s.inbox, outbox := s.outbox, fresh := s.fresh, ids := s.ids, safe := s.safe }

end Sys2Proof.Machine
end

