-- ==== Sys2Proof/Machine/Fabric.lean ====
section
/-! DEFINITION. The fabric: links and flits, channels between packages, peer accesses, the time base, escrow, gangs and collectives
(R418, R421 to R442). -/
namespace Sys2Proof.Machine

/-! ### Routes (R424) -/

/-- The endpoints that a port leads to (R424). -/
def State.beyondPort (s : State) (port : Fin 18) : List (BitVec 20) := (s.routes.filter fun r => r.2 == port).map (·.1)

/-! ### Gangs that lose a member (R434, R442, R443) -/

/-- The gang of a slot's task. -/
def State.gangOf (s : State) (c : CpId) : Option Gang :=
  ((s.slot c).launch.bind fun i => s.launches.find? fun l => l.id == i).bind fun l => l.gang.bind s.gang

/-- A gang whose channels may open. -/
def Gang.linked (g : Gang) : Bool := g.state == .committed || g.state == .confirmed

/-- A gang that has not ended. -/
def Gang.alive (g : Gang) : Bool := g.linked || g.state == .preparing || g.state == .ready

/-- A message goes to every member but this package. -/
def State.toMembers (s : State) (g : Gang) (kind : Nat) (arg : Word) : State :=
  g.members.zipIdx.foldl (fun t m => if m.2 == g.midx then t else t.toFabric m.1.1 (.gang kind g.gid arg)) s

/-- A message goes to the initiator. -/
def State.toInitiator (s : State) (g : Gang) (kind : Nat) (arg : Word) : State :=
  match g.members with
  | m :: _ => s.toFabric m.1 (.gang kind g.gid arg)
  | [] => s

/-- The slots that run a task of a gang; under a double fault a slot's regions run on (R297). -/
def State.gangSlots (s : State) (gid : Word) : List CpId :=
  allSlots.filter fun c =>
    let t := s.slot c
    (t.status == 0x01 || t.status == 0x02 || (t.status == 0x04 && t.gangTag.isNone)) && match s.gangOf c with | some g => g.gid == gid | none => false

/-- The STOPPED slots of a gang (R442). -/
def State.stoppedSlots (s : State) (gid : Word) : List CpId :=
  allSlots.filter fun c => (s.slot c).status == 0x04 && (s.slot c).gangTag == some gid

/-- RESULT of a failed collective: 2 + 256 × cause (R436). -/
def State.collResultFault (s : State) (c : CpId) (j : CollJob) (cause : BitVec 8) : State :=
  s.storeOrPark c j.result (j.recAddr + 0x38) j.pc (leBytes 8 (2 + 256 * cause.toNat))

/-- One slot of a stopped gang: stopped as by pre-emption, regions included, with its image, which its tag keeps for the gang, and one record, which
waits while the core's queue is full (R303, R434). Its collectives end; of one that has failed RESULT is written (R440). -/
def State.stopSlot (s : State) (gid : Word) (c : CpId) (detail : Word) : State :=
  let s1 := if s.onGrid c then (s.preempt c).spill c else s
  let s2 := (s1.newId.queueRec c.core (.job s1.ids) { s1.slotRec c cGANG 0x08 none with detail := detail })
  let s3 := (s2.slot c).colls.foldl (fun t j => match j.fault with | some e => t.collResultFault c j e.1 | none => t) s2
  let s4 := s3.modSlot c fun t =>
    { t with status := 0x04, refusal := 0, colls := [], gangTag := some gid
             ports := t.ports.mapFinIdx fun i q _ => if i = 19 || i = 23 then { q with chan := { q.chan with isOpen := false } } else q }
  s4.modCore c.core fun k => { k with swap := if k.swap == some c.slot then none else k.swap }

/-- A core whose bound slot has been stopped goes to the task that stands by on it, when there is one. -/
def State.standIn (s : State) (c : CpId) : State :=
  let o := otherSlot c
  if (s.slot o).status == 0x02 && (s.core c.core).swap.isNone && !(s.slot c).bound && !(s.core c.core).split then s.beginSwap c.core o.slot else s

/-- A gang is stopped here. -/
def State.stopGang (s : State) (g : Gang) (index : Nat) (byStop : Bool) : State :=
  let detail := BitVec.ofNat 64 (index % 4096 + (if byStop then 4096 else 0))
  let live := s.gangSlots g.gid
  let s1 := live.foldl State.standIn (live.foldl (fun t c => t.stopSlot g.gid c detail) s)
  (s1.modGang g.gid fun g => { g with reason := detail.setWidth 8 }).enterState g.gid .stopped

/-- STOP goes to every member of a gang with a member beyond a loss, this one included (R442); one that is not COMMITTED here does not
stop for it (R432). -/
def State.stopBeyond (s : State) (beyond : List (BitVec 20)) : State :=
  (s.gangs.filter fun g => g.alive && g.members.any fun m => beyond.contains m.1).foldl
    (fun t g => let u := t.toMembers g 7 (BitVec.ofNat 64 g.midx); if g.linked then u.stopGang g g.midx true else u) s

/-! ### Links (R421 to R424) -/

/-- A link is lost: its port carries nothing more and what it has not delivered is lost, function 0 is interrupted, and gangs across it stop (R423,
R442, R443). -/
def State.linkLost (s : State) (port : Fin 18) (beyond : List (BitVec 20)) : State :=
  (((s.modLink port fun l => { l with up := false, replayBuf := [], queue := [] }).emit (.portDown port)).msix 0 1).stopBeyond (s.beyondPort port ++ beyond)

/-- LANE_FAIL: a port with fewer than four working lanes is down. -/
def execLaneFail (port : Fin 18) (s : State) : Out State :=
  .next <|
    let s1 := s.modLink port fun l => { l with lanes := l.lanes - 1 }
    if (s.link port).up && decide ((s1.link port).lanes < 4) then s1.linkLost port [] else s1

/-- LINK_DOWN: the link is lost; `beyond` names what lies beyond it besides the endpoints that the routing tables send there. -/
def execLinkDown (port : Fin 18) (beyond : List (BitVec 20)) (s : State) : Out State := .next (s.linkLost port beyond)

/-- LINK_REKEY: the management cores agree a new key, and the epoch of the nonce counts on. -/
def execLinkRekey (port : Fin 18) (s : State) : Out State :=
  .next (s.took.modLink port fun l => { l with epoch := l.epoch + 1, sent := 0, key := Config.linkKey s.fresh })

/-- HEARTBEAT_LOSS: a neighbour misses a heartbeat, or is heard again; with the third in a row STOP goes out for the gangs beyond it (R442). -/
def execHeartbeatLoss (h : Heartbeat) (s : State) : Out State :=
  .next <|
    let n := if h.heard then 0 else (s.link h.port).missed + 1
    let s1 := s.modLink h.port fun l => { l with missed := n }
    if n = 3 then s1.stopBeyond (s.beyondPort h.port ++ h.beyond) else s1

/-- A flit is discarded and replayed; with the sixteenth replay in a row without progress the link is down (R423). -/
def State.replayFrom (s : State) (port : Fin 18) (error : Bool) : State :=
  let l := s.link port
  let s1 := s.modLink port fun l => { l with errors := if error then l.errors + 1 else l.errors, replays := l.replays + 1 }
  if 16 ≤ l.replays + 1 then s1.linkLost port [] else s1.emit (.replay port l.lastRecv)

/-- The peer has received a port's flits up to LACK: they leave the replay buffer, and those that waited for room follow. When the sender replays
what comes after LACK is open (R423; entry 29). -/
def State.acked (s : State) (port : Fin 18) (lack : BitVec 24) : State :=
  let l := s.link port
  let rest := match l.replayBuf.findIdx? fun x => x.1 == lack with
    | some i => l.replayBuf.drop (i + 1)
    | none => l.replayBuf
  let s1 := s.modLink port fun l => { l with replayBuf := rest, queue := [] }
  let s2 := l.queue.foldl (fun t x => t.transmit port x) s1
  if rest.isEmpty then s2
  else if Config.freeBool s2.fresh then rest.foldl (fun t x => t.emitFlit port x.1 x.2) s2.took else s2.took

/-- What a flit's link header does: none for a flit that is discarded, because the port is down, its tag or FEC fails, or it is not
the next one in LSEQ order; the sender then replays (R423). -/
def State.receive (s : State) (port : Fin 18) (f : Flit) : State × Bool :=
  let l := s.link port
  if !l.up then (s, false)
  else if !f.tagOk then (s.replayFrom port true, false)
  else if f.lseq == l.lastRecv + 1 then ((s.modLink port fun l => { l with lastRecv := f.lseq, replays := 0 }).acked port f.lack, true)
  else (s.replayFrom port false, false)

/-- A flit that has been received and is for this package goes to `k`; one for another endpoint goes on by its route (R424), and an idle or a
reserved one does nothing. -/
def State.arrived (s : State) (port : Fin 18) (f : Flit) (k : State → State) : State :=
  match s.receive port f with
  | (s1, false) => s1
  | (s1, true) => if 2 < f.typ.toNat then s1 else if f.dest != s1.ep then s1.toFabric f.dest (.transit f) else k s1

/-! ### Channels (R425, R426) -/

/-- The fabric descriptor of a port's pattern. -/
def PortCtx.fabric (q : PortCtx) : Option (BitVec 512 × Word) :=
  match q.pattern with
  | none => none
  | some w => let d := BitVec.ofNat 64 (patBase w); if patSpace w == 2 && wbits d 63 62 == 1 then some (w, d) else none

/-- Tokens before a sequence number are accepted (R427). -/
def State.acceptedUpTo (s : State) (c : CpId) (p : BitVec 5) (first : Nat) : Nat → State
  | 0 => s
  | n + 1 =>
    match ((s.slot c).port p).chan.kept with
    | (k, _) :: _ => if k < first then (s.accepted c p).acceptedUpTo c p first n else s
    | [] => s

/-- A window reaches the sender of an open channel: what lies before it has been accepted. -/
def State.takeWindow (s : State) (c : CpId) (p : BitVec 5) (first count : Nat) : State :=
  (s.modPort c p fun q => { q with chan := { q.chan with sendEnd := max q.chan.sendEnd (first + count) } }).acceptedUpTo c p first
    ((s.slot c).port p).chan.kept.length

/-- A sender sends again what it keeps (R442). -/
def State.resend (s : State) (c : CpId) (p : BitVec 5) (d : Word) : State :=
  let q := ((s.slot c).port p).chan
  q.kept.foldl (fun t x => t.sendVia q.route (descEp d) (.token (descFabCp d) (descFabPort d) x.1 x.2)) s

/-- The window that a peer has granted a port that is not open yet. -/
def State.grantFor (s : State) (c : CpId) (p : BitVec 5) (ep : BitVec 20) : Option (Nat × Nat) :=
  (s.grants.find? fun x => x.1 == c && x.2.1 == p && x.2.2.1 == ep).map (·.2.2.2)

/-- A sender's channel opens with the first window of the peer that its pattern names: the peer expects the number that comes next here, or one
that is kept, from which what is kept is sent again (R442). -/
def State.openSender (s : State) (c : CpId) (p : BitVec 5) (d : Word) (route : Fin 18) : State :=
  let q := ((s.slot c).port p).chan
  match s.grantFor c p (descEp d) with
  | none => s
  | some (first, count) =>
    if first != q.sendSeq && !q.kept.any fun x => x.1 == first then s
    else
      let s1 := (s.modPort c p fun q => { q with chan := { q.chan with isOpen := true, route := some route } }).takeWindow c p first count
      ({ s1 with grants := s1.grants.filter fun x => !(x.1 == c && x.2.1 == p) } : State).resend c p d

/-- A receiver's channel opens, and grants its first window from the number that it expects next. -/
def State.openReceiver (s : State) (c : CpId) (p : BitVec 5) (w : BitVec 512) (d : Word) (route : Fin 18) : State :=
  let q := ((s.slot c).port p).chan
  let e := max q.recvEnd (q.recvSeq + (if s.onGrid c then min 16 (patTotal w - q.recvSeq) else 0))
  let chan : Channel := { q with isOpen := true, recvEnd := e, route := some route }
  (s.modPort c p fun q => { q with chan := chan }).tellWindow chan d

/-- FABRIC_CHANNEL_OPEN: the pattern bound here names a member of the task's gang, which is COMMITTED or CONFIRMED, and a route leads there, which the
channel keeps (R424). The receiver's first window tells the sender that it is named back (R426; entry 29). A newly bound channel starts at 0; that of
a resumed gang goes on from the saved numbers. -/
def execFabricChannelOpen (c : CpId) (p : BitVec 5) (s : State) : Out State :=
  .next <|
    let q := (s.slot c).port p
    match q.fabric, s.gangOf c with
    | some (w, d), some g =>
      if (p != 19 && p != 23) || q.chan.isOpen || !g.linked || !g.members.any (fun m => m.1 == descEp d) then s
      else match s.routeTo (descEp d) with
      | none => s
      | some route => if patWrite w then s.openSender c p d route else s.openReceiver c p w d route
    | _, _ => s

/-- Tokens of a port that have come to the package and are not in the tap queue yet. -/
def Core.waitsAt (k : Core) (slot : Fin 2) (p : BitVec 5) : Nat := (k.ring.filter fun t => t.slot == slot && t.port == p && t.inbound).length

/-- A token of a flit is taken by its channel, in sequence order and inside the granted window; it waits for its slot and for room at the package
(R426). -/
def State.takeToken (s : State) (c : CpId) (p : BitVec 5) (src : BitVec 20) (seq : Nat) (tok : Tok) : State :=
  let q := (s.slot c).port p
  match q.fabric with
  | none => s
  | some (w, d) =>
    if !q.chan.isOpen || patWrite w || descEp d != src || seq != q.chan.recvSeq + (s.core c.core).waitsAt c.slot p || decide (q.chan.recvEnd ≤ seq) then s
    else s.addToken c.core
      { id := s.ids, slot := c.slot, port := p, inbound := true, tok := tok, addr := default, va := 0, pos := .far
        timed := false, order := seq, lane := 0, cw := true, station := 0, hops := 0, region := 0, elem := 0, tap := 0, takeSeq := 0 }

/-- DATA_FLIT: a flit arrives, and the tokens of a data flit are delivered in order. What a management flit carries comes as a row of its own. -/
def execDataFlit (port : Fin 18) (f : Flit) (s : State) : Out State :=
  .next <| s.arrived port f fun t =>
    if f.typ != 0 || decide (7 < f.toks.length) then t
    else f.toks.zipIdx.foldl (fun t x => t.takeToken f.cp f.port f.src (f.seq.toNat + x.2) x.1) t

/-- CREDIT_FLIT: a window reaches its sender, or waits for the channel to open there. -/
def execCreditFlit (port : Fin 18) (f : Flit) (s : State) : Out State :=
  .next <| s.arrived port f fun t =>
    if f.typ != 1 then t
    else
      let q := (t.slot f.cp).port f.port
      let mine := match q.fabric with | some (w, d) => patWrite w && descEp d == f.src | none => false
      if q.chan.isOpen then (if mine then t.takeWindow f.cp f.port f.seq.toNat f.grant else t)
      else { t with grants := (f.cp, f.port, f.src, f.seq.toNat, f.grant) :: t.grants.filter fun x => !(x.1 == f.cp && x.2.1 == f.port && x.2.2.1 == f.src) }

/-! ### Peer accesses (R428) -/

/-- PEER_ACCESS: an access of a package performs when the owner's tenant key is the requester's, else it completes with an error. -/
def execPeerAccess (r : PeerReq) (s : State) : Out State :=
  if 94 * 2 ^ 30 < r.off + r.size then .fault .noSuchAddress
  else
    .next <|
      let pa : PAddr := ⟨.hbm r.die, r.off⟩
      let no := s.toFabric r.ep (.peerDone r.tag false [])
      match (if h : r.off / 2 ^ 30 < 94 then (s.die r.die).granules.get ⟨r.off / 2 ^ 30, h⟩ else none) with
      | none => no
      | some p =>
        if ((s.die r.die).ptab.get (ix32 p)).tkdig != r.tkdig then no
        else if r.write then (s.store p pa (r.data.take r.size)).toFabric r.ep (.peerDone r.tag true [])
        else match s.load ⟨coreOf r.die 0 0, 0⟩ p pa r.size with
        | (s1, some b) => s1.toFabric r.ep (.peerDone r.tag true b)
        | (s1, none) => s1.toFabric r.ep (.peerDone r.tag false [])

/-! ### The time base (R429) -/

/-- OFFS: clamped to ±32767, two's complement. -/
def clampOffset (x : Int) : BitVec 16 := BitVec.ofInt 16 (max (-32767) (min 32767 x))

/-- PTP_SYNC: FTIME takes the grandmaster's time, and the lock follows the offset. -/
def execPtpSync (offset : Int) (grandmaster : Word) (s : State) : Out State :=
  .next <|
    let close := decide (-20 ≤ offset) && decide (offset ≤ 20)
    let far := decide (offset < -100) || decide (100 < offset)
    let n := if close then min 16 (s.lockCount + 1) else 0
    let upd (d : Die) : Die :=
      let lock := !far && (d.ftstat.getLsbD 63 || decide (16 ≤ n))
      { d with ftstat := BitVec.ofNat 64 (lock.toNat * 2 ^ 63 + (clampOffset offset).toNat * 2 ^ 32 + (wbits d.ftstat 31 0 + 1) % 2 ^ 32) }
    { s with ftime := 11 * grandmaster.toNat, lockCount := n, dies := s.dies.map upd }

/-! ### Escrow (R418) -/

/-- A peer's measurements at indices 1 to 3 equal this package's own. -/
def State.trusts (s : State) (meas : List (List Byte)) : Bool := meas == (s.bootMeasurements.take 3).map (·.2)

/-- An image of the safe tier comes into an EMPTY slot of a substitute, STOPPED and tagged with its gang. What it holds is not this package's: its
program counter and its registers are free values (R442; entry 27). -/
def State.substituteImage (s : State) (part : BitVec 5) (c : CpId) (wid tag : Word) : State :=
  if (s.slot c).status != 0 then s
  else
    let k := s.core c.core
    let cfg := BitVec.ofNat 64 (part.toNat * 2 ^ 24 + k.ssb.toNat * 2 ^ 16 + k.smb.toNat * 2 ^ 8 + k.gc.toNat * 2 ^ 6 + k.lsb.toNat)
    let cp : Cp := { Cp.reset with run := .running, pc := Config.freeWord s.fresh &&& ~~~(3 : Word), bankT := Vector.ofFn fun i => Config.freeWord (s.fresh + 1 + i.val) }
    { s with fresh := s.fresh + 33 }.modSlot c fun _ => { Slot.reset with wid := wid, cfg := cfg, part := part, status := 0x04, gangTag := some tag, cp := cp }

/-- The key of a partition comes from its escrow package to this one, a substitute: it is installed, granules and images are placed, and a RESTORE that
waits for nothing more is done (R413, R418). -/
def State.substitute (s : State) (part : BitVec 5) (ct : List Byte) (granules : List (Fin 4 × Nat)) (images : List (CpId × Word × Word)) : State :=
  let s1 := granules.foldl (fun t g => if h : g.2 < 94 then (if ((t.die g.1).granules.get ⟨g.2, h⟩).isNone then t.putGranule part g else t) else t) s
  let s2 := images.foldl (fun t x => t.substituteImage part x.1 x.2.1 x.2.2) (s1.installKey part (Config.decapsulate ct))
  let s3 := { s2 with escrowAsks := s2.escrowAsks.filter fun x => x.2 != part }
  if s3.mailboxRuns 7 && s3.restoreParts.all fun q => !s3.escrowAsks.any fun x => x.2 == q then s3.mailboxDone 0 0 else s3

/-- ESCROW_HANDOVER (R418): what a session about a partition's key brings. An escrow package stores a ciphertext, or encapsulates the stored key anew
for a substitute whose measurements agree; the owner's key goes to an escrow package that has answered with equal measurements; and a
substitute gets the key that it has asked for. -/
def execEscrowHandover (ep : BitVec 20) (part : BitVec 5) (ciphertext : List Byte) (act : EscrowAct) (meas : List (List Byte)) (s : State) : Out State :=
  .next <|
    match act with
    | .store => { s with escrowed := (ep, part, ciphertext) :: s.escrowed.filter fun x => !(x.1 == ep && x.2.1 == part) }
    | .release =>
      match s.escrowed.find? fun x => x.2.1 == part with
      | some x => if s.trusts meas then s.toFabric ep (.escrowKey part (Config.encapsulate ep.toNat (Config.decapsulate x.2.2))) else s
      | none => s
    | .answer =>
      if !s.escrowAsks.contains (ep, part) then s
      else
        let s1 := { s with escrowAsks := s.escrowAsks.filter (· != (ep, part)) }
        if s.trusts meas then s1.toFabric ep (.escrowKey part (Config.encapsulate ep.toNat (s.part part).key)) else s1
    | .deliver granules images =>
      if s.escrowAsks.contains (ep, part) && s.mailboxRuns 7 && s.restoreParts.contains part then s.substitute part ciphertext granules images else s

/-! ### Gangs (R430 to R434) -/

/-- The member enters ABORTED; nothing has started (R432). -/
def State.abortGang (s : State) (g : Gang) (reason : BitVec 8) : State :=
  (s.modGang g.gid fun g => { g with reason := reason }).enterState g.gid .aborted

/-- A task of a gang can be bound to a slot: EMPTY, on a core that keeps the launch's placement, that no other task of the launch and no
other gang has, and whose bound slot is free or holds a task of lower priority (R340, R348, R432). -/
def State.gangFits (s : State) (l : Launch) (wid : Word) (c : CpId) : Bool :=
  let k := c.core
  let o := s.slot (otherSlot c)
  (s.slot c).status == 0 && (s.cmdBlocked c).isNone && !(s.core k).split && !(s.die (dieOf k)).recovery && !s.gangHolds k &&
  !l.started.any (fun x => x.2.core == k) && s.coreFits l wid k && s.shareOk l.part c &&
  (!o.bound || (o.part == l.part && decide (o.prio.toNat < l.shape / 2 ^ 54 % 8)))

/-- The first slot to which the task of a gang can be bound. -/
def State.gangSlot (s : State) (l : Launch) (wid : Word) : Option CpId := allSlots.find? (s.gangFits l wid)

/-- Slots for the next n tasks of a launch, each with its WID, added to those that it has. -/
def State.gangPlan (s : State) (l : Launch) : Nat → Option Launch
  | 0 => some l
  | n + 1 =>
    let wid := BitVec.ofNat 64 (widOf l.shape l.extm1 6 l.started.length)
    match s.gangSlot l wid with
    | none => none
    | some c => s.gangPlan { l with started := l.started ++ [(wid, c)] } n

/-- QUOTA lets a partition's gang have its cores: those that it has bound, and these (R348). -/
def State.gangQuota (s : State) (p : BitVec 5) (cs : List CpId) : Bool :=
  let has (k : Fin 256) : Bool := cs.any (fun c => c.core == k) || (s.core k).slots.toList.any fun t => t.bound && t.part == p
  cs.all fun c => decide ((cores256.filter has).length ≤ (s.ptabOf c.core p).quota.toNat)

/-- The slots of a gang that goes on from its images: each can be bound at once, the task beside it being of lower priority (R442). -/
def State.resumeFits (s : State) (c : CpId) : Bool :=
  let o := s.slot (otherSlot c)
  (s.cmdBlocked c).isNone && !(s.die (dieOf c.core)).recovery && !s.gangHolds c.core &&
  (!o.bound || (o.part == (s.slot c).part && decide (o.prio.toNat < (s.slot c).prio.toNat)))

/-- The slots that a member keeps for a gang from its ACK, none where its tasks cannot all be bound at once (R432, R442). -/
def State.gangSlotsFor (s : State) (q : Nat) (m : PrepareMsg) : Option (List CpId) :=
  if m.resume then
    let cs := s.stoppedSlots m.oldGid
    if cs.all s.resumeFits then some cs else none
  else
    let part := (s.wq q).part
    let l : Launch := { (default : Launch) with queue := q, part := part, slate := m.slate }
    match s.gangPlan l l.tasks with
    | none => none
    | some x => let cs := x.started.map (·.2); if s.gangQuota part cs then some cs else none

/-- The reason for which a member refuses a PREPARE, 0 for none, after what reading the slate's records has logged. -/
def State.prepareRefusal (s : State) (q : Nat) (m : PrepareMsg) : State × Nat :=
  let w := s.wq q
  match s.slateRefusal q m.slate with
  | (t, some r) => (t, r)
  | (t, none) =>
    (t, if ((s.die (dieOfQueue q)).ptab.get (ix32 w.part)).tkdig != m.tkdig then 8
      else if !s.timeLocked (dieOfQueue q) then 9
      else if m.resume && (s.stoppedSlots m.oldGid).isEmpty then 3
      else if (t.gangSlotsFor q m).isNone then 4
      else 0)

/-- What a resumed gang's launch goes on from: the tasks of the old launch that have started, triggered and retired. A package that has never run it
has the images of the tasks that are still to run, and the others have retired (R433, R442; entry 29). -/
def State.resumed (s : State) (g : Gang) (l : Launch) : Launch :=
  let slots := s.stoppedSlots g.oldGid
  match (slots.head?.bind fun c => (s.slot c).launch).bind fun i => s.launches.find? fun x => x.id == i with
  | some o => { l with started := o.started, triggered := o.triggered, retired := o.retired, doneSent := o.doneSent, trigSent := o.trigSent }
  | none =>
    let wids := (List.range l.tasks).map fun n => BitVec.ofNat 64 (widOf l.shape l.extm1 6 n)
    { l with started := wids.map fun w => (w, (slots.find? fun c => (s.slot c).wid == w).getD default)
             retired := wids.filter fun w => !slots.any fun c => (s.slot c).wid == w }

/-- The launch of a member: its tasks wait for Ts. The copy in the launch table carries GID, index, NMEM and Ts (R431). -/
def State.gangLaunch (s : State) (g : Gang) (ts : Word) : State :=
  let id := s.ids
  let s0 := s.accept g.queue 0 g.part g.slate (some g.gid)
  let s1 := if g.resume then s0.modLaunch id (s.resumed g) else s0
  let tail := leBytes 8 g.gid.toNat ++ leBytes 4 g.midx ++ leBytes 4 g.members.length ++ leBytes 8 ts.toNat
  (s1.setBytes ((s.launchPlace g.part (dieOfQueue g.queue) id).plus 0x40) tail).modGang g.gid fun g => { g with launch := some id }

/-- A task of a gang is bound in this cycle, to the slot kept for it while that is free; a lower task on its core stands by. -/
def State.gangTask (s : State) (slots : List CpId) (id : Nat) : State :=
  match s.launches.find? fun l => l.id == id with
  | none => s
  | some l =>
    let n := l.started.length
    let wid := BitVec.ofNat 64 (widOf l.shape l.extm1 6 n)
    match (slots[n]?.filter (s.gangFits l wid)).or (s.gangSlot l wid) with
    | none => s
    | some c =>
      let o := otherSlot c
      let s0 := if (s.slot o).bound then ((s.preempt o).spill o).setStatus o 0x02 else s
      let k := s.core c.core
      let old := (s.slot c).cfg
      let cfg := (old &&& ~~~(0xFF7F7FDF#64)) ||| BitVec.ofNat 64 (l.shape / 2 ^ 54 % 8 * 2 ^ 29 + l.part.toNat * 2 ^ 24
        + k.ssb.toNat * 2 ^ 16 + k.smb.toNat * 2 ^ 8 + k.lsb.toNat)
      let va := ((s.part l.part).vaOf (s.launchPlace l.part (dieOfQueue l.queue) l.id)).getD s.freeWord
      ((s0.took.modSlot c fun t => { t with slate := va, wid := wid }).bindCmd c cfg (some l)).modLaunch id fun x =>
        { x with started := x.started ++ [(wid, c)] }

/-- The next tasks of a launch are bound. -/
def State.gangTasks (s : State) (slots : List CpId) (id : Nat) : Nat → State
  | 0 => s
  | n + 1 => (s.gangTask slots id).gangTasks slots id n

/-- Tasks of a started gang that have found no slot yet. -/
def State.gangLeft (s : State) (g : Gang) : Nat :=
  if g.resume then 0
  else match g.launch.bind fun id => s.launches.find? fun l => l.id == id with
  | some l => l.tasks - l.started.length
  | none => 0

/-- A slot whose image goes on under a resumed gang (R196, R442). -/
def State.resumeSlot (s : State) (id : Nat) (c : CpId) : State :=
  let o := otherSlot c
  let s0 := if (s.slot o).bound then ((s.preempt o).spill o).setStatus o 0x02 else s
  ((s0.modSlot c fun t => { t with launch := some id, gangTag := none }).unspill c).bindNow c

/-- The gang's tasks start at Ts (R433), or the images of the gang it resumes go on. -/
def State.startGang (s : State) (g : Gang) : State :=
  match g.launch with
  | none => s
  | some id =>
    let s1 := s.modGang g.gid fun g => { g with started := true }
    if g.resume then (s.stoppedSlots g.oldGid).foldl (fun t c => t.resumeSlot id c) s1
    else s1.gangTasks g.slots id (s.gangLeft g)

/-- A COMMITTED member waits for Ts, or starts at once when it has passed (R433). -/
def State.commit (s : State) (g : Gang) (ts : Word) : State :=
  let late := decide (ts.toNat < s.timeNs)
  let s1 := ((s.modGang g.gid fun g => { g with ts := ts, late := late }).enterState g.gid .committed).gangLaunch g ts
  match s1.gang g.gid with
  | none => s1
  | some g1 => if late then s1.startGang g1 else s1

/-- The initiator sends CONFIRMED once every COMMIT-ACK has arrived before Ts + WDOG; it is a member itself. -/
def State.addCommit (s : State) (g : Gang) (member : Nat) : State :=
  if !g.initHere || g.state != .committed || g.commits.contains member || decide (g.members.length ≤ member) ||
      decide (g.ts.toNat + g.wdogNs ≤ s.timeNs) then s
  else
    let s1 := s.modGang g.gid fun g => { g with commits := member :: g.commits }
    if g.commits.length + 1 < g.members.length then s1
    else ((s1.toMembers g 5 0).enterState g.gid .confirmed).gangRetire g.gid

/-- A CLAPPER reaches a READY member. -/
def State.takeClapper (s : State) (g : Gang) (ts : Word) : State :=
  if g.state != .ready then s
  else
    let s1 := s.commit g ts
    if g.initHere then (match s1.gang g.gid with | some g1 => s1.addCommit g1 0 | none => s1)
    else s1.toInitiator g 4 (BitVec.ofNat 64 g.midx)

/-- The initiator has an ACK; with the last one it sends CLAPPER. -/
def State.addAck (s : State) (g : Gang) (member : Nat) : State :=
  if !g.initHere || g.state != .ready && g.state != .preparing || g.acks.contains member || decide (g.members.length ≤ member) then s
  else
    let s1 := s.modGang g.gid fun g => { g with acks := member :: g.acks }
    if g.acks.length + 1 < g.members.length then s1
    else
      let ts := BitVec.ofNat 64 (s.timeNs + g.delayNs)
      match s1.gang g.gid with
      | some g1 => (s1.toMembers g1 3 ts).takeClapper g1 ts
      | none => s1

/-- The initiator aborts: ABORT to every member. -/
def State.abortAll (s : State) (g : Gang) (reason : BitVec 8) : State := (s.toMembers g 6 (reason.setWidth 64)).abortGang g reason

/-- The gang that a PREPARE makes known to a member. -/
def memberGang (s : State) (m : PrepareMsg) : Gang :=
  { gid := m.gid, state := .preparing, initHere := false, late := false, midx := m.index, reason := 0
    part := (s.wq ((m.members[m.index]?.map fun x => x.2.toNat).getD 0)).part, queue := (m.members[m.index]?.map fun x => x.2.toNat).getD 0
    members := m.members, slate := m.slate, wdogNs := 1000 * m.wdogUs, delayNs := 0, ts := 0, since := s.timeNs, born := s.timeNs, acks := []
    commits := [], launch := none, home := default, recVa := 0, recPlaces := [], ctr := none, inc := 0, signalled := false, resume := m.resume
    oldGid := m.oldGid, started := false, slots := [] }

/-- A member checks a PREPARE and answers. -/
def State.takePrepare (s0 : State) (g : Gang) (m : PrepareMsg) : State :=
  let (s, r) := s0.prepareRefusal g.queue m
  if r = 0 then
    let s1 := (s.modGang g.gid fun x => { x with slots := (s.gangSlotsFor g.queue m).getD [] }).enterState g.gid .ready
    if g.initHere then (match s1.gang g.gid with | some g1 => s1.addAck g1 0 | none => s1)
    else s1.toInitiator g 1 (BitVec.ofNat 64 g.midx)
  else if g.initHere then s.abortAll g (BitVec.ofNat 8 r)
  else (s.abortGang g (BitVec.ofNat 8 r)).toInitiator g 2 (BitVec.ofNat 64 r)

/-- PREPARE. A GID whose gang has ended, and is remembered only, is taken anew (R430, R435). -/
def execPrepare (m : PrepareMsg) (s : State) : Out State :=
  .next <|
    if s.gangs.any fun g => g.gid == m.gid && g.state != .aborted && g.state != .retired then s
    else
      let g := memberGang s m
      ({ s with gangs := s.gangs.filter (fun x => x.gid != m.gid) ++ [g] } : State).takePrepare g m

/-- An event of a known gang. -/
def State.withGang (s : State) (gid : Word) (f : Gang → State) : Out State := .next (match s.gang gid with | some g => f g | none => s)

/-- ACK. -/
def execAck (gid : Word) (member : Nat) (s : State) : Out State := s.withGang gid fun g => s.addAck g member
/-- NAK: the first one aborts the gang. -/
def execNak (gid : Word) (_member : Nat) (reason : BitVec 8) (s : State) : Out State :=
  s.withGang gid fun g => if g.initHere && (g.state == .preparing || g.state == .ready) then s.abortAll g reason else s
/-- CLAPPER. -/
def execClapper (gid : Word) (ts : Word) (s : State) : Out State := s.withGang gid fun g => s.takeClapper g ts
/-- COMMIT_ACK. -/
def execCommitAck (gid : Word) (member : Nat) (s : State) : Out State := s.withGang gid fun g => s.addCommit g member
/-- CONFIRMED: the watchdog is disarmed. -/
def execConfirmed (gid : Word) (s : State) : Out State :=
  s.withGang gid fun g => if g.state == .committed then (s.enterState gid .confirmed).gangRetire gid else s
/-- ABORT. -/
def execAbort (gid : Word) (reason : BitVec 8) (s : State) : Out State :=
  s.withGang gid fun g => if g.state == .preparing || g.state == .ready then s.abortGang g reason else s
/-- STOP: the gang stops at once, confirmed or not. -/
def execStop (gid : Word) (sender : Nat) (s : State) : Out State := s.withGang gid fun g => if g.linked then s.stopGang g sender true else s
/-- CLAPPER_TIME: FTIME has reached Ts. A task whose slot was taken from it is bound as soon as it can be. -/
def execClapperTime (gid : Word) (s : State) : Out State :=
  s.withGang gid fun g => if g.linked && (!g.started || s.gangLeft g != 0) && decide (g.ts.toNat ≤ s.timeNs) then s.startGang g else s

/-- The index that a watchdog's record names (R434). -/
def Gang.missing (g : Gang) : Nat :=
  if g.initHere then ((List.range g.members.length).find? fun k => !g.commits.contains k).getD 0 else 0

/-- GANG_WATCHDOG: Ts + WDOG without CONFIRMED stops the gang here, and STOP goes to every member. -/
def execGangWatchdog (gid : Word) (s : State) : Out State :=
  s.withGang gid fun g =>
    if g.state == .committed && decide (g.ts.toNat + g.wdogNs ≤ s.timeNs) then (s.stopGang g g.missing false).toMembers g 7 (BitVec.ofNat 64 g.midx)
    else s

/-- READY_TIMEOUT: no CLAPPER within WDOG of the ACK. -/
def execReadyTimeout (gid : Word) (s : State) : Out State :=
  s.withGang gid fun g => if !g.initHere && g.state == .ready && decide (g.since + g.wdogNs ≤ s.timeNs) then s.abortGang g 10 else s

/-- GANG_REPLY_TIMEOUT: some member has not answered within WDOG of acceptance. -/
def execGangReplyTimeout (gid : Word) (s : State) : Out State :=
  s.withGang gid fun g =>
    if g.initHere && (g.state == .preparing || g.state == .ready) && decide (g.born + g.wdogNs ≤ s.timeNs) then s.abortAll g 10 else s

/-- GANG_FORGET: 1 s after ABORTED or RETIRED; a STOPPED gang once its slots are unbound (R435). -/
def execGangForget (gid : Word) (s : State) : Out State :=
  s.withGang gid fun g =>
    let isOver := (g.state == .aborted || g.state == .retired) && decide (g.since + 1000000000 ≤ s.timeNs)
    let left := g.state == .stopped && (s.stoppedSlots gid).isEmpty
    if isOver || left then { s with gangs := s.gangs.filter fun x => x.gid != gid } else s

/-! ### glaunch and gstat (R430, R431, R439, R441) -/

/-- The entries of a member set. -/
def memberEntries (n : Nat) (b : List Byte) : List (BitVec 20 × BitVec 12) :=
  (List.range n).map fun k => let w := fld b (8 + 8 * k) 4; (BitVec.ofNat 20 w, BitVec.ofNat 12 (w / 2 ^ 20))

/-- The limits of a member set of n entries. -/
def memberSetOk (ep : BitVec 20) (n : Nat) (b : List Byte) : Bool :=
  let l := memberEntries n b
  zeroBytes b 4 4 && (List.range n).all (fun k => zeroBytes b (12 + 8 * k) 4) && (l.map (·.1)).Nodup &&
  l.all (fun x => x.1 != 0xFFFFF) && (match l with | x :: _ => x.1 == ep | [] => false)

/-- The limits of a gang record. -/
def State.gangRecordOk (s : State) (b : List Byte) : Bool :=
  let gseq := fld b 0x40 8
  let resume := fld b 0x70 4 == 1
  fld b 0x3E 1 == 0 && decide (gseq < 2 ^ 44) && decide (10000 ≤ fld b 0x50 4) && decide (fld b 0x50 4 ≤ 1000000000) &&
  decide (fld b 0x54 4 ≤ 1000000) && decide (fld b 0x70 4 ≤ 1) && zeroBytes b 0x74 4 && (resume || zeroBytes b 0x78 8) &&
  !(s.gangs.any fun g => g.gid == BitVec.ofNat 64 (s.ep.toNat * 2 ^ 44 + gseq) && g.state != .aborted && g.state != .retired) &&
  (!resume || !(s.stoppedSlots (fld64 b 0x78)).isEmpty)

/-- The initiator's gang. -/
def State.newGang (s : State) (va : Word) (b : List Byte) (ps : List PAddr) (l : List (BitVec 20 × BitVec 12)) (ctr : Option (Word × PAddr)) : Gang :=
  { gid := BitVec.ofNat 64 (s.ep.toNat * 2 ^ 44 + fld b 0x40 8), state := .preparing, initHere := true, late := false, midx := 0, reason := 0
    part := s.myPart, queue := (l.headD default).2.toNat, members := l, slate := b.take 64
    wdogNs := 1000 * (if fld b 0x54 4 = 0 then 200 else fld b 0x54 4), delayNs := fld b 0x50 4, ts := 0, since := s.timeNs, born := s.timeNs
    acks := [], commits := [], launch := none, home := s.cur, recVa := va, recPlaces := ps, ctr := ctr, inc := fld64 b 0x60, signalled := false
    resume := fld b 0x70 4 == 1, oldGid := fld64 b 0x78, started := false, slots := [] }

/-- The PREPARE of a gang for member k. -/
def State.prepareOf (s : State) (g : Gang) (k : Nat) : PrepareMsg :=
  { gid := g.gid, slate := g.slate, members := g.members, index := k, initiator := s.ep
    tkdig := ((s.die (dieOfQueue g.queue)).ptab.get (ix32 g.part)).tkdig, wdogUs := g.wdogNs / 1000, resume := g.resume, oldGid := g.oldGid }

/-- Firmware accepts a gang launch: GID and STATUS are written and PREPARE goes to every member. One to which the operator's tables
have no route aborts the gang with reason 11 (R424, R432; entry 29). -/
def State.launchGang (s : State) (g : Gang) : State :=
  let old := s.gangs.filter fun x => x.gid != g.gid
  let s1 := { s with gangs := old ++ [g] }
  let put (t : State) (off : Nat) (v : Nat) : State := t.storeOrPark g.home (pieceAt g.recPlaces off) (g.recVa + BitVec.ofNat 64 off) s.pc (leBytes 8 v)
  let s2 := put (put s1 0x48 g.gid.toNat) 0x68 1
  if (g.members.drop 1).all fun m => (s.routeTo m.1).isSome then
    let s3 := g.members.zipIdx.foldl (fun t m => if m.2 = 0 then t else t.toFabric m.1.1 (.prepare (s.prepareOf g m.2))) s2
    s3.takePrepare g (s.prepareOf g 0)
  else s2.abortAll g 11

/-- The optional counter of a record. -/
def State.optCounter (s : State) (a : Word) (k : Option (Word × PAddr) → State) : State :=
  if a == 0 then k none
  else match s.counterPlace s.cur a true with
  | .error e => s.trapAccess s.cur e a true
  | .ok pa => k (some (a, pa))

/-- glaunch: the CP is held until firmware has accepted (R439). -/
def execGlaunch (a b : Reg) (s : State) : Out State :=
  s.issue [a, b] [] false fun t =>
    let ga := t.reg a
    let gb := t.reg b
    t.withRecord ga 64 128 true fun ps => t.withRecord gb 64 16 false fun qs =>
      if !t.accessesDone t.cur then t
      else t.readRecord ga ps fun u r => u.readRecord gb qs fun v h =>
        let n := fld h 0 4
        if n < 2 || decide (4096 < n) then v.trapFree v.cur cFORMAT
        else v.withRecord gb 64 ((8 + 8 * n + 15) / 16 * 16) false fun qs => v.readRecord gb qs fun x m =>
          if !x.gangRecordOk r || !memberSetOk x.ep n m then x.trapFree x.cur cFORMAT
          else
            let l := memberEntries n m
            if (x.wq (l.headD default).2.toNat).part != x.myPart then x.trapAt x.cur cPROTECT ga
            else x.optCounter (fld64 r 0x58) fun ctr => x.asks fun y => (y.launchGang (y.newGang ga r ps l ctr)).advance

/-- gstat: the answer comes from the management core. -/
def execGstat (d a : Reg) (s : State) : Out State :=
  s.issue [a] [d] true fun t => (t.putPending d none (some (.gang (t.reg a))) 0).advance

/-! ### Collectives (R436 to R438, R440) -/

def collOp (b : List Byte) : Nat := fld b 0 1
def collLen (b : List Byte) : Nat := fld b 0x20 4
def collSsurf (b : List Byte) : Bool := (fld b 2 1).testBit 0
def collDsurf (b : List Byte) : Bool := (fld b 2 1).testBit 1

/-- Bytes that a member reads and writes, n members. -/
def collSrcLen (b : List Byte) (n : Nat) : Nat := if collOp b = 3 then n * collLen b else collLen b
def collDstLen (b : List Byte) (n : Nat) : Nat :=
  match collOp b with
  | 0 => collLen b
  | 1 => collLen b / n
  | _ => n * collLen b

/-- The limits of a collective record; of a surface, SRC or DST is its record of 32 bytes (R186). -/
def collOk (b : List Byte) (n : Nat) : Bool :=
  let op := collOp b
  let len := collLen b
  let src := fld b 0x10 8
  let dst := fld b 0x18 8
  decide (op ≤ 3) && (if op ≤ 1 then decide (fld b 1 1 ≤ 1) else fld b 1 1 == 2) && decide (fld b 2 1 < 4) && zeroBytes b 3 1 &&
  zeroBytes b 0x24 4 && (if op ≤ 1 then len % (32 * n) == 0 && decide (32 * n ≤ len) else len % 32 == 0) &&
  (src == dst || decide (src + (if collSsurf b then 32 else collSrcLen b n) ≤ dst) || decide (dst + (if collDsurf b then 32 else collDstLen b n) ≤ src))

/-- A 32-bit lane of two buffers added as R158 adds a tile. -/
def collAdd (int : Bool) (a b : Nat) : Nat :=
  if int then (BitVec.ofInt 32 (max (-2147483648) (min 2147483647 ((BitVec.ofNat 32 a).toInt + (BitVec.ofNat 32 b).toInt)))).toNat
  else roundFP32 (XVal.sumExact false [fp32.exact a, fp32.exact b])

/-- Two chunks added lane by lane. -/
def collAddBytes (int : Bool) (n : Nat) (a b : List Byte) : List Byte :=
  (List.range (n / 4)).flatMap fun i => leBytes 4 (collAdd int (fld a (4 * i) 4) (fld b (4 * i) 4))

/-- Chunk c of the reduction over n shards. -/
def reduceChunk (int : Bool) (xs : List (List Byte)) (n size c : Nat) : List Byte :=
  let chunk (k : Nat) : List Byte := (((xs[k % n]?).getD []).drop (c * size)).take size
  (List.range (n - 1)).foldl (fun v s => collAddBytes int size v (chunk (c + s + 2))) (chunk (c + 1))

/-- The content of DST at member m. -/
def collResult (b : List Byte) (xs : List (List Byte)) (n m : Nat) : List Byte :=
  let len := collLen b
  let int := fld b 1 1 == 1
  match collOp b with
  | 0 => (List.range n).flatMap fun c => reduceChunk int xs n (len / n) c
  | 1 => reduceChunk int xs n (len / n) m
  | 2 => xs.flatMap fun x => x.take len
  | _ => xs.flatMap fun x => (x.drop (m * len)).take len

/-- A buffer that is a surface is resolved: source at the published extent, destination at the shadow. -/
def State.collBuffer (s : State) (c : CpId) (recAddr : Word) (surf : Bool) (dst : Bool) (a : Word) (len : Nat) :
    State × Except (BitVec 8 × Word × Word × Word) Word :=
  if !surf then (s, .ok a)
  else match s.readVirt c a 32 with
  | (s1, .error e) => (s1, .error e)
  | (s1, .ok r) =>
    let f := surfOf r
    if f.len < len then (s1, .error (cFORMAT, recAddr, 0, 0)) else (s1, .ok (if dst then f.shadow else f.pub))

/-- DETAIL of a collective's error names the member (R300, R440). -/
def collDetail (m : Nat) (e : BitVec 8 × Word × Word × Word) : BitVec 8 × Word × Word × Word :=
  if e.1 == cUNCORR then (e.1, e.2.1, e.2.2.1, e.2.2.2 ||| BitVec.ofNat 64 (2 ^ 63 + m * 2 ^ 32)) else e

/-- What a collective takes when it starts: its surfaces, resolved once (R186), and this member's input. -/
def State.collStart (s : State) (c : CpId) (j : CollJob) (n m : Nat) : State × CollJob :=
  let b := j.bytes
  match s.collBuffer c j.recAddr (collSsurf b) false (fld64 b 0x10) (collSrcLen b n) with
  | (s1, .error e) => (s1, { j with fault := some (collDetail m e) })
  | (s1, .ok src) =>
    match s1.collBuffer c j.recAddr (collDsurf b) true (fld64 b 0x18) (collDstLen b n) with
    | (s2, .error e) => (s2, { j with src := src, fault := some (collDetail m e) })
    | (s2, .ok dst) =>
      match s2.readVirt c src (collSrcLen b n) with
      | (s3, .error e) => (s3, { j with src := src, dst := dst, fault := some (collDetail m e) })
      | (s3, .ok own) => (s3, { j with src := src, dst := dst, own := own })

/-- A collective leaves its slot. -/
def State.dropColl (s : State) (c : CpId) (id : Nat) : State := s.modSlot c fun t => { t with colls := t.colls.filter fun x => x.id != id }

/-- A collective changes. -/
def State.modColl (s : State) (c : CpId) (id : Nat) (f : CollJob → CollJob) : State :=
  s.modSlot c fun t => { t with colls := t.colls.map fun x => if x.id == id then f x else x }

/-- A failed collective ends with RESULT, once its record has entered the queue (R303, R440). -/
def State.settleColl (s : State) (c : CpId) (j : CollJob) : State :=
  match j.fault with
  | none => s
  | some e => if s.recWaits c.core (.job j.id) then s else (s.collResultFault c j e.1).dropColl c j.id

/-- A collective fails, with a deferred fault (R440). -/
def State.collFail (s : State) (c : CpId) (j : CollJob) (e : BitVec 8 × Word × Word × Word) : State :=
  ((s.modColl c j.id fun x => { x with fault := some e }).commandFault c j.id j.pc e.1 j.recAddr e.2.1 e.2.2.1 e.2.2.2).settleColl c { j with fault := some e }

/-- A message of a collective goes to the gang's other members. -/
def State.collTell (s : State) (g : Gang) (m : FabMsg) : State :=
  g.members.zipIdx.foldl (fun t x => if x.2 == g.midx then t else t.toFabric x.1.1 m) s

/-- COP, CFMT and LEN of a collective, which the members compare. -/
def collTerms (b : List Byte) : Nat × Nat × Nat := (collOp b, fld b 1 1, collLen b)

/-- coll: its record is read, its surfaces are resolved and its input is read, and the members tell each other what they are about to do before any data
moves (R438, R440). -/
def execColl (a : Reg) (s : State) : Out State :=
  s.issue [a] [] false fun t =>
    let addr := t.reg a
    t.withRecord addr 64 64 true fun ps =>
      if !t.accessesDone t.cur || decide (16 ≤ (t.slot t.cur).colls.length) then t
      else t.readRecord addr ps fun u b =>
        match (u.gangOf u.cur) with
        | none => u.trapAt u.cur cPROTECT addr
        | some g =>
          if g.gid != fld64 b 8 then u.trapAt u.cur cPROTECT addr
          else if !collOk b g.members.length then u.trapFree u.cur cFORMAT
          else u.optCounter (fld64 b 0x28) fun ctr =>
            let j0 : CollJob :=
              { id := u.ids, gid := g.gid, result := pieceAt ps 0x38, ctr := ctr, pc := u.pc, recAddr := addr, bytes := b
                src := 0, dst := 0, own := [], fault := none }
            let (v, j) := u.newId.collStart u.cur j0 g.members.length g.midx
            let w := v.modSlot u.cur fun x => { x with colls := x.colls ++ [j] }
            match j.fault with
            | none => (w.collTell g (.collTerms g.gid (fld b 4 4) (collOp b) (fld b 1 1) (collLen b))).advance
            | some e => ((if e.1 == cUNCORR then w.collTell g (.collError g.gid (fld b 4 4) g.midx) else w).collFail u.cur j e).advance

/-- A collective's data is in place: the surface is published, RESULT written and the counter signalled (R438). A surface whose record cannot be
written fails it (entry 29). -/
def State.collDone (s : State) (c : CpId) (j : CollJob) : State :=
  let ends (t : State) : State :=
    let t1 := t.storeOrPark c j.result (j.recAddr + 0x38) j.pc (leBytes 8 1)
    (match j.ctr with | some (va, pa) => t1.engineSignal c pa va (fld64 j.bytes 0x30) | none => t1).dropColl c j.id
  if collDsurf j.bytes then
    let va := fld64 j.bytes 0x18 + 0x10
    match s.place c va 8 true with
    | .ok pa => ends (s.flipSel c pa va j.pc)
    | .error e => s.collFail c j (e, va, 0, if e == cPAGE then pageDetail va true else 0)
  else ends s

/-- Each 32-byte unit old or new, a choice from number n on. -/
def collMix (n : Nat) (old new : List Byte) : List Byte :=
  old.zipIdx.map fun x => if Config.freeBool (n + x.2 / 32) then (new[x.2]?).getD x.1 else x.1

/-- A collective that ends while its data move leaves each unit of DST with its old or its new content (R440). -/
def State.collLeave (s : State) (c : CpId) (j : CollJob) (new : List Byte) (len : Nat) : State :=
  match s.readVirt c j.dst len with
  | (s1, .error _) => s1
  | (s1, .ok old) =>
    match s1.writeVirt c j.dst (collMix s.fresh old new) with
    | .error _ => s1
    | .ok s2 => { s2 with fresh := s2.fresh + (len / 32 + 1) }

/-- COLL_COMPLETE: what the other members of a collective have told. Their terms are compared, and when they agree this member's input leaves; with the
inputs of all, in `shards`, this one's own apart, the collective completes; and an error at a member ends it everywhere (R438, R440). -/
def execCollComplete (c : CpId) (id : Nat) (shards : List (List Byte)) (v : CollVerdict) (s : State) : Out State :=
  .next <|
    match (s.slot c).colls.find? fun j => j.id == id with
    | none => s
    | some j =>
      match s.gang j.gid with
      | none => s
      | some g =>
        let n := g.members.length
        let new := collResult j.bytes ((List.range n).map fun k => if k = g.midx then j.own else (shards[k]?).getD []) n g.midx
        if j.fault.isSome then s
        else match v with
        | .terms l =>
          if j.agreed || l.length + 1 != n then s
          else if l.all (· == collTerms j.bytes) then
            (s.modColl c j.id fun x => { x with agreed := true }).collTell g (.collShard g.gid (fld j.bytes 4 4) j.own)
          else s.collFail c j (cFORMAT, j.recAddr, 0, 0)
        | .failed m => (if j.agreed then s.collLeave c j new (collDstLen j.bytes n) else s).collFail c j (collDetail m (cUNCORR, 0, 0, 0))
        | .data =>
          if !j.agreed then s
          else match s.writeVirt c j.dst new with
          | .error e => s.collFail c j e
          | .ok s1 => s1.collDone c j

end Sys2Proof.Machine
end

