-- ==== Sys2Proof/Machine/Round.lean ====
section
/-! DEFINITION. A grid cycle of the package: the clocks (R13, R167, R361, R419), what is due in the cycle and in which order (entry 3),
and the turn of a slot's CP (R163, R167, R198, R207, R218, R296, R349, R414, R446). -/
namespace Sys2Proof.Machine

/-! ### The clocks -/

/-- What a die's management core holds while its firmware runs: firmware is vendor's code, and its registers are free values; a die in recovery runs
none (R333, R409; entry 13). -/
def State.hartNow (s : State) (d : Fin 4) : Hart :=
  let x := s.die d
  if x.recovery then x.hart
  else
    { x := Vector.ofFn fun i => Config.hartWord s.fresh i.val, pc := Config.hartWord s.fresh 31 &&& ~~~(1 : Word)
      mode := if Config.freeBool (s.fresh + 1) then .supervisor else .machine }

/-- A die's grid clock begins a cycle. While firmware has it skip cycles, any one may be skipped (R419, R420). -/
def State.clockDie (s : State) (d : Fin 4) : State :=
  let skip := (s.die d).toSkip != 0 && Config.freeBool s.fresh
  ({ s with fresh := s.fresh + 2 } : State).modDie d fun x =>
    { x with hart := s.hartNow d, skip := skip, gcyc := if skip then x.gcyc else x.gcyc + 1, winCycles := x.winCycles + 1
             winSkipped := if skip then x.winSkipped + 1 else x.winSkipped
             ctl := if skip then x.ctl else x.ctl.map fun l => { l with offerIn := l.offerIn - 1 } }

/-- A core has something that a grid cycle can move. -/
def Core.awake (k : Core) : Bool :=
  k.slots.toList.any (fun t => t.status != 0) || !k.ring.isEmpty || !k.recq.isEmpty || !k.recWait.isEmpty || k.swap.isSome ||
  !k.readClaims.isEmpty || !k.writeClaims.isEmpty

/-- The cores whose grid cycle this is. -/
def State.awakeCores (s : State) : List (Fin 256) := cores256.filter fun k => !(s.die (dieOf k)).skip && (s.core k).awake

/-- A take comes nearer to its first cycle, in which its elements' flags are cleared (R61, R246). -/
def Slot.countStart (t : Slot) (r : Fin 4) : Slot :=
  let g := t.regions.get r
  let first := g.startIn == 1 && g.on == .running && !g.begun
  let t1 := { t with regions := vmod t.regions r fun g => { g with startIn := g.startIn - 1, begun := g.begun || first } }
  if first then { t1 with elems := g.onHdr.elems.foldl (fun v e => vmod v e fun x => { x with estat := 0 }) t1.elems } else t1

/-- A slot passes to the next grid cycle: what was claimed in the last one or fell free in it is free (R255, R321). -/
def Slot.nextCycle (t : Slot) (run : Bool) : Slot :=
  let t1 := { t with freed := [], tileClaims := Vector.replicate 4 0 }
  if run then regions4.foldl Slot.countStart t1 else t1

/-- A core passes from one grid cycle to the next: its copy engine has had its cycle, the ring moves, and what counts grid cycles
counts. -/
def State.clockCore (s : State) (k : Fin 256) : State :=
  let s1 := ((s.copyCycle ⟨k, 0⟩).copyCycle ⟨k, 1⟩).ringCycle k
  let s2 : State := ([⟨k, 0⟩, ⟨k, 1⟩] : List CpId).foldl (fun t c => t.modSlot c fun x => x.nextCycle (s1.onGrid c)) s1
  s2.modCore k fun x => ({ x with offerIn := x.offerIn - 1 } : Core).ageRecs

/-- The package passes to the next grid cycle of 10/11 ns (R13, R429). -/
def State.clock (s : State) : State :=
  let s1 : State := ([0, 1, 2, 3] : List (Fin 4)).foldl State.clockDie { s with ftime := s.ftime + 10 }
  s1.awakeCores.foldl State.clockCore s1

/-! ### What is due -/

/-- Of the events whose moment the spec does not promise, those that happen in this cycle (entry 4). -/
def pick (n : Nat) : List Instr → List Instr
  | [] => []
  | i :: t => if Config.freeBool n then i :: pick (n + 1) t else pick (n + 1) t

/-- The tokens of a core at a stage of their way: those whose time has come, or those whose path promises none. -/
def Core.tokenEvents (k : Core) (core : Fin 256) (pos : RingPos) : List Instr :=
  (k.ring.filter fun t => t.pos == pos).map fun t =>
    if t.inbound then .tokenArriveTap ⟨core, t.slot⟩ t.id else .streamWriteStore ⟨core, t.slot⟩ t.id

/-- The slots of some cores. -/
def slotsOf (l : List (Fin 256)) : List CpId := l.flatMap fun k => [⟨k, 0⟩, ⟨k, 1⟩]

/-- What stays reported until a record queue has room is offered again (R303): failed mask loads and collectives of some slots, and
failed calls. -/
def State.settle (s : State) (cs : List CpId) : State :=
  let s1 := cs.foldl (fun t c => (t.slot c).colls.foldl (fun u j => u.settleColl c j) (t.settleMload c)) s
  ((s1.chiplet 0).calls ++ (s1.chiplet 1).calls).foldl (fun t x => t.settleCall x) s1

/-- The longest that the management core takes for an answer, in the units of `ftime` (R232, R441); none where the spec promises
nothing, for an image above 4 MiB. -/
def State.answerBound (s : State) (c : CpId) : Ask → Option Nat
  | .verify a =>
    match s.readRange c a 32 with
    | (_, some h) => if fld h 0x18 4 ≤ 2 ^ 22 then some (120000 * 11) else none
    | (_, none) => some (120000 * 11)
  | _ => some (2000 * 11)

/-- An answer of the management core that can wait no longer. -/
def State.overdue (s : State) (c : CpId) (e : LandEntry) : Bool :=
  e.rem.isNone && match e.ask.bind (s.answerBound c) with
    | some n => decide (e.since + n ≤ s.ftime + 20)
    | none => false

/-- The answers of a CP that can wait no longer. -/
def State.dueAnswers (s : State) (c : CpId) : List Instr :=
  (((s.cp c).lqT ++ (s.cp c).lqH).filter (s.overdue c)).map fun e => .landing c e.id

/-- Accesses past issue, fills and answers that a CP awaits. -/
def Cp.accessEvents (p : Cp) (c : CpId) : List Instr :=
  (p.posted.map fun w => .postedStorePerformed c w.id) ++
  ((p.lqT ++ p.lqH).filter (fun e => e.rem.isNone)).map (fun e => .landing c e.id) ++
  (match p.run with | .fetchWait _ => [.fetchMissFill c] | _ => [])

/-- Loads of reels that are under way, walks, and calls of a slot. -/
def Slot.waitEvents (t : Slot) (c : CpId) : List Instr :=
  (regions4.filter fun r => (t.regions.get r).loading.isSome).map (fun r => .reelLoadComplete c r) ++
  (ports24.filter fun p => match (t.port p).run with | some st => st.walkVa.isSome | none => false).map (fun p => .edgeTlbWalkReturn c p)

/-- The other end of a die crossing that a port's pattern names. -/
def Slot.crossing (t : Slot) (p : BitVec 5) : Option (CpId × BitVec 5) :=
  match (t.port p).pattern with
  | none => none
  | some w =>
    let d := BitVec.ofNat 64 (patBase w)
    if patSpace w == 2 && patWrite w && wbits d 63 62 == 0 && !(t.port p).chan.isOpen then some (descCp d, descPort d) else none

/-- Channels that may open or grant (R359, R426). -/
def Slot.channelEvents (t : Slot) (c : CpId) : List Instr :=
  (([17, 21] : List (BitVec 5)).filterMap fun p => (t.crossing p).map fun x => .crossingChannelOpen c p x.1 x.2) ++
  (([17, 21, 19, 23] : List (BitVec 5)).filter fun p => (t.port p).chan.isOpen).map (fun p => .windowGrant c p)

/-- Fabric channels that may open. -/
def Slot.fabricEvents (t : Slot) (c : CpId) : List Instr :=
  (([19, 23] : List (BitVec 5)).filter fun p => !(t.port p).chan.isOpen && (t.port p).fabric.isSome).map fun p => .fabricChannelOpen c p

/-- The work of the copy engine and of retirement. -/
def Slot.engineEvents (t : Slot) (c : CpId) : List Instr :=
  (if t.copying.isSome then [.copyComplete c] else if t.copyq.isEmpty then [] else [.copyStart c]) ++
  (match t.cp.run with | .retiring _ => [.taskRetire c] | _ => [])

/-- The attention calls of a slot (R372 to R376). -/
def State.callEvents (s : State) (c : CpId) : List Instr :=
  ([18, 22] : List (BitVec 5)).flatMap fun p =>
    if (s.callsOf c p).isEmpty then []
    else (match ((s.slot c).port p).chan.kept with
      | (_, t) :: _ => if s.atChiplet c p then [.attnInputToken c p t] else []
      | [] => []) ++ [.attnCallStart c p, .attnCallComplete c p]

/-- The slots that have calls, whatever has become of their tasks. -/
def State.callers (s : State) : List CpId := (((s.chiplet 0).calls ++ (s.chiplet 1).calls).map (·.caller)).eraseDups

/-- The timers of the gangs (R433 to R435). -/
def gangEvents (gid : Word) : List Instr :=
  [.clapperTime gid, .gangWatchdog gid, .readyTimeout gid, .gangReplyTimeout gid, .gangForget gid]

/-- The events that happen in this cycle or in a later one. -/
def State.possible (s : State) (ks : List (Fin 256)) : List Instr :=
  (s.tiles.map fun t => .tileArrive t.id) ++ (s.adds.map fun x => .counterAddArrive x.id) ++
  (ks.flatMap fun k => (s.core k).tokenEvents k .far ++ (s.core k).tokenEvents k .refused) ++
  ((slotsOf ks).flatMap fun c =>
    if (s.slot c).status != 0 then (s.cp c).accessEvents c ++ (s.slot c).waitEvents c ++ (s.slot c).fabricEvents c else []) ++
  s.callers.flatMap s.callEvents ++
  (ks.filter fun k => (s.core k).swap.isSome).map fun k => .slotSwapDone k

/-- The events that are due in this cycle before the regions decide. -/
def State.certain (s : State) (ks : List (Fin 256)) : List Instr :=
  (ks.flatMap fun k => (s.core k).tokenEvents k .due ++ (s.core k).tokenEvents k .form) ++
  ((slotsOf ks).flatMap fun c =>
    let t := s.slot c
    (if t.status != 0 then t.channelEvents c ++ s.dueAnswers c else []) ++ (if s.onGrid c then t.engineEvents c else [])) ++
  (ks.filter fun k => !(s.core k).recq.isEmpty && (s.core k).offerIn == 0).map (fun k => .faultRecordOffer (.core k)) ++
  (([0, 1, 2, 3] : List (Fin 4)).flatMap fun d => (([0, 1] : List (Fin 2)).filter fun k =>
    let l := (s.die d).ctl.get k
    !l.recs.isEmpty && l.offerIn == 0).map fun k => .faultRecordOffer (.hbm d k)) ++
  s.gangs.flatMap (fun g => gangEvents g.gid) ++ s.scheduling

/-- The commands of the slots on the grid, and then their regions. -/
def State.coreEvents (s : State) (cs : List CpId) : List Instr :=
  ((cs.filter fun c => !(s.slot c).cmdq.isEmpty || ((s.cp c).trigged.isSome && !(s.cp c).trigReported)).map fun c => .commandQueueAdvance c) ++
  cs.flatMap fun c => regions4.map fun r => .regionCycle c r

/-- A stream's place in the order of reads: timed ones first, then in order of binding (R175). -/
structure ReadKey where
  c : CpId
  p : BitVec 5
  timed : Bool
  order : Nat

/-- One reads before another. -/
def ReadKey.before (a b : ReadKey) : Bool := if a.timed != b.timed then a.timed else decide (a.order ≤ b.order)

/-- A key joins a sorted list. -/
def ReadKey.insert (a : ReadKey) : List ReadKey → List ReadKey
  | [] => [a]
  | b :: t => if a.before b then a :: b :: t else b :: a.insert t

/-- The stream that a port runs, or that a start in this cycle would run. -/
def Slot.readKeys (t : Slot) (c : CpId) : List ReadKey :=
  ports24.flatMap fun p =>
    let q := t.port p
    (match q.run with | some st => [⟨c, p, st.timed, st.order⟩] | none => []) ++
    (match q.run, q.pending with
      | none, some b =>
        let tap := regions4.findSome? fun r => (t.tapOfPort r false p fun _ => true)
        [⟨c, p, patSpace b.pat == 0 && (match tap with | some (e, i) => !tapElastic ((t.elems.get e).on.tap i) | none => false), b.order⟩]
      | _, _ => [])

/-- The bindings that a start without a cue may take up: stamped ones, and then dispatched ones in order of binding (R252, R253). -/
def Slot.startKeys (t : Slot) (c : CpId) : List ReadKey :=
  ports24.filterMap fun p => (t.port p).pending.map fun b => ⟨c, p, b.stamp.isSome, b.order⟩

/-- Keys in their order. -/
def sortKeys (l : List ReadKey) : List ReadKey := l.foldl (fun l a => ReadKey.insert a l) []

/-- The starts that no cue makes, and the reads of a core in their order. -/
def State.streamEvents (s : State) (k : Fin 256) : List Instr :=
  let cs : List CpId := ([⟨k, 0⟩, ⟨k, 1⟩] : List CpId).filter s.onGrid
  ((sortKeys (cs.flatMap fun c => (s.slot c).startKeys c)).map fun a =>
    if a.timed then .stampedStreamStart a.c a.p else .dispatchedStreamStart a.c a.p) ++
  (sortKeys (cs.flatMap fun c => (s.slot c).readKeys c)).map fun a => .streamReadIssue a.c a.p

/-- A slot's CP has this grid cycle: under a split binding slot 0 the even ones and slot 1 the odd ones (R349). -/
def State.cpCycles (s : State) (c : CpId) : Bool :=
  (s.slot c).bound && (!(s.core c.core).split || (s.gcyc c.core).getLsbD 0 == (c.slot == 1))

/-- The die whose firmware an act or a message from outside needs, when it needs one. -/
def firmwareOf : Instr → Option (Fin 4)
  | .taskStart _ _ c => some (dieOf c.core)
  | .schedulerQuantum k => some (dieOf k)
  | .slateTake q => some (dieOfQueue q.val)
  | .parkRelease d _ | .powerControlWindow d _ _ _ => some d
  | .dependenceRead .. | .extentRewrite .. | .ptpSync .. | .escrowHandover .. | .prepare .. | .ack .. | .nak .. | .clapper ..
  | .commitAck .. | .confirmed .. | .abort .. | .stop .. | .tdispMessage .. | .stopInterface .. | .getVersion .. | .getCapabilities ..
  | .negotiateAlgorithms .. | .getDigests .. | .getCertificate .. | .challenge .. | .getMeasurements .. | .keyExchange .. | .finish ..
  | .endSession .. | .ideKm .. => some 0
  | _ => none

/-- A message that a management flit carries: it arrives on a port (R422, R432). -/
def byFabric : Instr → Bool
  | .ptpSync .. | .escrowHandover .. | .prepare .. | .ack .. | .nak .. | .clapper .. | .commitAck .. | .confirmed .. | .abort .. | .stop ..
  | .peerAccess .. | .ringMemberPartial .. | .collComplete .. => true
  | _ => false

/-- What comes from outside in this round: a die in recovery runs no firmware (R409; entry 6), and nothing comes by the fabric while no port
is up (R421). -/
def State.arrives (s : State) : List Instr :=
  match s.inbox with
  | some i :: _ =>
    if ((firmwareOf i).any fun d => (s.die d).recovery) || (byFabric i && !s.links.toList.any (·.up)) then [] else [i]
  | _ => []

/-- The next round: what the outside world does, if anything, comes first (entry 3). -/
def State.round (s : State) : State :=
  let s0 := s.clock
  let ks := s0.awakeCores
  let cs := (slotsOf ks).filter s0.onGrid
  let s1 := s0.settle (slotsOf ks)
  let poss := s1.possible ks
  let evs := s1.arrives ++ s1.certain ks ++ pick s1.fresh poss ++ s1.coreEvents cs ++
    ks.flatMap s1.streamEvents
  { s1 with inbox := s1.inbox.drop 1, fresh := s1.fresh + poss.length
            agenda := evs.map Task.ev ++ (cs.filter s1.cpCycles).map Task.cp }

/-! ### The turn of a slot's CP -/

/-- What a CP does in its cycle: an instruction issues, or none does. -/
inductive CpTurn where
  | idle (s : State)
  | issue (s : State) (i : Instr)

/-- The state after an event that cannot fail. -/
def State.after (s : State) (f : State → Out State) : State := match f s with | .next t => t | _ => s

/-- The instruction that a word stands for: a word that is none is an instruction that traps (R207). -/
def wordInstr (w : W32) : Instr := match decodeWord w with | .ok i => i | .error _ => .illegalWord w

/-- The far addresses that an instruction translates at issue (R220, R237), from registers that are ready and as aligned as it asks. -/
def State.farOperands (s : State) (i : Instr) : List Word :=
  let at' (l : List Reg) (n : Nat) (f : Reg → Word) : List Word :=
    match (s.cp s.cur).ready l with
    | .ok => (l.map f).filter fun a => classOf a == .far && a.toNat % n == 0
    | _ => []
  match i with
  | .ldf _ a z o | .stf _ a z o => at' [a] (sizeOf z) fun r => s.ea r o
  | .amoAdd _ a _ | .amoSwp _ a _ | .amoCas _ a _ _ | .amoMax _ a _ | .amoMin _ a _ | .amoAnd _ a _ | .amoOr _ a _ | .sig a _ _
  | .waitge a _ _ => at' [a] 8 s.reg
  | .rload a _ _ | .rarm a _ | .rsave a _ | .rrest a _ | .spat a _ | .cpy a | .cpyg a | .stgdef a _ | .attn a | .mload a _ | .mstatFull _ a
  | .mstatPart _ a | .mstatEmpty _ a | .mstatSkipb _ a | .ringset a _ | .kvpool a | .coll a | .kvlook _ a _ => at' [a] 32 s.reg
  | .kvapp _ _ b => at' [b] 64 s.reg
  | .pub a b _ _ | .bind _ a b | .launch a b | .glaunch a b => at' [a, b] 8 s.reg
  | _ => []

/-- Those whose page the translation cache does not hold: each needs a walk, while which the CP waits at issue (R220, R221). -/
def State.walks (s : State) (i : Instr) : List Word := (s.farOperands i).filter fun a => (s.cachedPage s.cur a).isNone

/-- A fetched instruction issues, or waits for a walk: what the walk holds back is judged when it has returned, so that a register whose landing
window has closed by then traps no WINDOW (entry 16). -/
def State.issueWord (s : State) (c : CpId) (w : W32) : CpTurn :=
  let i := wordInstr w
  let t := s.modCp c fun p => { p with iword := w }
  let l := t.walks i
  if l.isEmpty then .issue t i
  else if Config.freeBool t.fresh then .idle (t.took.finishCp c)
  else .issue (l.foldl State.cacheTranslation t.took) i

/-- A CP that runs: an answer is awaited, and ends the hold or lets the instruction that has asked take effect (R324, R374, R439), a deferred trap
is entered, a cycle is empty, or the next instruction is fetched. -/
def State.cpRuns (s : State) (c : CpId) : CpTurn :=
  let p := s.cp c
  if p.answerDue then
    let t := s.took
    .idle ((if Config.freeBool s.fresh then t else ({ t with cur := c } : State).takeAnswer).finishCp c)
  else if p.asked then .issue s (wordInstr p.iword)
  else if !p.handler && !p.dtraps.isEmpty then .idle ((s.after (execDeferredTrap c)).finishCp c)
  else if p.gap then .idle ((s.modCp c fun p => { p with gap := false }).finishCp c)
  else match s.fetch c with
  | (t, .word w) => t.issueWord c w
  | (t, .retire) => .idle ((t.modCp c fun p => { p with run := .retiring false }).finishCp c)
  | (t, .bad pa) => .idle ((t.syncTrapWith c cUNCORR p.pc (s.synd pa 4) (s.uncorrDetail pa 4) p.pc).finishCp c)
  | (_, .miss) =>
    let s1 := s.modCp c fun p => { p with run := .fetchWait p.pc }
    let s2 := s1.after (execFetchMissFill c)
    .idle (if !p.stepOne then s1 else match (s2.cp c).run with | .fetchWait _ => s | _ => s2)
  | (t, .cause e) => .idle ((t.trapAt c e p.pc).finishCp c)

/-- A CP's cycle. A halted one runs only a debugger's step (R414). -/
def State.cpTurn (s : State) (c : CpId) : CpTurn :=
  let p := s.cp c
  if !(s.slot c).bound then .idle s
  else if p.untimed != 0 then .idle (s.finishCp c)
  else match p.run with
  | .running => s.cpRuns c
  | .halted code =>
    if p.stepOne then
      match (s.modCp c fun p => { p with run := .running }).cpRuns c with
      | .idle t => .idle (t.modCp c fun q => if q.run = .running then { q with run := .halted code } else q)
      | .issue t i => .issue t i
    else .idle s
  | _ => .idle (s.finishCp c)

/-- The end of a cycle in which an instruction issued or waited: its cycle ticks, and a step leaves the CP halted. `before` is the CP as it was. -/
def State.endTurn (s : State) (c : CpId) (before : Cp) : State :=
  let t := s.finishCp c
  match before.run with
  | .halted code => t.modCp c fun q => if q.run = .running then { q with run := .halted code } else q
  | _ => t

/-! ### Placing a first instruction (entry 11) -/

/-- Slot 0 of core 0 holds a bound task that runs at address 0 of its local store, where a word stands; its cycle is due. -/
def State.placeWord (s : State) (w : Nat) : State :=
  let c : CpId := ⟨0, 0⟩
  let s1 := s.modCore 0 fun k => { k with lsb := 16, gc := 0 }
  let s2 := s1.modSlot c fun t => { t with status := 0x01 }
  let s3 := s2.modCp c fun p =>
    { p with pc := 0, handler := false, run := .running, untimed := 0, gap := false, waitLeft := none, waitFor := false, dtraps := []
             stepOne := false, answerDue := false, answer := none, asked := false }
  { s3.setBytes ⟨.loc 0, 0⟩ (leBytes 4 w) with agenda := [.cp c] }

end Sys2Proof.Machine
end

