-- ==== Sys2Proof/Machine/Scalar.lean ====
section
/-! DEFINITION. Integer arithmetic and logic, bit fields, constants, branches and jumps of the control processor
(R212 to R218). -/
namespace Sys2Proof.Machine

/-- A latency-1 result: the value from the state in which the operands are read. -/
def State.result1 (s : State) (reads : List Reg) (d : Reg) (v : State → Word) : Out State :=
  s.issue reads [d] false fun t => (t.putReg d (v t)).advance

/-- A result of latency L. -/
def State.resultL (s : State) (reads : List Reg) (d : Reg) (L : Nat) (v : State → Word) : Out State :=
  s.issue reads [d] true fun t => (t.putLate d (v t) L).advance

/-! ### Arithmetic of R212 -/

/-- Register shifts use the whole of the count. -/
def shlVal (a : Word) (s : Nat) : Word := if s ≥ 64 then 0 else a <<< s
def shrVal (a : Word) (s : Nat) : Word := if s ≥ 64 then 0 else a >>> s
def sarVal (a : Word) (s : Nat) : Word := a.sshiftRight (Nat.min s 63)
def sltVal (a b : Word) : Word := if a.toInt < b.toInt then 1 else 0
def sltuVal (a b : Word) : Word := if a.toNat < b.toNat then 1 else 0
def minVal (a b : Word) : Word := if a.toInt ≤ b.toInt then a else b
def maxVal (a b : Word) : Word := if a.toInt ≤ b.toInt then b else a
/-- Leading zero bits among bits n − 1 to 0. -/
def clzFrom (a : Word) : Nat → Nat
  | 0 => 0
  | n + 1 => if a.getLsbD n then 0 else 1 + clzFrom a n
/-- Trailing zero bits, counted over the n lowest bits not yet seen. -/
def ctzFrom (a : Word) : Nat → Nat
  | 0 => 0
  | n + 1 => if a.getLsbD (63 - n) then 0 else 1 + ctzFrom a n
/-- One bits among bits n − 1 to 0. -/
def popFrom (a : Word) : Nat → Nat
  | 0 => 0
  | n + 1 => (a.getLsbD n).toNat + popFrom a n
def clzVal (a : Word) : Word := BitVec.ofNat 64 (clzFrom a 64)
def ctzVal (a : Word) : Word := BitVec.ofNat 64 (ctzFrom a 64)
def popVal (a : Word) : Word := BitVec.ofNat 64 (popFrom a 64)

/-! ### Arithmetic of R213: exact integers, narrowed at the end -/

def mulVal (a b : Word) : Word := a * b
def mulhVal (a b : Word) : Word := BitVec.ofInt 64 ((a.toInt * b.toInt) / 2 ^ 64)
def mulhuVal (a b : Word) : Word := BitVec.ofNat 64 ((a.toNat * b.toNat) / 2 ^ 64)
/-- Truncated quotient; a zero divisor gives all ones (R213). -/
def divVal (a b : Word) : Word := if b = 0 then -1 else BitVec.ofInt 64 (a.toInt.tdiv b.toInt)
def divuVal (a b : Word) : Word := if b = 0 then -1 else BitVec.ofNat 64 (a.toNat / b.toNat)
/-- Remainder with the sign of the dividend; a zero divisor gives the dividend (R213). -/
def remVal (a b : Word) : Word := if b = 0 then a else BitVec.ofInt 64 (a.toInt.tmod b.toInt)
def remuVal (a b : Word) : Word := if b = 0 then a else BitVec.ofNat 64 (a.toNat % b.toNat)

/-! ### Bit fields (R214, R215) -/

def bfxuVal (a : Word) (p wm : BitVec 6) : Word := BitVec.ofNat 64 (bits a.toNat (p.toNat + wm.toNat) p.toNat)
def bfxVal (a : Word) (p wm : BitVec 6) : Word :=
  let w := wm.toNat + 1
  let f := bits a.toNat (p.toNat + wm.toNat) p.toNat
  BitVec.ofInt 64 (if f < 2 ^ (w - 1) then (f : Int) else (f : Int) - 2 ^ w)
/-- Bits [hi:lo] of a word replaced by the low bits of another value. -/
def insertBits (x : Word) (lo w : Nat) (v : Nat) : Word :=
  let m := BitVec.ofNat 64 ((2 ^ w - 1) * 2 ^ lo)
  (x &&& ~~~m) ||| (BitVec.ofNat 64 (v % 2 ^ w * 2 ^ lo) &&& m)
def bfiVal (d a : Word) (p wm : BitVec 6) : Word := insertBits d p.toNat (wm.toNat + 1) a.toNat

/-! ### Instructions -/

/-- add (R212). -/
def execAdd (d a b : Reg) (s : State) : Out State :=
  s.result1 [a, b] d fun t => (t.reg a) + (t.reg b)

/-- sub (R212). -/
def execSub (d a b : Reg) (s : State) : Out State :=
  s.result1 [a, b] d fun t => (t.reg a) - (t.reg b)

/-- and (R212). -/
def execAnd (d a b : Reg) (s : State) : Out State :=
  s.result1 [a, b] d fun t => (t.reg a) &&& (t.reg b)

/-- or (R212). -/
def execOr (d a b : Reg) (s : State) : Out State :=
  s.result1 [a, b] d fun t => (t.reg a) ||| (t.reg b)

/-- xor (R212). -/
def execXor (d a b : Reg) (s : State) : Out State :=
  s.result1 [a, b] d fun t => (t.reg a) ^^^ (t.reg b)

/-- andn (R212). -/
def execAndn (d a b : Reg) (s : State) : Out State :=
  s.result1 [a, b] d fun t => (t.reg a) &&& ~~~(t.reg b)

/-- shl (R212). -/
def execShl (d a b : Reg) (s : State) : Out State :=
  s.result1 [a, b] d fun t => shlVal (t.reg a) (t.reg b).toNat

/-- shr (R212). -/
def execShr (d a b : Reg) (s : State) : Out State :=
  s.result1 [a, b] d fun t => shrVal (t.reg a) (t.reg b).toNat

/-- sar (R212). -/
def execSar (d a b : Reg) (s : State) : Out State :=
  s.result1 [a, b] d fun t => sarVal (t.reg a) (t.reg b).toNat

/-- slt (R212). -/
def execSlt (d a b : Reg) (s : State) : Out State :=
  s.result1 [a, b] d fun t => sltVal (t.reg a) (t.reg b)

/-- sltu (R212). -/
def execSltu (d a b : Reg) (s : State) : Out State :=
  s.result1 [a, b] d fun t => sltuVal (t.reg a) (t.reg b)

/-- min (R212). -/
def execMin (d a b : Reg) (s : State) : Out State :=
  s.result1 [a, b] d fun t => minVal (t.reg a) (t.reg b)

/-- max (R212). -/
def execMax (d a b : Reg) (s : State) : Out State :=
  s.result1 [a, b] d fun t => maxVal (t.reg a) (t.reg b)

/-- clz (R212). -/
def execClz (d a : Reg) (s : State) : Out State :=
  s.result1 [a] d fun t => clzVal (t.reg a)

/-- ctz (R212). -/
def execCtz (d a : Reg) (s : State) : Out State :=
  s.result1 [a] d fun t => ctzVal (t.reg a)

/-- popc (R212). -/
def execPopc (d a : Reg) (s : State) : Out State :=
  s.result1 [a] d fun t => popVal (t.reg a)

/-- add with a sign-extended constant (R212). -/
def execAddImm (d a : Reg) (i : BitVec 15) (s : State) : Out State :=
  s.result1 [a] d fun t => t.reg a + sx i

/-- and with a sign-extended constant (R212). -/
def execAndImm (d a : Reg) (i : BitVec 15) (s : State) : Out State :=
  s.result1 [a] d fun t => t.reg a &&& sx i

/-- or with a sign-extended constant (R212). -/
def execOrImm (d a : Reg) (i : BitVec 15) (s : State) : Out State :=
  s.result1 [a] d fun t => t.reg a ||| sx i

/-- xor with a sign-extended constant (R212). -/
def execXorImm (d a : Reg) (i : BitVec 15) (s : State) : Out State :=
  s.result1 [a] d fun t => t.reg a ^^^ sx i

/-- slt with a sign-extended constant (R212). -/
def execSltImm (d a : Reg) (i : BitVec 15) (s : State) : Out State :=
  s.result1 [a] d fun t => sltVal (t.reg a) (sx i)

/-- sltu with a sign-extended constant (R212). -/
def execSltuImm (d a : Reg) (i : BitVec 15) (s : State) : Out State :=
  s.result1 [a] d fun t => sltuVal (t.reg a) (sx i)

/-- min with a sign-extended constant (R212). -/
def execMinImm (d a : Reg) (i : BitVec 15) (s : State) : Out State :=
  s.result1 [a] d fun t => minVal (t.reg a) (sx i)

/-- max with a sign-extended constant (R212). -/
def execMaxImm (d a : Reg) (i : BitVec 15) (s : State) : Out State :=
  s.result1 [a] d fun t => maxVal (t.reg a) (sx i)

/-- shl by a constant (R212). -/
def execShlImm (d a : Reg) (n : BitVec 6) (s : State) : Out State :=
  s.result1 [a] d fun t => shlVal (t.reg a) n.toNat

/-- shr by a constant (R212). -/
def execShrImm (d a : Reg) (n : BitVec 6) (s : State) : Out State :=
  s.result1 [a] d fun t => shrVal (t.reg a) n.toNat

/-- sar by a constant (R212). -/
def execSarImm (d a : Reg) (n : BitVec 6) (s : State) : Out State :=
  s.result1 [a] d fun t => sarVal (t.reg a) n.toNat

/-- mul (R213), latency 3. -/
def execMul (d a b : Reg) (s : State) : Out State :=
  s.resultL [a, b] d 3 fun t => mulVal (t.reg a) (t.reg b)

/-- mulh (R213), latency 3. -/
def execMulh (d a b : Reg) (s : State) : Out State :=
  s.resultL [a, b] d 3 fun t => mulhVal (t.reg a) (t.reg b)

/-- mulhu (R213), latency 3. -/
def execMulhu (d a b : Reg) (s : State) : Out State :=
  s.resultL [a, b] d 3 fun t => mulhuVal (t.reg a) (t.reg b)

/-- div (R213), latency 18. -/
def execDiv (d a b : Reg) (s : State) : Out State :=
  s.resultL [a, b] d 18 fun t => divVal (t.reg a) (t.reg b)

/-- divu (R213), latency 18. -/
def execDivu (d a b : Reg) (s : State) : Out State :=
  s.resultL [a, b] d 18 fun t => divuVal (t.reg a) (t.reg b)

/-- rem (R213), latency 18. -/
def execRem (d a b : Reg) (s : State) : Out State :=
  s.resultL [a, b] d 18 fun t => remVal (t.reg a) (t.reg b)

/-- remu (R213), latency 18. -/
def execRemu (d a b : Reg) (s : State) : Out State :=
  s.resultL [a, b] d 18 fun t => remuVal (t.reg a) (t.reg b)

/-- bfx (R214). -/
def execBfx (d a : Reg) (p wm : BitVec 6) (s : State) : Out State :=
  s.result1 [a] d fun t => bfxVal (t.reg a) p wm

/-- bfxu (R214). -/
def execBfxu (d a : Reg) (p wm : BitVec 6) (s : State) : Out State :=
  s.result1 [a] d fun t => bfxuVal (t.reg a) p wm

/-- bfi (R214): reads RD. -/
def execBfi (d a : Reg) (p wm : BitVec 6) (s : State) : Out State :=
  s.result1 [a, d] d fun t => bfiVal (t.reg d) (t.reg a) p wm

/-- movi (R215). -/
def execMovi (d : Reg) (i : BitVec 20) (s : State) : Out State := s.result1 [] d fun _ => sx i

/-- movh (R215): reads RD. -/
def execMovh (d : Reg) (q : BitVec 2) (i : BitVec 16) (s : State) : Out State :=
  s.result1 [d] d fun t => insertBits (t.reg d) (16 * q.toNat) 16 i.toNat

/-! ### Branches and jumps (R216 to R218) -/

/-- A PC-relative target: a signed count of words (R198, R200). -/
def State.target {n : Nat} (s : State) (o : BitVec n) : Word := s.pc + 4 * sx o

/-- A conditional branch (R216). -/
def State.branch (s : State) (a b : Reg) (o : BitVec 15) (cond : Word → Word → Bool) : Out State :=
  s.issue [a, b] [] false fun t => if cond (t.reg a) (t.reg b) then t.jumpTo (t.target o) else t.advance

/-- b.eq (R216). -/
def execBEq (a b : Reg) (o : BitVec 15) (s : State) : Out State := s.branch a b o fun x y => x == y

/-- b.ne (R216). -/
def execBNe (a b : Reg) (o : BitVec 15) (s : State) : Out State := s.branch a b o fun x y => x != y

/-- b.lt (R216). -/
def execBLt (a b : Reg) (o : BitVec 15) (s : State) : Out State := s.branch a b o fun x y => decide (x.toInt < y.toInt)

/-- b.ge (R216). -/
def execBGe (a b : Reg) (o : BitVec 15) (s : State) : Out State := s.branch a b o fun x y => decide (y.toInt ≤ x.toInt)

/-- b.ltu (R216). -/
def execBLtu (a b : Reg) (o : BitVec 15) (s : State) : Out State := s.branch a b o fun x y => decide (x.toNat < y.toNat)

/-- b.geu (R216). -/
def execBGeu (a b : Reg) (o : BitVec 15) (s : State) : Out State := s.branch a b o fun x y => decide (y.toNat ≤ x.toNat)

/-- jmp in format J (R217). -/
def execJmp (o : BitVec 25) (s : State) : Out State := s.issue [] [] false fun t => t.jumpTo (t.target o)

/-- call in format J (R217): the link is the address of the next instruction. -/
def execCall (o : BitVec 25) (s : State) : Out State :=
  s.issue [] [30] false fun t => (t.putReg 30 (t.pc + 4)).jumpTo (t.target o)

/-- A jump through a register (R198, R217): a misaligned target traps at the jump, before any effect. -/
def State.jumpReg (s : State) (a : Reg) (link : Bool) : Out State :=
  s.issue [a] (if link then [30] else []) false fun t =>
    let x := t.reg a
    if x.toNat % 4 != 0 then t.trapAt t.cur cMISALIGNED x
    else if link then (t.putReg 30 (t.pc + 4)).jumpTo x else t.jumpTo x

/-- jmp through a register (R217). -/
def execJmpReg (a : Reg) (s : State) : Out State := s.jumpReg a false
/-- call through a register (R217): the target is read before the link is written. -/
def execCallReg (a : Reg) (s : State) : Out State := s.jumpReg a true
/-- ret (R217). -/
def execRet (s : State) : Out State := s.jumpReg 30 false

end Sys2Proof.Machine
end

