-- ==== Sys2Proof/Machine/Dispatch.lean ====
section
/-! DEFINITION. The meaning of every step: one arm per constructor of `Instr`, each one call. -/
namespace Sys2Proof.Machine

/-- What a step does. -/
def exec (i : Instr) (s : State) : Host.Outcome State Fault Refusal :=
  match i with
  | .add d a b => Sys2Proof.Machine.execAdd d a b s
  | .sub d a b => Sys2Proof.Machine.execSub d a b s
  | .and d a b => Sys2Proof.Machine.execAnd d a b s
  | .or d a b => Sys2Proof.Machine.execOr d a b s
  | .xor d a b => Sys2Proof.Machine.execXor d a b s
  | .andn d a b => Sys2Proof.Machine.execAndn d a b s
  | .shl d a b => Sys2Proof.Machine.execShl d a b s
  | .shr d a b => Sys2Proof.Machine.execShr d a b s
  | .sar d a b => Sys2Proof.Machine.execSar d a b s
  | .slt d a b => Sys2Proof.Machine.execSlt d a b s
  | .sltu d a b => Sys2Proof.Machine.execSltu d a b s
  | .min d a b => Sys2Proof.Machine.execMin d a b s
  | .max d a b => Sys2Proof.Machine.execMax d a b s
  | .clz d a => Sys2Proof.Machine.execClz d a s
  | .ctz d a => Sys2Proof.Machine.execCtz d a s
  | .popc d a => Sys2Proof.Machine.execPopc d a s
  | .addImm d a im => Sys2Proof.Machine.execAddImm d a im s
  | .andImm d a im => Sys2Proof.Machine.execAndImm d a im s
  | .orImm d a im => Sys2Proof.Machine.execOrImm d a im s
  | .xorImm d a im => Sys2Proof.Machine.execXorImm d a im s
  | .sltImm d a im => Sys2Proof.Machine.execSltImm d a im s
  | .sltuImm d a im => Sys2Proof.Machine.execSltuImm d a im s
  | .minImm d a im => Sys2Proof.Machine.execMinImm d a im s
  | .maxImm d a im => Sys2Proof.Machine.execMaxImm d a im s
  | .shlImm d a n => Sys2Proof.Machine.execShlImm d a n s
  | .shrImm d a n => Sys2Proof.Machine.execShrImm d a n s
  | .sarImm d a n => Sys2Proof.Machine.execSarImm d a n s
  | .mul d a b => Sys2Proof.Machine.execMul d a b s
  | .mulh d a b => Sys2Proof.Machine.execMulh d a b s
  | .mulhu d a b => Sys2Proof.Machine.execMulhu d a b s
  | .div d a b => Sys2Proof.Machine.execDiv d a b s
  | .divu d a b => Sys2Proof.Machine.execDivu d a b s
  | .rem d a b => Sys2Proof.Machine.execRem d a b s
  | .remu d a b => Sys2Proof.Machine.execRemu d a b s
  | .bfx d a p w => Sys2Proof.Machine.execBfx d a p w s
  | .bfxu d a p w => Sys2Proof.Machine.execBfxu d a p w s
  | .bfi d a p w => Sys2Proof.Machine.execBfi d a p w s
  | .movi d im => Sys2Proof.Machine.execMovi d im s
  | .movh d q im => Sys2Proof.Machine.execMovh d q im s
  | .bEq a b o => Sys2Proof.Machine.execBEq a b o s
  | .bNe a b o => Sys2Proof.Machine.execBNe a b o s
  | .bLt a b o => Sys2Proof.Machine.execBLt a b o s
  | .bGe a b o => Sys2Proof.Machine.execBGe a b o s
  | .bLtu a b o => Sys2Proof.Machine.execBLtu a b o s
  | .bGeu a b o => Sys2Proof.Machine.execBGeu a b o s
  | .jmp o => Sys2Proof.Machine.execJmp o s
  | .call o => Sys2Proof.Machine.execCall o s
  | .jmpReg a => Sys2Proof.Machine.execJmpReg a s
  | .callReg a => Sys2Proof.Machine.execCallReg a s
  | .ret => Sys2Proof.Machine.execRet s
  | .ld d a z im => Sys2Proof.Machine.execLd d a z im s
  | .st d a z im => Sys2Proof.Machine.execSt d a z im s
  | .ldf d a z im => Sys2Proof.Machine.execLdf d a z im s
  | .stf d a z im => Sys2Proof.Machine.execStf d a z im s
  | .fenceLd => Sys2Proof.Machine.execFenceLd s
  | .fenceSt => Sys2Proof.Machine.execFenceSt s
  | .fenceAll => Sys2Proof.Machine.execFenceAll s
  | .fenceEng => Sys2Proof.Machine.execFenceEng s
  | .pref a im => Sys2Proof.Machine.execPref a im s
  | .amoAdd d a b => Sys2Proof.Machine.execAmoAdd d a b s
  | .amoSwp d a b => Sys2Proof.Machine.execAmoSwp d a b s
  | .amoCas d a b c => Sys2Proof.Machine.execAmoCas d a b c s
  | .amoMax d a b => Sys2Proof.Machine.execAmoMax d a b s
  | .amoMin d a b => Sys2Proof.Machine.execAmoMin d a b s
  | .amoAnd d a b => Sys2Proof.Machine.execAmoAnd d a b s
  | .amoOr d a b => Sys2Proof.Machine.execAmoOr d a b s
  | .trap c => Sys2Proof.Machine.execTrap c s
  | .tret => Sys2Proof.Machine.execTret s
  | .wait a m => Sys2Proof.Machine.execWait a m s
  | .bkpt c => Sys2Proof.Machine.execBkpt c s
  | .syscVerify d a => Sys2Proof.Machine.execSyscVerify d a s
  | .syscFused d a => Sys2Proof.Machine.execSyscFused d a s
  | .syscEnergy d a => Sys2Proof.Machine.execSyscEnergy d a s
  | .csrr d c => Sys2Proof.Machine.execCsrr d c s
  | .csrw a c => Sys2Proof.Machine.execCsrw a c s
  | .csrs d a c => Sys2Proof.Machine.execCsrs d a c s
  | .csrc d a c => Sys2Proof.Machine.execCsrc d a c s
  | .illegalWord w => Sys2Proof.Machine.execIllegalWord w s
  | .rload a b r => Sys2Proof.Machine.execRload a b r s
  | .rarm a r => Sys2Proof.Machine.execRarm a r s
  | .rgo r => Sys2Proof.Machine.execRgo r s
  | .rstop r => Sys2Proof.Machine.execRstop r s
  | .rstatState x r => Sys2Proof.Machine.execRstatState x r s
  | .rstatLoadrep x r => Sys2Proof.Machine.execRstatLoadrep x r s
  | .rstatFlags x r => Sys2Proof.Machine.execRstatFlags x r s
  | .rstatTclap x r => Sys2Proof.Machine.execRstatTclap x r s
  | .rstatHeld x r => Sys2Proof.Machine.execRstatHeld x r s
  | .rstatCycles x r => Sys2Proof.Machine.execRstatCycles x r s
  | .rstatEnergy x r => Sys2Proof.Machine.execRstatEnergy x r s
  | .rstatFault x r => Sys2Proof.Machine.execRstatFault x r s
  | .rstatOrigin x r => Sys2Proof.Machine.execRstatOrigin x r s
  | .rsave a r => Sys2Proof.Machine.execRsave a r s
  | .rrest a r => Sys2Proof.Machine.execRrest a r s
  | .spat a k => Sys2Proof.Machine.execSpat a k s
  | .sbind p k => Sys2Proof.Machine.execSbind p k s
  | .sbindt a p k => Sys2Proof.Machine.execSbindt a p k s
  | .sstop p => Sys2Proof.Machine.execSstop p s
  | .cpy a => Sys2Proof.Machine.execCpy a s
  | .cpyg a => Sys2Proof.Machine.execCpyg a s
  | .stgdef a j => Sys2Proof.Machine.execStgdef a j s
  | .stgrel a j => Sys2Proof.Machine.execStgrel a j s
  | .sig a b z => Sys2Proof.Machine.execSig a b z s
  | .waitge a b z => Sys2Proof.Machine.execWaitge a b z s
  | .pub a b n z => Sys2Proof.Machine.execPub a b n z s
  | .bind x a b => Sys2Proof.Machine.execBind x a b s
  | .unbind a => Sys2Proof.Machine.execUnbind a s
  | .trig => Sys2Proof.Machine.execTrig s
  | .launch a b => Sys2Proof.Machine.execLaunch a b s
  | .tinv a b => Sys2Proof.Machine.execTinv a b s
  | .cbarArr n => Sys2Proof.Machine.execCbarArr n s
  | .cbarWait n => Sys2Proof.Machine.execCbarWait n s
  | .cpeer a p => Sys2Proof.Machine.execCpeer a p s
  | .attn a => Sys2Proof.Machine.execAttn a s
  | .kvapp x a b => Sys2Proof.Machine.execKvapp x a b s
  | .kvlook x a b => Sys2Proof.Machine.execKvlook x a b s
  | .kvfork x a b => Sys2Proof.Machine.execKvfork x a b s
  | .kvrel a => Sys2Proof.Machine.execKvrel a s
  | .mload a k => Sys2Proof.Machine.execMload a k s
  | .mstatFull x a => Sys2Proof.Machine.execMstatFull x a s
  | .mstatPart x a => Sys2Proof.Machine.execMstatPart x a s
  | .mstatEmpty x a => Sys2Proof.Machine.execMstatEmpty x a s
  | .mstatSkipb x a => Sys2Proof.Machine.execMstatSkipb x a s
  | .ringset a r => Sys2Proof.Machine.execRingset a r s
  | .kvpool a => Sys2Proof.Machine.execKvpool a s
  | .glaunch a b => Sys2Proof.Machine.execGlaunch a b s
  | .coll a => Sys2Proof.Machine.execColl a s
  | .gstat x a => Sys2Proof.Machine.execGstat x a s
  | .landing c id => Sys2Proof.Machine.execLanding c id s
  | .fetchMissFill c => Sys2Proof.Machine.execFetchMissFill c s
  | .commandQueueAdvance c => Sys2Proof.Machine.execCommandQueueAdvance c s
  | .reelLoadComplete c r => Sys2Proof.Machine.execReelLoadComplete c r s
  | .regionCycle c r => Sys2Proof.Machine.execRegionCycle c r s
  | .takeLastLapEnd c r => Sys2Proof.Machine.execTakeLastLapEnd c r s
  | .takeEnded c r => Sys2Proof.Machine.execTakeEnded c r s
  | .resultLand c r => Sys2Proof.Machine.execResultLand c r s
  | .cueRun x ctx => Sys2Proof.Machine.execCueRun x ctx s
  | .cueStart x port => Sys2Proof.Machine.execCueStart x port s
  | .cueStop x port => Sys2Proof.Machine.execCueStop x port s
  | .cueDrain x acc port peer pb strm clr => Sys2Proof.Machine.execCueDrain x acc port peer pb strm clr s
  | .cueSig x ctr scope inc => Sys2Proof.Machine.execCueSig x ctr scope inc s
  | .cueWait x ctr scope step => Sys2Proof.Machine.execCueWait x ctr scope step s
  | .cueBegin x => Sys2Proof.Machine.execCueBegin x s
  | .cueEnd x => Sys2Proof.Machine.execCueEnd x s
  | .cueEndtake x => Sys2Proof.Machine.execCueEndtake x s
  | .elemNop x w => Sys2Proof.Machine.execElemNop x w s
  | .iadd x w => Sys2Proof.Machine.execIadd x w s
  | .isub x w => Sys2Proof.Machine.execIsub x w s
  | .imul x w => Sys2Proof.Machine.execImul x w s
  | .imad x w => Sys2Proof.Machine.execImad x w s
  | .imin x w => Sys2Proof.Machine.execImin x w s
  | .imax x w => Sys2Proof.Machine.execImax x w s
  | .iabs x w => Sys2Proof.Machine.execIabs x w s
  | .elemAnd x w => Sys2Proof.Machine.execElemAnd x w s
  | .elemOr x w => Sys2Proof.Machine.execElemOr x w s
  | .elemXor x w => Sys2Proof.Machine.execElemXor x w s
  | .elemShl x w => Sys2Proof.Machine.execElemShl x w s
  | .elemShr x w => Sys2Proof.Machine.execElemShr x w s
  | .sra x w => Sys2Proof.Machine.execSra x w s
  | .icmp x w => Sys2Proof.Machine.execIcmp x w s
  | .sel x w => Sys2Proof.Machine.execSel x w s
  | .fadd x w => Sys2Proof.Machine.execFadd x w s
  | .fsub x w => Sys2Proof.Machine.execFsub x w s
  | .fmul x w => Sys2Proof.Machine.execFmul x w s
  | .fma x w => Sys2Proof.Machine.execFma x w s
  | .fmin x w => Sys2Proof.Machine.execFmin x w s
  | .fmax x w => Sys2Proof.Machine.execFmax x w s
  | .fabs x w => Sys2Proof.Machine.execFabs x w s
  | .fneg x w => Sys2Proof.Machine.execFneg x w s
  | .fcmp x w => Sys2Proof.Machine.execFcmp x w s
  | .rcps x w => Sys2Proof.Machine.execRcps x w s
  | .rsqs x w => Sys2Proof.Machine.execRsqs x w s
  | .exp2 x w => Sys2Proof.Machine.execExp2 x w s
  | .act x w => Sys2Proof.Machine.execAct x w s
  | .dact x w => Sys2Proof.Machine.execDact x w s
  | .cvt x w => Sys2Proof.Machine.execCvt x w s
  | .sdenc x w => Sys2Proof.Machine.execSdenc x w s
  | .sddec x w => Sys2Proof.Machine.execSddec x w s
  | .qnt x w => Sys2Proof.Machine.execQnt x w s
  | .mov x w => Sys2Proof.Machine.execMov x w s
  | .rep x w => Sys2Proof.Machine.execRep x w s
  | .perm x w => Sys2Proof.Machine.execPerm x w s
  | .pack x w => Sys2Proof.Machine.execPack x w s
  | .unpk x w => Sys2Proof.Machine.execUnpk x w s
  | .lsum x w => Sys2Proof.Machine.execLsum x w s
  | .lmax x w => Sys2Proof.Machine.execLmax x w s
  | .tap x w => Sys2Proof.Machine.execTap x w s
  | .put x w => Sys2Proof.Machine.execPut x w s
  | .trix x w => Sys2Proof.Machine.execTrix x w s
  | .trixb x w => Sys2Proof.Machine.execTrixb x w s
  | .trixi x w => Sys2Proof.Machine.execTrixi x w s
  | .trixg x w => Sys2Proof.Machine.execTrixg x w s
  | .sptrix x w => Sys2Proof.Machine.execSptrix x w s
  | .scac x w => Sys2Proof.Machine.execScac x w s
  | .accz x w => Sys2Proof.Machine.execAccz x w s
  | .drn x w => Sys2Proof.Machine.execDrn x w s
  | .drna x w => Sys2Proof.Machine.execDrna x w s
  | .cmpr x w => Sys2Proof.Machine.execCmpr x w s
  | .spx x w => Sys2Proof.Machine.execSpx x w s
  | .wld x w => Sys2Proof.Machine.execWld x w s
  | .wldt x w => Sys2Proof.Machine.execWldt x w s
  | .streamReadIssue c p => Sys2Proof.Machine.execStreamReadIssue c p s
  | .tokenArriveTap c id => Sys2Proof.Machine.execTokenArriveTap c id s
  | .streamWriteStore c id => Sys2Proof.Machine.execStreamWriteStore c id s
  | .dispatchedStreamStart c p => Sys2Proof.Machine.execDispatchedStreamStart c p s
  | .stampedStreamStart c p => Sys2Proof.Machine.execStampedStreamStart c p s
  | .edgeTlbWalkReturn c p => Sys2Proof.Machine.execEdgeTlbWalkReturn c p s
  | .copyStart c => Sys2Proof.Machine.execCopyStart c s
  | .copyComplete c => Sys2Proof.Machine.execCopyComplete c s
  | .tileArrive id => Sys2Proof.Machine.execTileArrive id s
  | .counterAddArrive id => Sys2Proof.Machine.execCounterAddArrive id s
  | .faultRecordOffer core => Sys2Proof.Machine.execFaultRecordOffer core s
  | .fbctlHeadWrite d v => Sys2Proof.Machine.execFbctlHeadWrite d v s
  | .slotSwapDone core => Sys2Proof.Machine.execSlotSwapDone core s
  | .wqTailWrite fn q v => Sys2Proof.Machine.execWqTailWrite fn q v s
  | .wqRingWrite fn q wid => Sys2Proof.Machine.execWqRingWrite fn q wid s
  | .taskRetire c => Sys2Proof.Machine.execTaskRetire c s
  | .cmdBind c cfg => Sys2Proof.Machine.execCmdBind c cfg s
  | .cmdSwap c cfg => Sys2Proof.Machine.execCmdSwap c cfg s
  | .cmdUnbind c cfg => Sys2Proof.Machine.execCmdUnbind c cfg s
  | .cmdRing c cfg => Sys2Proof.Machine.execCmdRing c cfg s
  | .spctlGo d k v => Sys2Proof.Machine.execSpctlGo d k v s
  | .crossingChannelOpen a p b q => Sys2Proof.Machine.execCrossingChannelOpen a p b q s
  | .windowGrant c p => Sys2Proof.Machine.execWindowGrant c p s
  | .einjWrite core v => Sys2Proof.Machine.execEinjWrite core v s
  | .cbinjWrite cl v => Sys2Proof.Machine.execCbinjWrite cl v s
  | .hinjWrite d k v => Sys2Proof.Machine.execHinjWrite d k v s
  | .kvinjWrite ch v => Sys2Proof.Machine.execKvinjWrite ch v s
  | .cbarcfgWrite cl b v => Sys2Proof.Machine.execCbarcfgWrite cl b v s
  | .kvpoolWrite ch p v => Sys2Proof.Machine.execKvpoolWrite ch p v s
  | .registerWrite off v => Sys2Proof.Machine.execRegisterWrite off v s
  | .attnCallStart c p => Sys2Proof.Machine.execAttnCallStart c p s
  | .attnInputToken c p t => Sys2Proof.Machine.execAttnInputToken c p t s
  | .attnCallComplete c p => Sys2Proof.Machine.execAttnCallComplete c p s
  | .debugStep fn => Sys2Proof.Machine.execDebugStep fn s
  | .debugRun fn => Sys2Proof.Machine.execDebugRun fn s
  | .fabricChannelOpen c p => Sys2Proof.Machine.execFabricChannelOpen c p s
  | .clapperTime gid => Sys2Proof.Machine.execClapperTime gid s
  | .gangWatchdog gid => Sys2Proof.Machine.execGangWatchdog gid s
  | .readyTimeout gid => Sys2Proof.Machine.execReadyTimeout gid s
  | .gangReplyTimeout gid => Sys2Proof.Machine.execGangReplyTimeout gid s
  | .gangForget gid => Sys2Proof.Machine.execGangForget gid s
  | .collComplete c id shards v => Sys2Proof.Machine.execCollComplete c id shards v s
  | .postedStorePerformed c id => Sys2Proof.Machine.execPostedStorePerformed c id s
  | .tdispMessage fn m => Sys2Proof.Machine.execTdispMessage fn m s
  | .stopInterface fn => Sys2Proof.Machine.execStopInterface fn s
  | .getVersion fn msg => Sys2Proof.Machine.execGetVersion fn msg s
  | .getCapabilities fn msg => Sys2Proof.Machine.execGetCapabilities fn msg s
  | .negotiateAlgorithms fn msg => Sys2Proof.Machine.execNegotiateAlgorithms fn msg s
  | .getDigests fn msg => Sys2Proof.Machine.execGetDigests fn msg s
  | .getCertificate fn msg => Sys2Proof.Machine.execGetCertificate fn msg s
  | .challenge fn msg => Sys2Proof.Machine.execChallenge fn msg s
  | .getMeasurements fn msg => Sys2Proof.Machine.execGetMeasurements fn msg s
  | .keyExchange fn msg => Sys2Proof.Machine.execKeyExchange fn msg s
  | .finish fn msg => Sys2Proof.Machine.execFinish fn msg s
  | .endSession fn msg => Sys2Proof.Machine.execEndSession fn msg s
  | .ideKm fn hif stream key => Sys2Proof.Machine.execIdeKm fn hif stream key s
  | .hostWrite fn hif ide bar off data => Sys2Proof.Machine.execHostWrite fn hif ide bar off data s
  | .hostRead fn hif ide bar off len => Sys2Proof.Machine.execHostRead fn hif ide bar off len s
  | .hostAtomicop fn hif ide bar off size op => Sys2Proof.Machine.execHostAtomicop fn hif ide bar off size op s
  | .laneFail port => Sys2Proof.Machine.execLaneFail port s
  | .dataFlit port f => Sys2Proof.Machine.execDataFlit port f s
  | .creditFlit port f => Sys2Proof.Machine.execCreditFlit port f s
  | .linkDown port beyond => Sys2Proof.Machine.execLinkDown port beyond s
  | .linkRekey port => Sys2Proof.Machine.execLinkRekey port s
  | .heartbeatLoss h => Sys2Proof.Machine.execHeartbeatLoss h s
  | .ptpSync offset grandmaster => Sys2Proof.Machine.execPtpSync offset grandmaster s
  | .peerAccess r => Sys2Proof.Machine.execPeerAccess r s
  | .escrowHandover ep part ciphertext act meas => Sys2Proof.Machine.execEscrowHandover ep part ciphertext act meas s
  | .prepare m => Sys2Proof.Machine.execPrepare m s
  | .ack gid member => Sys2Proof.Machine.execAck gid member s
  | .nak gid member reason => Sys2Proof.Machine.execNak gid member reason s
  | .clapper gid ts => Sys2Proof.Machine.execClapper gid ts s
  | .commitAck gid member => Sys2Proof.Machine.execCommitAck gid member s
  | .confirmed gid => Sys2Proof.Machine.execConfirmed gid s
  | .abort gid reason => Sys2Proof.Machine.execAbort gid reason s
  | .stop gid sender => Sys2Proof.Machine.execStop gid sender s
  | .ringMemberPartial c p member parts bad => Sys2Proof.Machine.execRingMemberPartial c p member parts bad s
  | .ringMemberSilent c p => Sys2Proof.Machine.execRingMemberSilent c p s
  | .energySample d uj => Sys2Proof.Machine.execEnergySample d uj s
  | .powerControlWindow d pmw temp skip => Sys2Proof.Machine.execPowerControlWindow d pmw temp skip s
  | .extentRewrite part base len pages => Sys2Proof.Machine.execExtentRewrite part base len pages s
  | .schedulerQuantum core => Sys2Proof.Machine.execSchedulerQuantum core s
  | .parkRelease d k => Sys2Proof.Machine.execParkRelease d k s
  | .slateTake q => Sys2Proof.Machine.execSlateTake q s
  | .taskStart launch wid c => Sys2Proof.Machine.execTaskStart launch wid c s
  | .deferredTrap c => Sys2Proof.Machine.execDeferredTrap c s
  | .waitTimeout c => Sys2Proof.Machine.execWaitTimeout c s
  | .dependenceRead launch im => Sys2Proof.Machine.execDependenceRead launch im s
  | .spareRowCopy d k => Sys2Proof.Machine.execSpareRowCopy d k s
  | .create => Sys2Proof.Machine.execCreate s
  | .destroy => Sys2Proof.Machine.execDestroy s
  | .cores => Sys2Proof.Machine.execCores s
  | .queue => Sys2Proof.Machine.execQueue s
  | .escrow => Sys2Proof.Machine.execEscrow s
  | .checkpoint => Sys2Proof.Machine.execCheckpoint s
  | .restore => Sys2Proof.Machine.execRestore s
  | .power => Sys2Proof.Machine.execPower s
  | .coldReset => Sys2Proof.Machine.execColdReset s
  | .warmReset => Sys2Proof.Machine.execWarmReset s

end Sys2Proof.Machine
end

