-- ==== Sys2Proof/Machine/Step.lean ====
section
/-! DEFINITION. One step of the package: the head of the agenda happens, or the next round is drawn up (entry 3); and the placing of
a first instruction (entry 11). -/
namespace Sys2Proof.Machine

/-- One step. -/
def step (s : State) : Host.Outcome State Fault Refusal :=
  match s.agenda with
  | [] => .next s.round
  | .ev i :: rest => exec i { s with agenda := rest }
  | .cp c :: rest =>
    match ({ s with agenda := rest, cur := c } : State).cpTurn c with
    | .idle t => .next t
    | .issue t i =>
      match exec i t with
      | .next u => .next (u.endTurn c (s.cp c))
      | .fault r => .fault r
      | .refused r => .refused r

/-- A word placed where slot 0 of core 0 fetches next, in thread mode at address 0 of its local store, its cycle due. -/
def State.withFetchWord (s : State) (nbits w : Nat) : State := s.placeWord (w % 2 ^ nbits)

end Sys2Proof.Machine
end

