-- ==== Sys2Proof/Safety.lean ====
section
/-! DEFINITION. The terms in which claims speak of a step: that it completes, what it leaves alone, what a trap saves, and the
invariants of the package. -/
namespace Sys2Proof.Machine

/-! ### Completion and issue -/

/-- The step answers a next state, and `P` holds of it. -/
def Completes (i : Instr) (s : State) (P : State → Prop) : Prop := ∃ t, exec i s = .next t ∧ P t

/-- The landing queue lets an instruction with these registers issue (R165, R167), and no stored word carries an ECC mark. -/
def CanIssue (s : State) (regs : List Reg) (late : Bool) : Prop :=
  (s.cp s.cur).ready regs = .ok ∧ (late = true → (s.cp s.cur).room = true) ∧ s.ecc = []

/-- Two states give the same byte at every place. -/
def SameBytes (s t : State) : Prop := ∀ a : PAddr, t.byteAt a = s.byteAt a

/-- The places of n bytes from one on. -/
def Covers (pa : PAddr) (n : Nat) (a : PAddr) : Prop := ∃ j, j < n ∧ a.key = (pa.plus j).key

/-- Every byte outside n bytes from a place reads as before. -/
def OnlyBytes (pa : PAddr) (n : Nat) (s t : State) : Prop := ∀ a : PAddr, ¬ Covers pa n a → t.byteAt a = s.byteAt a

/-! ### What a CP instruction leaves alone -/

/-- Outside the core of `c` nothing but memory changes; the model's counters and the ECC marks of an armed injection apart. -/
def OutsideCore (c : CpId) (s t : State) : Prop :=
  t = { s with cores := t.cores, mem := t.mem, ids := t.ids, fresh := t.fresh, ecc := t.ecc } ∧ ∀ k, k ≠ c.core → t.core k = s.core k

/-- Of the core of `c` only the CP of that slot changes, the injection register (R309) and the rushes (R415) apart. -/
def OnlyCp (c : CpId) (s t : State) : Prop :=
  OutsideCore c s t ∧
  t.core c.core = { s.core c.core with slots := (t.core c.core).slots, einj := (t.core c.core).einj,
                                       rushes := (t.core c.core).rushes, rushcnt := (t.core c.core).rushcnt } ∧
  t.slot (otherSlot c) = s.slot (otherSlot c) ∧ t.slot c = { s.slot c with cp := t.cp c }

/-- Of a CP only registers of the present mode, its landing queue, the PC, the empty cycle of a jump and the profile change. -/
def OnlyRegs (p q : Cp) : Prop :=
  q = { p with pc := q.pc, gap := q.gap, pmc := q.pmc, stepOne := q.stepOne, bankT := q.bankT, bankH := q.bankH, lqT := q.lqT, lqH := q.lqH } ∧
  if p.handler then q.bankT = p.bankT ∧ q.lqT = p.lqT else q.bankH = p.bankH ∧ q.lqH = p.lqH

/-- A register-only instruction: all of the above, and all of memory. -/
def OnlyRegisters (s t : State) : Prop := OnlyCp s.cur s t ∧ SameBytes s t ∧ OnlyRegs (s.cp s.cur) (t.cp s.cur)

/-- `i` completes, writes `v` into `d` at once and goes on (R210). -/
def Writes (i : Instr) (s : State) (reads : List Reg) (d : Reg) (v : Word) : Prop :=
  CanIssue s (reads ++ [d]) false → Completes i s fun t =>
    OnlyRegisters s t ∧ t.pc = s.pc + 4 ∧ t.reg d = (if d = 0 then 0 else v) ∧ (∀ r, r ≠ d → t.reg r = s.reg r) ∧
    (t.cp s.cur).queue = (s.cp s.cur).queue.filter fun e => !(e.reg == d && e.rem == some 1)

/-- A landing queue has taken one entry more, for `d`, with value and distance. -/
def Queued (d : Reg) (k : LandKind) (rem : Option Nat) (v : Word) (s t : State) : Prop :=
  ∃ e : LandEntry, (t.cp s.cur).queue = (s.cp s.cur).queue ++ [e] ∧ e.reg = d ∧ e.kind = k ∧ e.rem = rem ∧ e.value = v

/-- `i` completes and goes on; `v` will land in `d` at distance L (R163, R164). -/
def Lands (i : Instr) (s : State) (reads : List Reg) (d : Reg) (L : Nat) (v : Word) : Prop :=
  CanIssue s (reads ++ [d]) true → Completes i s fun t =>
    OnlyRegisters s t ∧ t.pc = s.pc + 4 ∧ (∀ r, t.reg r = s.reg r) ∧ Queued d .fixed (some L) v s t

/-- `i` completes and goes to `target`, or to the next instruction (R218). -/
def Branches (i : Instr) (s : State) (a b : Reg) (target : Word) (taken : Bool) : Prop :=
  CanIssue s [a, b] false → Completes i s fun t =>
    OnlyRegisters s t ∧ t.pc = (if taken then target else s.pc + 4) ∧ (t.cp s.cur).gap = (taken || (s.cp s.cur).gap) ∧
    (∀ r, t.reg r = s.reg r) ∧ (t.cp s.cur).queue = (s.cp s.cur).queue

/-- The instruction waits at issue: nothing changes, the count of waits apart. -/
def Waits (i : Instr) (s : State) : Prop := Completes i s fun t => OnlyRegisters s t ∧ t.pc = s.pc ∧
  (∀ r, t.reg r = s.reg r) ∧ (t.cp s.cur).queue = (s.cp s.cur).queue

/-! ### Traps (R295) -/

/-- The CP of a slot has taken a trap: the trap CSRs hold its cause, value and addresses, the handler starts at TVEC, and both
banks and both landing queues stand as they were. -/
def Trapped (c : CpId) (cause : BitVec 8) (val fpc resume : Word) (s t : State) : Prop :=
  let p := s.cp c
  let q := t.cp c
  q = { p with tcause := cause, tval := val, tfpc := fpc, tpc := resume, handler := true, pc := p.tvec, untimed := 2, gap := false,
               waitLeft := none, waitFor := false, stepOne := false, answerDue := false, asked := false, pmc := q.pmc }

/-- `i` completes by trapping in thread mode: nothing else changes. -/
def Traps (i : Instr) (s : State) (cause : BitVec 8) (val resume : Word) : Prop :=
  Completes i s fun t => Trapped s.cur cause val s.pc resume s t ∧ OnlyCp s.cur s t ∧ SameBytes s t

/-- The fault record queue of a core has room, and no earlier record waits for it (R302). -/
def RecRoom (s : State) (k : Fin 256) : Prop := (s.core k).recq.length < 4 ∧ (s.core k).recWait = []

/-! ### Answers of the chiplets (R324, R374, R439) -/

/-- The instruction asks: it has had no effect, and its CP is held until the answer is there. -/
def AsksFirst (i : Instr) (s : State) : Prop := Completes i s fun t =>
  OnlyCp s.cur s t ∧ SameBytes s t ∧ t.cp s.cur = { s.cp s.cur with asked := true, answerDue := true }

/-- The instruction has had its effect and its CP is held until the answer is there, which goes to a register or to none. -/
def Answered (x : Option (Reg × Word)) (s t : State) : Prop :=
  t.cp s.cur = { s.cp s.cur with pc := s.pc + 4, answerDue := true, answer := x, asked := false, stepOne := false, pmc := (t.cp s.cur).pmc }

/-- The answer is a trap: an instruction that has asked takes it, one that has not asks first. -/
def TrapsByAnswer (i : Instr) (s : State) (cause : BitVec 8) (val : Word) : Prop :=
  ((s.cp s.cur).asked = true → Traps i s cause val s.pc) ∧ ((s.cp s.cur).asked = false → AsksFirst i s)

/-! ### Loads -/

/-- The bytes of an access size (R204). -/
def accessBytes (z : BitVec 3) : Nat := 2 ^ (z.toNat % 4)

/-- A loaded value, sign-extended for sizes 0 to 2 (R204). -/
def loadedWord (z : BitVec 3) (v : Nat) : Word :=
  let n := 8 * accessBytes z
  BitVec.ofNat 64 (if z.toNat < 3 ∧ 2 ^ (n - 1) ≤ v then 2 ^ 64 - 2 ^ n + v else v)

/-! ### Engine commands -/

/-- A command has entered the queue of the slot, with its operand values (R193, R238). -/
def Enqueued (i : Instr) (a b : Word) (s t : State) : Prop :=
  (t.slot s.cur).cmdq = (s.slot s.cur).cmdq ++ [{ order := s.ids, pc := s.pc, i := i, a := a, b := b, part := s.myPart }]

/-- Of the slot only its CP and its command queue change. -/
def OnlyCommand (s t : State) : Prop :=
  OutsideCore s.cur s t ∧ SameBytes s t ∧ OnlyRegs (s.cp s.cur) (t.cp s.cur) ∧
  t.slot s.cur = { s.slot s.cur with cp := t.cp s.cur, cmdq := (t.slot s.cur).cmdq } ∧ t.slot (otherSlot s.cur) = s.slot (otherSlot s.cur)

/-- A command enters the queue and the next instruction follows. -/
def Commands (i : Instr) (s : State) (reads : List Reg) (a b : Word) : Prop :=
  CanIssue s reads false → (s.slot s.cur).cmdq.length < 16 → Completes i s fun t =>
    OnlyCommand s t ∧ Enqueued i a b s t ∧ t.pc = s.pc + 4 ∧ ∀ r, t.reg r = s.reg r

/-- A record operand is aligned and all of it can be reached (R237). -/
def RecordOk (s : State) (a : Word) (align len : Nat) (write : Bool) : Prop := ∃ ps, s.record a align len write = .ok ps

/-! ### Elements -/

/-- A context issues at its site and is not predicated off (R70, R80). -/
def Issues (s : State) (x : ElemSite) (op : Nat) (w : CtxFields) : Prop :=
  s.canIssue x op w = true ∧ s.predicate x w = true ∧ s.ecc = []

/-- An issued lane instruction whose operands are no bubbles starts one result of a latency on its flight, for its destination; `p` tells
of the operands, the result's token and its flags (R73, R107, R108). -/
def LaneFlies (i : Instr) (s : State) (x : ElemSite) (w : CtxFields) (op lat : Nat) (ones : W256 × W256 × W256)
    (p : Tok → Tok → Tok → Tok → BitVec 8 → Prop) : Prop :=
  Issues s x op w → (s.source x w ones.1 w.srcA).k = false → (s.source x w ones.2.1 w.srcB).k = false → (s.source x w ones.2.2 w.srcC).k = false →
  Completes i s fun t => SameBytes s t ∧ ∃ (tok : Tok) (fl : BitVec 8),
    (t.elem x.cp x.elem).flight = (s.elem x.cp x.elem).flight ++ [⟨lat, .write (s.dest x w) tok fl, x.idx.setWidth 8⟩] ∧ tok.k = false ∧
    p (s.source x w ones.1 w.srcA) (s.source x w ones.2.1 w.srcB) (s.source x w ones.2.2 w.srcC) tok fl

/-- The same of a context on the control plane (R74, R111). -/
def ControlFlies (i : Instr) (s : State) (x : ElemSite) (w : CtxFields) (op lat : Nat) (p : Word → Word → Word → Word → BitVec 8 → Prop) : Prop :=
  Issues s x op w → Completes i s fun t => SameBytes s t ∧ ∃ (r : Word) (fl : BitVec 8),
    (t.elem x.cp x.elem).flight = (s.elem x.cp x.elem).flight ++ [⟨lat, .writeC r fl, x.idx.setWidth 8⟩] ∧
    p (s.ctlSource x w w.srcA) (s.ctlSource x w w.srcB) (s.ctlSource x w w.srcC) r fl

/-- An issued instruction starts one act of a latency on its element's flight (R73, R139). -/
def ActFlies (i : Instr) (s : State) (x : ElemSite) (w : CtxFields) (op lat : Nat) (p : Act → Prop) : Prop :=
  Issues s x op w → Completes i s fun t => SameBytes s t ∧ ∃ a : Act, p a ∧ (t.elem x.cp x.elem).flight = (s.elem x.cp x.elem).flight ++ [⟨lat, a, x.idx.setWidth 8⟩]

/-- An exact integer narrowed to w bits: clamped to the signed range under the saturate modifier, then wrapped (R42, R114). -/
def narrowed (sat : Bool) (w : Nat) (v : Int) : Int :=
  (if sat then max (-(2 ^ (w - 1))) (min (2 ^ (w - 1) - 1) v) else v) % 2 ^ w

/-- The saturate modifier clamps a value. -/
def clips (sat : Bool) (w : Nat) (v : Int) : Prop := sat = true ∧ (v < -(2 ^ (w - 1)) ∨ 2 ^ (w - 1) - 1 < v)

/-- Every lane of a result is its exact value narrowed, and SAT is set exactly when one of them was clamped (R62, R114). -/
def IntegerLanes (sat : Bool) (wd : Nat) (v : Nat → Nat → Nat → Int) (a b c r : Tok) (fl : BitVec 8) : Prop :=
  r.lr = a.lr ∧ r.ls = a.ls ∧
  (∀ j, j < 256 / wd → (lane wd r.bits j : Int) = narrowed sat wd (v (lane wd a.bits j) (lane wd b.bits j) (lane wd c.bits j))) ∧
  (fl = 0 ∨ fl = fSAT) ∧ (fl = fSAT ↔ ∃ j, j < 256 / wd ∧ clips sat wd (v (lane wd a.bits j) (lane wd b.bits j) (lane wd c.bits j)))

/-- n lanes of a result are drawn in order, each with the generator as the lanes before it left it (R23, R45). -/
def DrawsLanes (l : W32) (wd n : Nat) (bits : W256) (f : Nat → W32 → LaneOut) : Prop :=
  ∃ L : Nat → W32, L 0 = l ∧ ∀ j, j < n → lane wd bits j = (f j (L j)).v % 2 ^ wd ∧ L (j + 1) = (f j (L j)).lfsr

/-- A value ranks below another, −0 below +0 (R118, R134). -/
def RanksBelow (a b : XVal) : Prop := XVal.cmp a b < 0 ∨ (a.isZero = true ∧ b.isZero = true ∧ a.sign = true ∧ b.sign = false)

/-- A signed integer instruction on either plane; `v n a b c` is its exact value on lanes of n bits. -/
def IntegerFlies (i : Instr) (s : State) (x : ElemSite) (w : CtxFields) (op : Nat) (v : Nat → Nat → Nat → Nat → Int) : Prop :=
  let wd := 32 / 2 ^ w.fmt.toNat
  (w.dw ≠ 17 → LaneFlies i s x w op 1 (oneI wd, oneI wd, oneI wd) (IntegerLanes (w.mod.getLsbD 0) wd (v wd))) ∧
  (w.dw = 17 → ControlFlies i s x w op 1 fun a b c r _ => (r.toNat : Int) = narrowed (w.mod.getLsbD 0) 64 (v 64 a.toNat b.toNat c.toNat))

/-- The memory of the state has its canonical form. -/
def MemoryCanonical (s : State) : Prop := Memory.wf s.mem = true

end Sys2Proof.Machine
end

