-- ==== Sys2Proof/Certificates/Slice0/Obligations.lean ====
section
/-! DEFINITION. The statements for the provers. Each docstring names the rule of spec/ that the statement formalises. -/
open Sys2Proof Sys2Proof.Machine

/-- R210, R212: the register forms of the alu group complete, write their result at once and change nothing else. The values are
exact sums, products and quotients narrowed to 64 bits; a shift takes the whole count.
R200, R212: the constant forms of the alu group, with a sign-extended constant or a shift count of six bits.
R214, R215: bit fields that stay inside the register, and constants. bfi and movh read and keep the rest of their register. -/
def Obligations.AluOperations : Prop :=
  (∀ (s : State) (d a b : Reg),
  let x := s.reg a
  let y := s.reg b
  Writes (.add d a b) s [a, b] d (BitVec.ofNat 64 (x.toNat + y.toNat)) ∧
  Writes (.sub d a b) s [a, b] d (BitVec.ofInt 64 ((x.toNat : Int) - (y.toNat : Int))) ∧
  Writes (.and d a b) s [a, b] d (x &&& y) ∧
  Writes (.or d a b) s [a, b] d (x ||| y) ∧
  Writes (.xor d a b) s [a, b] d (x ^^^ y) ∧
  Writes (.andn d a b) s [a, b] d (x &&& ~~~y) ∧
  Writes (.shl d a b) s [a, b] d (BitVec.ofNat 64 (x.toNat * 2 ^ y.toNat)) ∧
  Writes (.shr d a b) s [a, b] d (BitVec.ofNat 64 (x.toNat / 2 ^ y.toNat)) ∧
  Writes (.sar d a b) s [a, b] d (BitVec.ofInt 64 (x.toInt / 2 ^ y.toNat)) ∧
  Writes (.slt d a b) s [a, b] d (if x.toInt < y.toInt then 1 else 0) ∧
  Writes (.sltu d a b) s [a, b] d (if x.toNat < y.toNat then 1 else 0) ∧
  Writes (.min d a b) s [a, b] d (BitVec.ofInt 64 (Min.min x.toInt y.toInt)) ∧
  Writes (.max d a b) s [a, b] d (BitVec.ofInt 64 (Max.max x.toInt y.toInt)) ∧
  Writes (.clz d a) s [a] d (BitVec.ofNat 64 ((List.range 64).findIdx fun i => x.getLsbD (63 - i))) ∧
  Writes (.ctz d a) s [a] d (BitVec.ofNat 64 ((List.range 64).findIdx fun i => x.getLsbD i)) ∧
  Writes (.popc d a) s [a] d (BitVec.ofNat 64 ((List.range 64).filter fun i => x.getLsbD i).length)) ∧
  (∀ (s : State) (d a : Reg) (i : BitVec 15) (n : BitVec 6),
  let x := s.reg a
  let k : Word := BitVec.ofInt 64 i.toInt
  Writes (.addImm d a i) s [a] d (BitVec.ofInt 64 ((x.toNat : Int) + i.toInt)) ∧
  Writes (.andImm d a i) s [a] d (x &&& k) ∧
  Writes (.orImm d a i) s [a] d (x ||| k) ∧
  Writes (.xorImm d a i) s [a] d (x ^^^ k) ∧
  Writes (.sltImm d a i) s [a] d (if x.toInt < i.toInt then 1 else 0) ∧
  Writes (.sltuImm d a i) s [a] d (if x.toNat < k.toNat then 1 else 0) ∧
  Writes (.minImm d a i) s [a] d (BitVec.ofInt 64 (Min.min x.toInt i.toInt)) ∧
  Writes (.maxImm d a i) s [a] d (BitVec.ofInt 64 (Max.max x.toInt i.toInt)) ∧
  Writes (.shlImm d a n) s [a] d (BitVec.ofNat 64 (x.toNat * 2 ^ n.toNat)) ∧
  Writes (.shrImm d a n) s [a] d (BitVec.ofNat 64 (x.toNat / 2 ^ n.toNat)) ∧
  Writes (.sarImm d a n) s [a] d (BitVec.ofInt 64 (x.toInt / 2 ^ n.toNat))) ∧
  (∀ (s : State) (d a : Reg) (p w : BitVec 6) (i : BitVec 20) (q : BitVec 2) (h : BitVec 16),
  let x := (s.reg a).toNat
  let z := (s.reg d).toNat
  let n := w.toNat + 1
  let f := x / 2 ^ p.toNat % 2 ^ n
  (p.toNat + n ≤ 64 →
    Writes (.bfx d a p w) s [a] d (BitVec.ofInt 64 (Int.bmod (f : Int) (2 ^ n))) ∧
    Writes (.bfxu d a p w) s [a] d (BitVec.ofNat 64 f) ∧
    Writes (.bfi d a p w) s [a, d] d (BitVec.ofNat 64 (z - z / 2 ^ p.toNat % 2 ^ n * 2 ^ p.toNat + x % 2 ^ n * 2 ^ p.toNat))) ∧
  Writes (.movi d i) s [] d (BitVec.ofInt 64 i.toInt) ∧
  Writes (.movh d q h) s [d] d
    (BitVec.ofNat 64 (z - z / 2 ^ (16 * q.toNat) % 2 ^ 16 * 2 ^ (16 * q.toNat) + h.toNat * 2 ^ (16 * q.toNat))))

/-- R213: the muldiv group: each word of its encoding decodes to its instruction, which completes with a landing entry, at distance 3 for a
product and 18 for a quotient or remainder, whatever the operands. A zero divisor gives all ones, or the dividend as remainder; nothing traps. -/
def Obligations.MulDiv : Prop := ∀ (s : State) (d a b : Reg),
  let x := s.reg a
  let y := s.reg b
  let word (fn : Nat) : W32 := BitVec.ofNat 32 (2 ^ 25 + d.toNat * 2 ^ 20 + a.toNat * 2 ^ 15 + b.toNat * 2 ^ 10 + fn)
  (decodeWord (word 0) = .ok (.mul d a b) ∧ decodeWord (word 1) = .ok (.mulh d a b) ∧ decodeWord (word 2) = .ok (.mulhu d a b) ∧
    decodeWord (word 3) = .ok (.div d a b) ∧ decodeWord (word 4) = .ok (.divu d a b) ∧ decodeWord (word 5) = .ok (.rem d a b) ∧
    decodeWord (word 6) = .ok (.remu d a b)) ∧
  Lands (.mul d a b) s [a, b] d 3 (BitVec.ofNat 64 (x.toNat * y.toNat)) ∧
  Lands (.mulh d a b) s [a, b] d 3 (BitVec.ofInt 64 (x.toInt * y.toInt / 2 ^ 64)) ∧
  Lands (.mulhu d a b) s [a, b] d 3 (BitVec.ofNat 64 (x.toNat * y.toNat / 2 ^ 64)) ∧
  Lands (.div d a b) s [a, b] d 18 (if y = 0 then BitVec.allOnes 64 else BitVec.ofInt 64 (x.toInt.tdiv y.toInt)) ∧
  Lands (.divu d a b) s [a, b] d 18 (if y = 0 then BitVec.allOnes 64 else BitVec.ofNat 64 (x.toNat / y.toNat)) ∧
  Lands (.rem d a b) s [a, b] d 18 (if y = 0 then x else BitVec.ofInt 64 (x.toInt - y.toInt * x.toInt.tdiv y.toInt)) ∧
  Lands (.remu d a b) s [a, b] d 18 (if y = 0 then x else BitVec.ofNat 64 (x.toNat % y.toNat))

/-- R216, R218: a conditional branch completes, taken to the PC plus four times its offset with an empty cycle, or not taken.
R217, R218: jumps complete at their target with an empty cycle; call leaves the address of the next instruction in g30, also
when it jumps through g30.
R198, R217: a jump through a register whose value is no multiple of four traps MISALIGNED at the jump, before any effect. -/
def Obligations.BranchJump : Prop :=
  (∀ (s : State) (a b : Reg) (o : BitVec 15),
  let x := s.reg a
  let y := s.reg b
  let target : Word := BitVec.ofInt 64 ((s.pc.toNat : Int) + 4 * o.toInt)
  Branches (.bEq a b o) s a b target (decide (x.toNat = y.toNat)) ∧
  Branches (.bNe a b o) s a b target (decide (x.toNat ≠ y.toNat)) ∧
  Branches (.bLt a b o) s a b target (decide (x.toInt < y.toInt)) ∧
  Branches (.bGe a b o) s a b target (decide (x.toInt ≥ y.toInt)) ∧
  Branches (.bLtu a b o) s a b target (decide (x.toNat < y.toNat)) ∧
  Branches (.bGeu a b o) s a b target (decide (x.toNat ≥ y.toNat))) ∧
  (∀ (s : State) (a : Reg) (o : BitVec 25),
  let target : Word := BitVec.ofInt 64 ((s.pc.toNat : Int) + 4 * o.toInt)
  let goes (t : State) (x : Word) : Prop := OnlyRegisters s t ∧ t.pc = x ∧ (t.cp s.cur).gap = true
  let plain (t : State) : Prop := ∀ r, t.reg r = s.reg r
  let linked (t : State) : Prop := t.reg 30 = s.pc + 4 ∧ ∀ r, r ≠ 30 → t.reg r = s.reg r
  (CanIssue s [] false → Completes (.jmp o) s fun t => goes t target ∧ plain t) ∧
  (CanIssue s [30] false → Completes (.call o) s fun t => goes t target ∧ linked t) ∧
  ((s.reg a).toNat % 4 = 0 → CanIssue s [a] false → Completes (.jmpReg a) s fun t => goes t (s.reg a) ∧ plain t) ∧
  ((s.reg a).toNat % 4 = 0 → CanIssue s [a, 30] false → Completes (.callReg a) s fun t => goes t (s.reg a) ∧ linked t) ∧
  ((s.reg 30).toNat % 4 = 0 → CanIssue s [30] false → Completes .ret s fun t => goes t (s.reg 30) ∧ plain t)) ∧
  (∀ (s : State) (a : Reg), (s.cp s.cur).handler = false →
  ((s.reg a).toNat % 4 ≠ 0 → CanIssue s [a] false → Traps (.jmpReg a) s 0x02 (s.reg a) s.pc) ∧
  ((s.reg a).toNat % 4 ≠ 0 → CanIssue s [a, 30] false → Traps (.callReg a) s 0x02 (s.reg a) s.pc) ∧
  ((s.reg 30).toNat % 4 ≠ 0 → CanIssue s [30] false → Traps .ret s 0x02 (s.reg 30) s.pc))

/-- R165: an instruction whose register has a pending interlocked entry waits at issue; in check mode one with a pending
fixed-latency entry traps WINDOW. That it waits when another of its registers has such a fixed entry is the model's reading (entry 16). Shown for
add; every instruction issues through the same rule.
R167: an instruction that takes a landing entry waits at issue while the queue holds eight. Shown for mul. -/
def Obligations.LandingQueue : Prop :=
  (∀ (s : State) (d a b : Reg) (k : LandKind) (e : LandEntry),
  s.ecc = [] → e ∈ (s.cp s.cur).queue → e.kind = k → e.reg ∈ [a, b, d] →
  (k = .interlocked → Waits (.add d a b) s) ∧
  (k = .fixed → (∀ x ∈ (s.cp s.cur).queue, x.kind = .fixed) → (s.cp s.cur).check = true → (s.cp s.cur).handler = false →
    ∃ v, Traps (.add d a b) s 0x04 v s.pc)) ∧
  (∀ (s : State) (d a b : Reg),
  (s.cp s.cur).ready [a, b, d] = .ok → s.ecc = [] → 8 ≤ (s.cp s.cur).queue.length → Waits (.mul d a b) s)

/-- R164, R166 to R168: in a cycle of its mode every landing distance of that mode falls by one; an entry at distance 1 leaves the queue and
its value stands in its register, unless a later entry for the register lands in the same cycle; the other mode's bank and queue stand still. -/
def Obligations.LandingCycle : Prop := ∀ (p : Cp),
  let q := p.tick
  let due (e : LandEntry) : Bool := e.rem == some 0 || e.rem == some 1
  q.queue = (p.queue.filter fun e => !due e).map (fun e => { e with rem := e.rem.map (· - 1) }) ∧
  (∀ r : Reg, (p.queue.filter fun e => due e && e.reg == r) = [] → q.reg r = p.reg r) ∧
  (∀ (r : Reg) (l : List LandEntry) (e : LandEntry), r ≠ 0 → (p.queue.filter fun e => due e && e.reg == r) = l ++ [e] → q.reg r = e.value) ∧
  q.reg 0 = 0 ∧ q.pc = p.pc ∧
  (if p.handler then q.bankT = p.bankT ∧ q.lqT = p.lqT ∧ q.tcyc = p.tcyc else q.bankH = p.bankH ∧ q.lqH = p.lqH ∧ q.tcyc = p.tcyc + 1)

/-- R229, R295: trap raises SOFT and bkpt BKPT, with TVAL the code, TPC the next instruction and TFPC the instruction itself.
R229, R414: with debug open in the policy and DBGCTL.HALT set, bkpt stops the slot's CP with its code. That the PC is then at the
next instruction is the model's reading (entry 21). -/
def Obligations.TrapEntry : Prop :=
  (∀ (s : State) (c : BitVec 15), (s.cp s.cur).handler = false → CanIssue s [] false →
  Traps (.trap c) s 0x0F (BitVec.ofNat 64 c.toNat) (s.pc + 4) ∧
  (((s.part s.myPart).pflags.getLsbD 0 && (s.cp s.cur).dbgctl.getLsbD 0) = false →
    Traps (.bkpt c) s 0x10 (BitVec.ofNat 64 c.toNat) (s.pc + 4))) ∧
  (∀ (s : State) (c : BitVec 15), CanIssue s [] false →
  (s.part s.myPart).pflags.getLsbD 0 = true → (s.cp s.cur).dbgctl.getLsbD 0 = true →
  Completes (.bkpt c) s fun t => OnlyCp s.cur s t ∧ SameBytes s t ∧
    t.cp s.cur = { s.cp s.cur with run := .halted c, pc := s.pc + 4, untimed := 1, pmc := (t.cp s.cur).pmc, stepOne := false })

/-- R297: a synchronous cause met in handler mode is a double fault: no trap is entered and the CP stops with the trap CSRs as they were, and
a DOUBLE record with the handler instruction's address and the cause enters the core's queue. Shown for trap, a jump and a word that is no instruction.
R208, R233, R235: in thread mode tret, a write of a handler-only CSR (1, 32, 33 or 37) and any use of a thread register as a CSR trap
PROTECT; TVAL is a free value (entry 12). That they do not first wait for a pending interlocked register is the model's reading (entry 16).
R207: a word that is no instruction traps ILLEGAL at its own address; TVAL is a free value (entry 12). -/
def Obligations.FaultsAndPrivilege : Prop :=
  (∀ (s : State) (c : BitVec 15) (a : Reg) (w : W32),
  (s.cp s.cur).handler = true → RecRoom s s.cur.core →
  let stops (cause : BitVec 8) (t : State) : Prop :=
    t.cp s.cur = { s.cp s.cur with run := .stopped, untimed := 1, pmc := (t.cp s.cur).pmc, stepOne := (t.cp s.cur).stepOne } ∧
    SameBytes s t ∧ (t.slot s.cur).status = 0x04 ∧
    ∃ r : FaultRec, (t.core s.cur.core).recq = (s.core s.cur.core).recq ++ [r] ∧ r.extractLsb' 0 8 = 0x11 ∧
      r.extractLsb' 192 64 = s.pc ∧ r.extractLsb' 384 8 = cause
  (CanIssue s [] false → Completes (.trap c) s (stops 0x0F)) ∧
  (CanIssue s [a] false → (s.reg a).toNat % 4 ≠ 0 → Completes (.jmpReg a) s (stops 0x02)) ∧
  (w.extractLsb' 25 7 ≠ 0x44 → Completes (.illegalWord w) s (stops 0x01))) ∧
  (∀ (s : State) (d a : Reg) (n m : BitVec 12), (s.cp s.cur).handler = false →
  n.toNat ∈ [1, 32, 33, 37] → 64 ≤ m.toNat → m.toNat ≤ 95 →
  let denied (i : Instr) : Prop := ∃ v, Traps i s 0x06 v s.pc
  denied .tret ∧ denied (.csrw a n) ∧ (a ≠ 0 → denied (.csrs d a n) ∧ denied (.csrc d a n)) ∧
  denied (.csrr d m) ∧ denied (.csrw a m) ∧ denied (.csrs d a m) ∧ denied (.csrc d a m)) ∧
  (∀ (s : State) (w : W32), (s.cp s.cur).handler = false → w.extractLsb' 25 7 ≠ 0x44 →
  ∃ v, Traps (.illegalWord w) s 0x01 v s.pc)

/-- R230: in handler mode tret returns to thread mode at TPC, with the registers and landing queues of both modes as they stood; its own cycle and
the next belong to neither mode and leave the CP as it is, so that the thread's next cycle is its second one after tret. In thread mode it traps PROTECT. R298: it waits while the
handler's landing queue holds an entry. -/
def Obligations.TrapReturn : Prop := ∀ (s : State),
  ((s.cp s.cur).handler = true → CanIssue s [] false →
    ((s.cp s.cur).lqH = [] → (s.cp s.cur).tpc.toNat % 4 = 0 →
      Completes .tret s fun t => OnlyCp s.cur s t ∧ SameBytes s t ∧
      t.cp s.cur = { s.cp s.cur with handler := false, pc := (s.cp s.cur).tpc, untimed := 2, gap := false,
                                     pmc := (t.cp s.cur).pmc, stepOne := false } ∧
      ((t.finishCp s.cur).finishCp s.cur).cp s.cur = { t.cp s.cur with untimed := 0 }) ∧
    ((s.cp s.cur).lqH ≠ [] → Waits .tret s)) ∧
  ((s.cp s.cur).handler = false → ∃ v, Traps .tret s 0x06 v s.pc) ∧
  decodeWord 0x82000000 = .ok .tret ∧
  (∀ c rest, s.agenda = .cp c :: rest → (s.cp c).untimed ≠ 0 → step s = .next (({ s with agenda := rest, cur := c } : State).finishCp c))

/-- R231, R236: wait leaves when a masked event is pending, or with no mask and no timeout; else a cycle passes with the time left falling,
and with no time left TMO is set and it leaves. WAIT_TIMEOUT is that end. The timeout is the register's value at issue: a wait that began
with none keeps none.
R223, R241, R296: at an instruction boundary of the thread the pending deferred trap whose access issued first is entered, with TPC the PC, once
no record waits for room (R303); in handler mode it stays pending. That a wait which the trap cuts begins its timeout anew is the model's reading
(entry 36). -/
def Obligations.WaitAndDeferred : Prop :=
  (∀ (s : State) (a : Reg) (m : BitVec 5), CanIssue s [a] false →
  let p := s.cp s.cur
  let time := (s.reg a).toNat
  let becomes (q : Cp) (t : State) : Prop :=
    OnlyCp s.cur s t ∧ SameBytes s t ∧ t.cp s.cur = { q with pmc := (t.cp s.cur).pmc, stepOne := (t.cp s.cur).stepOne }
  let w := Instr.wait a m
  let left (q : Cp) : Cp := { q with pc := p.pc + 4, waitLeft := none, waitFor := false }
  ((p.cpevt &&& m) ≠ 0 ∨ (m = 0 ∧ time = 0 ∧ p.waitLeft = none ∧ p.waitFor = false) → Completes w s (becomes (left p))) ∧
  ((p.cpevt &&& m) = 0 → time = 0 → m ≠ 0 → p.waitLeft = none → Completes w s (becomes { p with waitFor := true })) ∧
  ((p.cpevt &&& m) = 0 → p.waitFor = true → p.waitLeft = none → Completes w s (becomes p)) ∧
  ((p.cpevt &&& m) = 0 → time ≠ 0 → p.waitLeft = none → p.waitFor = false → Completes w s (becomes { p with waitLeft := some (s.reg a - 1) })) ∧
  (∀ n : Word, (p.cpevt &&& m) = 0 → p.waitLeft = some n → n ≠ 0 → Completes w s (becomes { p with waitLeft := some (n - 1) })) ∧
  ((p.cpevt &&& m) = 0 → p.waitLeft = some 0 →
    Completes w s (becomes { left p with cpevt := p.cpevt ||| 16 }) ∧
    Completes (.waitTimeout s.cur) s (becomes { left p with cpevt := p.cpevt ||| 16 }))) ∧
  (∀ (s : State) (c : CpId) (d : DTrap), d ∈ (s.cp c).dtraps →
  (∀ e ∈ (s.cp c).dtraps, e = d ∨ d.order < e.order) → (s.core c.core).recWait = [] →
  Completes (.deferredTrap c) s fun t => SameBytes s t ∧ OnlyCp c s t ∧
    t.cp c = (if (s.cp c).handler then s.cp c else
      { s.cp c with tcause := d.cause, tval := d.tval, tfpc := d.fpc, tpc := (s.cp c).pc, handler := true, pc := (s.cp c).tvec,
                    untimed := 2, gap := false, waitLeft := none, waitFor := false, stepOne := false, answerDue := false, asked := false,
                    dtraps := (s.cp c).dtraps.erase d }))

/-- R232: sysc completes at once with an interlocked entry that awaits the management core's answer: of VERIFY, FUSED or ENERGY with the
argument, or for any other service number.
R164, R220, R232: LANDING brings the value of a pending entry, which lands at the end of the next cycle of its mode: the fused-off columns
of a row, the task's energy, all ones for another service, and of a far load in the package the bytes at its place.
R198, R296, R446: a fetch that missed gets its line of 64 bytes from memory, or traps with the fetched address where the tables give it no place, a
pending deferred trap going first; a CP that awaits no line keeps everything. Which line of the cache's 256 the new one replaces is the
model's choice (entry 19). -/
def Obligations.LateAnswers : Prop :=
  (∀ (s : State) (d a : Reg) (w : W32),
  let asks (i : Instr) (d : Reg) (q : Ask) : Prop := Completes i s fun t => OnlyRegisters s t ∧ t.pc = s.pc + 4 ∧ (∀ r, t.reg r = s.reg r) ∧
    ∃ e : LandEntry, (t.cp s.cur).queue = (s.cp s.cur).queue ++ [e] ∧ e.reg = d ∧ e.kind = .interlocked ∧ e.rem = none ∧
      e.far = none ∧ e.ask = some q
  (CanIssue s [a, d] true → asks (.syscVerify d a) d (.verify (s.reg a)) ∧ asks (.syscFused d a) d (.fused (s.reg a)) ∧
    asks (.syscEnergy d a) d .energy) ∧
  (w.extractLsb' 25 7 = 0x44 → 2 < (w.extractLsb' 0 15).toNat → CanIssue s [w.extractLsb' 15 5, w.extractLsb' 20 5] true →
    asks (.illegalWord w) (w.extractLsb' 20 5) .other)) ∧
  (∀ (s : State) (c : CpId) (id : Nat) (e : LandEntry),
  ((s.cp c).lqT ++ (s.cp c).lqH).find? (fun x => x.id == id && x.rem.isNone) = some e → s.ecc = [] →
  let arrives (v : Word) : Prop := Completes (.landing c id) s fun t =>
    let put (x : LandEntry) : LandEntry := if x.id = id then { x with value := v, rem := some 1 } else x
    OnlyCp c s t ∧ SameBytes s t ∧ t.cp c = { s.cp c with lqT := (s.cp c).lqT.map put, lqH := (s.cp c).lqH.map put }
  (e.ask = some .energy → arrives (s.slot c).energy) ∧
  (e.ask = some .other → arrives (BitVec.allOnes 64)) ∧
  (∀ row : Word, e.ask = some (.fused row) →
    arrives (if row.toNat ≤ 15 then BitVec.ofNat 64 ((s.core c.core).fuse.toNat / 2 ^ (16 * row.toNat) % 2 ^ 16) else BitVec.allOnes 64)) ∧
  (∀ (pa : PAddr) (z : BitVec 3), e.ask = none → e.far = some (pa, .load (accessBytes z) (decide (z.toNat < 3))) → z.toNat ≤ 6 →
    pa.space.package = true → s.ownerOk (s.slot c).part pa false = true → s.parkedBlock pa = false → s.olderAccess c id pa (accessBytes z) = false →
    arrives (loadedWord z (s.leAt pa (accessBytes z))))) ∧
  (∀ (s : State) (c : CpId) (va : Word),
  ((s.cp c).run = .fetchWait va →
    (∀ pa, s.place c va 4 false = .ok pa → pa.outside = false → s.parkedBlock ⟨pa.space, pa.off / 64 * 64⟩ = false → s.ecc = [] →
      Completes (.fetchMissFill c) s fun t => SameBytes s t ∧ (t.cp c).run = .running ∧ (t.cp c).pc = (s.cp c).pc ∧
      ∃ l : ICacheLine, (t.cp c).icache = l :: (s.cp c).icache.take 255 ∧ l.part = (s.slot c).part ∧ l.line = va.toNat / 64 ∧
        l.data = BitVec.ofNat 512 (leNat (s.bytesAt ⟨pa.space, pa.off / 64 * 64⟩ 64))) ∧
    (∀ e, s.place c va 4 false = .error e → (s.cp c).handler = false → RecRoom s c.core →
      ((s.cp c).dtraps = [] → Completes (.fetchMissFill c) s fun t => SameBytes s t ∧
        (t.cp c).handler = true ∧ (t.cp c).tcause = e ∧ (t.cp c).tval = va ∧ (t.cp c).tpc = va ∧ (t.cp c).pc = (s.cp c).tvec) ∧
      ((s.cp c).dtraps ≠ [] → Completes (.fetchMissFill c) s fun t => t.cp c = { s.cp c with run := .running } ∧ SameBytes s t))) ∧
  ((∀ x, (s.cp c).run ≠ .fetchWait x) → Completes (.fetchMissFill c) s fun t => t = s))

/-- R164, R233, R234: csrr completes with a landing entry of latency 2 that holds the CSR's value.
R18, R169, R233 to R236: csrw of CPCTL, CPEVT, TVEC, TPC, TSCR and a thread register in handler mode writes exactly that CSR: of CPCTL the
CHECK bit, of CPEVT the ones of the source clear, of TVEC bits [1:0] stay 0. Read-only CSRs ignore it.
R233: csrs and csrc in handler mode answer the old value with latency 2 and write it with the mask's bits set or cleared; with g0 as mask
they write nothing. Shown for TSCR and TPC. -/
def Obligations.CsrAccess : Prop :=
  (∀ (s : State) (d : Reg),
  let p := s.cp s.cur
  let k := s.cur.core.val
  let gets (n : BitVec 12) (v : Word) : Prop := Lands (.csrr d n) s [] d 2 v
  gets 0x000 (BitVec.ofNat 64 k) ∧
  gets 0x001 (BitVec.ofNat 64 (64 * p.phase.toNat + (if p.check then 1 else 0))) ∧
  gets 0x004 p.tcyc ∧
  gets 0x005 (s.die (dieOf s.cur.core)).gcyc ∧
  gets 0x008 (BitVec.ofNat 64 p.cpevt.toNat) ∧
  gets 0x010 (BitVec.ofNat 64 ((s.core s.cur.core).ssb.toNat * 65536 + (s.core s.cur.core).smb.toNat * 256 + (s.core s.cur.core).lsb.toNat)) ∧
  gets 0x011 (BitVec.ofNat 64 s.cur.slot.val) ∧
  gets 0x012 (BitVec.ofNat 64 (s.slot s.cur).part.toNat) ∧
  gets 0x013 (BitVec.ofNat 64 (s.slot s.cur).prio.toNat) ∧
  gets 0x020 p.tvec ∧ gets 0x021 p.tpc ∧ gets 0x022 (BitVec.ofNat 64 p.tcause.toNat) ∧ gets 0x023 p.tval ∧ gets 0x024 p.tfpc ∧ gets 0x025 p.tscr ∧
  (∀ n : BitVec 5, p.handler = true → gets (BitVec.ofNat 12 (0x040 + n.toNat)) (if n = 0 then 0 else p.bankT.get (ix32 n)))) ∧
  (∀ (s : State) (a : Reg) (n : BitVec 5), (s.cp s.cur).handler = true → CanIssue s [a] false →
  let p := s.cp s.cur
  let x := s.reg a
  let sets (k : BitVec 12) (q : Cp) : Prop := Completes (.csrw a k) s fun t => OnlyCp s.cur s t ∧ SameBytes s t ∧
    t.cp s.cur = { q with pc := p.pc + 4, pmc := (t.cp s.cur).pmc, stepOne := false }
  sets 0x001 { p with check := x.getLsbD 0 } ∧
  sets 0x008 { p with cpevt := p.cpevt &&& ~~~(x.extractLsb' 0 5) } ∧
  sets 0x020 { p with tvec := x - BitVec.ofNat 64 (x.toNat % 4) } ∧
  sets 0x021 { p with tpc := x } ∧
  sets 0x025 { p with tscr := x } ∧
  sets (BitVec.ofNat 12 (0x040 + n.toNat)) { p with bankT := if n = 0 then p.bankT else vmod p.bankT (ix32 n) fun _ => x } ∧
  sets 0x000 p ∧ sets 0x004 p ∧ sets 0x005 p ∧ sets 0x022 p ∧ sets 0x023 p ∧ sets 0x024 p) ∧
  (∀ (s : State) (d a : Reg), (s.cp s.cur).handler = true → CanIssue s [a, d] true →
  let p := s.cp s.cur
  let m := s.reg a
  let does (i : Instr) (old : Word) (q : Cp) : Prop := Completes i s fun t => OnlyCp s.cur s t ∧ SameBytes s t ∧ Queued d .fixed (some 2) old s t ∧
    t.cp s.cur = { q with pc := p.pc + 4, lqH := (t.cp s.cur).lqH, pmc := (t.cp s.cur).pmc, stepOne := false }
  does (.csrs d a 0x025) p.tscr { p with tscr := if a = 0 then p.tscr else p.tscr ||| m } ∧
  does (.csrc d a 0x025) p.tscr { p with tscr := if a = 0 then p.tscr else p.tscr &&& ~~~m } ∧
  does (.csrs d a 0x021) p.tpc { p with tpc := if a = 0 then p.tpc else p.tpc ||| m } ∧
  does (.csrc d a 0x021) p.tpc { p with tpc := if a = 0 then p.tpc else p.tpc &&& ~~~m })

/-- R161, R162, R170, R171: a near address is Local below 0x1_0000 and Scene from 0x40_0000 up to 0x80_0000, counts inside the slot's share, and
is checked in the order alignment, class, share; a write into a Scene region that a running take declares for writing is PROTECT (R189). -/
def Obligations.NearPlace : Prop := ∀ (s : State) (a : Word) (n : Nat) (w : Bool), n ∈ [1, 2, 4, 8] →
  let k := s.core s.cur.core
  let second : Bool := decide (s.cur.slot = 1)
  let lb := 4096 * k.lsb.toNat
  let sb := 65536 * k.smb.toNat
  let x := a.toNat
  let y := x - 0x400000
  let answer := s.dataPlace a n true w
  (x % n ≠ 0 → answer = .error 0x02) ∧
  (x % n = 0 → (0x10000 ≤ x ∧ x < 0x400000) ∨ 0x800000 ≤ x → answer = .error 0x03) ∧
  (x % n = 0 → x < 0x10000 → answer =
    (if x + n ≤ (if second then 65536 - lb else lb) then .ok ⟨.loc s.cur.core, (if second then lb else 0) + x⟩ else .error 0x06)) ∧
  (x % n = 0 → 0x400000 ≤ x → x < 0x800000 → w = false → answer =
    (if y + n ≤ (if second then 4194304 - sb else sb) then .ok ⟨.scene s.cur.core, (if second then sb else 0) + y⟩ else .error 0x06)) ∧
  (x % n = 0 → 0x400000 ≤ x → x < 0x800000 → w = true → (∃ r : Fin 4, ∃ m ∈ (s.region s.cur r).onHdr.smr,
      ((s.region s.cur r).on = .running ∨ (s.region s.cur r).on = .draining) ∧ m.wr = true ∧ m.off < y + n ∧ y < m.off + m.len) →
    answer = .error 0x06)

/-- R204, R219, R220: ld and ldf of a near place complete with a landing entry of latency 6 holding the bytes there, extended as the size states:
ld's of fixed latency, ldf's interlocked. No byte changes.
R219, R220: st and stf to a near place complete, change the bytes at the place to those of the register and no other byte, no register and no
landing entry. -/
def Obligations.NearAccess : Prop :=
  (∀ (s : State) (d a : Reg) (z : BitVec 3) (i : BitVec 12) (pa : PAddr),
  let ea : Word := BitVec.ofInt 64 ((s.reg a).toNat + i.toInt)
  let n := accessBytes z
  let gives (j : Instr) (k : LandKind) : Prop := Completes j s fun t => OnlyRegisters s t ∧ t.pc = s.pc + 4 ∧ (∀ r, t.reg r = s.reg r) ∧
    Queued d k (some 6) (loadedWord z (s.leAt pa n)) s t
  z.toNat ≤ 6 → CanIssue s [a, d] true → s.dataPlace ea n true false = .ok pa → gives (.ld d a z i) .fixed ∧ gives (.ldf d a z i) .interlocked) ∧
  (∀ (s : State) (d a : Reg) (z : BitVec 3) (i : BitVec 12) (pa : PAddr),
  let ea : Word := BitVec.ofInt 64 ((s.reg a).toNat + i.toInt)
  let n := accessBytes z
  let stores (j : Instr) : Prop := Completes j s fun t => OnlyCp s.cur s t ∧ OnlyRegs (s.cp s.cur) (t.cp s.cur) ∧ t.pc = s.pc + 4 ∧
    (∀ r, t.reg r = s.reg r) ∧ (t.cp s.cur).queue = (s.cp s.cur).queue ∧ OnlyBytes pa n s t ∧ t.leAt pa n = (s.reg d).toNat % 2 ^ (8 * n)
  MemoryCanonical s → z.toNat ≤ 3 → CanIssue s [a, d] false → s.dataPlace ea n true true = .ok pa →
    stores (.st d a z i) ∧ stores (.stf d a z i))

/-- R220 to R222: ldf and amo of a far place leave issue with an interlocked entry whose value comes later; stf of one is posted with the bytes of
its register. No byte and no register changes. R220, R227: to host memory go amo.add, amo.swp and amo.cas, where the function's enable is set; another amo
to host or peer memory traps ADDRCLASS, before any check of the page's rights. -/
def Obligations.FarAccess : Prop := ∀ (s : State) (d a b c : Reg) (z : BitVec 3) (i : BitVec 12) (pa : PAddr),
  let ea : Word := BitVec.ofInt 64 ((s.reg a).toNat + i.toInt)
  let n := accessBytes z
  let quiet (t : State) : Prop := OnlyCp s.cur s t ∧ SameBytes s t ∧ t.pc = s.pc + 4 ∧ ∀ r, t.reg r = s.reg r
  let pends (j : Instr) (va : Word) (op : FarOp) : Prop := Completes j s fun t => quiet t ∧
    ∃ e : LandEntry, (t.cp s.cur).queue = (s.cp s.cur).queue ++ [e] ∧ e.reg = d ∧ e.kind = .interlocked ∧ e.rem = none ∧
      e.far = some (pa, op) ∧ e.ask = none ∧ e.vaddr = va ∧ e.fpc = s.pc
  (z.toNat ≤ 6 → classOf ea = .far → s.dataPlace ea n false false = .ok pa → CanIssue s [a, d] true →
    pends (.ldf d a z i) ea (.load n (decide (z.toNat < 3)))) ∧
  (z.toNat ≤ 3 → classOf ea = .far → s.dataPlace ea n false true = .ok pa → CanIssue s [a, d] false → Completes (.stf d a z i) s fun t =>
    quiet t ∧ ∃ w : Posted, (t.cp s.cur).posted = (s.cp s.cur).posted ++ [w] ∧ w.pa = pa ∧ w.vaddr = ea ∧ w.fpc = s.pc ∧
      w.bytes = leBytes n (s.reg d).toNat) ∧
  (classOf (s.reg a) = .far → s.dataPlace (s.reg a) 8 false true = .ok pa →
    let host : Prop := pa.space = .host ∧ Config.atomicOpEnabled (s.part s.myPart).fn.toNat = true
    (CanIssue s [a, b, d] true →
      (pa.space.package = true ∨ host → pends (.amoAdd d a b) (s.reg a) (.amo 0 (s.reg b) 0) ∧ pends (.amoSwp d a b) (s.reg a) (.amo 1 (s.reg b) 0)) ∧
      (pa.space.package = true →
        pends (.amoMax d a b) (s.reg a) (.amo 3 (s.reg b) 0) ∧ pends (.amoMin d a b) (s.reg a) (.amo 4 (s.reg b) 0) ∧
        pends (.amoAnd d a b) (s.reg a) (.amo 5 (s.reg b) 0) ∧ pends (.amoOr d a b) (s.reg a) (.amo 6 (s.reg b) 0))) ∧
    (CanIssue s [a, b, c, d] true → pa.space.package = true ∨ host → pends (.amoCas d a b c) (s.reg a) (.amo 2 (s.reg b) (s.reg c)))) ∧
  (∀ g : PageMap, classOf (s.reg a) = .far → (s.reg a).toNat % 8 = 0 → s.pageOf s.cur (s.reg a) = some g → g.dest.space.package = false →
    (∀ k, g.dest.space ≠ .stat k) ∧ (∀ k, g.dest.space ≠ .kv k) → (s.cp s.cur).handler = false →
    (CanIssue s [a, b, d] true →
      Traps (.amoMax d a b) s 0x03 (s.reg a) s.pc ∧ Traps (.amoMin d a b) s 0x03 (s.reg a) s.pc ∧ Traps (.amoAnd d a b) s 0x03 (s.reg a) s.pc ∧
      Traps (.amoOr d a b) s 0x03 (s.reg a) s.pc ∧
      (g.dest.space ≠ .host ∨ Config.atomicOpEnabled (s.part s.myPart).fn.toNat = false → Traps (.amoAdd d a b) s 0x03 (s.reg a) s.pc ∧ Traps (.amoSwp d a b) s 0x03 (s.reg a) s.pc)) ∧
    (CanIssue s [a, b, c, d] true → g.dest.space ≠ .host ∨ Config.atomicOpEnabled (s.part s.myPart).fn.toNat = false →
      Traps (.amoCas d a b c) s 0x03 (s.reg a) s.pc))

/-- R226: an amo of a near place completes: the old word lands at distance 6 through an interlocked entry, the place holds the new word, and no
other byte changes; amo.cas with another old word changes no byte.
R210, R219, R220, R226: a data address that is no multiple of the access size traps MISALIGNED with the address as TVAL, before any other check
and with no effect. -/
def Obligations.AtomicAccess : Prop :=
  (∀ (s : State) (d a b c : Reg) (pa : PAddr),
  MemoryCanonical s → classOf (s.reg a) ≠ .far → s.dataPlace (s.reg a) 8 false true = .ok pa →
  let old := s.wordAt pa
  let x := s.reg b
  let does (j : Instr) (new : Word) : Prop := Completes j s fun t => OnlyCp s.cur s t ∧ OnlyRegs (s.cp s.cur) (t.cp s.cur) ∧ t.pc = s.pc + 4 ∧
    (∀ r, t.reg r = s.reg r) ∧ Queued d .interlocked (some 6) old s t ∧ OnlyBytes pa 8 s t ∧ t.wordAt pa = new
  (CanIssue s [a, b, d] true →
    does (.amoAdd d a b) (BitVec.ofNat 64 (old.toNat + x.toNat)) ∧ does (.amoSwp d a b) x ∧
    does (.amoMax d a b) (BitVec.ofInt 64 (Max.max old.toInt x.toInt)) ∧ does (.amoMin d a b) (BitVec.ofInt 64 (Min.min old.toInt x.toInt)) ∧
    does (.amoAnd d a b) (old &&& x) ∧ does (.amoOr d a b) (old ||| x)) ∧
  (CanIssue s [a, b, c, d] true →
    (old = s.reg c → does (.amoCas d a b c) x) ∧
    (old ≠ s.reg c → does (.amoCas d a b c) old ∧ Completes (.amoCas d a b c) s fun t => SameBytes s t))) ∧
  (∀ (s : State) (d a b : Reg) (z : BitVec 3) (i : BitVec 12), (s.cp s.cur).handler = false →
  let ea : Word := BitVec.ofInt 64 ((s.reg a).toNat + i.toInt)
  (z.toNat ≤ 6 → ea.toNat % accessBytes z ≠ 0 → CanIssue s [a, d] true → Traps (.ld d a z i) s 0x02 ea s.pc ∧ Traps (.ldf d a z i) s 0x02 ea s.pc) ∧
  (z.toNat ≤ 3 → ea.toNat % accessBytes z ≠ 0 → CanIssue s [a, d] false → Traps (.st d a z i) s 0x02 ea s.pc ∧ Traps (.stf d a z i) s 0x02 ea s.pc) ∧
  ((s.reg a).toNat % 8 ≠ 0 → CanIssue s [a, b, d] true → Traps (.amoAdd d a b) s 0x02 (s.reg a) s.pc ∧ Traps (.amoSwp d a b) s 0x02 (s.reg a) s.pc))

/-- R224: a fence completes when its condition holds, fence.ld when no far load of the slot is pending, fence.st when no store or atomic write is, fence.all when
neither is and none of its counter adds is in flight (R275, R279), fence.eng when besides no queued command waits but one at the head that reads no
record. It waits at issue otherwise.
R225: pref completes on every operand value without a trap; a translation of its address may join the slot's cache, and nothing else changes. -/
def Obligations.FencesAndPrefetch : Prop :=
  (∀ (s : State), CanIssue s [] false →
  let p := s.cp s.cur
  let pend (e : LandEntry) : Prop := e ∈ p.lqT ++ p.lqH ∧ e.rem = none
  let loads : Prop := ∀ e, pend e → e.far = none
  let stores : Prop := p.posted = [] ∧ ∀ e, pend e → ∀ pa fn x y, e.far ≠ some (pa, .amo fn x y)
  let adds : Prop := ∀ x ∈ s.adds, ¬ (x.byCp = true ∧ x.sender = s.cur)
  let q := (s.slot s.cur).cmdq
  let cmds : Prop := q = [] ∨ ∃ c, q = [c] ∧ ∀ a b r k, c.i ≠ .rload a b r ∧ (a ≠ 0 → c.i ≠ .rarm a r) ∧ c.i ≠ .rrest a r ∧ c.i ≠ .cpy a ∧ c.i ≠ .cpyg a ∧ c.i ≠ .stgdef a k
  let fence (i : Instr) (ok : Prop) : Prop :=
    (ok → Completes i s fun t => OnlyRegisters s t ∧ t.pc = s.pc + 4 ∧ (∀ r, t.reg r = s.reg r) ∧ (t.cp s.cur).queue = p.queue) ∧ (¬ ok → Waits i s)
  fence .fenceLd loads ∧ fence .fenceSt stores ∧ fence .fenceAll (loads ∧ stores ∧ adds) ∧ fence .fenceEng (loads ∧ stores ∧ adds ∧ cmds)) ∧
  (∀ (s : State) (a : Reg) (i : BitVec 12), CanIssue s [a] false → Completes (.pref a i) s fun t =>
  OnlyCp s.cur s t ∧ SameBytes s t ∧
  t.cp s.cur = { s.cp s.cur with pc := s.pc + 4, ftc := (t.cp s.cur).ftc, pmc := (t.cp s.cur).pmc, stepOne := false })

/-- R220, R222, R224: a posted store that no older access of its CP to the same bytes precedes performs in the package's memory: it leaves the list of
posted stores, its bytes stand at its place and no other byte changes. Places of a compressed aperture apart (R357). R223, R318, R351: where the unit is not its
partition's any more it fails with a deferred PROTECT and no byte changes (entry 41).
R357: a store into a compressed surface that needs an escape entry when none is free is parked, with a record of the controller, and no byte changes; after
escape pages were added, a parked write whose block now has a place performs and leaves the controller's list, here the only one; the bytes of its
slot and escape entry behind the aperture are free values (entry 38). -/
def Obligations.StoresPerform : Prop :=
  (∀ (s : State) (c : CpId) (id : Nat) (w : Posted),
  MemoryCanonical s → (s.cp c).posted.find? (fun x => x.id == id) = some w → w.parked = false → s.olderAccess c id w.pa w.bytes.length = false →
  w.pa.space.package = true → s.parkedBlock w.pa = false →
  let gone : Cp := { s.cp c with posted := (s.cp c).posted.filter fun x => x.id != id }
  (w.surf = none → s.ownerOk (s.slot c).part w.pa true = true → Completes (.postedStorePerformed c id) s fun t =>
    t.bytesAt w.pa w.bytes.length = w.bytes ∧ OnlyBytes w.pa w.bytes.length s t ∧ t.cp c = gone) ∧
  (w.surf = none → s.ownerOk (s.slot c).part w.pa true = false → (s.cp c).run = .running →
    Completes (.postedStorePerformed c id) s fun t => SameBytes s t ∧ t.cp c = { gone with dtraps := (s.cp c).dtraps ++ [⟨id, 0x06, w.vaddr, w.fpc⟩] }) ∧
  (∀ (d : Fin 4) (g : Nat), w.surf = some g → w.pa.space = .hbm d →
    let k := ctlOf w.pa.off
    let l := (s.die d).ctl.get k
    (c, id) ∉ l.park → l.park.length + (l.left.filter fun x => x.2.parked).length < 16 → (s.performStore c w).needsEscape (s.slot c).part g = true →
    Completes (.postedStorePerformed c id) s fun t => SameBytes s t ∧ ((t.die d).ctl.get k).park = l.park ++ [(c, id)] ∧
      ∃ f : FaultRec, ((t.die d).ctl.get k).recs = l.recs ++ [f] ∧ f.extractLsb' 0 8 = 0x0C ∧ f.extractLsb' 128 64 = w.vaddr - w.vaddr % 256)) ∧
  (∀ (s : State) (d : Fin 4) (k : Fin 2) (x : CpId × Nat) (w : Posted) (g : Nat),
  ((s.die d).ctl.get k).park = [x] → ((s.die d).ctl.get k).left = [] → (s.cp x.1).posted.find? (fun y => y.id == x.2) = some w → w.surf = some g →
  (s.performStore x.1 w).needsEscape (s.slot x.1).part g = false → s.launches = [] →
  Completes (.parkRelease d k) s fun t => ((t.die d).ctl.get k).park = [] ∧
    t.mem = ((s.performStore x.1 w).slotted (s.slot x.1).part (some g) w.vaddr).mem)

/-- R193, R237, R238: a command whose record can be reached enters the queue with its operand values and leaves issue: no register, no byte and
nothing else of the package changes. rarm with g0 names no record (R245). What length rload, rsave and rrest check is the model's choice (entry 30).
R193, R237: a full command queue holds the CP at issue, and a record operand that is not aligned traps MISALIGNED at issue.
R238, R248: rstat enters the queue and takes an interlocked entry of the same number for its answer. -/
def Obligations.EngineCommands : Prop :=
  (∀ (s : State) (a b : Reg) (r : BitVec 2) (p : BitVec 5) (k : BitVec 4),
  let x := s.reg a
  Commands (.rgo r) s [] 0 0 ∧ Commands (.rstop r) s [] 0 0 ∧ Commands (.rarm 0 r) s [] 0 0 ∧
  Commands (.sbind p k) s [] 0 0 ∧ Commands (.sbindt a p k) s [a] x 0 ∧ Commands (.sstop p) s [] 0 0 ∧
  (RecordOk s x 64 (s.imageLen x) false → Commands (.rload a b r) s [a, b] x (s.reg b)) ∧
  (a ≠ 0 → RecordOk s x 16 272 false → Commands (.rarm a r) s [a] x 0) ∧
  (RecordOk s x 256 (imageSize (s.region s.cur (ix4 r)).onHdr.rows (s.region s.cur (ix4 r)).onHdr.cols) true → Commands (.rsave a r) s [a] x 0) ∧
  (RecordOk s x 256 (s.savedSize x) false → Commands (.rrest a r) s [a] x 0) ∧
  (RecordOk s x 64 64 false → Commands (.cpy a) s [a] x 0 ∧ Commands (.cpyg a) s [a] x 0) ∧
  (RecordOk s x 32 32 false → Commands (.stgdef a k) s [a] x 0)) ∧
  (∀ (s : State) (a : Reg) (r : BitVec 2) (p : BitVec 5) (k : BitVec 4),
  (CanIssue s [] false → 16 ≤ (s.slot s.cur).cmdq.length → Waits (.rgo r) s ∧ Waits (.rstop r) s ∧ Waits (.sbind p k) s ∧ Waits (.sstop p) s) ∧
  (CanIssue s [a] false → (s.cp s.cur).handler = false →
    ((s.reg a).toNat % 64 ≠ 0 → Traps (.cpy a) s 0x02 (s.reg a) s.pc ∧ Traps (.cpyg a) s 0x02 (s.reg a) s.pc ∧ Traps (.spat a k) s 0x02 (s.reg a) s.pc) ∧
    ((s.reg a).toNat % 256 ≠ 0 → Traps (.rsave a r) s 0x02 (s.reg a) s.pc ∧ Traps (.rrest a r) s 0x02 (s.reg a) s.pc))) ∧
  (∀ (s : State) (x : Reg) (r : BitVec 2), CanIssue s [x] true → (s.slot s.cur).cmdq.length < 16 →
  let asks (i : Instr) : Prop := Completes i s fun t => OnlyCommand s t ∧ Enqueued i 0 0 s t ∧ t.pc = s.pc + 4 ∧ (∀ g, t.reg g = s.reg g) ∧
    ∃ e : LandEntry, (t.cp s.cur).queue = (s.cp s.cur).queue ++ [e] ∧ e.id = s.ids ∧ e.reg = x ∧ e.kind = .interlocked ∧ e.rem = none ∧
      e.far = none ∧ e.ask = none
  asks (.rstatState x r) ∧ asks (.rstatLoadrep x r) ∧ asks (.rstatFlags x r) ∧ asks (.rstatTclap x r) ∧ asks (.rstatHeld x r) ∧
  asks (.rstatCycles x r) ∧ asks (.rstatEnergy x r) ∧ asks (.rstatFault x r) ∧ asks (.rstatOrigin x r))

/-- R239 to R241, R246 to R250, R252, R253: what the command at the head of a bound slot's queue does on its turn: an rstat answers its item, an rload makes its
region load and empties the next bank, a plain rarm of an empty next bank reports NOTLOADED, an rgo starts the armed take at take cycle (0, 0) two
cycles later or reports NOTARMED, an rstop of a running take makes it drain. rsave writes the image of an ended or stopped region, with its header, and
rrest brings one back, an image that resumes apart; each reports BADSTATE elsewhere, and rrest RESTFAIL for a bad MAGIC or CRC. A region that stopped on a page
first lets its tokens arrive (the model's reading, entry 36). sbind and sbindt bind a pattern that passes its checks, with TVAL p + 256 k or the offset when
they fail, and wait while a binding is pending. R357: a record on which a write is parked is not read yet. -/
def Obligations.CommandHead : Prop := ∀ (s : State) (c : CpId) (m : Cmd) (r : BitVec 2) (x a b : Reg) (p : BitVec 5) (k : BitVec 4),
  (s.slot c).status = 0x01 → (s.slot c).cmdq = [m] → m.failed = false → s.recordWaits c m = false →
  let i := Instr.commandQueueAdvance c
  let q : Fin 4 := ix4 r
  let g := s.region c q
  let gone (t : State) : Prop := (t.slot c).cmdq = [] ∧ (t.cp c).cpevt.getLsbD 1 = true
  let answers (v : Word) : Prop := Completes i s fun t => gone t ∧ ∀ e ∈ (s.cp c).lqT ++ (s.cp c).lqH,
    e.id = m.order → { e with value := v, rem := some 2 } ∈ (t.cp c).lqT ++ (t.cp c).lqH
  let fails (cause : BitVec 8) (v : Word) : Prop := RecRoom s c.core → (s.cp c).run = .running → Completes i s fun t => gone t ∧
    ∃ d ∈ (t.cp c).dtraps, d.order = m.order ∧ d.cause = cause ∧ d.tval = v ∧ d.fpc = m.pc
  let quiet : Prop := (s.cp c).trigged = none ∧ (s.slot c).launch = none
  let im := s.savedImage c q
  let isOver : Prop := g.on = .ended ∨ g.on = .stopped
  let page : Bool := g.on == .stopped && g.cause == 0x05
  let bound (stamp : Option Nat) : Prop :=
    let pat := (s.slot c).patterns.get (ix16 k)
    let ip := if patInd pat then (if h : patIsrc pat < 16 then (s.slot c).patterns.get ⟨patIsrc pat, h⟩ else 0) else 0
    (∀ ext, s.checkBinding c p pat ip = .ok ext → Completes i s fun t => gone t ∧ (t.slot c).port p = { (s.slot c).port p with
      pending := some { pat := pat, patSlot := k, order := m.order, extents := ext, ipat := ip, stamp := stamp, take := none } }) ∧
    (∀ cause va y, s.checkBinding c p pat ip = .error (cause, va, y) → fails cause (BitVec.ofNat 64 (p.toNat + 256 * k.toNat)))
  (m.i = .rstatState x r → answers (BitVec.ofNat 64 (
    (match g.on with
     | .free => match g.next with | .empty => 0 | .loaded => 2 | .armed => 3
     | .running => 4 | .draining => 5 | .ended => 6 | .stopped => 7)
    + 256 * (match g.next with | .empty => 0 | .loaded => 1 | .armed => 2)
    + 65536 * g.lastst.toNat + (if g.on = .stopped then 16777216 * g.cause.toNat else 0)))) ∧
  (m.i = .rstatLoadrep x r → answers (BitVec.ofNat 64 g.loadrep.toNat)) ∧ (m.i = .rstatFlags x r → answers (BitVec.ofNat 64 g.flags.toNat)) ∧
  (m.i = .rstatHeld x r → answers g.held) ∧ (m.i = .rstatCycles x r → answers g.cycles) ∧ (m.i = .rstatEnergy x r → answers g.energy) ∧
  (m.i = .rstatFault x r → answers g.faultWord) ∧
  (m.i = .rstatTclap x r → answers (if g.on = .free then 0 else BitVec.ofNat 64 (g.tc % 4096 + 4096 * (g.lap % 2 ^ 32)))) ∧
  (m.i = .rstatOrigin x r → answers (if g.on = .free then 0 else
    BitVec.ofNat 64 (g.onHdr.row0 + 16 * g.onHdr.col0 + 256 * g.onHdr.rows + 65536 * g.onHdr.cols))) ∧
  (m.i = .rload a b r → s.recordParked c m = false → g.on ≠ .draining → g.loading = none → Completes i s fun t =>
    (t.slot c).cmdq = [m] ∧ (t.region c q).loading = some m ∧ (t.region c q).next = .empty ∧ (t.region c q).on = g.on) ∧
  (m.i = .rarm 0 r → s.recordParked c m = false → g.on ≠ .draining → g.next = .empty → Completes i s fun t => gone t ∧ t.region c q = { g with lastst := 2 }) ∧
  (m.i = .rgo r → g.on = .free → g.next = .armed → Completes i s fun t => gone t ∧
    (t.region c q).on = .running ∧ (t.region c q).next = .empty ∧ (t.region c q).takeSeq = g.takeSeq + 1 ∧ (t.region c q).startIn = 2 ∧
    (t.region c q).tc = 0 ∧ (t.region c q).lap = 0 ∧ (t.region c q).lastst = 0 ∧ (t.region c q).held = 0 ∧ (t.region c q).cycles = 0) ∧
  (m.i = .rgo r → g.on ≠ .draining → g.on ≠ .running → g.next ≠ .armed → g.nextLost = false → Completes i s fun t => gone t ∧
    t.region c q = { g with lastst := 1 }) ∧
  (m.i = .rstop r → g.on = .running → Completes i s fun t => gone t ∧ (t.region c q).on = .draining) ∧
  (m.i = .rstop r → g.on ≠ .running → Completes i s fun t => gone t ∧ t.region c q = g) ∧
  (m.i = .rsave a r →
    (¬ isOver → Completes i s fun t => gone t ∧ t.region c q = { g with lastst := 7 }) ∧
    (isOver → page = true → s.travelling c q = true → quiet → Completes i s fun t => t = s) ∧
    (isOver → page = false → quiet → ∀ u, s.writeVirt c m.a im = .ok u → Completes i s fun t => gone t ∧ t.region c q = { g with lastst := 0 } ∧ t.mem = u.mem) ∧
    (isOver → page = false → ∀ e, s.writeVirt c m.a im = .error e → e.1 = 0x05 ∧ fails 0x05 e.2.1)) ∧
  (fld im 0 4 = 0x5653525A ∧ fld im 8 8 = g.onHdr.origin.toNat ∧ fld im 16 8 = g.stateWord.toNat ∧ fld im 60 4 = (crc32c (im.drop 64)).toNat ∧
    (1 ≤ g.onHdr.rows → g.onHdr.rows ≤ 16 → 1 ≤ g.onHdr.cols → g.onHdr.cols ≤ 16 → im.length = 10240 + 5120 * g.onHdr.rows * g.onHdr.cols)) ∧
  (m.i = .rrest a r → s.recordParked c m = false →
    let rests : Prop := (g.on = .free ∧ g.next = .empty) ∨ isOver
    (¬ rests → Completes i s fun t => gone t ∧ t.region c q = { g with lastst := 7 }) ∧
    (rests → (∀ u e, s.readVirt c m.a 64 = (u, .error e) → fails e.1 e.2.1) ∧
      (∀ u h, s.readVirt c m.a 64 = (u, .ok h) →
        let rows := fld h 9 1 % 32
        let cols := fld h 10 1 % 32
        (fld h 0 4 ≠ 0x5653525A → Completes i s fun t => gone t ∧ t.region c q = { g with lastst := 5 }) ∧
        (fld h 0 4 = 0x5653525A → 1 ≤ rows → rows ≤ 16 → 1 ≤ cols → cols ≤ 16 →
          ∀ w l, u.readVirt c m.a (10240 + 5120 * (rows * cols)) = (w, .ok l) →
          (fld l 60 4 ≠ (crc32c (l.drop 64)).toNat → Completes i s fun t => gone t ∧ t.region c q = { g with lastst := 5 }) ∧
          (∀ v z, fld l 60 4 = (crc32c (l.drop 64)).toNat → (rSaved q).run (l.drop 64) = some (v, z) → ((s.slot c).rectangles q).any v.g.onHdr.meets = false →
            (s.loadEnv c q).columns.1 ≤ v.g.onHdr.col0 → v.g.onHdr.col0 + v.g.onHdr.cols ≤ (s.loadEnv c q).columns.2 →
            (∀ e ∈ v.g.onHdr.elems, (s.core c.core).fuse.getLsbD e.val = false) →
            (∀ y ∈ v.ports, ((s.slot c).port y.p).run = none ∧ (s.loadEnv c q).owns y.p.toNat = true) → ¬ (v.g.on = .stopped ∧ v.g.cause = 0x05) →
            Completes i s fun t => gone t ∧
              t.region c q = { v.g with takeSeq := g.takeSeq + 1, lastst := 0, startIn := 0, nextLost := g.nextLost }))))) ∧
  (m.i = .sbind p k ∨ m.i = .sbindt a p k → ((s.slot c).port p).pending.isSome → quiet → Completes i s fun t => t = s) ∧
  (m.i = .sbind p k → p.toNat < 24 → ((s.slot c).port p).pending = none → bound none) ∧
  (m.i = .sbindt a p k → p.toNat < 24 → ((s.slot c).port p).pending = none →
    (m.a.toNat ≤ 0xFFFFFFFF → bound (some m.a.toNat)) ∧ (0xFFFFFFFF < m.a.toNat → fails 0x09 m.a))

/-- R103, R104, R243: REEL_LOAD_COMPLETE ends the load of a bound slot's region: an image that passes every check fills the next bank, one that fails a check
leaves the next bank empty with its report, and neither touches the on bank's state.
R240, R241, R257, R258, R261, R262: at the head of the queue cpy and cpyg read their record and join the copy engine's queue of 8, which they wait for, and
stgdef defines its stage; a record that breaks a rule gives FORMAT with the record's address, and one that cannot be read PAGE or UNCORR with the failing
address (the model's reading, entry 31).
R258: COPY_START takes the next copy without surfaces, stage or declared scene memory into the engine; COPY_COMPLETE, once every unit has moved, frees the
engine and signals the counter of the copy, here a near one with no earlier signal of the engine under way (R282), by its increment. -/
def Obligations.ReelAndCopy : Prop :=
  (∀ (s : State) (c : CpId) (r : Fin 4) (m : Cmd), (s.slot c).status = 0x01 → (s.region c r).loading = some m → s.ecc = [] → m.failed = false → s.recordWaits c m = false →
  let g := s.region c r
  (∀ s1 w, s.readImage c r m.a m.b = (s1, .ok (.error w)) → Completes (.reelLoadComplete c r) s fun t =>
    t.region c r = { g with loading := none, lastst := 3, loadrep := w } ∧ m ∉ (t.slot c).cmdq) ∧
  (∀ s1 im, s.readImage c r m.a m.b = (s1, .ok (.ok im)) → Completes (.reelLoadComplete c r) s fun t =>
    t.region c r = { g with loading := none, lastst := 0, loadrep := 0, next := .loaded, nextHdr := im.hdr } ∧ m ∉ (t.slot c).cmdq)) ∧
  (∀ (s : State) (c : CpId) (m : Cmd) (x : Reg) (j : BitVec 4), (s.slot c).status = 0x01 → (s.slot c).cmdq = [m] → m.failed = false →
  s.recordParked c m = false → RecRoom s c.core → (s.cp c).run = .running → (s.cp c).trigged = none → (s.slot c).launch = none →
  let does (p : State → Prop) : Prop := Completes (.commandQueueAdvance c) s p
  let fails (cause : BitVec 8) (v : Word) : Prop := does fun t => (t.slot c).cmdq = [] ∧
    ∃ d ∈ (t.cp c).dtraps, d.order = m.order ∧ d.cause = cause ∧ d.tval = v ∧ d.fpc = m.pc
  (∀ gather : Bool, m.i = (if gather then .cpyg x else .cpy x) →
    (8 ≤ (s.slot c).copyq.length → does fun t => t = s) ∧
    ((s.slot c).copyq.length < 8 → (∀ u e, s.readVirt c m.a 64 = (u, .error e) → fails e.1 e.2.1) ∧ ∀ u b, s.readVirt c m.a 64 = (u, .ok b) →
      let ctr := fld64 b 0x18
      let stage := (s.slot c).stages.get (ix16 (BitVec.ofNat 4 (fld b 0x16 1)))
      let joins (g : Option Stage) (pa : Option (Word × PAddr)) : Prop := does fun t => (t.slot c).cmdq = [] ∧
        (t.slot c).copyq = (s.slot c).copyq ++ [copyJob m gather b g pa]
      (copyFieldsOk gather b = false → fails 0x09 m.a) ∧
      (copyFieldsOk gather b = true → (fld b 0x14 1).testBit 2 = true → (stage = none → fails 0x09 m.a) ∧ (stage ≠ none → joins stage none)) ∧
      (copyFieldsOk gather b = true → (fld b 0x14 1).testBit 2 = false → (ctr = 0 → joins none none) ∧
        (ctr ≠ 0 → (∀ pa, u.counterPlace c ctr true = .ok pa → joins none (some (ctr, pa))) ∧ ∀ e, u.counterPlace c ctr true = .error e → fails e ctr)))) ∧
  (m.i = .stgdef x j → (∀ u e, s.readVirt c m.a 32 = (u, .error e) → fails e.1 e.2.1) ∧ ∀ u b, s.readVirt c m.a 32 = (u, .ok b) →
    let ok := stageFieldsOk ((s.core c.core).sceneShare c.slot).2 b
    let f := u.counterPlace c (fld64 b 0x10) true
    let z := u.counterPlace c (fld64 b 0x18) true
    (ok = false ∨ (∃ e, f = .error e) ∨ (∃ e, z = .error e) → fails 0x09 m.a) ∧
    (∀ fp zp, ok = true → f = .ok fp → z = .ok zp → does fun t => (t.slot c).cmdq = [] ∧ ∃ g : Stage, (t.slot c).stages = vmod (s.slot c).stages (ix16 j) (fun _ => some g) ∧
      g.base = fld b 0 8 ∧ g.slen = fld b 8 4 ∧ g.n = fld b 0x0C 2 ∧ g.fill = fp ∧ g.rel = zp))) ∧
  (∀ (s : State) (c : CpId) (j : CopyJob) (rest : List CopyJob) (r : CopyRun) (a : Word) (k : Fin 256) (o : Nat),
  (s.slot c).status = 0x01 → s.copyRecWaits c = false →
  ((s.slot c).copying = none → (s.slot c).copyq = j :: rest → j.gather = false → j.ssurf = false → j.dsurf = false → j.stage = none →
    (s.slot c).declared false j.dst j.len = false → (s.slot c).declared true j.src j.len = false → Completes (.copyStart c) s fun t =>
      (t.slot c).copyq = rest ∧ ∃ run, (t.slot c).copying = some run ∧ run.job = j ∧ run.unit = 0 ∧ run.srcBase = j.src ∧ run.dstBase = j.dst) ∧
  (MemoryCanonical s → s.ecc = [] → (s.slot c).copying = some r → r.job.len ≤ 32 * r.unit → r.job.dsurf = false → r.job.stage = none → r.job.ctr = some (a, ⟨.loc k, o⟩) →
    s.addsOf c .engine s.ids = false → (s.cp c).trigged = none → (s.slot c).launch = none → Completes (.copyComplete c) s fun t => (t.slot c).copying = none ∧
      t.wordAt ⟨.loc k, o⟩ = s.wordAt ⟨.loc k, o⟩ + r.job.inc ∧ OnlyBytes ⟨.loc k, o⟩ 8 s t))

/-- R251: spat reads its record at issue and writes the pattern slot with its 64 bytes.
R264: stgrel raises the released count of a defined stage to the value plus one, and does nothing for an undefined one; it waits for the accesses
before it. A count whose unit another partition owns by then refuses it with PROTECT (R318, entry 41). -/
def Obligations.PatternAndStage : Prop :=
  (∀ (s : State) (a : Reg) (k : BitVec 4) (ps : List PAddr), s.record (s.reg a) 64 64 false = .ok ps → (∀ p ∈ ps, s.parkedBlock p = false) →
  CanIssue s [a] false → Completes (.spat a k) s fun t => OutsideCore s.cur s t ∧ SameBytes s t ∧ t.pc = s.pc + 4 ∧
    (t.slot s.cur).patterns = vmod (s.slot s.cur).patterns (ix16 k) (fun _ => BitVec.ofNat 512 (leNat (ps.flatMap fun p => s.bytesAt p 16))) ∧
    OnlyRegs (s.cp s.cur) (t.cp s.cur)) ∧
  (∀ (s : State) (a : Reg) (j : BitVec 4) (g : Stage), MemoryCanonical s → CanIssue s [a] false →
  (s.accessesDone s.cur = true → (s.slot s.cur).stages.get (ix16 j) = some g → s.ownerOk s.myPart g.rel true = false → (s.cp s.cur).handler = false →
    Traps (.stgrel a j) s 0x06 g.relVa s.pc) ∧
  (s.accessesDone s.cur = true → (s.slot s.cur).stages.get (ix16 j) = some g → s.ownerOk s.myPart g.rel true = true →
    s.surfaceOf s.myPart g.relVa = none → Completes (.stgrel a j) s fun t => t.pc = s.pc + 4 ∧
    t.wordAt g.rel = BitVec.ofNat 64 (Max.max (s.wordAt g.rel).toNat (s.reg a + 1).toNat) ∧ OnlyBytes g.rel 8 s t) ∧
  (s.accessesDone s.cur = true → (s.slot s.cur).stages.get (ix16 j) = none → Completes (.stgrel a j) s fun t => OnlyRegisters s t ∧ t.pc = s.pc + 4) ∧
  (s.accessesDone s.cur = false → Waits (.stgrel a j) s))

/-- R265 to R267: sig of a near counter adds at once, of a far one it posts an add, whose arrival adds to the counter; with accesses before it unperformed
it waits. A counter that is not aligned traps MISALIGNED. An add whose partition has been torn down is dropped with a PROTECT record at its sender (R266,
R299); that one whose partition lives and owns the counter's memory no more is dropped so too is the model's reading (entry 41).
R265, R268: waitge goes on once it observes its counter at or above the target, unsigned, and holds the CP until then; the slot's older accesses to the
counter go first (R277).
R186, R269: pub without a counter inverts SEL, bit 32 of the word at offset 0x10 of the surface record, and changes no other byte. -/
def Obligations.Counters : Prop :=
  (∀ (s : State) (a b : Reg) (z : BitVec 3) (pa : PAddr), MemoryCanonical s →
  (CanIssue s [a, b] false → s.counterPlace s.cur (s.reg a) true = .ok pa → s.accessesDone s.cur = true →
    ((∃ k, pa.space = .loc k ∨ pa.space = .scene k) → Completes (.sig a b z) s fun t => t.pc = s.pc + 4 ∧
      t.wordAt pa = s.wordAt pa + s.reg b ∧ OnlyBytes pa 8 s t ∧ OnlyRegs (s.cp s.cur) (t.cp s.cur)) ∧
    ((∀ k, pa.space ≠ .loc k ∧ pa.space ≠ .scene k) → Completes (.sig a b z) s fun t => t.pc = s.pc + 4 ∧ SameBytes s t ∧
      ∃ x : CtrAdd, t.adds = s.adds ++ [x] ∧ x.pa = pa ∧ x.inc = s.reg b ∧ x.sender = s.cur ∧ x.part = s.myPart)) ∧
  (CanIssue s [a, b] false → s.counterPlace s.cur (s.reg a) true = .ok pa → s.accessesDone s.cur = false → Waits (.sig a b z) s) ∧
  (CanIssue s [a, b] false → (s.cp s.cur).handler = false → (s.reg a).toNat % 8 ≠ 0 → Traps (.sig a b z) s 0x02 (s.reg a) s.pc) ∧
  (∀ x : CtrAdd, s.adds.find? (fun y => y.id == x.id) = some x → s.addWaits x = false → x.refused = false →
    let gone := s.adds.filter fun y => y.id != x.id
    let allowed : Prop := (s.part x.part).live = true ∧ (s.part x.part).gen = x.gen ∧ s.ownerOk x.part x.pa true = true
    (allowed → s.ecc = [] → s.surfaceOf x.part x.vaddr = none → Completes (.counterAddArrive x.id) s fun t =>
      t.adds = gone ∧ t.wordAt x.pa = s.wordAt x.pa + x.inc ∧ OnlyBytes x.pa 8 s t) ∧
    (¬ allowed → RecRoom s x.sender.core → Completes (.counterAddArrive x.id) s fun t => t.adds = gone ∧ SameBytes s t ∧
      ∃ f : FaultRec, (t.core x.sender.core).recq = (s.core x.sender.core).recq ++ [f] ∧ f.extractLsb' 0 16 = 0x0606 ∧ f.extractLsb' 64 64 = x.wid ∧
        f.extractLsb' 128 64 = x.vaddr))) ∧
  (∀ (s : State) (a b : Reg) (z : BitVec 3) (pa : PAddr), CanIssue s [a, b] false →
  s.counterPlace s.cur (s.reg a) false = .ok pa → s.olderAccess s.cur s.ids pa 8 = false → s.parkedBlock pa = false →
  ((s.reg b).toNat ≤ (s.wordAt pa).toNat → Completes (.waitge a b z) s fun t => OnlyRegisters s t ∧ t.pc = s.pc + 4 ∧ ∀ r, t.reg r = s.reg r) ∧
  ((s.wordAt pa).toNat < (s.reg b).toNat → Waits (.waitge a b z) s)) ∧
  (∀ (s : State) (a : Reg) (n : BitVec 7) (z : BitVec 3) (ps : List PAddr) (pa : PAddr), MemoryCanonical s → CanIssue s [a, 0] false →
  s.record (s.reg a) 32 32 true = .ok ps → ps[1]? = some pa → s.accessesDone s.cur = true → s.surfaceOf s.myPart (s.reg a + 0x10) = none → Completes (.pub a 0 n z) s fun t => t.pc = s.pc + 4 ∧
    t.wordAt pa = s.wordAt pa ^^^ 0x100000000 ∧ OnlyBytes pa 8 s t ∧ OnlyRegs (s.cp s.cur) (t.cp s.cur))

/-- R270, R271: bind enters its range under its counter in the partition's list when the range can be bound and meets no other; unbind removes the binding of a
base. A range that is no multiple of 64 bytes traps MISALIGNED, and one that meets a binding traps PROTECT.
R274: tinv removes the cached translations and instruction lines of the core, whichever slot they were taken for, and its edge TLB entries that overlap its
range, keeps those that do not, and changes no byte and no register. -/
def Obligations.BindAndInvalidate : Prop :=
  (∀ (s : State) (x a b : Reg),
  let base := s.reg a
  let len := s.reg b
  let binds := (s.part s.myPart).binds
  let frame (t : State) : Prop := SameBytes s t ∧ OnlyRegs (s.cp s.cur) (t.cp s.cur) ∧ t.pc = s.pc + 4 ∧ ∀ r, t.reg r = s.reg r
  let meets : Prop := ∃ y ∈ binds, y.2.1.toNat < base.toNat + len.toNat ∧ base.toNat < y.2.1.toNat + y.2.2.toNat
  (CanIssue s [x, a, b] false → base.toNat % 64 = 0 → len.toNat % 64 = 0 → 64 ≤ len.toNat →
    s.rangeBindable s.myPart (len.toNat / 65536 + 2) base len.toNat = .ok () → (∃ pa, s.counterPlace s.cur (s.reg x) false = .ok pa) →
    (¬ meets → binds.length < 1024 → Completes (.bind x a b) s fun t => frame t ∧ (t.part s.myPart).binds = binds ++ [(s.reg x, base, len)]) ∧
    (meets → (s.cp s.cur).handler = false → Traps (.bind x a b) s 0x06 base s.pc)) ∧
  (CanIssue s [x, a, b] false → (s.cp s.cur).handler = false → base.toNat % 64 ≠ 0 → Traps (.bind x a b) s 0x02 base s.pc) ∧
  (CanIssue s [a] false → Completes (.unbind a) s fun t => frame t ∧ (t.part s.myPart).binds = binds.filter fun y => y.2.1 != base)) ∧
  (∀ (s : State) (a b : Reg), CanIssue s [a, b] false → Completes (.tinv a b) s fun t =>
  let base := (s.reg a).toNat
  let top := Min.min (base + (s.reg b).toNat) (2 ^ 64)
  let outside (a n : Nat) : Prop := base = top ∨ a + n ≤ base ∨ top ≤ a
  let keep (e : TlbEntry) : Prop := e.part ≠ s.myPart ∨ outside e.page.va e.page.size
  SameBytes s t ∧ t.pc = s.pc + 4 ∧ (∀ r, t.reg r = s.reg r) ∧
  (∀ c ∈ [s.cur, otherSlot s.cur], (∀ e, e ∈ (t.cp c).ftc ↔ e ∈ (s.cp c).ftc ∧ keep e) ∧
    ∀ l, l ∈ (t.cp c).icache ↔ l ∈ (s.cp c).icache ∧ (l.part ≠ s.myPart ∨ outside (64 * l.line) 64)) ∧
  ∀ e, e ∈ (t.core s.cur.core).edgeTlb ↔ e ∈ (s.core s.cur.core).edgeTlb ∧ keep e)

/-- R272: trig is noted once, with the number of its accesses' order, and changes no byte and no register of a task without a launch.
R273, R337: launch copies its slate into the queue's next entry and advances TAIL; a queue that is not the partition's, not open to launches or not
enabled traps PROTECT, and a full one holds the CP. -/
def Obligations.TriggerAndLaunch : Prop :=
  (∀ (s : State), CanIssue s [] false → (s.slot s.cur).launch = none → Completes .trig s fun t =>
  SameBytes s t ∧ t.pc = s.pc + 4 ∧ (∀ r, t.reg r = s.reg r) ∧ t.launches = s.launches ∧
  (t.cp s.cur).trigged = some ((s.cp s.cur).trigged.getD s.ids)) ∧
  (∀ (s : State) (a b : Reg) (ps : List PAddr), CanIssue s [a, b] false → s.record (s.reg a) 64 64 false = .ok ps → (∀ p ∈ ps, s.parkedBlock p = false) →
  let q := (s.reg b).toNat
  let w := s.wq q
  let open' : Prop := q < 4096 ∧ w.part = s.myPart ∧ w.cfg.getLsbD 24 = true ∧ w.enabled = true
  (open' → s.accessesDone s.cur = true → (w.tail - w.head).toNat < 2 ^ (w.cfg.toNat % 32) → Completes (.launch a b) s fun t => t.pc = s.pc + 4 ∧
    (∀ r, t.reg r = s.reg r) ∧ (t.wq q).tail = w.tail + 1 ∧ (t.wq q).head = w.head ∧
    (∀ pa, MemoryCanonical s → s.translate w.part (w.base + BitVec.ofNat 64 (64 * (w.tail.toNat % 2 ^ (w.cfg.toNat % 32)))) true = .ok pa →
      s.surfaceOf s.myPart (w.base + BitVec.ofNat 64 (64 * (w.tail.toNat % 2 ^ (w.cfg.toNat % 32)))) = none → t.bytesAt pa 64 = ps.flatMap (fun p => s.bytesAt p 16) ∧ OnlyBytes pa 64 s t)) ∧
  (open' → 2 ^ (w.cfg.toNat % 32) ≤ (w.tail - w.head).toNat → Waits (.launch a b) s) ∧
  (¬ open' → (s.cp s.cur).handler = false → Traps (.launch a b) s 0x06 (s.reg b) s.pc))

/-- R328, R329: cbar.arr notes the barrier's generation for the slot and arrives; the last of its participants clears the count and advances the generation.
cbar.wait goes on once the generation has moved, and holds the CP until then, whatever a write of CBARCFG makes of the barrier meanwhile. A barrier of another
partition or without participants traps PROTECT.
R323, R324: cpeer with V = 1 and a core of the task's partition binds the descriptor with the peer region's running take, or its next one; with 0 it ends the
binding at once. With V = 1 the instruction asks first, and binds when the answer is there; how long that takes is a free value (entry 4). Reserved bits, a bit
beside V = 0 and a core of another partition trap PROTECT. -/
def Obligations.BarriersAndPeers : Prop :=
  (∀ (s : State) (b : BitVec 4), CanIssue s [] false →
  let u := clusterOf s.cur.core
  let k := s.cluster u
  let i : Fin 16 := ix16 b
  let n := (k.barN.get i).toNat
  let mine : Prop := 1 ≤ n ∧ n ≤ 16 ∧ k.barPart.get i = s.myPart
  let frame (t : State) : Prop := SameBytes s t ∧ t.pc = s.pc + 4 ∧ ∀ r, t.reg r = s.reg r
  (mine → s.accessesDone s.cur = true → Completes (.cbarArr b) s fun t => frame t ∧
    (t.slot s.cur).barPend.get i = true ∧ (t.slot s.cur).barAph.get i = k.barGen.get i ∧
    (k.barArr.get i + 1 < n → (t.cluster u).barArr.get i = k.barArr.get i + 1 ∧ (t.cluster u).barGen.get i = k.barGen.get i) ∧
    (n ≤ k.barArr.get i + 1 → (t.cluster u).barArr.get i = 0 ∧ (t.cluster u).barGen.get i = k.barGen.get i + 1)) ∧
  let holds : Prop := (s.cp s.cur).waitFor = true
  (mine ∨ holds → (s.slot s.cur).barPend.get i = true → k.barGen.get i ≠ (s.slot s.cur).barAph.get i →
    Completes (.cbarWait b) s fun t => frame t ∧ (t.slot s.cur).barPend.get i = false) ∧
  (mine ∨ holds → (s.slot s.cur).barPend.get i = true → k.barGen.get i = (s.slot s.cur).barAph.get i →
    Completes (.cbarWait b) s fun t => OnlyCp s.cur s t ∧ SameBytes s t ∧ t.cp s.cur = { s.cp s.cur with waitFor := true }) ∧
  (mine → (s.slot s.cur).barPend.get i = false → Completes (.cbarWait b) s frame) ∧
  (¬ mine → (s.cp s.cur).handler = false → Traps (.cbarArr b) s 0x06 (BitVec.ofNat 64 b.toNat) s.pc ∧
    (¬ holds → Traps (.cbarWait b) s 0x06 (BitVec.ofNat 64 b.toNat) s.pc))) ∧
  (∀ (s : State) (a : Reg) (p : BitVec 3), CanIssue s [a] false →
  let d := s.reg a
  let peer : CpId := ⟨coreOf (dieOf s.cur.core) ⟨d.toNat / 8 % 8, by omega⟩ ⟨d.toNat % 8, by omega⟩, ⟨d.toNat / 256 % 2, by omega⟩⟩
  let reserved : Prop := d &&& 0xFFFFFFFF600CCEC0 ≠ 0
  let g := s.region peer ⟨d.toNat / 4096 % 4, by omega⟩
  let here (t : State) : Option PeerBind := (t.slot s.cur).peers.get (ix8 p)
  let frame (t : State) : Prop := SameBytes s t ∧ t.pc = s.pc + 4 ∧ ∀ r, t.reg r = s.reg r
  (d = 0 → Completes (.cpeer a p) s fun t => frame t ∧ here t = none) ∧
  (d.getLsbD 31 = true → ¬ reserved → s.coreOfPart peer.core s.myPart = true → (s.slot peer).status = 0x01 → (s.slot peer).part = s.myPart →
    (s.core peer.core).cquar = false → ((s.cp s.cur).asked = false → AsksFirst (.cpeer a p) s) ∧ ((s.cp s.cur).asked = true → Completes (.cpeer a p) s fun t => frame t ∧
      (t.cp s.cur).asked = false ∧ here t = some ⟨BitVec.ofNat 32 d.toNat, if g.on = .running ∨ g.on = .draining then g.takeSeq else g.takeSeq + 1⟩)) ∧
  (reserved ∨ (d.getLsbD 31 = false ∧ d ≠ 0) ∨ (d.getLsbD 31 = true ∧ s.coreOfPart peer.core s.myPart = false) → (s.cp s.cur).handler = false →
    Traps (.cpeer a p) s 0x06 d s.pc))

/-- R158, R320, R325 to R327: a tile whose checks pass is added, lane by lane, to its accumulator of an element that holds a bank, and leaves: an integer one
saturates, an FP32 one rounds each sum once to nearest even. One whose peer slot holds no task is dropped with a DROP record at the sender, or waits, refused, until
the record has entered the full queue there (R303), and leaves then. -/
def Obligations.TileArrive : Prop := ∀ (s : State) (x : Tile), s.tiles.find? (fun t => t.id == x.id) = some x → s.ecc = [] →
  (∀ y ∈ s.tiles, ¬ (y.ordered x = true ∧ y.before x = true)) →
  (∀ e, x.refused = none → s.tileTarget x = .ok e → Completes (.tileArrive x.id) s fun t => t.tiles = s.tiles.filter (fun y => y.id != x.id) ∧ SameBytes s t ∧
    (x.int = false → ∀ l : Fin 8, ((t.elem x.peer e).acc.get (descAcc x.desc)).get l = BitVec.ofNat 32 (fp32.rne (XVal.sumExact false
      [fp32.exact (((s.elem x.peer e).acc.get (descAcc x.desc)).get l).toNat, fp32.exact (x.lanes.get l).toNat]))) ∧
    (x.int = true → ∀ l : Fin 8, ((t.elem x.peer e).acc.get (descAcc x.desc)).get l =
      BitVec.ofInt 32 (Max.max (-2147483648) (Min.min 2147483647 ((((s.elem x.peer e).acc.get (descAcc x.desc)).get l).toInt + (x.lanes.get l).toInt))))) ∧
  ((s.slot x.peer).status = 0x00 → x.refused = none → RecRoom s x.sender.core → Completes (.tileArrive x.id) s fun t =>
    t.tiles = s.tiles.filter (fun y => y.id != x.id) ∧ ∃ f : FaultRec, (t.core x.sender.core).recq = (s.core x.sender.core).recq ++ [f] ∧ f.extractLsb' 0 8 = 0x12) ∧
  ((s.slot x.peer).status = 0x00 → x.refused = none → 4 ≤ (s.core x.sender.core).recq.length → Completes (.tileArrive x.id) s fun t =>
    t.tiles = s.tiles.map (fun y => if y.id = x.id then { y with refused := some .absent } else y) ∧ (t.core x.sender.core).recq = (s.core x.sender.core).recq ∧
    ∃ w : RecWait, (t.core x.sender.core).recWait = (s.core x.sender.core).recWait ++ [w] ∧ w.key = .job x.id ∧ w.bits.isSome = true) ∧
  (x.refused.isSome = true → s.recWaits x.sender.core (.job x.id) = false → Completes (.tileArrive x.id) s fun t =>
    t.tiles = s.tiles.filter (fun y => y.id != x.id) ∧ SameBytes s t ∧ (t.core x.sender.core).recq = (s.core x.sender.core).recq)

/-- R366, R375, R377: kvapp appends the IDs of its token record to a live sequence of the partition and answers a handle; within a block that has begun no page is
taken, T grows by the number of IDs and the handle names the block of the last ID. A stale handle traps PROTECT. That the chiplet acts in the issue cycle, while the
answer comes after a free time, is the model's choice (entry 4).
R374: a CP that is held takes the answer by a write of its register, and goes on. -/
def Obligations.KvAppend : Prop := ∀ (s : State) (x a b : Reg) (ps : List PAddr) (q : KvSeq) (ids : List W32), CanIssue s [a, b, x] false →
  s.record (s.reg b) 64 128 false = .ok ps → (∀ p ∈ ps, s.parkedBlock p = false) →
  let k := hdlChip (s.reg a)
  let r := ps.flatMap fun p => s.bytesAt p 16
  (s.seqOf s.myPart (s.reg a) = some q → tokenIds r = some ids →
    (∀ v fresh, s.takeBlocks k q.pool (blocksNeeded q.t ids.length) = some (v, fresh) → Completes (.kvapp x a b) s fun t =>
      Answered (some (x, (v.append k q fresh ids).2)) s t ∧ SameBytes v t ∧ t.chiplets = (v.append k q fresh ids).1.chiplets) ∧
    ((s.chiplet k).seqs = [q] → q.t % 16 ≠ 0 → q.t % 16 + ids.length ≤ 16 → Completes (.kvapp x a b) s fun t =>
      (t.chiplet k).seqs = [{ q with t := q.t + ids.length }] ∧ (t.chiplet k).free = (s.chiplet k).free ∧
      (∀ y bid, q.blocks[q.t / 16]? = some bid → (s.chiplet k).blocks = [y] → y.id = bid →
        ∃ h, Answered (some (x, h)) s t ∧ h.toNat % 16 = (q.t + ids.length - 1) % 16))) ∧
  (s.seqOf s.myPart (s.reg a) = none → (s.cp s.cur).handler = false → TrapsByAnswer (.kvapp x a b) s 0x06 (s.reg a)) ∧
  (∀ v, (s.cp s.cur).answer = some (x, v) → (s.takeAnswer.cp s.cur).answerDue = false ∧ (s.takeAnswer.cp s.cur).answer = none ∧
    s.takeAnswer.reg x = (if x = 0 then 0 else v) ∧ (∀ g, g ≠ x → s.takeAnswer.reg g = s.reg g) ∧ s.takeAnswer.pc = s.pc)

/-- R367, R375, R378 to R380: kvlook answers how many leading blocks of its prefix the partition has sealed, and a new sequence with exactly those and T sixteen
times as many; kvfork answers a new sequence with the first blocks of another; kvrel ends a sequence, whose handle is stale from then on. The chiplet's act in the
issue cycle is the model's choice (entry 4), and so are the 32 bytes of the prefix record and the alignment of its IDs (entry 33). -/
def Obligations.KvSequences : Prop := ∀ (s : State) (x a b : Reg) (ps ip : List PAddr) (q : KvSeq) (e : Nat × BitVec 26) (k' : Fin 2),
  let h := s.reg a
  let k := hdlChip h
  let n := (s.reg b).toNat
  let made (t : State) (k : Fin 2) (pool : BitVec 6) (tt : Nat) (hd : Word) : Prop :=
    ∃ y ∈ (t.chiplet k).seqs, y.live = true ∧ y.part = s.myPart ∧ y.pool = pool ∧ y.t = tt ∧ seqHandle k y = hd
  (∀ r, r = ps.flatMap (fun p => s.bytesAt p 16) → CanIssue s [a, b, x] false → s.record h 64 32 true = .ok ps → (∀ p ∈ ps ++ ip, s.parkedBlock p = false) → fld64 r 8 >>> 6 = 0 → n ≤ 65536 →
    s.poolChip s.myPart ((fld64 r 8).setWidth 6) = some k' → (fld64 r 0x10).toNat % 4 = 0 → s.places s.cur false 4 (16 * n) (fld64 r 0x10) = .ok ip →
    (s.chiplet k').freeEntry = some e → MemoryCanonical s → s.surfaceOf s.myPart h = none → Completes (.kvlook x a b) s fun t =>
      let m := (s.chiplet k').matches s.myPart ((fld64 r 8).setWidth 6) (ip.flatMap fun p => s.bytesAt p 4) n 0 0
      Answered (some (x, BitVec.ofNat 64 m.length)) s t ∧
      made t k' ((fld64 r 8).setWidth 6) (16 * m.length) (t.wordAt (ps.headD default)) ∧ OnlyBytes (ps.headD default) 8 s t) ∧
  (CanIssue s [a, b, x] false → s.seqOf s.myPart h = some q → n ≤ q.blocks.length → (s.chiplet k).freeEntry = some e →
    (∀ i ∈ q.blocks.take n, ∃ y, (s.chiplet k).block i = some y ∧ y.isSealed (poolLayers ((s.chiplet k).pool q.pool)) = true) →
    Completes (.kvfork x a b) s fun t => ∃ v, Answered (some (x, v)) s t ∧ SameBytes s t ∧ made t k q.pool (if n = q.blocks.length then q.t else 16 * n) v) ∧
  (CanIssue s [a] false → s.seqOf s.myPart h = some q → Completes (.kvrel a) s fun t => Answered none s t ∧ SameBytes s t ∧
    ∀ y ∈ (t.chiplet k).seqs, y.index = q.index → y.live = false) ∧
  (CanIssue s [a] false → s.seqOf s.myPart h = none → (s.cp s.cur).handler = false → TrapsByAnswer (.kvrel a) s 0x06 h)

/-- R384, R396, R397: mload installs a program that keeps every rule on both chiplets in the partition's slot, and one that breaks a rule leaves the slots alone
and makes a FORMAT trap due, its report staying at the chiplet while the record queue is full (R303); the four mstat forms answer the counts of the record's call in flight, or those in the record. The
chiplet's act in the issue cycle is the model's choice (entry 4). -/
def Obligations.MaskInstructions : Prop := ∀ (s : State) (x a : Reg) (k : BitVec 4) (ps : List PAddr) (r : List Byte),
  r = ps.flatMap (fun p => s.bytesAt p 16) → s.record (s.reg a) 64 128 false = .ok ps → (∀ i, i < 128 → s.parkedBlock (pieceAt ps i) = false) →
  let p := maskProg r
  let free : Prop := (s.slot s.cur).mreport = none
  (CanIssue s [a] false → free → p.walk p.w 0 0 = none → Completes (.mload a k) s fun t => Answered none s t ∧ SameBytes s t ∧
    (t.chiplet 0).mask s.myPart k = some p ∧ (t.chiplet 1).mask s.myPart k = some p ∧
    ∀ (c : Fin 2) pt sl, (pt, sl) ≠ (s.myPart, k) → (t.chiplet c).mask pt sl = (s.chiplet c).mask pt sl) ∧
  (CanIssue s [a] false → free → p.walk p.w 0 0 ≠ none → (s.cp s.cur).run = .running → Completes (.mload a k) s fun t =>
    t.chiplets = s.chiplets ∧ t.pc = s.pc + 4 ∧ (t.cp s.cur).answerDue = true ∧
    (∃ d : DTrap, (t.cp s.cur).dtraps = (s.cp s.cur).dtraps ++ [d] ∧ d.cause = 0x09 ∧ d.fpc = s.pc ∧ t.trapWaits s.cur d = (t.slot s.cur).mreport.isSome) ∧
    (RecRoom s s.cur.core → (t.slot s.cur).mreport = none) ∧
    (4 ≤ (s.core s.cur.core).recq.length → ∃ d : Report, (t.slot s.cur).mreport = some d ∧ d.cause = 0x09 ∧ d.pc = s.pc)) ∧
  (CanIssue s [a] false → ¬ free → Waits (.mload a k) s) ∧
  (∀ n : Nat, n = fld r 2 1 → n = 18 ∨ n = 22 →
    let call := (s.callsOf s.cur (BitVec.ofNat 5 n)).find? fun c => c.recAddr == s.reg a && !c.failed && s.callHere c
    let v (i : Fin 4) : Word := match call with | some c => c.counts.get i | none => BitVec.ofNat 64 (leNat ((r.drop (0x60 + 8 * i.val)).take 8))
    let gets (j : Instr) (i : Fin 4) : Prop := CanIssue s [a, x] false → Completes j s fun t => Answered (some (x, v i)) s t ∧ OnlyCp s.cur s t ∧ SameBytes s t
    gets (.mstatFull x a) 0 ∧ gets (.mstatPart x a) 1 ∧ gets (.mstatEmpty x a) 2 ∧ gets (.mstatSkipb x a) 3)

/-- R366, R376, R381, R382, R395: attn admits a call for a live sequence of the partition with its record, blocks and T, and a window of 16 tokens from what has been accepted (R372); ringset, in handler mode, installs a ring; kvpool, in
handler mode, moves free pages from one pool of the partition to another and writes how many; a KVPOOL register keeps its fields and refuses reserved codes. The
chiplet's act in the issue cycle (entry 4) and the 8 bytes of MOVED (entry 33) are the model's choices. -/
def Obligations.AttentionInstructions : Prop := ∀ (s : State) (a : Reg) (n : BitVec 8) (ps qs : List PAddr) (r m : List Byte) (q : KvSeq) (ch : Fin 2) (pl : BitVec 6) (v : Word),
  r = ps.flatMap (fun p => s.bytesAt p 16) → m = qs.flatMap (fun p => s.bytesAt p 16) →
  let k : Fin 2 := if fld r 2 1 = 18 then 0 else 1
  let c : Fin 2 := if fld r 0 1 % 2 = 1 then 1 else 0
  let open' (l : List PAddr) : Prop := ∀ p ∈ l, s.parkedBlock p = false
  (CanIssue s [a] false → s.record (s.reg a) 64 128 true = .ok ps → open' ps → fld r 2 1 = 18 ∨ fld r 2 1 = 22 → hdlChip (fld64 r 8) = k →
    s.seqOf s.myPart (fld64 r 8) = some q → (s.callsOf s.cur (BitVec.ofNat 5 (fld r 2 1))).length < 64 → Completes (.attn a) s fun t =>
      Answered none s t ∧ SameBytes s t ∧ ∃ y : Call, (t.chiplet k).calls = (s.chiplet k).calls ++ [y] ∧ y.caller = s.cur ∧ y.bytes = r ∧
        y.recAddr = s.reg a ∧ y.blocks = q.blocks ∧ y.t = q.t ∧ y.started = false ∧ y.failed = false ∧ y.part = s.myPart ∧
        ((s.slot s.cur).status = 0x01 →
          let w (u : State) : Channel := ((u.slot s.cur).port (BitVec.ofNat 5 (fld r 2 1))).chan
          w t = { w s with sendEnd := Max.max (w s).sendEnd ((w s).sendSeq - (w s).kept.length + 16) })) ∧
  ((s.cp s.cur).handler = true → CanIssue s [a] false → s.record (s.reg a) 64 16 false = .ok ps → 1 ≤ fld r 2 2 → fld r 2 2 ≤ 64 →
    s.record (s.reg a) 64 (16 + 16 * fld r 2 2) false = .ok qs → open' (ps ++ qs) → disjointRanges ((ringEntries (fld r 2 2) m).filter fun e => !e.skip) = true →
    Completes (.ringset a n) s fun t => Answered none s t ∧ SameBytes s t ∧
      (t.chiplet (chipOf (fld m 0 1))).ring n.toNat = ringEntries (fld r 2 2) m) ∧
  ((s.cp s.cur).handler = true → CanIssue s [a] false → s.record (s.reg a) 32 32 true = .ok ps → open' ps → fld r 1 1 < 64 → fld r 2 1 < 64 → fld r 1 1 ≠ fld r 2 1 →
    (s.chiplet c).owns (BitVec.ofNat 6 (fld r 1 1)) s.myPart = true → (s.chiplet c).owns (BitVec.ofNat 6 (fld r 2 1)) s.myPart = true → MemoryCanonical s →
    s.surfaceOf s.myPart (s.reg a + 8) = none → Completes (.kvpool a) s fun t =>
      let moved := Min.min (fld r 4 4) ((s.chiplet c).freeCount (BitVec.ofNat 6 (fld r 1 1)))
      Answered none s t ∧ t.wordAt (pieceAt ps 8) = BitVec.ofNat 64 moved ∧ OnlyBytes (pieceAt ps 8) 8 s t ∧
      (t.chiplet c).freeCount (BitVec.ofNat 6 (fld r 2 1)) = (s.chiplet c).freeCount (BitVec.ofNat 6 (fld r 2 1)) + moved) ∧
  ((s.cp s.cur).handler = false → ∃ w, Traps (.ringset a n) s 0x06 w s.pc ∧ Traps (.kvpool a) s 0x06 w s.pc) ∧
  (Completes (.kvpoolWrite ch pl v) s fun t => SameBytes s t ∧ (t.chiplet ch).kvpool =
    (if (∃ y ∈ (s.chiplet ch).seqs, y.live = true ∧ y.pool = pl) ∨ v.toNat / 2 ^ 55 % 4 = 3 ∨ v.toNat / 2 ^ 53 % 4 = 3 then (s.chiplet ch).kvpool
     else vmod (s.chiplet ch).kvpool (ix64 pl) fun _ => BitVec.ofNat 64 (v.toNat / 2 ^ 39 * 2 ^ 39)))

/-- R436, R438 to R441: glaunch of a record and a member set that keep the limits asks firmware, and with the answer makes the gang known with its identifier; coll of the
task's gang enters the slot's collectives with its buffers, resolved once (R186), and tells the other members its terms; gstat takes an interlocked entry; a collective of
equal terms sends its input, one whose members' records disagree ends with RESULT FORMAT and a trap, one at a member of which an uncorrectable error arose with RESULT UNCORR,
a record that names the member (R300) and, once data move, each unit of DST old or new, one whose data is in place with RESULT 1, its surface published. How long glaunch
waits is a free value (entry 4); that the input is read at coll's start, and that a gang with an unreachable member aborts with reason 11, are the model's readings (entry 29). -/
def Obligations.GangInstructions : Prop := ∀ (s : State) (d a b : Reg) (ps qs ms : List PAddr) (r h m : List Byte) (g : Gang) (c : CpId) (j : CollJob) (shards : List (List Byte)) (ctr : Option (Word × PAddr)),
  r = ps.flatMap (fun p => s.bytesAt p 16) → h = qs.flatMap (fun p => s.bytesAt p 16) → m = ms.flatMap (fun p => s.bytesAt p 16) →
  let n := fld h 0 4
  let open' (l : List PAddr) : Prop := ∀ p ∈ l, s.parkedBlock p = false
  let counter (v : Word) : Prop := (v = 0 ∧ ctr = none) ∨ (v ≠ 0 ∧ ∃ pa, s.counterPlace s.cur v true = .ok pa ∧ ctr = some (v, pa))
  (CanIssue s [a, b] false → s.record (s.reg a) 64 128 true = .ok ps → s.record (s.reg b) 64 16 false = .ok qs → open' (ps ++ qs ++ ms) → s.accessesDone s.cur = true → 2 ≤ n → n ≤ 4096 →
    s.record (s.reg b) 64 ((8 + 8 * n + 15) / 16 * 16) false = .ok ms → s.gangRecordOk r = true → memberSetOk s.ep n m = true →
    (s.wq ((memberEntries n m).headD default).2.toNat).part = s.myPart → counter (fld64 r 0x58) →
    ((s.cp s.cur).asked = false → AsksFirst (.glaunch a b) s) ∧ ((s.cp s.cur).asked = true → Completes (.glaunch a b) s fun t => t.pc = s.pc + 4 ∧ (t.cp s.cur).asked = false ∧
      ∃ y ∈ t.gangs, ((∃ x ∈ (memberEntries n m).drop 1, s.routeTo x.1 = none) → y.state = .aborted ∧ y.reason = 11) ∧ y.gid = BitVec.ofNat 64 (s.ep.toNat * 2 ^ 44 + fld r 0x40 8) ∧ y.initHere = true ∧ y.part = s.myPart ∧ y.members = memberEntries n m ∧ y.ctr = ctr)) ∧
  (CanIssue s [a, d] true → Completes (.gstat d a) s fun t => OnlyRegisters s t ∧ t.pc = s.pc + 4 ∧ (∀ x, t.reg x = s.reg x) ∧
    ∃ e : LandEntry, (t.cp s.cur).queue = (s.cp s.cur).queue ++ [e] ∧ e.reg = d ∧ e.kind = .interlocked ∧ e.rem = none ∧ e.ask = some (.gang (s.reg a))) ∧
  (∀ src dst own, CanIssue s [a] false → s.record (s.reg a) 64 64 true = .ok ps → open' ps → s.accessesDone s.cur = true → (s.slot s.cur).colls.length < 16 →
    s.gangOf s.cur = some g → g.gid = fld64 r 8 → collOk r g.members.length = true → counter (fld64 r 0x28) →
    (s.collBuffer s.cur (s.reg a) (collSsurf r) false (fld64 r 0x10) (collSrcLen r g.members.length)).2 = .ok src →
    (s.collBuffer s.cur (s.reg a) (collDsurf r) true (fld64 r 0x18) (collDstLen r g.members.length)).2 = .ok dst →
    (s.readVirt s.cur src (collSrcLen r g.members.length)).2 = .ok own → Completes (.coll a) s fun t => t.pc = s.pc + 4 ∧ SameBytes s t ∧
      t.outbox = (s.collTell g (.collTerms g.gid (fld r 4 4) (fld r 0 1) (fld r 1 1) (fld r 0x20 4))).outbox ∧ ∃ y : CollJob, (t.slot s.cur).colls = (s.slot s.cur).colls ++ [y] ∧ y.gid = g.gid ∧
      y.recAddr = s.reg a ∧ y.bytes = r ∧ y.src = src ∧ y.dst = dst ∧ y.own = own ∧ y.ctr = ctr ∧ y.fault = none ∧ y.agreed = false) ∧
  ((s.slot c).colls.find? (fun y => y.id == j.id) = some j → s.gang j.gid = some g → j.fault = none → MemoryCanonical s → s.surfaceOf (s.slot c).part (j.recAddr + 0x38) = none →
    let n := g.members.length
    let left (u t : State) : Prop := (t.slot c).colls = (u.slot c).colls.filter fun y => y.id != j.id
    let reported (cause : Nat) (t : State) : Prop := ∃ f : FaultRec, (t.core c.core).recq = (s.core c.core).recq ++ [f] ∧ f.extractLsb' 0 8 = BitVec.ofNat 8 cause ∧
      f.extractLsb' 192 64 = j.pc ∧ (cause = 7 → f.extractLsb' 384 12 = 0 ∧ f.getLsbD 447 = true)
    let new := collResult j.bytes ((List.range g.members.length).map fun k => if k = g.midx then j.own else (shards[k]?).getD []) g.members.length g.midx
    (∀ l, j.agreed = false → l.length + 1 = n → (∀ x ∈ l, x = (fld j.bytes 0 1, fld j.bytes 1 1, fld j.bytes 0x20 4)) →
      Completes (.collComplete c j.id shards (.terms l)) s fun t => SameBytes s t ∧ t.outbox = (s.collTell g (.collShard g.gid (fld j.bytes 4 4) j.own)).outbox ∧
      (t.slot c).colls = (s.slot c).colls.map fun y => if y.id = j.id then { y with agreed := true } else y) ∧
    (∀ l, j.agreed = false → l.length + 1 = n → (∃ x ∈ l, x ≠ (fld j.bytes 0 1, fld j.bytes 1 1, fld j.bytes 0x20 4)) → RecRoom s c.core →
      Completes (.collComplete c j.id shards (.terms l)) s fun t => left s t ∧ reported 9 t ∧ t.outbox = s.outbox ∧
      t.wordAt j.result = 2 + 256 * 9 ∧ OnlyBytes j.result 8 s t) ∧
    (j.agreed = false → Completes (.collComplete c j.id shards .data) s fun t => t = s) ∧
    (∀ k, k < 4096 → RecRoom s c.core → j.agreed = false → Completes (.collComplete c j.id shards (.failed k)) s fun t => left s t ∧ reported 7 t ∧
      t.wordAt j.result = 2 + 256 * 7 ∧ OnlyBytes j.result 8 s t) ∧
    (∀ k old s4, k < 4096 → RecRoom s c.core → j.agreed = true → s.ecc = [] → (s.readVirt c j.dst (collDstLen j.bytes g.members.length)).2 = .ok old →
      s.writeVirt c j.dst (collMix s.fresh old new) = .ok s4 → s4.ecc = [] → MemoryCanonical s4 →
      Completes (.collComplete c j.id shards (.failed k)) s fun t => left s t ∧ reported 7 t ∧
      t.wordAt j.result = 2 + 256 * 7 ∧ OnlyBytes j.result 8 s4 t ∧ ∀ f ∈ (t.core c.core).recq.drop (s.core c.core).recq.length, f.extractLsb' 416 12 = BitVec.ofNat 12 k) ∧
    (∀ s4, s.writeVirt c j.dst new = .ok s4 → j.agreed = true →
      j.ctr = none → s4.ecc = [] → MemoryCanonical s4 →
      (collDsurf j.bytes = false → Completes (.collComplete c j.id shards .data) s fun t => t.wordAt j.result = 1 ∧ OnlyBytes j.result 8 s4 t ∧ left s4 t) ∧
      (∀ pa, collDsurf j.bytes = true → s4.place c (fld64 j.bytes 0x18 + 0x10) 8 true = .ok pa → (∀ q, Covers pa 8 q → ¬ Covers j.result 8 q) →
        s.surfaceOf (s.slot c).part (fld64 j.bytes 0x18 + 0x10) = none → Completes (.collComplete c j.id shards .data) s fun t => t.wordAt j.result = 1 ∧ t.wordAt pa = s4.wordAt pa ^^^ 0x100000000 ∧ left s4 t)))

/-- R421 to R424, R442, R443: a lane failure takes a lane and, below four, the port; a rekey begins a new epoch; a link that goes down carries nothing more; a third heartbeat
missed in a row stops a gang with a member beyond the link; a flit whose tag fails changes nothing but the counts and asks for a replay, the sixteenth in a row taking the link down;
a data or credit flit for another endpoint goes on; a link that is down takes and sends nothing. A port numbers what it sends and keeps it, up to 512 flits, until the peer's LACK
names it; what comes beyond waits, and with the 2^24th flit the link takes a new key and epoch. The flit that goes on as it came, the count of replays at the asking port and
vector 1 at link down are the model's readings (entry 29).
R418, R428, R429: a peer package's access to HBM performs under the owner's tenant key and completes with an error under another, or outside the HBM that exists it stops; a
PTP sync sets the time and, after sixteen good offsets in a row, the lock; an escrow package keeps a ciphertext, and the owner's key goes to an escrow package that has
answered with equal measurements. The stop outside the HBM that exists is entry 18's. -/
def Obligations.FabricLinksAndServices : Prop :=
  (∀ (s : State) (p : Fin 18) (f : Flit) (beyond : List (BitVec 20)),
  let l := s.links.get p
  (s.gangs = [] → Completes (.laneFail p) s fun t => (t.links.get p).lanes = l.lanes - 1 ∧ (t.links.get p).up = (l.up && decide (4 ≤ l.lanes - 1)) ∧ ∀ o, o ≠ p → t.links.get o = s.links.get o) ∧
  (Completes (.linkRekey p) s fun t => (t.links.get p).epoch = l.epoch + 1 ∧ (t.links.get p).sent = 0 ∧ (t.links.get p).key = Config.linkKey s.fresh ∧
    (t.links.get p).lastRecv = l.lastRecv ∧ (t.links.get p).sentLseq = l.sentLseq ∧ (t.links.get p).up = l.up) ∧
  (s.gangs = [] → Completes (.linkDown p beyond) s (fun t => (t.links.get p).up = false ∧ t.outbox = s.outbox ++ [.portDown p, .msix 0 (s.steers 0) 1])) ∧
  (∀ heard, Completes (.heartbeatLoss ⟨p, heard, beyond⟩) s fun t => (s.gangs = [] ∨ heard = true ∨ l.missed ≠ 2 → (t.links.get p).missed = (if heard then 0 else l.missed + 1) ∧ SameBytes s t) ∧
    ∀ g, s.gangs = [g] → heard = false → l.missed = 2 → g.state = .committed ∨ g.state = .confirmed → (∃ m ∈ g.members, m.1 ∈ beyond ∨ (m.1, p) ∈ s.routes) →
      ∃ y, t.gang g.gid = some y ∧ y.state = .stopped) ∧
  (∀ x : OutFlit, let t := s.transmit p x
    (l.up = false → t = s) ∧
    (l.up = true → 512 ≤ l.replayBuf.length → (t.links.get p).queue = l.queue ++ [x] ∧ t.outbox = s.outbox ∧ (t.links.get p).sentLseq = l.sentLseq) ∧
    (l.up = true → l.replayBuf.length < 512 → (t.links.get p).sentLseq = l.sentLseq + 1 ∧ (t.links.get p).replayBuf = l.replayBuf ++ [(l.sentLseq + 1, x)] ∧
      (∃ ct w, t.outbox = s.outbox ++ [.flit p x.hdr ct w x.msg] ∧ w.extractLsb' 0 24 = l.sentLseq + 1 ∧ w.extractLsb' 24 24 = l.lastRecv) ∧
      (t.links.get p).epoch = l.epoch + (if l.sent + 1 < 2 ^ 24 then 0 else 1) ∧ (t.links.get p).sent = (if l.sent + 1 < 2 ^ 24 then l.sent + 1 else 0))) ∧
  (∀ n, l.up = true → f.tagOk = true → f.lseq = l.lastRecv + 1 → f.typ = 3 → l.queue = [] → l.replayBuf.findIdx? (fun y => y.1 == f.lack) = some n →
    Completes (.dataFlit p f) s fun t => (t.links.get p).replayBuf = l.replayBuf.drop (n + 1) ∧ (t.links.get p).lastRecv = f.lseq ∧ t.cores = s.cores) ∧
  (l.up = true → f.tagOk = false → s.gangs = [] →
    let fails (t : State) : Prop := (t.links.get p).errors = l.errors + 1 ∧ t.cores = s.cores ∧ (t.links.get p).lastRecv = l.lastRecv ∧
      (l.replays < 15 → t.outbox = s.outbox ++ [.replay p l.lastRecv] ∧ (t.links.get p).up = true ∧ (t.links.get p).replays = l.replays + 1) ∧
      (15 ≤ l.replays → t.outbox = s.outbox ++ [.portDown p, .msix 0 (s.steers 0) 1] ∧ (t.links.get p).up = false)
    Completes (.dataFlit p f) s fails ∧ Completes (.creditFlit p f) s fails) ∧
  (l.up = true → f.tagOk = true → f.lseq = l.lastRecv + 1 → f.dest ≠ s.ep → f.typ.toNat ≤ 2 →
    let on (t : State) : Prop := t.outbox = ((s.receive p f).1.toFabric f.dest (.transit f)).outbox ∧ (t.links.get p).lastRecv = f.lseq ∧ t.cores = s.cores
    Completes (.dataFlit p f) s on ∧ Completes (.creditFlit p f) s on) ∧
  (l.up = false → Completes (.dataFlit p f) s (fun t => t = s) ∧ Completes (.creditFlit p f) s fun t => t = s)) ∧
  (∀ (s : State) (r : PeerReq) (p : BitVec 5) (off : Int) (gm : Word) (ep : BitVec 20) (ct : List Byte) (ms : List (List Byte)) (g : Fin 94),
  let pa : PAddr := ⟨.hbm r.die, r.off⟩
  (g.val = r.off / 2 ^ 30 → r.off + r.size ≤ 94 * 2 ^ 30 → (s.die r.die).granules.get g = some p →
    (((s.die r.die).ptab.get (ix32 p)).tkdig = r.tkdig → s.ecc = [] → r.data.length = r.size → MemoryCanonical s → Completes (.peerAccess r) s fun t =>
      if r.write then t.bytesAt pa r.size = r.data ∧ OnlyBytes pa r.size s t ∧ t.outbox = (s.toFabric r.ep (.peerDone r.tag true [])).outbox
      else t = s.toFabric r.ep (.peerDone r.tag true (s.bytesAt pa r.size))) ∧
    (((s.die r.die).ptab.get (ix32 p)).tkdig ≠ r.tkdig → Completes (.peerAccess r) s fun t => t = s.toFabric r.ep (.peerDone r.tag false []))) ∧
  (94 * 2 ^ 30 < r.off + r.size → exec (.peerAccess r) s = .fault .noSuchAddress) ∧
  (Completes (.ptpSync off gm) s fun t => t.ftime = 11 * gm.toNat ∧ t.lockCount = (if -20 ≤ off ∧ off ≤ 20 then Min.min 16 (s.lockCount + 1) else 0) ∧
    ∀ d : Fin 4, (t.die d).ftstat.getLsbD 63 = (decide (-100 ≤ off ∧ off ≤ 100) && ((s.die d).ftstat.getLsbD 63 || decide (15 ≤ s.lockCount ∧ -20 ≤ off ∧ off ≤ 20)))) ∧
  (Completes (.escrowHandover ep p ct .store ms) s fun t => (ep, p, ct) ∈ t.escrowed ∧ ∀ x ∈ t.escrowed, x = (ep, p, ct) ∨ x ∈ s.escrowed) ∧
  (Completes (.escrowHandover ep p ct .answer ms) s fun t =>
    if (ep, p) ∈ s.escrowAsks then t.escrowAsks = s.escrowAsks.filter (· != (ep, p)) ∧
      t.outbox = (if ms = (s.bootMeasurements.take 3).map (·.2) then (s.toFabric ep (.escrowKey p (Config.encapsulate ep.toNat (s.part p).key))).outbox else s.outbox)
    else t = s) ∧
  (ms ≠ (s.bootMeasurements.take 3).map (·.2) → Completes (.escrowHandover ep p ct .release ms) s fun t => t = s) ∧
  (∀ gs is, (ep, p) ∉ s.escrowAsks → Completes (.escrowHandover ep p ct (.deliver gs is) ms) s fun t => t = s))

/-- R430 to R435, R442: the protocol of a gang: a member that answers ACK keeps an EMPTY slot for each of its tasks (the model's reading, entry 29); and how PREPARE, ACK, NAK,
CLAPPER, COMMIT-ACK, CONFIRMED, ABORT and STOP and the gang timers move a gang of this package from state to state, that the initiator sends CLAPPER with the last ACK and
CONFIRMED with the last COMMIT-ACK, and that a message for another state changes nothing. -/
def Obligations.GangProtocol : Prop := ∀ (s : State) (m : PrepareMsg) (gid ts : Word) (k : Nat) (why : BitVec 8) (g : Gang) (id : Nat),
  let becomes (i : Instr) (x : GangState) : Prop := Completes i s fun t => ∃ y, t.gang gid = some y ∧ y.state = x
  let stays (i : Instr) : Prop := Completes i s fun t => t = s
  let now := s.ftime / 11
  let open' : Prop := g.state = .preparing ∨ g.state = .ready
  let linked : Prop := g.state = .committed ∨ g.state = .confirmed
  let u : State := { s with gangs := s.gangs.filter (fun y => y.gid != m.gid) ++ [memberGang s m] }
  let v : State := (u.prepareRefusal (memberGang s m).queue m).1
  let dead : Prop := ∀ y ∈ s.gangs, y.gid = m.gid → y.state = .aborted ∨ y.state = .retired
  (dead → m.members ≠ [] → (u.prepareRefusal (memberGang s m).queue m).2 = 0 → Completes (.prepare m) s fun t =>
    (∃ l, t.gang m.gid = some { memberGang s m with state := .ready, slots := l } ∧
      (m.resume = false → l.length = taskCount (fld m.slate 0x10 8) (fld m.slate 0x18 8) ∧ ∀ c ∈ l, (s.slot c).status = 0)) ∧
    t.outbox = (v.toFabric (m.members.headD default).1 (.gang 1 m.gid (BitVec.ofNat 64 m.index))).outbox) ∧
  (dead → m.members ≠ [] → (u.prepareRefusal (memberGang s m).queue m).2 = k + 1 → Completes (.prepare m) s fun t =>
    (∃ y, t.gang m.gid = some y ∧ y.state = .aborted ∧ y.reason = BitVec.ofNat 8 (k + 1)) ∧
    t.outbox = (v.toFabric (m.members.headD default).1 (.gang 2 m.gid (BitVec.ofNat 64 (k + 1)))).outbox) ∧
  (¬ dead → Completes (.prepare m) s fun t => t = s) ∧
  (s.gang gid = some g →
    (g.initHere = true → open' → k ∉ g.acks → k < g.members.length → g.acks.length + 1 < g.members.length → Completes (.ack gid k) s fun t =>
      t.gang gid = some { g with acks := k :: g.acks }) ∧
    (g.initHere = true → g.state = .ready → k ∉ g.acks → k < g.members.length → 2 ≤ g.members.length → g.acks.length + 1 = g.members.length → g.commits = [] →
      now + g.delayNs < 2 ^ 64 → Completes (.ack gid k) s fun t => t.outbox = (s.toMembers g 3 (BitVec.ofNat 64 (now + g.delayNs))).outbox ∧
        ∃ y, t.gang gid = some y ∧ y.state = .committed ∧ y.ts.toNat = now + g.delayNs ∧ y.late = false) ∧
    (g.initHere = true → open' → becomes (.nak gid k why) .aborted) ∧
    (g.initHere = false → g.state = .ready → now ≤ ts.toNat → Completes (.clapper gid ts) s fun t => ∃ y, t.gang gid = some y ∧ y.state = .committed ∧
      y.ts = ts ∧ y.late = false ∧ y.launch = some s.ids) ∧
    (g.state ≠ .ready → stays (.clapper gid ts)) ∧
    (g.initHere = true → g.state = .committed → k ∉ g.commits → k < g.members.length → now < g.ts.toNat + g.wdogNs → g.commits.length + 1 < g.members.length →
      Completes (.commitAck gid k) s fun t => t.gang gid = some { g with commits := k :: g.commits }) ∧
    (g.initHere = true → g.state = .committed → k ∉ g.commits → k < g.members.length → now < g.ts.toNat + g.wdogNs → g.commits.length + 1 = g.members.length →
      g.launch = none → Completes (.commitAck gid k) s fun t => t.outbox = (s.toMembers g 5 0).outbox ∧ ∃ y, t.gang gid = some y ∧ y.state = .confirmed) ∧
    (g.state = .committed → g.launch = none → becomes (.confirmed gid) .confirmed) ∧ (g.state ≠ .committed → stays (.confirmed gid)) ∧
    (open' → becomes (.abort gid why) .aborted) ∧ (¬ open' → stays (.abort gid why)) ∧
    (linked → becomes (.stop gid k) .stopped) ∧ (¬ linked → stays (.stop gid k)) ∧
    (linked → g.started = false → g.ts.toNat ≤ now → g.launch = some id → Completes (.clapperTime gid) s fun t => ∃ y, t.gang gid = some y ∧ y.started = true) ∧
    (now < g.ts.toNat → stays (.clapperTime gid)) ∧
    (g.state = .committed → g.ts.toNat + g.wdogNs ≤ now → becomes (.gangWatchdog gid) .stopped) ∧ (g.state = .confirmed → stays (.gangWatchdog gid)) ∧
    (g.initHere = false → g.state = .ready → g.since + g.wdogNs ≤ now → becomes (.readyTimeout gid) .aborted) ∧
    (now < g.since + g.wdogNs → stays (.readyTimeout gid)) ∧
    (g.initHere = true → open' → g.born + g.wdogNs ≤ now → becomes (.gangReplyTimeout gid) .aborted) ∧ (now < g.born + g.wdogNs → stays (.gangReplyTimeout gid)) ∧
    (g.state = .aborted ∨ g.state = .retired → g.since + 1000000000 ≤ now → Completes (.gangForget gid) s fun t => t.gang gid = none) ∧
    (g.state = .stopped → s.stoppedSlots gid = [] → Completes (.gangForget gid) s fun t => t.gang gid = none) ∧
    (g.state = .stopped → s.stoppedSlots gid ≠ [] → stays (.gangForget gid)) ∧ (g.state = .confirmed → stays (.gangForget gid)))

/-- R73, R107, R108, R111 to R116: a lane instruction of the integer group whose context issues starts one result of latency 1 on its flight, with every lane of the
format, or the one 64-bit lane of the control plane, computed exactly and narrowed: wrapped, or clamped with SAT under the saturate modifier. -/
def Obligations.LaneInteger : Prop := ∀ (s : State) (x : ElemSite) (w : CtxFields), w.fmt.toNat ≤ 2 →
  let sg (n v : Nat) : Int := Int.bmod v (2 ^ n)
  IntegerFlies (.iadd x w) s x w 0x01 (fun n a b _ => sg n a + sg n b) ∧
  IntegerFlies (.isub x w) s x w 0x02 (fun n a b _ => sg n a - sg n b) ∧
  IntegerFlies (.imul x w) s x w 0x03 (fun n a b _ => sg n a * sg n b) ∧
  IntegerFlies (.imad x w) s x w 0x04 (fun n a b c => sg n a * sg n b + sg n c) ∧
  IntegerFlies (.iabs x w) s x w 0x07 (fun n a _ _ => if sg n a < 0 then -sg n a else sg n a) ∧
  (w.mod.getLsbD 0 = false →
    IntegerFlies (.imin x w) s x w 0x05 (fun n a b _ => Min.min (sg n a) (sg n b)) ∧
    IntegerFlies (.imax x w) s x w 0x06 (fun n a b _ => Max.max (sg n a) (sg n b)) ∧
    IntegerFlies (.elemAnd x w) s x w 0x08 (fun _ a b _ => ((a &&& b : Nat) : Int)) ∧
    IntegerFlies (.elemOr x w) s x w 0x09 (fun _ a b _ => ((a ||| b : Nat) : Int)) ∧
    IntegerFlies (.elemXor x w) s x w 0x0A (fun _ a b _ => ((a ^^^ b : Nat) : Int)) ∧
    IntegerFlies (.elemShl x w) s x w 0x0B (fun _ a b _ => ((a * 2 ^ (b % 256) : Nat) : Int)) ∧
    IntegerFlies (.elemShr x w) s x w 0x0C (fun _ a b _ => ((a / 2 ^ (b % 256) : Nat) : Int)) ∧
    IntegerFlies (.sra x w) s x w 0x0D (fun n a b _ => sg n a / ((2 ^ (b % 256) : Nat) : Int)) ∧
    IntegerFlies (.icmp x w) s x w 0x0E (fun n a b _ => if (match w.aux.toNat % 32 with
      | 0 => decide (a = b) | 1 => decide (a ≠ b) | 2 => decide (sg n a < sg n b) | 3 => decide (sg n a ≤ sg n b)
      | 4 => decide (sg n b < sg n a) | 5 => decide (sg n b ≤ sg n a) | 6 => decide (a < b) | 7 => decide (a ≤ b)
      | 8 => decide (b < a) | _ => decide (b ≤ a)) then -1 else 0) ∧
    IntegerFlies (.sel x w) s x w 0x0F (fun _ a b c => if c ≠ 0 then (a : Int) else (b : Int)))

/-- R108, R117 to R123: the float group: an issued context of fadd, fsub, fmul or fma starts one result of latency 3, each lane the rounding of the exact value, a stochastic one by the element's generator; fmin, fmax, which rank -0 below +0 and give A on equal operands, fabs,
fneg and fcmp one of latency 1 on the codes; rcps and rsqs one of latency 4; exp2, act and dact one of latency 6. -/
def Obligations.LaneFloat : Prop := ∀ (s : State) (x : ElemSite) (w : CtxFields),
  let g := fmtF w.fmt
  let n := 256 / g.width
  let a := s.source x w (oneF g) w.srcA
  let b := s.source x w (oneF g) w.srcB
  let c := s.source x w (oneF g) w.srcC
  let rdn := CtxOps.rm w == RMode.rdn
  let sat := w.mod.getLsbD 0
  let flies (i : Instr) (op lat : Nat) (one : W256) (p : Tok → Prop) : Prop :=
    LaneFlies i s x w op lat (one, one, one) fun a _ _ r _ => r.lr = a.lr ∧ r.ls = a.ls ∧ p r
  let sum (l : List XVal) : XVal := XVal.sumExact rdn l
  let rounds (third : Bool) (v : XVal → XVal → XVal → XVal) (tok : Tok) : Prop := DrawsLanes (s.elem x.cp x.elem).lfsr g.width n tok.bits fun j l =>
    let p := (g.exact (lane g.width a.bits j)).negIf (w.mod.getLsbD 7)
    let q := (g.exact (lane g.width b.bits j)).negIf (w.mod.getLsbD 6)
    let r := (g.exact (lane g.width c.bits j)).negIf (w.mod.getLsbD 5)
    g.deliver (CtxOps.rm w) sat l (v p q r) (p.isNan || q.isNan || (third && r.isNan))
  let code (p : Nat → Nat → Nat → Prop) (tok : Tok) : Prop := ∀ j, j < n → p (lane g.width a.bits j) (lane g.width b.bits j) (lane g.width tok.bits j)
  let nan (u : Nat) : Bool := (g.exact u).isNan
  flies (.fadd x w) 0x10 3 (oneF g) (rounds false fun p q _ => sum [p, q]) ∧
  flies (.fsub x w) 0x11 3 (oneF g) (rounds false fun p q _ => sum [p, q.neg]) ∧
  flies (.fmul x w) 0x12 3 (oneF g) (rounds false fun p q _ => p.mul q) ∧
  flies (.fma x w) 0x13 3 (oneF g) (rounds true fun p q r => sum [p.mul q, r]) ∧
  flies (.fmin x w) 0x14 1 (oneF g) (code fun u v r => if nan u || nan v then r = g.nanCode % 2 ^ g.width
    else (RanksBelow (g.exact v) (g.exact u) → r = v) ∧ (¬ RanksBelow (g.exact v) (g.exact u) → r = u)) ∧
  flies (.fmax x w) 0x15 1 (oneF g) (code fun u v r => if nan u || nan v then r = g.nanCode % 2 ^ g.width
    else (RanksBelow (g.exact u) (g.exact v) → r = v) ∧ (¬ RanksBelow (g.exact u) (g.exact v) → r = u)) ∧
  flies (.fabs x w) 0x16 1 (oneF g) (code fun u _ r => r = if nan u then g.nanCode % 2 ^ g.width else u % 2 ^ (g.width - 1)) ∧
  flies (.fneg x w) 0x17 1 (oneF g) (code fun u _ r => r = if nan u then g.nanCode % 2 ^ g.width else (u + 2 ^ (g.width - 1)) % 2 ^ g.width) ∧
  flies (.fcmp x w) 0x18 1 (oneF g) (code fun u v r =>
    let k := XVal.cmp (g.exact u) (g.exact v)
    let un := nan u || nan v
    r = if (match w.aux.toNat % 32 with
      | 0 => !un && decide (k = 0) | 1 => un || decide (k ≠ 0) | 2 => !un && decide (k < 0) | 3 => !un && decide (k ≤ 0)
      | 4 => !un && decide (0 < k) | 5 => !un && decide (0 ≤ k) | 6 => un | _ => !un) then 2 ^ g.width - 1 else 0) ∧
  flies (.rcps x w) 0x20 4 (oneF fp32) (fun tok => ∀ j, j < 8 → lane 32 tok.bits j =
    (fp32.saturate sat (rcpsLane (fp32.exact (lane 32 (s.source x w (oneF fp32) w.srcA).bits j))).code).1 % 2 ^ 32) ∧
  flies (.rsqs x w) 0x21 4 (oneF fp32) (fun tok => ∀ j, j < 8 → lane 32 tok.bits j =
    (fp32.saturate sat (rsqsLane (fp32.exact (lane 32 (s.source x w (oneF fp32) w.srcA).bits j))).code).1 % 2 ^ 32) ∧
  flies (.exp2 x w) 0x22 6 (oneF g) (code fun u _ r => r = (g.saturate sat (g.exp2 (g.exact u)).code).1 % 2 ^ g.width) ∧
  flies (.act x w) 0x23 6 (oneF g) (code fun u _ r => r = (g.saturate sat (g.rne (if nan u then XVal.nan else actValue (w.aux.toNat % 32) (g.exact u)))).1 % 2 ^ g.width) ∧
  flies (.dact x w) 0x24 6 (oneF g) (code fun u v r =>
    r = (g.saturate sat (g.rne ((g.exact v).mul (dactFactor (w.aux.toNat % 32) (g.exact u))))).1 % 2 ^ g.width)

/-- R76, R108, R124 to R135: the conversions, routes and reductions: an issued context starts one result with its latency, and its lanes are those of the rules. A bubble
operand gives a bubble, and a context predicated off gives none. R23, R45: a stochastic rounding takes 16 bits of the element's generator for each inexact lane, in lane order. -/
def Obligations.LaneRoute : Prop := ∀ (s : State) (x : ElemSite) (w : CtxFields),
  let src (one : W256) (k : BitVec 5) : Tok := s.source x w one k
  let old := (s.elem x.cp x.elem).flight
  let xa := w.aux.toNat % 32
  let ix := w.aux.toNat / 2 ^ 17
  let flies (i : Instr) (op lat : Nat) (one two three : W256) (p : Tok → Tok → Tok → Tok → Prop) : Prop :=
    LaneFlies i s x w op lat (one, two, three) fun a b c r _ => p a b c r
  let same (one : W256) (i : Instr) (op lat : Nat) (p : Tok → Tok → Tok → Prop) : Prop := flies i op lat one one one fun a b _ r => r.lr = a.lr ∧ r.ls = a.ls ∧ p a b r
  let wp := widthP w.fmt
  let wi := widthI w.fmt
  let n := 256 / wp
  (Issues s x 0x00 w → Completes (.elemNop x w) s fun t => SameBytes s t ∧ (t.elem x.cp x.elem).flight = old) ∧
  (w.dw ≠ 17 → same (oneI 32) (.mov x w) 0x40 1 fun a _ r => r.bits = a.bits) ∧
  (w.dw = 17 → ControlFlies (.mov x w) s x w 0x40 1 fun a _ _ r fl => r = a ∧ fl = 0) ∧
  flies (.rep x w) 0x41 1 0 0 0 (fun a _ _ r => r.lr = false ∧ r.ls = false ∧
    let wd := widthLf (xa % 16)
    ∀ j, j < 256 / wd → lane wd r.bits j = a.bits.toNat % 2 ^ wd) ∧
  same (oneI 32) (.perm x w) 0x42 1 (fun a b r => ∀ i, i < 32 →
    let k := lane 8 (((s.elem x.cp x.elem).on.imt[ix]?).getD 0) i
    lane 8 r.bits i = if 128 ≤ k then 0 else if k % 64 < 32 then lane 8 a.bits (k % 64) else lane 8 b.bits (k % 64 - 32)) ∧
  same (oneI wp) (.pack x w) 0x43 1 (fun a b r => ∀ i, i < n →
    lane wp r.bits i = if i < n / 2 then lane wp a.bits (2 * i + xa % 2) else lane wp b.bits (2 * (i - n / 2) + xa % 2)) ∧
  same (oneI wp) (.unpk x w) 0x44 1 (fun a b r => ∀ i, i < n →
    lane wp r.bits i = lane wp (if i % 2 = 0 then a.bits else b.bits) (xa % 2 * (n / 2) + i / 2)) ∧
  (w.fmt ≠ 0 → same (oneI 32) (.lsum x w) 0x45 2 fun a _ r => r.bits.toNat < 2 ^ 32 ∧
    (let v (i : Nat) : Int := Int.bmod (lane 32 a.bits i) (2 ^ 32)
     let cl (v : Int) : Int := Max.max (-(2 ^ 31)) (Min.min (2 ^ 31 - 1) v)
     (r.bits.toNat : Int) = cl (cl (cl (v 0 + v 1) + cl (v 2 + v 3)) + cl (cl (v 4 + v 5) + cl (v 6 + v 7))) % 2 ^ 32)) ∧
  (w.fmt = 0 → same (oneF fp32) (.lsum x w) 0x45 5 fun a _ r =>
    let f (p q : Nat) : Nat := (fp32.deliver .rne false 0 (XVal.sumExact false [fp32.exact p, fp32.exact q]) false).v
    let v (i : Nat) : Nat := lane 32 a.bits i
    r.bits.toNat = f (f (f (v 0) (v 1)) (f (v 2) (v 3))) (f (f (v 4) (v 5)) (f (v 6) (v 7))) % 2 ^ 256) ∧
  (w.fmt ≠ 0 → same (oneI 32) (.lmax x w) 0x46 2 fun a _ r => (∃ j, j < 8 ∧ r.bits.toNat = lane 32 a.bits j) ∧
    ∀ j, j < 8 → Int.bmod (lane 32 a.bits j) (2 ^ 32) ≤ Int.bmod r.bits.toNat (2 ^ 32)) ∧
  (w.fmt = 0 → (∀ j, j < 8 → (fp32.exact (lane 32 (src (oneF fp32) w.srcA).bits j)).isNan = false) → same (oneF fp32) (.lmax x w) 0x46 2 fun a _ r =>
    (∃ j, j < 8 ∧ r.bits.toNat = lane 32 a.bits j) ∧ ∀ j, j < 8 → ¬ RanksBelow (fp32.exact r.bits.toNat) (fp32.exact (lane 32 a.bits j))) ∧
  (w.fmt = 0 → (∃ j, j < 8 ∧ (fp32.exact (lane 32 (src (oneF fp32) w.srcA).bits j)).isNan = true) → same (oneF fp32) (.lmax x w) 0x46 2 fun _ _ r => r.bits = 0x7FC00000) ∧
  same (oneI wi) (.tap x w) 0x47 1 (fun a _ r => ∀ j, j < 256 / wi → lane wi r.bits j = lane wi a.bits xa) ∧
  flies (.put x w) 0x48 1 (oneI wi) (oneI wi) (oneI wi) (fun a b _ r => r.lr = b.lr ∧ r.ls = b.ls ∧
    ∀ j, j < 256 / wi → lane wi r.bits j = if j = xa then lane wi a.bits 0 else lane wi b.bits j) ∧
  flies (.cvt x w) 0x30 2 (oneLf (xa % 16)) (oneCvt w.fmt) 0 (fun a b _ r => r.lr = a.lr ∧ r.ls = a.ls ∧ (
    let ws := widthLf (xa % 16)
    let wd := cvtWidth w.fmt
    let k := Min.min (256 / ws) (256 / wd)
    DrawsLanes (s.elem x.cp x.elem).lfsr wd (256 / wd) r.bits fun o l =>
      if k < 256 / wd then (if k * ix ≤ o ∧ o < k * ix + k then cvtLane w l (lane ws a.bits (o - k * ix)) else ⟨lane wd b.bits o, 0, l⟩)
      else cvtLane w l (lane ws a.bits (if k < 256 / ws then o + k * ix else o)))) ∧
  (∀ (neg : Bool) (k r d : Nat) (l : W32), 0 < d → r < d → roundUp .sto neg k r d l =
    (decide (if neg then (d - r) * 65536 / d ≤ (lfsrTake16 l).1 else (lfsrTake16 l).1 < r * 65536 / d), (lfsrTake16 l).2)) ∧
  flies (.sdenc x w) 0x31 2 (oneI 8) (oneI 8) (oneI 8) (fun a b _ r => ∀ j, j < 128 → lane 2 r.bits j =
    if 32 * (ix % 4) ≤ j ∧ j < 32 * (ix % 4) + 32 then
      let bits := if w.fmt = 0 then 8 else 4
      let v := if bits = 4 then Max.max (-8) (Min.min 7 (Int.bmod (lane 8 a.bits (j - 32 * (ix % 4))) 256)) else Int.bmod (lane 8 a.bits (j - 32 * (ix % 4))) 256
      digitCode (if xa / 8 = 1 then nafDigit (xa % 8) v else directDigit bits (xa % 8) v)
    else lane 2 b.bits j) ∧
  same (oneI 16) (.sddec x w) 0x32 2 (fun a b r => ∀ j, j < 16 → (lane 16 r.bits j : Int) =
    Max.max (-32768) (Min.min 32767 (Int.bmod (lane 16 b.bits j) 65536 +
      2 ^ (xa % 8) * (match lane 2 a.bits (16 * ix + j) with | 1 => (1 : Int) | 3 => -1 | _ => 0))) % 65536) ∧
  (xa % 2 = 0 → flies (.qnt x w) 0x33 2 (oneF fp32) (oneF e3m5) (oneF e3m5) fun a b _ r => r.lr = a.lr ∧ r.ls = a.ls ∧ ∀ j, j < 32 →
    lane 8 r.bits j = if j = ix then (qntScale a.bits).code % 256 else lane 8 b.bits j) ∧
  (xa % 2 = 1 → flies (.qnt x w) 0x33 2 (oneF fp32) (oneF e2m1) (oneF e3m5) fun a b c r => r.lr = a.lr ∧ r.ls = a.ls ∧
    DrawsLanes (s.elem x.cp x.elem).lfsr 4 64 r.bits fun j l => if 8 * ix ≤ j ∧ j < 8 * ix + 8 then
      qntLane (CtxOps.rm w) l (e3m5.exact (lane 8 c.bits ix)) (fp32.exact (lane 32 a.bits (j - 8 * ix))) else ⟨lane 4 b.bits j, 0, l⟩) ∧
  (Issues s x 0x01 w → w.dw ≠ 17 → (src (oneI wi) w.srcA).k = true → Completes (.iadd x w) s fun t => ∃ tok : Tok, tok.k = true ∧ tok.lr = true ∧ tok.bits = 0 ∧
    (t.elem x.cp x.elem).flight = old ++ [⟨1, .write (s.dest x w) tok 0, x.idx.setWidth 8⟩]) ∧
  (s.canIssue x 0x10 w = true → s.predicate x w = false → s.ecc = [] → Completes (.fadd x w) s fun t => (t.elem x.cp x.elem).flight = old ∧ SameBytes s t)

/-- R54 to R57, R136 to R157: the contraction group. A chunk is the exact sum of its triple products, rounded once to FP32, or an exact integer; it acts on its accumulator at
latency 4. accz clears, drn and drna drain at latency 2, cmpr and spx compress and expand, wld and wldt lay weights. -/
def Obligations.Contraction : Prop := ∀ (s : State) (x : ElemSite) (w : CtxFields),
  let g := fmtF w.fmt
  let wd := g.width
  let blk := (s.region x.cp x.region).block w
  let acc : Fin 4 := ix4 (BitVec.ofNat 2 (w.dw.toNat - 18))
  let za := w.mod.getLsbD 4
  let xa := w.aux.toNat % 32
  let ix := w.aux.toNat / 2 ^ 17
  let src (one : W256) (k : BitVec 5) : Tok := s.source x w one k
  let term (f : Fmt) (a y z : Nat) : XVal × XVal × XVal :=
    ((f.exact a).negIf (w.mod.getLsbD 7), (f.exact y).negIf (w.mod.getLsbD 6), (f.exact z).negIf (w.mod.getLsbD 5))
  let total (ps : List (XVal × XVal × XVal)) : XVal := XVal.sumExact false (ps.map fun p => (p.1.mul p.2.1).mul p.2.2)
  let chunk (ps : List (XVal × XVal × XVal)) : W32 := BitVec.ofNat 32 (fp32.rne (total ps))
  let clear (l : List Tok) : Prop := ∀ t ∈ l, t.k = false
  let acts (i : Instr) (op lat : Nat) (p : Act → Prop) : Prop := ActFlies i s x w op lat p
  let sums (n : Nat) (v : Nat → W32) (a : Act) : Prop := ∃ (fresh : List Bool) (fl : BitVec 8), a = .accumF acc za ((List.range n).map v) fresh fl
  let A := (src (oneF g) w.srcA).bits
  let Z := (src (oneF g) w.srcC).bits
  (clear [src (oneF g) w.srcA, src (oneF g) w.srcC] → acts (.trix x w) 0x50 4 (sums 8 fun n =>
    chunk ((List.range (256 / wd)).map fun k => term g (lane wd A k) (lane wd (s.blockWord x blk n) k) (lane wd Z k)))) ∧
  (clear [src (oneF e2m1) w.srcA, src (oneF e2m1) w.srcC] → acts (.trixb x w) 0x51 4 fun a => ∃ v : Vector W32 64, a = .overBp v ∧ ∀ b n : Nat, (hb : b < 8) → (hn : n < 8) →
    v.get ⟨8 * b + n, by omega⟩ = chunk ((List.range 8).map fun k => term e2m1 (lane 4 (src (oneF e2m1) w.srcA).bits (8 * b + k))
      (lane 4 (s.blockWord x blk n) (8 * b + k)) (lane 4 (src (oneF e2m1) w.srcC).bits (8 * b + k)))) ∧
  (clear [src (oneI 2) w.srcA, src (oneI 2) w.srcC] → acts (.trixi x w) 0x52 4 fun a => ∃ fl : BitVec 8, a = .accumI acc za ((List.range 16).map fun n =>
    2 ^ (xa % 8 + ix) * ((List.range 128).map fun k =>
      let d (b : Bool) (v : Int) : Int := if b then -v else v
      let dig (c : Nat) : Int := if c = 1 then 1 else if c = 3 then -1 else 0
      d (w.mod.getLsbD 7) (dig (lane 2 (src (oneI 2) w.srcA).bits k)) *
        d (w.mod.getLsbD 6) (s.byteAt ((s.blockPlace x (8 * (blk / 8) + k / 16)).plus (16 * (k % 16) + n))).toInt *
        d (w.mod.getLsbD 5) (dig (lane 2 (src (oneI 2) w.srcC).bits k))).sum) fl) ∧
  (clear [src (oneF g) w.srcA, src (oneF g) w.srcB, src (oneF g) w.srcC] → acts (.trixg x w) 0x53 4 fun a => ∃ (fresh : List Bool) (fl : BitVec 8), a = .accumG blk za ((List.range 64).map fun i =>
    chunk ((List.range (32 / wd)).map fun k => term g (lane wd A (8 * k + i / 8)) (lane wd (src (oneF g) w.srcB).bits (8 * k + i % 8)) (lane wd Z (8 * k + i / 8)))) fresh fl) ∧
  (clear [src 0 w.srcA, src (oneF g) w.srcC] → acts (.sptrix x w) 0x54 4 (sums 8 fun n =>
    chunk ((keptAll wd (src 0 w.srcA).bits).map fun k => term g (lane wd (src 0 w.srcA).bits k.2) (lane wd (s.blockWord x blk n) k.1) (lane wd Z k.1)))) ∧
  (clear [src (oneF e3m5) w.srcA, src (oneF bf16) w.srcC] → acts (.scac x w) 0x55 4 (sums 8 fun n => BitVec.ofNat 32 (fp32.rne ((bf16.exact (lane 16 (src (oneF bf16) w.srcC).bits n)).mul
    (XVal.sumExact false (XVal.pzero :: (List.range 8).map fun b =>
      ((e3m5.exact (lane 8 (src (oneF e3m5) w.srcA).bits (8 * (ix % 4) + b))).mul
        (e3m5.exact (s.byteAt ((s.blockPlace x blk).plus (64 * (xa % 4) + 8 * b + n))).toNat)).mul
        (fp32.exact (((s.elem x.cp x.elem).bp[8 * b + n]?).getD 0).toNat))))))) ∧
  acts (.accz x w) 0x56 4 (fun a => a = if w.dw = 27 then .clearBp else .clearAcc acc) ∧
  acts (.drn x w) 0x57 2 (fun a => a = .drain (ix4 (w.aux.extractLsb' 7 2)) w.fmt (w.mod.getLsbD 0) (xa.testBit 0) (xa.testBit 1) (xa.testBit 2) (s.dest x w)) ∧
  (∀ pb, (s.slot x.cp).peers.get (ix8 (BitVec.ofNat 3 xa)) = some pb → acts (.drna x w) 0x58 2 fun a =>
    a = .drainPeer (ix4 (w.aux.extractLsb' 7 2)) (w.fmt != 0) (decide (ix % 2 = 1)) (BitVec.ofNat 3 xa) (BitVec.ofNat 2 (xa / 8)) pb.desc pb.seq false x.idx) ∧
  (clear [src (oneF g) w.srcA, src (oneF g) w.srcB, src (oneF g) w.srcC] → acts (.cmpr x w) 0x59 2 fun a => ∃ (tok : Tok) (fl : BitVec 8), a = .write (s.dest x w) tok fl ∧
    ∀ grp, grp < 256 / wd / 4 → wd = 16 ∨ wd = 8 ∨ wd = 4 → ∃ p q, p < q ∧ q < 4 ∧
      let v (i : Nat) : XVal := g.exact (lane wd A (4 * grp + i))
      let canon (i : Nat) : Nat := if (v i).isNan then g.nanCode else lane wd A (4 * grp + i)
      lane wd tok.bits (2 * grp) = canon p ∧ lane wd tok.bits (2 * grp + 1) = canon q ∧ tok.bits.toNat / 2 ^ (128 + 4 * grp) % 16 = 2 ^ p + 2 ^ q ∧
      ∀ i k, i < 4 → i ≠ p → i ≠ q → k = p ∨ k = q → ranksAbove (v i) (v k) = false ∧ (ranksAbove (v k) (v i) = true ∨ k < i)) ∧
  (clear [src 0 w.srcA, src 0 w.srcB, src 0 w.srcC] → acts (.spx x w) 0x5A 1 fun a => ∃ (tok : Tok) (fl : BitVec 8), a = .write (s.dest x w) tok fl ∧
    ∀ j, j < 256 / wd → lane wd tok.bits j = match (keptAll wd (src 0 w.srcA).bits).find? (fun k => k.1 == j) with
      | some k => lane wd (src 0 w.srcA).bits k.2 | none => 0) ∧
  (clear [src (oneI 32) w.srcA] → acts (.wld x w) 0x5B 1 fun a => a = .statWord blk (xa % 8) (src (oneI 32) w.srcA).bits) ∧
  (clear [src (oneI (widthT w.fmt)) w.srcA] → acts (.wldt x w) 0x5C 1 fun a => a = .statLanes blk (widthT w.fmt) (xa % 8) (src (oneI (widthT w.fmt)) w.srcA).bits)

/-- R66, R80, R81, R84: a running region without a reason to hold or stop advances: its due contexts and cues become due in this cycle and its results land at the
end; one with a reason to hold counts a held cycle, in its profile too (R416), and does nothing else; one that a due context or cue, or a landing result, stops lands nothing more; a draining
one only lands and may end; a region that runs no take, and one whose CP a breakpoint has halted (R229), does nothing. A wait cue below its target is a reason to hold.
R62, R67, R85, R192, R236: a take at the end of its last lap drains; a draining take with nothing in flight ends: its region reports the OR of its elements' flags, its
streams are over and CPEVT.RGN is set; with something in flight it does not end. -/
def Obligations.RegionCycle : Prop :=
  (∀ (s : State) (c : CpId) (r : Fin 4), (s.slot c).status = 0x01 →
  let g := s.region c r
  let i := Instr.regionCycle c r
  let xs := s.dueContexts c r
  let qs := s.dueCues c r
  let clear : Prop := (∀ d ∈ xs, s.ctxStops c r d = []) ∧ (∀ q ∈ qs, s.cueStops c r q = []) ∧ s.landStops c r = []
  (∀ code, (s.cp c).run = .halted code → Completes i s fun t => t = s) ∧
  ((s.cp c).run = .running → g.on = .running → g.startIn = 0 → g.stopDue = none → g.stopRec = false →
    (s.holds c r xs qs = true → Completes i s fun t => t = (s.modRegion c r fun g => { g with held := g.held + 1, going := false }).modCp c fun p => p.count 2 1) ∧
    (s.holds c r xs qs = false → clear → s.ecc = [] → s.guardWaits c r xs = false → s.landWalk c r = none → Completes i s fun t =>
      t.region c r = { g with going := true, started := true } ∧ (∃ l, t.agenda = l ++ [.ev (.resultLand c r)]) ∧
      (∀ d ∈ xs, d.cue = none → .ev d.i ∈ t.agenda) ∧ ∀ q ∈ qs, (∀ x n, q.i ≠ .cueRun x n) → (∀ x p, q.i ≠ .cueStart x p) → .ev q.i ∈ t.agenda) ∧
    (s.holds c r xs qs = false → ¬ clear → Completes i s fun t => (t.region c r).stopDue.isSome = true ∧
      t.agenda = s.agenda ++ [.ev (.resultLand c r)] ∧ (t.region c r).going = g.going) ∧
    (∀ x k z step n (e : CtrEntry), (⟨x, n, .cueWait ⟨c, r, x, BitVec.ofNat 6 n⟩ k z step⟩ : DueCue) ∈ qs → g.ctr k = some e → s.ecc = [] → s.ownerOk (s.slot c).part e.pa false = true →
      e.base.toNat + g.lap * step.toNat < 2 ^ 64 → (s.wordAt e.pa).toNat < e.base.toNat + g.lap * step.toNat → s.holds c r xs qs = true)) ∧
  ((s.cp c).run = .running → g.on = .draining → g.stopRec = false →
    (s.landStops c r = [] → Completes i s fun t => t = { s with agenda := s.agenda ++ [.ev (.resultLand c r), .ev (.takeEnded c r)] }) ∧
    (s.landStops c r ≠ [] → Completes i s fun t => (t.region c r).stopDue.isSome = true ∧ t.agenda = s.agenda ++ [.ev (.resultLand c r), .ev (.takeEnded c r)])) ∧
  (g.on ≠ .running → g.on ≠ .draining → Completes i s fun t => t = s)) ∧
  (∀ (s : State) (c : CpId) (r : Fin 4),
  let g := s.region c r
  (g.on = .running → g.onHdr.laps ≤ g.lap → Completes (.takeLastLapEnd c r) s fun t => t = s.modRegion c r fun g => { g with on := .draining }) ∧
  (g.lap < g.onHdr.laps → Completes (.takeLastLapEnd c r) s fun t => t = s) ∧
  (g.on = .draining → s.drained c r = true → Completes (.takeEnded c r) s fun t =>
    t.region c r = { g with on := .ended, flags := s.flagSummary c r } ∧ (t.cp c).cpevt = (s.cp c).cpevt ||| 1 ∧ SameBytes s t ∧
    ∀ (p : BitVec 5) (st : Stream), p.toNat < 24 → ((t.slot c).port p).run = some st → st.region ≠ r) ∧
  (s.drained c r = false → Completes (.takeEnded c r) s fun t => t = s))

/-- R66, R67, R73, R81, R85, R148, R156, R299, R301: at the end of a grid cycle a due stop takes effect with its record and status and lands nothing; in an advancing cycle each
result comes one cycle nearer, one that is due lands, and every counter of R66 moves on; a take at the end of its last lap, or whose end-take cue fired, drains. -/
def Obligations.ResultLand : Prop := ∀ (s : State) (c : CpId) (r : Fin 4) (e : Fin 256),
  let g := s.region c r
  let h := g.onHdr
  let k := s.elem c e
  let lands (f : Act) : Prop := ∃ n, k.flight = [⟨1, f, n⟩]
  (∀ j, g.stopDue = some j → g.stopRec = false → RecRoom s c.core → Completes (.resultLand c r) s fun t =>
    (t.region c r).on = .stopped ∧ (t.region c r).cause = j.cause ∧ (t.region c r).flags = s.flagSummary c r ∧ (t.region c r).stopDue = none ∧
    t.elem c e = k ∧ SameBytes s t ∧ (t.cp c).cpevt.getLsbD 0 = true ∧
    ∃ f : FaultRec, (t.core c.core).recq = (s.core c.core).recq ++ [f] ∧ f.extractLsb' 0 8 = j.cause) ∧
  (g.stopDue = none → g.on = .running → g.going = true → e ∈ h.elems → Completes (.resultLand c r) s fun t =>
    (t.region c r).slotc = (if h.ii ≤ g.slotc + 1 then 0 else g.slotc + 1) ∧ (t.region c r).it = (if h.ii ≤ g.slotc + 1 then g.it + 1 else g.it) ∧
    (t.region c r).tc = (if h.p ≤ g.tc + 1 then 0 else g.tc + 1) ∧ (t.region c r).lap = (if h.p ≤ g.tc + 1 then g.lap + 1 else g.lap) ∧
    (t.region c r).cycles = g.cycles + 1 ∧ (t.region c r).held = g.held ∧ (t.region c r).on = (if g.endDue = true then .draining else .running) ∧
    (g.endDue = false → h.laps ≤ (t.region c r).lap → t.agenda = .ev (.takeLastLapEnd c r) :: s.agenda) ∧
    ((∀ f ∈ k.flight, 1 < f.rem) → (t.elem c e).flight = k.flight.map fun f => { f with rem := f.rem - 1 }) ∧
    (∀ n tok fl, lands (.write (.f n) tok fl) → (t.elem c e).f.get n = tok ∧ (t.elem c e).d = tok ∧ (t.elem c e).estat = k.estat ||| fl ∧ (t.elem c e).flight = []) ∧
    (∀ v fl, lands (.writeC v fl) → (t.elem c e).c = v ∧ (t.elem c e).d = k.d) ∧
    (∀ n, lands (.clearAcc n) → ∀ l : Fin 8, ((t.elem c e).acc.get n).get l = 0) ∧
    (∀ n za cs fl, lands (.accumI n za cs fl) → cs.length = 16 → ∀ l : Fin 8, (((t.elem c e).acc.get n).get l).toInt =
      Max.max (-2147483648) (Min.min 2147483647 ((if za then 0 else ((k.acc.get n).get l).toInt) + cs.getD l.val 0))) ∧
    (∀ n m clr lr ls, lands (.drain n 0 false clr lr ls (.f m)) → (t.elem c e).f.get m = ⟨(k.acc.get n).word, lr, ls, false⟩ ∧
      (t.elem c e).acc.get n = if clr then Vector.replicate 8 0 else k.acc.get n) ∧
    (t.elem c e).dn = k.d ∧ (t.elem c e).cn = k.c)

/-- R69, R81 to R85, R156, R157, R254, R267: what each cue does when it fires: run issues its context, start starts the pending binding of its port or stops the region with TIMING,
stop ends the running stream and keeps a pending binding, drain starts a drain of latency 2, sig adds its increment, by a posted add behind those its take has under way (R282),
wait changes nothing, begin and end set and clear the steady flag, and endtake ends the take after this cycle. A stream that a start cue starts reads in that cycle (R312). -/
def Obligations.Cues : Prop := ∀ (s : State) (x : ElemSite) (n p : BitVec 5) (q : BitVec 2) (pb z : BitVec 3) (strm : BitVec 2) (clr : Bool) (k : BitVec 4)
    (inc : BitVec 32), (s.siteRegion x).on = .running → (s.siteRegion x).going = true → (s.siteRegion x).stopDue = none → (s.siteRegion x).stopRec = false → s.ecc = [] →
  let flies (t : State) (a : Act) : Prop := (t.siteElem x).flight = (s.siteElem x).flight ++ [⟨2, a, 0x80 ||| x.idx.setWidth 8⟩]
  let stops (t : State) (d : Word) : Prop := ∃ j : StopInfo, (t.siteRegion x).stopDue = some j ∧ j.cause = 0x08 ∧ j.detail = d
  (∀ d : DueCtx, s.ctxAt x.cp x.region x.elem n.toNat none = some d → Completes (.cueRun x n) s fun t => t = { s with agenda := .ev d.i :: s.agenda }) ∧
  (((s.slot x.cp).port p).pending = none → Completes (.cueStart x p) s fun t => stops t 1) ∧
  (∀ b : Binding, p.toNat < 24 → ((s.slot x.cp).port p).pending = some b → (s.slot x.cp).portIdle p = true → ∀ e : Nat, s.freeEngine x.cp = some e →
    patSpace b.pat ≠ 0 → Completes (.cueStart x p) s fun t => ((t.slot x.cp).port p).pending = none ∧ (patWrite b.pat = false → .ev (.streamReadIssue x.cp p) ∈ t.agenda) ∧
      ∃ st : Stream, ((t.slot x.cp).port p).run = some st ∧ st.pat = b.pat ∧ st.region = x.region ∧ st.engine = e ∧ st.pos = 0 ∧ st.timed = false) ∧
  (∀ b : Binding, ((s.slot x.cp).port p).pending = some b → s.freeEngine x.cp = none → Completes (.cueStart x p) s fun t => stops t 5) ∧
  (p.toNat < 24 → Completes (.cueStop x p) s fun t => ((t.slot x.cp).port p).run = none ∧ ((t.slot x.cp).port p).pending = ((s.slot x.cp).port p).pending) ∧
  (∀ i, (s.siteElem x).on.drainTap p = some i → Completes (.cueDrain x q p false pb strm clr) s fun t => flies t (.drain (ix4 q) 0 false clr false false (.tapOut i))) ∧
  (∀ b, s.peerAt x.cp pb = some b → Completes (.cueDrain x q p true pb strm clr) s fun t => flies t (.drainPeer (ix4 q) false clr pb strm b.desc b.seq true x.idx) ∧
    (t.slot x.cp).tilesOut.get (ix4 strm) = (s.slot x.cp).tilesOut.get (ix4 strm) + 1) ∧
  (s.peerAt x.cp pb = none → Completes (.cueDrain x q p true pb strm clr) s fun t => stops t 7) ∧
  (∀ e : CtrEntry, MemoryCanonical s → (s.siteRegion x).ctr k = some e →
    let near : Prop := (∃ o, e.pa.space = .loc o ∨ e.pa.space = .scene o) ∧ s.addsOf x.cp (.take x.region) s.ids = false
    (near → Completes (.cueSig x k z inc) s fun t =>
      t.wordAt e.pa = s.wordAt e.pa + inc.setWidth 64 ∧ OnlyBytes e.pa 8 s t ∧ t.slot x.cp = s.slot x.cp) ∧
    (¬ near → Completes (.cueSig x k z inc) s fun t => SameBytes s t ∧
      ∃ y : CtrAdd, t.adds = s.adds ++ [y] ∧ y.pa = e.pa ∧ y.inc = inc.setWidth 64) ∧
    Completes (.cueWait x k z inc) s fun t => t = s) ∧
  (Completes (.cueBegin x) s fun t => t = s.modElem x.cp x.elem fun e => { e with steady := true }) ∧
  (Completes (.cueEnd x) s fun t => t = s.modElem x.cp x.elem fun e => { e with steady := false }) ∧
  (Completes (.cueEndtake x) s fun t => t = s.modRegion x.cp x.region fun g => { g with endDue := true })

/-- R79, R172, R180, R312, R447: a read stream of a running take forms its token's address from its pattern, reads 32 bytes there with the LR and LS of its position and sends them to its
tap, while fewer than 16 of its tokens are unconsumed; a timed stream at 16 stops its region, and one of a region that does not advance, or one that has read in the present take cycle, reads nothing. The null index sends a bubble,
which the model delivers after four cycles (entry 25). -/
def Obligations.StreamRead : Prop := ∀ (s : State) (c : CpId) (p : BitVec 5) (st : Stream), p.toNat < 24 →
  let q := (s.slot c).port p
  let g := s.region c st.region
  let reads : Prop := q.run = some st ∧ patWrite st.pat = false ∧ st.paused = false ∧ st.walkVa = none ∧ st.ahead = false ∧ st.pos < patTotal st.pat ∧ patSpace st.pat ≠ 2 ∧
    g.on = .running ∧ g.startIn = 0
  let i := Instr.streamReadIssue c p
  (∀ pa va e t0, reads → (st.timed = true → g.going = true) → q.unconsumed < 16 → s.formToken c st = .place pa va → s.ecc = [] → s.parkedBlock pa = false →
    (patSpace st.pat = 0 → s.blockTaken c.core (blockOf pa) = false) → (s.slot c).tapOfPort st.region false p (fun b => !tapOut b) = some (e, t0) →
    Completes i s fun t => SameBytes s t ∧ ((t.slot c).port p).unconsumed = q.unconsumed + 1 ∧ (∃ u, ((t.slot c).port p).run = some u ∧ u.pos = st.pos + 1) ∧
      ∃ w : RingTok, (t.core c.core).ring = (s.core c.core).ring ++ [w] ∧ w.inbound = true ∧ w.port = p ∧ w.elem = e ∧ w.tap = t0 ∧ w.timed = st.timed ∧
        w.takeSeq = g.takeSeq ∧ w.tok = ⟨BitVec.ofNat 256 (leNat (s.bytesAt pa 32)), patLr st.pat st.pos, patLs st.pat st.pos, false⟩ ∧
        w.pos = if patSpace st.pat = 0 then .enter 1 else .far) ∧
  (∀ e t0, reads → (st.timed = true → g.going = true) → q.unconsumed < 16 → s.formToken c st = .bubble → s.ecc = [] → (s.slot c).tapOfPort st.region false p (fun b => !tapOut b) = some (e, t0) →
    Completes i s fun t => SameBytes s t ∧ ((t.slot c).port p).unconsumed = q.unconsumed + 1 ∧ (∃ u, ((t.slot c).port p).run = some u ∧ u.pos = st.pos + 1) ∧
      ∃ w : RingTok, (t.core c.core).ring = (s.core c.core).ring ++ [w] ∧ w.port = p ∧ w.elem = e ∧ w.tap = t0 ∧ w.tok = Tok.bubble ∧ w.pos = .post 4) ∧
  (reads → st.timed = true → g.going = true → g.stopDue = none → g.stopRec = false → 16 ≤ q.unconsumed → Completes i s fun t => ∃ j : StopInfo, (t.region c st.region).stopDue = some j ∧
    j.cause = 0x08 ∧ j.detail = 8 ∧ j.port = p.setWidth 8) ∧
  (q.run = some st → st.ahead = true ∨ (st.timed = true ∧ g.going = false) ∨ (st.timed = false ∧ 16 ≤ q.unconsumed) ∨ patWrite st.pat = true → Completes i s fun t => t = s)

/-- R78, R180, R192, R255, R445, R447: a token whose time has come enters the tap queue of its take's element behind the tokens there, unless 16 wait, and one of another take is
discarded; one from the cluster buffer first takes an elastic lane at its port's station (R174); an outbound one stores its 32 bytes, no sideband, at its address, gives its credit
back, and at a place another partition owns stops its region and stays, not stored (R304). The lanes of far ports are log entry 25's, and that the PAGE stop meets
a place another partition owns is entry 41's. -/
def Obligations.StreamTokens : Prop := ∀ (s : State) (c : CpId) (w : RingTok), (s.core c.core).token c.slot w.id = some w →
  let g := s.region c w.region
  let gone (t : State) : Prop := (t.core c.core).ring = (s.core c.core).ring.filter fun y => y.id != w.id
  let queue (t : State) : List Tok := (t.elem c w.elem).tapq.get w.tap
  let comes : Prop := w.inbound = true ∧ (s.slot c).status = 0x01 ∧ (s.core c.core).olderToken w = false ∧ (w.port.toNat ≤ 16 ∨ w.port = 20)
  let crosses : Prop := w.pos = .far ∧ (w.port = 16 ∨ w.port = 20)
  let due : Prop := comes ∧ (w.pos = .due ∨ w.pos = .far) ∧ ¬ crosses
  let moves (t : State) (x : RingPos) : Prop := (t.core c.core).ring = (s.core c.core).ring.map fun y => if y.id = w.id then { y with pos := x } else y
  let live : Prop := (g.on = .running ∨ g.on = .draining) ∧ g.takeSeq = w.takeSeq
  (due → live → (queue s).length < 16 → Completes (.tokenArriveTap c w.id) s fun t => gone t ∧ queue t = queue s ++ [w.tok] ∧ SameBytes s t) ∧
  (due → live → 16 ≤ (queue s).length → Completes (.tokenArriveTap c w.id) s fun t => t = s) ∧
  (due → g.takeSeq ≠ w.takeSeq → Completes (.tokenArriveTap c w.id) s fun t => gone t ∧ queue t = queue s ∧ SameBytes s t) ∧
  (comes → crosses → Completes (.tokenArriveTap c w.id) s fun t => moves t (.enter 0) ∧ SameBytes s t) ∧
  (w.inbound = false → w.pos = .due → w.port.toNat ≤ 16 ∨ w.port = 20 → MemoryCanonical s → s.ownerOk (s.slot c).part w.addr true = true → s.parkedBlock w.addr = false →
    s.surfaceOf (s.slot c).part w.va = none → Completes (.streamWriteStore c w.id) s fun t =>
    gone t ∧ t.bytesAt w.addr 32 = leBytes 32 w.tok.bits.toNat ∧ OnlyBytes w.addr 32 s t ∧ ((t.slot c).port w.port).unstored = ((s.slot c).port w.port).unstored - 1) ∧
  (w.inbound = false → w.pos = .due → w.port.toNat ≤ 16 ∨ w.port = 20 → (g.on = .running ∨ g.on = .draining) → g.stopDue = none → g.stopRec = false → s.ownerOk (s.slot c).part w.addr true = false →
    Completes (.streamWriteStore c w.id) s fun t => moves t .refused ∧ SameBytes s t ∧ ((t.slot c).port w.port).unstored = ((s.slot c).port w.port).unstored ∧
      ∃ j : StopInfo, (t.region c w.region).stopDue = some j ∧ j.cause = 0x05 ∧ j.detail = 4 ∧ j.vaddr = w.va)

/-- R184, R252, R253: a dispatched binding starts at an elastic tap of a running take without a start cue, and on a timed tap stops the region with TIMING 10; a stamped one starts in
its take cycle of its take and in no other; a walk's page enters the edge TLB, whose oldest entry goes (log entry 19's replacement), and a
missing one stops the region with PAGE. -/
def Obligations.StreamStarts : Prop := ∀ (s : State) (c : CpId) (p : BitVec 5) (b : Binding) (e n : Nat) (r : Fin 4) (x : Fin 256) (i : Fin 4) (st : Stream) (va : Nat),
  p.toNat < 24 →
  let q := (s.slot c).port p
  let g := s.region c r
  let starts (t : State) (d : Bool) : Prop := ((t.slot c).port p).pending = none ∧ ∃ u : Stream, ((t.slot c).port p).run = some u ∧ u.pat = b.pat ∧ u.region = r ∧
    u.engine = e ∧ u.pos = 0 ∧ u.stored = 0 ∧ u.dispatched = d ∧ u.timed = false
  let stops (t : State) (r : Fin 4) (cause : BitVec 8) (d : Word) : Prop := ∃ j : StopInfo, (t.region c r).stopDue = some j ∧ j.cause = cause ∧ j.detail = d
  let idle : Prop := (s.slot c).portIdle p = true
  (q.pending = some b → s.freeEngine c = some e → b.stamp = none → idle → s.takesRun c = true →
    (regions4.find? fun k => (s.region c k).live && ((s.slot c).tapOfPort k false p fun _ => true).isSome) = some r →
    (s.slot c).hasStartCue r p = false → ((s.slot c).tapOfPort r false p fun _ => true) = some (x, i) →
    (tapElastic ((s.elem c x).on.tap i) = true → Completes (.dispatchedStreamStart c p) s fun t => starts t true) ∧
    (tapElastic ((s.elem c x).on.tap i) = false → g.stopDue = none → g.stopRec = false → Completes (.dispatchedStreamStart c p) s fun t =>
      ((t.slot c).port p).pending = none ∧ ((t.slot c).port p).run = none ∧ stops t r 0x08 10)) ∧
  (q.pending = some b → b.stamp = some n → b.take = some (r, g.takeSeq) → g.on = .running → g.startIn = 0 → g.going = true →
    (g.lap * g.onHdr.p + g.tc = n → idle → s.freeEngine c = some e → patSpace b.pat ≠ 0 → Completes (.stampedStreamStart c p) s fun t => starts t false) ∧
    (g.lap * g.onHdr.p + g.tc = n → s.freeEngine c = none → g.stopDue = none → g.stopRec = false → Completes (.stampedStreamStart c p) s fun t => stops t r 0x08 5) ∧
    (g.lap * g.onHdr.p + g.tc ≠ n → Completes (.stampedStreamStart c p) s fun t => t = s)) ∧
  (q.run = some st → st.walkVa = some va →
    (∀ y, (s.part (s.slot c).part).page va = some y → Completes (.edgeTlbWalkReturn c p) s fun t => SameBytes s t ∧
      (t.core c.core).edgeTlb = ⟨(s.slot c).part, y⟩ :: (s.core c.core).edgeTlb.take 255 ∧ ∃ u : Stream, ((t.slot c).port p).run = some u ∧ u.walkVa = none ∧ u.pos = st.pos) ∧
    ((s.part (s.slot c).part).page va = none → (s.region c st.region).on = .running → (s.region c st.region).stopDue = none →
      (s.region c st.region).stopRec = false → Completes (.edgeTlbWalkReturn c p) s fun t => stops t st.region 0x05 (if patWrite st.pat then 4 else 0)))

/-- R254: sstop enters the command queue; at the head it ends the running stream of its port, discards the pending binding and leaves the port free, and
what the stream has sent or received goes on. A stop cue (R83) ends the running stream in the same way and keeps the pending binding. -/
def Obligations.StreamStop : Prop := ∀ (s : State) (c : CpId) (m : Cmd) (p : BitVec 5) (x : ElemSite), p.toNat < 24 →
  let sent (c : CpId) (t : State) : Prop := SameBytes s t ∧ (t.core c.core).ring = (s.core c.core).ring ∧
    ((t.slot c).port p).unstored = ((s.slot c).port p).unstored ∧ ((t.slot c).port p).unconsumed = ((s.slot c).port p).unconsumed
  decodeWord 0xB4000090 = .ok (.sstop 9) ∧
  Commands (.sstop p) s [] 0 0 ∧
  ((s.slot c).status = 0x01 → (s.slot c).cmdq = [m] → m.i = .sstop p → m.failed = false → s.recordWaits c m = false → (s.cp c).trigged = none → (s.slot c).launch = none →
    Completes (.commandQueueAdvance c) s fun t => sent c t ∧ (t.slot c).cmdq = [] ∧
      ((t.slot c).port p).run = none ∧ ((t.slot c).port p).pending = none) ∧
  ((s.siteRegion x).on = .running → (s.siteRegion x).going = true → (s.siteRegion x).stopDue = none → Completes (.cueStop x p) s fun t =>
    sent x.cp t ∧ ((t.slot x.cp).port p).run = none ∧ ((t.slot x.cp).port p).pending = ((s.slot x.cp).port p).pending)

/-- R335 to R342: a host write to TAIL that leaves no more slates than the queue holds is accepted, and any other is recorded in ERR with BADTAIL; a write to RING sets CPEVT.DB of the slot that runs
the task; taking a slate advances HEAD and accepts the launch or records the first check it fails, with an interrupt; a read of a dependence keeps its value, or refuses the launch with WRAP when the counter fell. -/
def Obligations.WorkQueues : Prop := ∀ (s : State) (fn : BitVec 8) (q : Fin 4096) (v : W32) (wid : Word) (l : Launch) (n : Nat) (i : Fin 4) (d : Dep),
  let w := s.wq q.val
  let opens : Prop := fn = 0 ∨ w.cfg.extractLsb' 16 8 = fn
  let size := 2 ^ (w.cfg.toNat % 32)
  let room : Prop := w.cfg.getLsbD 24 = false ∧ (v - w.tail).toNat + (w.tail - w.head).toNat ≤ size
  let err (seq : W32) (r : Nat) : Word := BitVec.ofNat 64 (Min.min 255 (w.err.toNat / 2 ^ 56 % 256 + 1) * 2 ^ 56 + r * 2 ^ 48 + seq.toNat)
  let others (t : State) : Prop := ∀ k : Fin 4096, k ≠ q → t.wq k.val = s.wq k.val
  (opens → room → Completes (.wqTailWrite fn q v) s fun t => t.wq q.val = { w with tail := v } ∧ others t ∧ t.cores = s.cores ∧ t.mem = s.mem) ∧
  (opens → ¬ room → Completes (.wqTailWrite fn q v) s fun t => t.wq q.val = { w with err := err v 7 } ∧ others t ∧ t.cores = s.cores ∧ t.mem = s.mem) ∧
  (¬ opens → Completes (.wqTailWrite fn q v) s (fun t => t = s) ∧ Completes (.wqRingWrite fn q wid) s fun t => t = s) ∧
  (∀ c, opens → s.lastLaunch q.val = some l →
    (allSlots.find? fun c => (s.slot c).launch == some l.id && (s.slot c).wid == wid && ((s.slot c).status == 1 || (s.slot c).status == 2)) = some c →
    Completes (.wqRingWrite fn q wid) s fun t => t = s.modCp c fun p => { p with cpevt := p.cpevt ||| 8 }) ∧
  (w.cfg.getLsbD 15 = false ∨ w.head = w.tail → Completes (.slateTake q) s fun t => t = s) ∧
  (∀ pa, w.cfg.getLsbD 15 = true → 4 ≤ w.cfg.toNat % 32 → w.cfg.toNat % 32 ≤ 16 → w.head ≠ w.tail → s.tdiOf (w.cfg.extractLsb' 16 8) ≠ .error →
    s.translate (w.cfg.extractLsb' 8 5) (w.base + BitVec.ofNat 64 (64 * (w.head.toNat % size))) false = .ok pa → s.ecc = [] → s.parkedBlock pa = false →
    s.slateWaits (w.cfg.extractLsb' 8 5) (s.bytesAt pa 64) = false →
    let u := s.setWq q.val { w with head := w.head + 1 }
    ((u.slateRefusal q.val (u.bytesAt pa 64)).2 = none → Completes (.slateTake q) s fun t => t.wq q.val = { w with head := w.head + 1 } ∧ others t ∧
      ∃ x : Launch, t.launches = s.launches ++ [x] ∧ x.queue = q.val ∧ x.seq = w.head ∧ x.part = w.cfg.extractLsb' 8 5 ∧ x.slate = s.bytesAt pa 64 ∧ x.started = [] ∧ x.retired = []) ∧
    (∀ r, (u.slateRefusal q.val (u.bytesAt pa 64)).2 = some r → Completes (.slateTake q) s fun t => t.wq q.val = { w with head := w.head + 1, err := err w.head r } ∧ others t ∧
      t.launches = s.launches ∧ t.outbox = s.outbox ++ [.msix (w.cfg.extractLsb' 16 8) (s.steers (w.cfg.extractLsb' 16 8)) 0])) ∧
  (∀ pa, s.launches.find? (fun x => x.id == n) = some l → l.deps[i.val]? = some d → s.translate l.part d.addr false = .ok pa →
    s.ecc = [] → pa.space.package = true → s.parkedBlock pa = false →
    (d.met = true → Completes (.dependenceRead n i) s fun t => t = s) ∧
    (d.met = false → d.last.toNat ≤ (s.wordAt pa).toNat → Completes (.dependenceRead n i) s fun t => SameBytes s t ∧ ∃ x ∈ t.launches, x.id = n ∧
      x.deps[i.val]? = some { d with last := s.wordAt pa, met := decide (d.target.toNat ≤ (s.wordAt pa).toNat) }) ∧
    (d.met = false → (s.wordAt pa).toNat < d.last.toNat → l.queue = q.val → Completes (.dependenceRead n i) s fun t => (∀ x ∈ t.launches, x.id ≠ n) ∧ (t.wq q.val).err = err l.seq 5))

/-- R195, R343, R346 to R349: BIND, SWAP, UNBIND and RING of a bind record: a command that meets a quarantined core, a swap in progress or a state it does not fit keeps the fields of CFG written with it,
sets STATUS to its refusal and does nothing else; BIND gives the slot the initial state of its task and binds it, or lets it stand by beside a bound one; SWAP exchanges a bound and a standby slot; UNBIND empties. That shares
beyond CORESHARE's limits are refused with BADREC is log entry 37's. -/
def Obligations.SlotCommands : Prop := ∀ (s : State) (c : CpId) (cfg : Word),
  let a := s.slot c
  let o := otherSlot c
  let b := s.slot o
  let k := s.core c.core
  let refused (i : Instr) (v : BitVec 8) : Prop := Completes i s fun t => t = s.modSlot c fun x => { x with cfg := cfg &&& 0xFFFF000EFF7F7FDF, refusal := v }
  let all (v : BitVec 8) : Prop := refused (.cmdBind c cfg) v ∧ refused (.cmdSwap c cfg) v ∧ refused (.cmdUnbind c cfg) v ∧ refused (.cmdRing c cfg) v
  let sizes : Prop := (cfg.extractLsb' 16 7).toNat ≤ 64 ∧ (cfg.extractLsb' 8 7).toNat ≤ 64 ∧ (cfg.extractLsb' 0 5).toNat ≤ 16
  let same : Prop := b.cfg.extractLsb' 16 7 = cfg.extractLsb' 16 7 ∧ b.cfg.extractLsb' 8 7 = cfg.extractLsb' 8 7 ∧ b.cfg.extractLsb' 0 5 = cfg.extractLsb' 0 5 ∧ b.cfg.extractLsb' 6 2 = 0
  let fresh (t : State) : Prop := let x := t.slot c
    x.wid = a.wid ∧ x.slate = a.slate ∧ x.part = cfg.extractLsb' 24 5 ∧ x.prio = cfg.extractLsb' 29 3 ∧ x.cp.handler = false ∧ x.cp.run = .running ∧ x.cp.pc.toNat % 4 = 0 ∧
    x.cp.bankT.get 1 = a.wid ∧ x.cp.bankT.get 3 = a.slate ∧ x.cp.bankT.get 30 = 0x3FFFFC ∧ x.cp.tcyc = 0 ∧ x.cp.cpevt = 0 ∧ x.cp.check = cfg.getLsbD 33 ∧ x.cmdq = [] ∧
    ∀ r, (t.region c r).on = .free ∧ (t.region c r).next = .empty
  (k.cquar = true → all 0x10) ∧ (k.cquar = false → k.swap ≠ none → all 0x12) ∧
  (k.cquar = false → k.swap = none →
    ((s.die (dieOf c.core)).recovery = false → a.status ≠ 0 ∨ ¬ sizes → refused (.cmdBind c cfg) 0x11) ∧
    ((s.die (dieOf c.core)).recovery = false → a.status = 0 → sizes → cfg.extractLsb' 6 2 = 0 → b.status = 0 → Completes (.cmdBind c cfg) s fun t => fresh t ∧ (t.slot c).status = 1 ∧
      (t.core c.core).ssb = cfg.extractLsb' 16 7 ∧ (t.core c.core).smb = cfg.extractLsb' 8 7 ∧ (t.core c.core).lsb = cfg.extractLsb' 0 5) ∧
    ((s.die (dieOf c.core)).recovery = false → a.status = 0 → sizes → cfg.extractLsb' 6 2 = 0 → b.status = 1 → same → Completes (.cmdBind c cfg) s fun t => fresh t ∧ (t.slot c).status = 2 ∧ (t.slot o).status = 1) ∧
    (k.gc ≠ 0 ∨ ¬ ((a.status = 1 ∧ b.status = 2) ∨ (a.status = 2 ∧ b.status = 1)) → refused (.cmdSwap c cfg) 0x11) ∧
    (k.gc = 0 → a.status = 1 → b.status = 2 → Completes (.cmdSwap c cfg) s fun t => (t.slot c).status = 2 ∧ (t.slot o).status = 2 ∧ (t.core c.core).swap = some o.slot) ∧
    (k.gc = 0 → a.status = 2 → b.status = 1 → Completes (.cmdSwap c cfg) s fun t => (t.slot c).status = 2 ∧ (t.slot o).status = 2 ∧ (t.core c.core).swap = some c.slot) ∧
    (a.status = 0 → refused (.cmdUnbind c cfg) 0x11) ∧
    (a.status ≠ 0 → Completes (.cmdUnbind c cfg) s fun t => (t.slot c).status = 0 ∧ (t.slot c).wid = a.wid ∧
      (t.core c.core).swap = if a.status = 1 ∧ b.status = 2 then some o.slot else none) ∧
    (a.status = 1 ∨ a.status = 2 → Completes (.cmdRing c cfg) s fun t => (t.cp c).cpevt = a.cp.cpevt ||| 8 ∧ (t.slot c).refusal = 0 ∧ (t.slot c).status = a.status ∧ SameBytes s t) ∧
    (a.status ≠ 1 → a.status ≠ 2 → refused (.cmdRing c cfg) 0x11))

/-- R195, R221, R280, R306, R340, R341, R343, R344, R348, R446: the end of a swap's scan binds the slot it names under its record's partition, priority and shares, with empty caches, zeroing what of the shares
another partition's task held; the next task of an eligible launch starts in an EMPTY slot with its WID, entry and argument, unless one that goes before it could have the slot; a thread at the retire address
retires once its accesses, takes, copies, counter adds, collectives and fed calls are over; a standby task of higher priority of the same partition gets the core, and another partition's only at the end of a
quantum, while it is owed time; such an exchange is an act of the scheduler's own in the round. The image that goes out writes its variable part to its overflow area, and a slot that is no
longer STANDBY is not bound. That an act which firmware's policy forbids changes nothing, and how a quantum and the time that a task is owed are reckoned, is log entry 13's. -/
def Obligations.TaskDispatch : Prop := ∀ (s : State) (core : Fin 256) (c : CpId) (l : Launch) (n : Nat) (wid : Word),
  let k := s.core core
  let o := otherSlot c
  let inert (i : Instr) : Prop := Completes i s fun t => t = s
  (∀ i, k.swap = some i → (s.slot ⟨core, i⟩).status ≠ 2 → Completes (.slotSwapDone core) s fun t => (t.core core).swap = none ∧ (t.slot ⟨core, i⟩).status = (s.slot ⟨core, i⟩).status) ∧
  (∀ i, k.swap = some i → (s.slot ⟨core, i⟩).status = 2 →
    let out := otherSlot ⟨core, i⟩
    let spilled (x : PAddr) : Prop := (s.slot out).status = 2 ∧ Covers (s.overflowArea out) (s.slot out).variableBytes x
    Completes (.slotSwapDone core) s fun t => (t.slot ⟨core, i⟩).status = 1 ∧ (t.core core).swap = none ∧
    (t.slot ⟨core, i⟩).part = (s.slot ⟨core, i⟩).cfg.extractLsb' 24 5 ∧ (t.slot ⟨core, i⟩).prio = (s.slot ⟨core, i⟩).cfg.extractLsb' 29 3 ∧
    (t.cp ⟨core, i⟩).ftc = [] ∧ (t.cp ⟨core, i⟩).icache = [] ∧
    (∀ x : PAddr, ¬ spilled x → t.byteAt x = s.byteAt x ∨ t.byteAt x = 0 ∧ x.key / 2 ^ 64 < 768 ∧ x.key / 2 ^ 64 % 256 = core.val) ∧
    ((∀ h ∈ k.localHeld.toList ++ k.sceneHeld.toList ++ k.statHeld.toList, h = none ∨ h = some ((s.slot ⟨core, i⟩).cfg.extractLsb' 24 5)) → ∀ x : PAddr, ¬ spilled x → t.byteAt x = s.byteAt x) ∧
    (t.core core).lsb = (s.slot ⟨core, i⟩).cfg.extractLsb' 0 5 ∧ (t.core core).smb = (s.slot ⟨core, i⟩).cfg.extractLsb' 8 7 ∧ (t.core core).ssb = (s.slot ⟨core, i⟩).cfg.extractLsb' 16 7) ∧
  (k.swap = none → inert (.slotSwapDone core)) ∧
  (s.swappable core = none → inert (.schedulerQuantum core)) ∧
  (s.swapWanted core = true → (∀ i, (k.slots.get i).status ≠ 0) → .schedulerQuantum core ∈ s.scheduling) ∧
  (s.swappable core = some c → (s.slot c).part = (s.slot o).part →
    ((s.slot o).prio.toNat ≤ (s.slot c).prio.toNat → inert (.schedulerQuantum core)) ∧
    ((s.slot c).prio.toNat < (s.slot o).prio.toNat → (s.slot c).launch = none → (s.slot o).launch = none → Completes (.schedulerQuantum core) s fun t =>
      (t.slot c).status = 2 ∧ (t.core core).swap = some o.slot)) ∧
  (s.swappable core = some c → (s.slot c).part ≠ (s.slot o).part →
    (s.quantumOver c = false ∨ s.owesTime c = false → inert (.schedulerQuantum core)) ∧
    (s.quantumOver c = true → s.owesTime c = true → (s.slot c).launch = none → (s.slot o).launch = none → Completes (.schedulerQuantum core) s fun t =>
      (t.slot c).status = 2 ∧ (t.core core).swap = some o.slot)) ∧
  (s.launches.find? (fun x => x.id == n) = some l → l.shape.testBit 62 = false →
    (s.taskReady l wid = true → s.coreFits l wid c.core = true → s.scheduleOk l.part c = true → (∀ y ∈ s.launches, y.precedes l = false) → (s.die (dieOf c.core)).recovery = false → (s.slot c).status = 0 → (s.slot o).status = 0 → (s.core c.core).cquar = false → (s.core c.core).swap = none →
      (s.core c.core).gc = 0 → (s.core c.core).ssb.toNat ≤ 64 → (s.core c.core).smb.toNat ≤ 64 → (s.core c.core).lsb.toNat ≤ 16 → Completes (.taskStart n wid c) s fun t =>
        let x := t.slot c
        x.status = 1 ∧ x.wid = wid ∧ x.launch = some n ∧ x.part = l.part ∧ x.cp.run = .running ∧ x.cp.handler = false ∧ x.cp.pc = fld64 l.slate 0 &&& ~~~3 ∧
        x.cp.bankT.get 1 = wid ∧ x.cp.bankT.get 2 = fld64 l.slate 8 ∧ ∃ y ∈ t.launches, y.id = n ∧ y.started = l.started ++ [(wid, c)]) ∧
    ((s.slot c).status ≠ 0 ∨ (∃ y ∈ s.launches, y.precedes l = true ∧ (s.startNext y c).isSome = true) → inert (.taskStart n wid c))) ∧
  ((s.slot c).status = 1 →
    ((s.cp c).run = .retiring false → s.accessesDone c = true → (s.slot c).writesDone s.ids = true → Completes (.taskRetire c) s fun t =>
      (t.cp c).run = .retiring true ∧ (t.slot c).cmdq = [] ∧ ∀ r, (t.region c r).on ≠ .running ∧ (t.region c r).loading = none) ∧
    ((s.cp c).run = .retiring true → s.accessesDone c = true → s.engineDone c = true → (∀ r, (s.region c r).on ≠ .running ∧ (s.region c r).on ≠ .draining) → Completes (.taskRetire c) s fun t =>
      (t.slot c).status = 3 ∧ (t.cp c).run = .stopped ∧ (t.core c.core).swap = if (s.slot o).status = 2 ∧ (s.core c.core).gc = 0 then some o.slot else (s.core c.core).swap) ∧
    (s.accessesDone c = false ∨ (s.cp c).run = .retiring true ∧ s.engineDone c = false → inert (.taskRetire c)))

/-- R302, R303, R360, R361, R405: the oldest record of a source, a core or an HBM controller, enters the fault buffer of its die, or, while the buffer is full, waits twice as long each time up to a limit; a write to HEAD frees the records
up to it, each reported to function 0, and one outside HEAD to TAIL is ignored; that a report is
vector 1 of function 0 is log entry 32's. A sample of energy is divided among the partitions and what belongs to none; how is free (entry 14). -/
def Obligations.FaultRecords : Prop := ∀ (s : State) (core : Fin 256) (d : Fin 4) (v : W32) (r : FaultRec) (rest : List FaultRec) (uj : Word),
  let k := s.core core
  let x := s.die d
  let u := s.die (dieOf core)
  let src := Instr.faultRecordOffer (.core core)
  (k.recq = r :: rest → k.offerIn = 0 → k.recWait = [] →
    ((u.fbTail - u.fbHead).toNat < 1024 → Completes src s fun t => (t.core core).recq = rest ∧ (t.die (dieOf core)).fbTail = u.fbTail + 1 ∧
      (t.die (dieOf core)).fbHead = u.fbHead ∧ (t.die (dieOf core)).fbuf.find? (fun y => y.1 == u.fbTail.toNat % 1024) = some (u.fbTail.toNat % 1024, r) ∧
      (∀ i, i ≠ u.fbTail.toNat % 1024 → (t.die (dieOf core)).fbuf.find? (fun y => y.1 == i) = u.fbuf.find? fun y => y.1 == i) ∧ SameBytes s t) ∧
    (1024 ≤ (u.fbTail - u.fbHead).toNat → Completes src s fun t =>
      t = s.modCore core fun k => { k with offerIn := k.backoff, backoff := Min.min 1100000 (2 * k.backoff) })) ∧
  (∀ j : Fin 2, (x.ctl.get j).recs = r :: rest → (x.ctl.get j).offerIn = 0 → (x.fbTail - x.fbHead).toNat < 1024 → Completes (.faultRecordOffer (.hbm d j)) s fun t =>
    ((t.die d).ctl.get j).recs = rest ∧ (t.die d).fbTail = x.fbTail + 1 ∧ (t.die d).fbuf.find? (fun y => y.1 == x.fbTail.toNat % 1024) = some (x.fbTail.toNat % 1024, r) ∧ t.cores = s.cores) ∧
  ((x.fbTail - x.fbHead).toNat < (v - x.fbHead).toNat → Completes (.fbctlHeadWrite d v) s fun t => t = s) ∧
  ((v - x.fbHead).toNat ≤ (x.fbTail - x.fbHead).toNat → Completes (.fbctlHeadWrite d v) s fun t => (t.die d).fbHead = v ∧ (t.die d).fbTail = x.fbTail ∧ t.cores = s.cores ∧
    (v = x.fbHead + 1 → x.fbuf.find? (fun y => y.1 == x.fbHead.toNat % 1024) = some (x.fbHead.toNat % 1024, r) → (s.part (r.extractLsb' 16 5)).live = false →
      t.outbox = s.outbox ++ [.msix 0 (s.steers 0) 1])) ∧
  (Completes (.energySample d uj) s fun t => SameBytes s t ∧ ∀ e : Die → Word, e = (fun y => (List.finRange 32).foldl (fun a p => a + y.epart.get p) y.eunattr) →
    e (t.die d) = e x + uj)

/-- R358, R359, R425, R426, R433: a die crossing opens when a write and a read pattern of one partition name each other, and its first window is 16 tokens or the pattern's count; a receiver grants what its tap queue
has room for; a fabric channel opens for a member of the task's gang once that is COMMITTED or CONFIRMED and a route leads there, a receiver with its first window, which is for the
number that it expects next, and a sender only with the peer's first window; without one it stays closed. That the window itself tells the sender that it is named back is log entry 29's. -/
def Obligations.Channels : Prop := ∀ (s : State) (a b : CpId) (p q : BitVec 5) (w r : BitVec 512) (d : Word) (g : Gang), p.toNat < 24 → q.toNat < 24 →
  let x := (s.slot a).port p
  let y := (s.slot b).port q
  let first := if s.onGrid b = true then Min.min 16 (patTotal r) else 0
  (x.pattern = some w → y.pattern = some r → names w b q = true → names r a p = true → patWrite w = true → patWrite r = false → (s.slot a).part = (s.slot b).part →
    x.chan.isOpen = false → y.chan.isOpen = false → Completes (.crossingChannelOpen a p b q) s fun t => SameBytes s t ∧
      ((t.slot a).port p).chan = ⟨true, 0, first, 0, 0, [], none⟩ ∧ ((t.slot b).port q).chan = ⟨true, 0, 0, 0, first, [], none⟩) ∧
  (x.pattern = some w → y.pattern = some r → names w b q = false → Completes (.crossingChannelOpen a p b q) s fun t => t = s) ∧
  (x.pattern = some r → x.chan.isOpen = true → patWrite r = false → (s.slot a).status = 1 → patSpace r = 2 →
    let e := Max.max x.chan.recvEnd (Min.min (patTotal r) (x.chan.recvSeq - x.unconsumed + 16))
    let f := BitVec.ofNat 64 (patBase r)
    (e = x.chan.recvEnd → Completes (.windowGrant a p) s fun t => t = s) ∧
    (e ≠ x.chan.recvEnd → f.extractLsb' 62 2 = 0 → (descPort f).toNat < 24 → Completes (.windowGrant a p) s fun t => SameBytes s t ∧ ((t.slot a).port p).chan.recvEnd = e ∧
      ((t.slot (descCp f)).port (descPort f)).chan.sendEnd = e) ∧
    (e ≠ x.chan.recvEnd → f.extractLsb' 62 2 ≠ 0 → Completes (.windowGrant a p) s fun t => ((t.slot a).port p).chan = { x.chan with recvEnd := e } ∧
      t.outbox = (s.sendVia x.chan.route (descEp f) (.credit (descFabCp f) (descFabPort f) x.chan.recvSeq (e - x.chan.recvSeq))).outbox)) ∧
  (p = 19 ∨ p = 23 → x.fabric = some (w, d) → s.gangOf a = some g → x.chan.isOpen = false →
    (g.state = .committed ∨ g.state = .confirmed → (∃ m ∈ g.members, m.1 = descEp d) →
      (s.routeTo (descEp d) = none → Completes (.fabricChannelOpen a p) s fun t => t = s) ∧
      (∀ via, s.routeTo (descEp d) = some via → patWrite w = true →
        (s.grantFor a p (descEp d) = none → Completes (.fabricChannelOpen a p) s fun t => t = s) ∧
        (∀ count, s.grantFor a p (descEp d) = some (x.chan.sendSeq, count) → x.chan.kept = [] → Completes (.fabricChannelOpen a p) s fun t =>
          ((t.slot a).port p).chan = { x.chan with isOpen := true, sendEnd := Max.max x.chan.sendEnd (x.chan.sendSeq + count), route := some via } ∧ t.outbox = s.outbox) ∧
        (∀ first count, s.grantFor a p (descEp d) = some (first, count) → first ≠ x.chan.sendSeq → (∀ y ∈ x.chan.kept, y.1 ≠ first) →
          Completes (.fabricChannelOpen a p) s fun t => t = s)) ∧
      (∀ via, s.routeTo (descEp d) = some via → patWrite w = false → (s.slot a).status = 1 →
        let e := Max.max x.chan.recvEnd (x.chan.recvSeq + Min.min 16 (patTotal w - x.chan.recvSeq))
        Completes (.fabricChannelOpen a p) s fun t => ((t.slot a).port p).chan = { x.chan with isOpen := true, recvEnd := e, route := some via } ∧
          t.outbox = (s.sendVia (some via) (descEp d) (.credit (descFabCp d) (descFabPort d) x.chan.recvSeq (e - x.chan.recvSeq))).outbox)) ∧
    (g.state ≠ .committed → g.state ≠ .confirmed → Completes (.fabricChannelOpen a p) s fun t => t = s))

/-- R372, R373, R376, R381: the head call of a slot and port starts when its checks pass and else ends with its failure; an input token is taken into the call, or written as a new key or value; a call whose rows
are done and whose results are accepted writes its counts and RESULT 1 and leaves, though its task has left the slot; a failed one leaves once its input is taken, and one whose task has left the slot before its input was there stays as it is;
a member's parts of the rows it was sent join the call, a position not written or an uncorrectable error at a member ends it, and a member silent on such a row ends it with ADDRCLASS. Which member is
silent is an input, and that a call without a task stays is the model's choice (entry 34). -/
def Obligations.AttentionCalls : Prop := ∀ (s : State) (c : CpId) (p : BitVec 5) (x : Call) (t : Tok) (n : Nat) (rest : List (Nat × Tok)) (m : Nat) (parts : List RingPart),
  p = 18 ∨ p = 22 →
  let inert (i : Instr) : Prop := Completes i s fun u => u = s
  let gone (u : State) : Prop := ∀ y ∈ u.callsOf c p, y.id ≠ x.id
  let fails (i : Instr) : Prop := Completes i s fun u => ∃ y ∈ u.callsOf c p, y.id = x.id ∧ y.failed = true ∧ y.input = [] ∧ y.blocks = []
  let vec := x.taken / x.vecToks
  let place : PAddr := (s.kvPlace x (decide (vec % 2 = 1)) (x.nk - x.nnew + vec / (2 * poolHkv x.pool)) (vec / 2 % poolHkv x.pool)).plus (32 * (x.taken % x.vecToks))
  let queries := x.taken + 1 - x.kvToks
  (s.callsOf c p = [] → inert (.attnCallStart c p) ∧ inert (.attnCallComplete c p) ∧ (∀ b, inert (.ringMemberPartial c p m parts b)) ∧ inert (.ringMemberSilent c p)) ∧
  (s.callsOf c p = [x] → s.callHere x = true →
    (x.started = false → x.failed = false →
      (∀ dq dk pa, s.callCheck x = (s, .ok (dq, dk, pa)) → Completes (.attnCallStart c p) s fun u => SameBytes s u ∧ u.outbox = s.outbox ∧
        { x with started := true, docq := dq, dock := dk, ctr := pa } ∈ u.callsOf c p) ∧
      (∀ e, s.callCheck x = (s, .error e) → fails (.attnCallStart c p))) ∧
    (x.started = true → inert (.attnCallStart c p)) ∧
    (((s.slot c).port p).chan.kept = (n, t) :: rest → s.atChiplet c p = false → inert (.attnInputToken c p t)) ∧
    (((s.slot c).port p).chan.kept = (n, t) :: rest → s.atChiplet c p = true → x.taken < x.need → x.started = true → x.failed = false → x.out = [] →
      (x.kvToks ≤ x.taken → queries % x.rowToks ≠ 0 → queries / x.rowToks ≤ x.rowsDone → Completes (.attnInputToken c p t) s fun u => SameBytes s u ∧ ((u.slot c).port p).chan.kept = rest ∧
        { x with taken := x.taken + 1, input := x.input ++ [t.bits] } ∈ u.callsOf c p) ∧
      (x.taken + 1 < x.kvToks → MemoryCanonical s → Completes (.attnInputToken c p t) s fun u => ((u.slot c).port p).chan.kept = rest ∧ u.bytesAt place 32 = leBytes 32 t.bits.toNat ∧
        OnlyBytes place 32 s u ∧ { x with taken := x.taken + 1 } ∈ u.callsOf c p)) ∧
    (((s.slot c).port p).chan.kept = [] → inert (.attnInputToken c p t))) ∧
  (s.callsOf c p = [x] →
    (∀ pa, x.report = none → x.failed = false → x.started = true → x.rowsDone = x.nq → x.need ≤ x.taken → x.out = [] → s.waitingResults x = 0 → x.ctr = none → MemoryCanonical s →
      s.callPlace x (x.recAddr + 0x58) 8 true = .ok pa → pa.space.package = true → s.surfaceOf (s.slot c).part (x.recAddr + 0x58) = none →
      Completes (.attnCallComplete c p) s fun u => gone u ∧ u.wordAt pa = 1) ∧
    (x.report = none → x.failed = true → x.need ≤ x.taken → Completes (.attnCallComplete c p) s gone) ∧
    (x.report = none → x.failed = false → s.callHere x = false → x.taken < x.need → x.out = [] → x.rowsIn ≤ x.rowsDone → inert (.attnCallComplete c p)) ∧
    (x.started = true → x.failed = false → x.ringed = true →
      (m ∈ x.members → parts.length % x.hq = 0 → (x.partsOf m).length + parts.length ≤ x.rowsIn * x.hq → (∀ y ∈ parts, y.o.length = poolD x.pool) →
        Completes (.ringMemberPartial c p m parts .none) s fun u => ∃ y ∈ u.callsOf c p, y.id = x.id ∧ y.partsOf m = x.partsOf m ++ parts) ∧
      (m ∈ x.members → fails (.ringMemberPartial c p m parts .unwritten) ∧ fails (.ringMemberPartial c p m parts .uncorrectable)) ∧
      (m ∉ x.members → ∀ b, inert (.ringMemberPartial c p m parts b)) ∧
      ((∃ k ∈ x.members, (x.partsOf k).length < x.rowsIn * x.hq) → fails (.ringMemberSilent c p)) ∧
      ((∀ k ∈ x.members, x.rowsIn * x.hq ≤ (x.partsOf k).length) → inert (.ringMemberSilent c p))))

/-- R404, R406, R408: what the host's writes, reads and AtomicOps do through a BAR: a request that the function may not make is unsupported, and one beyond the BAR has no place; a write of HBM stores its bytes,
a read answers them, an AtomicOp answers the old value and stores the new one; an aligned word of BAR 0 is a register write. That host memory stands for BAR 7 is the model's choice (entry 18). -/
def Obligations.HostAccess : Prop := ∀ (s : State) (fn : BitVec 8) (hif : Fin 2) (ide : Option (BitVec 8)) (bar : BitVec 3) (off len : Nat) (data : List Byte) (v w : Word) (pa : PAddr) (op : HostAtomic),
  let refused (i : Instr) : Prop := Completes i s fun t => t = { s with outbox := s.outbox ++ [.unsupported fn, .refusedRequest fn] }
  let nowhere (i : Instr) : Prop := exec i s = .fault .noSuchAddress
  (s.accepts fn hif ide = false → bar ≠ 7 → refused (.hostWrite fn hif ide bar off data) ∧ refused (.hostRead fn hif ide bar off len) ∧ refused (.hostAtomicop fn hif ide bar off len op)) ∧
  (s.accepts fn hif ide = true →
    (bar ≠ 7 → s.barSize fn bar ≠ 0 → s.barSize fn bar < off + data.length → nowhere (.hostWrite fn hif ide bar off data)) ∧
    (bar ≠ 7 → s.barSize fn bar ≠ 0 → s.barSize fn bar < off + len → nowhere (.hostRead fn hif ide bar off len)) ∧
    (s.bar4 fn off = some pa → s.ecc = [] →
      (0 < data.length → off % 2 ^ 30 + data.length ≤ 2 ^ 30 → off + data.length ≤ s.barSize fn 4 → MemoryCanonical s → Completes (.hostWrite fn hif ide 4 off data) s fun t =>
        t.bytesAt pa data.length = data ∧ OnlyBytes pa data.length s t ∧ t.outbox = s.outbox) ∧
      (0 < len → off % 2 ^ 30 + len ≤ 2 ^ 30 → off + len ≤ s.barSize fn 4 → Completes (.hostRead fn hif ide 4 off len) s fun t =>
        t = { s with outbox := s.outbox ++ [.readData fn (s.bytesAt pa len)] }) ∧
      (off % 8 = 0 → MemoryCanonical s →
        (Completes (.hostAtomicop fn hif ide 4 off 8 (.fetchAdd v)) s fun t => t.wordAt pa = s.wordAt pa + v ∧ OnlyBytes pa 8 s t ∧ t.outbox = s.outbox ++ [.readData fn (s.bytesAt pa 8)]) ∧
        (Completes (.hostAtomicop fn hif ide 4 off 8 (.swap v)) s fun t => t.wordAt pa = v ∧ OnlyBytes pa 8 s t ∧ t.outbox = s.outbox ++ [.readData fn (s.bytesAt pa 8)]) ∧
        (Completes (.hostAtomicop fn hif ide 4 off 8 (.cas w v)) s fun t => t.wordAt pa = (if s.wordAt pa = w then v else s.wordAt pa) ∧ OnlyBytes pa 8 s t ∧
          t.outbox = s.outbox ++ [.readData fn (s.bytesAt pa 8)]))) ∧
    (fn = 0 → off % 8 = 0 → off + 8 ≤ 0x8000000 →
      (Completes (.hostWrite 0 hif ide 0 off (leBytes 8 v.toNat)) s fun t => t = { s with agenda := .ev (.registerWrite off v) :: s.agenda }) ∧
      (Completes (.hostRead 0 hif ide 0 off 8) s fun t => t = { s with outbox := s.outbox ++ [.readData 0 (leBytes 8 (s.readReg (mreg off)).toNat)] })) ∧
    (off % 64 = 0 → off < 0x40000 → ∀ q : Fin 4096, q.val = off / 64 → (s.wq q.val).fn = fn → Completes (.hostWrite fn hif ide 2 off (leBytes 8 v.toNat)) s fun t =>
      t = { s with agenda := .ev (.wqTailWrite fn q (v.setWidth 32)) :: s.agenda })) ∧
  (off + data.length ≤ 2 ^ 64 → MemoryCanonical s → Completes (.hostWrite fn hif ide 7 off data) s fun t => t.bytesAt ⟨.host, off⟩ data.length = data ∧ OnlyBytes ⟨.host, off⟩ data.length s t)

/-- R18, R334, R346, R354, R407, R414: a register write at an offset of the management space writes the register of that place or starts the row that it has; one that would change what a locked TDI has bound puts
the TDI into ERROR instead; GO of SPCTL starts a copy of 16384 rows, the last of which sets DONE; and the debug window steps or resumes only the halted CP it selects;
a write of a key register sets that word of the key. That USED counts from the write of GO is log entry 37's.
R309, R319, R328, R353, R365: a write of an injection or barrier register keeps the fields the rules give it and clears the reserved ones; a barrier write clears the
arrivals and advances the generation. -/
def Obligations.ManagementWrites : Prop :=
  (∀ (s : State) (off : Nat) (v : Word) (i : Instr) (fn : BitVec 8) (d : Fin 4) (k : Fin 2) (c : CpId) (core : Fin 256),
  let l := (s.die d).ctl.get k
  let pch : BitVec 6 := v.extractLsb' 12 6
  (rowOf (mreg off) v = some i → Completes (.registerWrite off v) s fun t => t = { s with agenda := .ev i :: s.agenda }) ∧
  (off = core.val / 64 * 0x1000000 + 0x010000 + core.val % 64 * 64 + k.val * 32 → Completes (.registerWrite off v) s fun t =>
    t = s.modSlot ⟨core, k⟩ fun x => { x with slate := v &&& ~~~63 }) ∧
  (off = core.val / 64 * 0x1000000 + 0x010000 + core.val % 64 * 64 + k.val * 32 + 24 → v.extractLsb' 36 4 = 1 → Completes (.registerWrite off v) s fun t =>
    t = { s with agenda := .ev (.cmdBind ⟨core, k⟩ v) :: s.agenda }) ∧
  (rowOf (mreg off) v = none → s.boundFn (mreg off) v = some fn → (∀ d p o, mreg off ≠ .ptab d p o) → (∀ d k n j, mreg off ≠ .key d k n j) →
    (s.tdiOf fn = .error → Completes (.registerWrite off v) s fun t => t = s) ∧
    (s.tdiOf fn ≠ .error → (s.writeReg (mreg off) v).readReg (mreg off) ≠ s.readReg (mreg off) → Completes (.registerWrite off v) s fun t => t.tdiOf fn = .error ∧ ∃ o h, t.outbox = o ++ [.msix fn h 2]) ∧
    ((s.writeReg (mreg off) v).readReg (mreg off) = s.readReg (mreg off) → Completes (.registerWrite off v) s fun t => t = s)) ∧
  (∀ id w, mreg off = .key d k id w →
    let word (t : State) (j : Fin 4) : Word := (((t.die d).ctl.get k).keys.get id).extractLsb' (64 * j.val) 64
    (s.boundFn (mreg off) v = none → Completes (.registerWrite off v) s fun t => word t w = v ∧ ∀ j, j ≠ w → word t j = word s j) ∧
    (s.boundFn (mreg off) v = some fn → word s w ≠ v → Completes (.registerWrite off v) s fun t => t.tdiOf fn = .error) ∧
    (s.boundFn (mreg off) v = some fn → word s w = v → Completes (.registerWrite off v) s fun t => t = s)) ∧
  (v.getLsbD 63 = true → l.spBusy = false → pch ∉ l.spUsed → Completes (.spctlGo d k v) s fun t => let m := (t.die d).ctl.get k
    m.spBusy = true ∧ m.spB = 0 ∧ m.spPch = pch ∧ m.spBank = v.extractLsb' 0 6 ∧ pch ∈ m.spUsed ∧ SameBytes s t) ∧
  (l.spBusy = true → Completes (.spareRowCopy d k) s fun t => let m := (t.die d).ctl.get k
    m.spB = l.spB + 1 ∧ m.spBusy = decide (l.spB ≠ 16383) ∧ m.spDone = (l.spDone || decide (l.spB = 16383)) ∧ SameBytes s t) ∧
  (l.spBusy = false → Completes (.spareRowCopy d k) s fun t => t = s) ∧
  (s.goTarget fn = none → Completes (.debugStep fn) s (fun t => t = s) ∧ Completes (.debugRun fn) s fun t => t = s) ∧
  (s.goTarget fn = some c → Completes (.debugRun fn) s (fun t => t = s.modCp c fun p => { p with run := .running, stepOne := false }) ∧
    Completes (.debugStep fn) s fun t => t = if (s.cp c).dbgctl.getLsbD 1 then s.modCp c fun p => { p with stepOne := true } else s)) ∧
  (∀ (s : State) (core : Fin 256) (cl : Fin 32) (d : Fin 4) (k ch : Fin 2) (b : BitVec 4) (v : Word),
  let fields : Word := v &&& 0xF000003F00007FFF
  Completes (.einjWrite core v) s (fun t => t = s.modCore core fun x => { x with einj := fields }) ∧
  Completes (.cbinjWrite cl v) s (fun t => t = s.modCluster cl fun x => { x with cbinj := fields }) ∧
  Completes (.hinjWrite d k v) s (fun t => t = s.modDie d fun x => x.modCtl k fun l => { l with hinj := fields }) ∧
  Completes (.kvinjWrite ch v) s (fun t => t = s.modChiplet ch fun x => { x with kvinj := fields }) ∧
  Completes (.cbarcfgWrite cl b v) s (fun t =>
    (t.cluster cl).barPart.get (ix16 b) = BitVec.ofNat 5 (v.toNat / 65536) ∧ (t.cluster cl).barN.get (ix16 b) = BitVec.ofNat 5 v.toNat ∧
    (t.cluster cl).barArr.get (ix16 b) = 0 ∧ (t.cluster cl).barGen.get (ix16 b) = (s.cluster cl).barGen.get (ix16 b) + 1))

/-- R405, R407 to R411: a TDISP message moves a virtual function's TDI only along LOCK and START, and STOP unlocks it, destroying its partition when it was in ERROR; a change of state signals vector 2; each SPDM request is answered to its function, with
measurements of its own partitions alone; IDE_KM keys a stream of an interface, which it binds to the function while its TDI is unlocked, or the interface's Link IDE. The response codes are those of
SPDM 1.3 (entry 6), and what the signatures draw at random is free. -/
def Obligations.TrustInterfaces : Prop := ∀ (s : State) (fn : BitVec 8) (m : TdispMsg) (msg : List Byte) (hif : Fin 2) (st : BitVec 8) (key : BitVec 256) (p : BitVec 5),
  let signs (i : Instr) (e : Emit) : Prop := Completes i s fun t => t = { s with fresh := s.fresh + 1, outbox := s.outbox ++ [e] }
  let sends (i : Instr) (e : Emit) : Prop := Completes i s fun t => t = { s with outbox := s.outbox ++ [e] }
  let vf : Prop := fn ≠ 0 ∧ fn.toNat ≤ 252
  let x := s.tdiOf fn
  let moves (i : Instr) (y : Tdi) : Prop := Completes i s fun t => t.tdiOf fn = y ∧ t.outbox = s.outbox ++ [.msix fn (s.steers fn) 2, .tdisp fn true y] ∧ t.cores = s.cores ∧
    ∀ f, f ≠ fn → t.tdiOf f = s.tdiOf f
  (vf → x = .unlocked → moves (.tdispMessage fn .lockInterface) .locked) ∧ (vf → x = .locked → moves (.tdispMessage fn .startInterface) .run) ∧
  (vf → sends (.tdispMessage fn .getState) (.tdisp fn true x)) ∧
  (vf → x ≠ .unlocked → sends (.tdispMessage fn .lockInterface) (.tdisp fn false x)) ∧ (vf → x ≠ .locked → sends (.tdispMessage fn .startInterface) (.tdisp fn false x)) ∧
  (¬ vf → sends (.tdispMessage fn m) (.tdisp fn false x) ∧ sends (.stopInterface fn) (.tdisp fn false x)) ∧
  (vf → x = .locked ∨ x = .run → moves (.stopInterface fn) .unlocked) ∧ (vf → x = .unlocked → sends (.stopInterface fn) (.tdisp fn true .unlocked)) ∧
  (vf → x = .error → s.partsOf fn = [p] → Completes (.stopInterface fn) s fun t => t.tdiOf fn = .unlocked ∧ (t.part p).live = false ∧
    ∀ d, (t.die d).ptab.get (ix32 p) = Ptab.reset ∧ ∀ g, (t.die d).granules.get g ≠ some p) ∧
  sends (.getVersion fn msg) (.spdm fn 0x04 [0x13]) ∧ (∃ l, sends (.getCapabilities fn msg) (.spdm fn 0x61 l)) ∧ (∃ l, sends (.negotiateAlgorithms fn msg) (.spdm fn 0x63 l)) ∧
  sends (.getDigests fn msg) (.spdm fn 0x01 (shake256 Config.certificateChain 64)) ∧ sends (.getCertificate fn msg) (.spdm fn 0x02 Config.certificateChain) ∧
  signs (.challenge fn msg) (.spdm fn 0x03 (s.identitySign (msg ++ measBytes (s.measurements fn)))) ∧
  signs (.getMeasurements fn msg) (.spdm fn 0x60 (measBytes (s.measurements fn) ++ s.identitySign (msg ++ measBytes (s.measurements fn)))) ∧
  s.bootMeasurements.map (·.1) = [1, 2, 3, 4] ∧ s.bootMeasurements.map (·.2.length) = [256, 64, 64, 64] ∧
  (fn ≠ 0 → ∀ y ∈ s.measurements fn, y.1 < 5 ∨ ∃ q ∈ s.partsOf fn, y.1 = 0x10 + q.toNat) ∧
  sends (.finish fn msg) (.spdm fn 0x65 []) ∧
  (fn.toNat < 253 → (Completes (.keyExchange fn msg) s fun t => t.sessions fn = s.sessions fn + 1 ∧ t.outbox = s.outbox ++ [.spdm fn 0x64 (s.identitySign msg)]) ∧
    (Completes (.endSession fn msg) s fun t => t.sessions fn = s.sessions fn - 1 ∧ t.outbox = s.outbox ++ [.spdm fn 0x6C []]) ∧
    Completes (.ideKm fn hif (some st) key) s fun t => t.boundStream fn = (if x = .unlocked then some (hif, st) else s.boundStream fn) ∧
      (∀ f, f ≠ fn → t.boundStream f = s.boundStream f) ∧ t.outbox = s.outbox ∧ (t.streams.get hif).find? (fun y => y.1 == st) = some (st, key) ∧
      ∀ n, n ≠ st → (t.streams.get hif).find? (fun y => y.1 == n) = (s.streams.get hif).find? fun y => y.1 == n) ∧
  Completes (.ideKm fn hif none key) s fun t => t = { s with linkIde := t.linkIde } ∧ t.linkIde.get hif = some key ∧ ∀ h, h ≠ hif → t.linkIde.get h = s.linkIde.get h

/-- R221, R349 to R351, R412, R413, R417 to R420: each mailbox command answers RESULT 0 with its effect when its arguments allow it, and else its result with none: CREATE makes the partition its signed record describes,
DESTROY ends it and frees its granules, CORES and QUEUE write their tables, CHECKPOINT seals to its list and RESTORE puts back, POWER sets the limit. A command that would change what a locked TDI has bound
answers RESULT 5 and sends the TDI to ERROR. A command that the mailbox does not hold does nothing. The lowest free granules are log entry 26's choice; that a list without room lacks resources, what
RESTORE needs, and its results when a copy or an escrow package is missing are entry 27's. -/
def Obligations.MailboxCommands : Prop := ∀ (s : State) (x : SafeCopy),
  let a := s.mailbox.arg.get
  let p : BitVec 5 := (a 1).setWidth 5
  let d : Fin 4 := ix4 ((a 2).setWidth 2)
  let q := (a 0).toNat
  let runs (n : Nat) : Prop := s.mailbox.busy = true ∧ s.mailbox.cmd = BitVec.ofNat 64 n
  let ends (i : Instr) (r : BitVec 8) (f : State → Prop) : Prop := Completes i s fun t => t.mailbox.busy = false ∧ t.mailbox.result = r ∧ (∃ o h, t.outbox = o ++ [.msix 0 h 3]) ∧ f t
  let plain (t : State) : Prop := t.parts = s.parts ∧ t.cores = s.cores ∧ t.dies = s.dies ∧ t.mem = s.mem
  let rec7280 := s.bytesAt ⟨.host, q⟩ 7280
  let n := (a 1).toNat / 65536 % 65536
  let free : Prop := ∀ fn, s.locked fn = false
  let locks (i : Instr) (fn : BitVec 8) : Prop := s.locked fn = true → fn.toNat < 253 → ends i 5 fun t => t.tdiOf fn = .error
  (s.mailbox.busy = false → ∀ i ∈ [Instr.create, .destroy, .cores, .queue, .escrow, .checkpoint, .restore, .power], Completes i s fun t => t = s) ∧
  (runs 1 →
    (policySigned rec7280 = false → ends .create 1 plain) ∧ (policySigned rec7280 = true → policyOk rec7280 = false → ends .create 2 plain) ∧
    (policySigned rec7280 = true → policyOk rec7280 = true → (a 1).toNat = n * 65536 + p.toNat → (a 2).toNat ≤ 252 →
      ((s.part p).live = true → ends .create 4 plain) ∧ ((s.part p).live = false → s.freeGranules.length < n → ends .create 3 plain) ∧
      ((s.part p).live = false → n ≤ s.freeGranules.length → locks .create ((a 2).setWidth 8)) ∧
      (free → (s.part p).live = false → n ≤ s.freeGranules.length → ends .create 0 fun t => (t.part p).live = true ∧ (t.part p).fn = (a 2).setWidth 8 ∧
        (t.part p).meas = some (shake256 (rec7280.take 0xF80) 64) ∧ (∀ y ∈ (t.part p).pages, y.wr = false) ∧
        ∀ g ∈ s.freeGranules.take n, (t.die g.1).granules.get g.2 = some p))) ∧
  (runs 2 → (31 < (a 1).toNat → ends .destroy 2 plain) ∧ ((a 1).toNat < 32 → (s.part p).live = false → ends .destroy 4 plain) ∧
    ((a 1).toNat < 32 → (s.part p).live = true → locks .destroy (s.part p).fn) ∧
    (free → (a 1).toNat < 32 → (s.part p).live = true → ends .destroy 0 fun t => (t.part p).live = false ∧ ∀ d, (t.die d).ptab.get (ix32 p) = Ptab.reset ∧ ∀ g, (t.die d).granules.get g ≠ some p)) ∧
  (runs 3 → (a 1).toNat < 32 → (a 2).toNat < 4 → ((s.part p).live = false → ends .cores 4 plain) ∧
    (free → (s.part p).live = true → (∀ k : Fin 256, dieOf k = d → (a 3).getLsbD (k.val % 64) = true → ((s.coreParts k).filter (· != p)).length < 2) → ends .cores 0 fun t =>
      ((t.die d).ptab.get (ix32 p)).cores = a 3 ∧ t.parts = s.parts ∧ t.cores = s.cores)) ∧
  (free → runs 4 → q < 4096 → (a 1) &&& 0x1FF9F1F = a 1 → (a 1).extractLsb' 16 8 = (s.part ((a 1).extractLsb' 8 5)).fn → (a 2).toNat % 64 = 0 → (s.part ((a 1).extractLsb' 8 5)).live = true →
    ends .queue 0 fun t => t.wq q = { s.wq q with base := a 2, cfg := a 1 }) ∧
  (free → runs 5 → (a 1).toNat < 32 → (a 2).toNat < 2 ^ 40 → (s.part p).live = true → ends .escrow 0 fun t => (∀ d, ((t.die d).ptab.get (ix32 p)).escrow = a 2) ∧ t.parts = s.parts) ∧
  (runs 6 → (s.tierList (a 0) = none → ends .checkpoint 2 plain) ∧
    (∀ l, s.tierList (a 0) = some l → (∀ c, (s.slot c).status ≠ 1) →
      let size := (s.liveParts.map fun y => (s.sealPart (a 0) y).size).sum
      ((l.map fun x => x.2.2.2.toNat).sum < size → ends .checkpoint 3 plain) ∧
      (size ≤ (l.map fun x => x.2.2.2.toNat).sum → ends .checkpoint 0 fun t => t.parts = s.parts ∧ t.cores = s.cores ∧ t.dies = s.dies ∧
        ((∀ x ∈ l, x.2.2.1.toNat + x.2.2.2.toNat ≤ 2 ^ 64) → ∀ pa : PAddr, pa.space ≠ .host → pa.off < 2 ^ 64 → t.byteAt pa = s.byteAt pa) ∧ (∀ y ∈ s.liveParts, ∃ w, { s.sealPart (a 0) y with written := w } ∈ t.safe) ∧
        ∀ y ∈ s.liveParts, ∀ ep ∈ s.escrowEps y, (ep, y) ∈ t.escrowAsks))) ∧
  (runs 7 → (s.tierList (a 0) = none → ends .restore 2 plain) ∧
    ((s.tierList (a 0)).isSome = true → (a 1).toNat < 32 → s.safe = [] → ((s.part p).live = false → ends .restore 4 plain) ∧
      ((s.part p).live = true → s.escrowEps p = [] → ends .restore 3 plain) ∧
      (free → (s.part p).live = true → s.escrowEps p ≠ [] → Completes .restore s fun t => t.mailbox = s.mailbox ∧ plain t ∧ ∀ ep ∈ s.escrowEps p, (ep, p) ∈ t.escrowAsks)) ∧
    ((s.tierList (a 0)).isSome = true → (a 1).toNat < 32 → s.safe = [x] → x.list = a 0 → x.part = p → s.restorable x = true → s.stands x = false → ends .restore 3 plain) ∧
    (free → (s.tierList (a 0)).isSome = true → (a 1).toNat < 32 → s.safe = [x] → x.list = a 0 → x.part = p → s.restorable x = true → s.stands x = true →
      x.slots = [] → x.blocks = [] → x.seqs = [] → Memory.wf x.mem = true →
      (∀ c ∈ x.mem, inGranules x.granules c.1 = true) → MemoryCanonical s → ends .restore 0 fun t => (t.part p).key = x.key ∧
        ∀ k, memGet t.mem k = if inGranules x.granules k then memGet x.mem k else memGet s.mem k)) ∧
  (runs 8 → ((a 0).toNat ≤ 65535 → ends .power 0 fun t => t.powerLimit = (a 0).setWidth 16 ∧ plain t) ∧ (65535 < (a 0).toNat → ends .power 2 plain))

/-- R17, R18, R183, R234, R309, R409, R419, R420: a power window fills PWRSTAT, SKIP with the cycles that were skipped in it per 65,536, and while the package draws more than its limit some are skipped in the next; a change of the tables replaces the pages it overlaps by those of the three sizes among the new; a cold reset gives every register its reset value, a die
whose boot ROM refuses its firmware staying in recovery, and a warm one keeps the logs, GCYC, every byte outside HBM and the fuses, and clears the injection registers; the memory after reset is canonical. What outside memory and HBM read as, and how many cycles are skipped, is the model's choice
(entry 28), and so is what memory that nothing has written reads as (entry 1). -/
def Obligations.PowerAndReset : Prop := ∀ (s : State) (d : Fin 4) (pmw : BitVec 24) (temp : BitVec 8) (skip : BitVec 16) (part : BitVec 5) (base len : Word) (pages : List PageMap),
  (Completes (.powerControlWindow d pmw temp skip) s fun t => let w := (t.die d).pwrstat
    w.extractLsb' 40 24 = pmw ∧ w.extractLsb' 32 8 = temp ∧ w.extractLsb' 0 16 = 0 ∧
    (w.extractLsb' 16 16).toNat = (if (s.die d).winCycles = 0 then 0 else Min.min 65535 ((s.die d).winSkipped * 65536 / (s.die d).winCycles)) ∧
    (t.die d).winCycles = 0 ∧ (t.die d).winSkipped = 0 ∧
    (if s.powerLimit.toNat * 1000 < t.power then (t.die d).toSkip ≠ 0 else (t.die d).toSkip = skip) ∧ t.cores = s.cores ∧ SameBytes s t) ∧
  (Completes (.extentRewrite part base len pages) s fun t => SameBytes s t ∧ (t.part part).pages =
    (pages.filter fun g => decide ((g.size = 2 ^ 16 ∨ g.size = 2 ^ 21 ∨ g.size = 2 ^ 30) ∧ g.va % g.size = 0 ∧ g.dest.off % g.size = 0)) ++ (s.part part).pages.filter fun g =>
    !overlapsRange base.toNat (Min.min len.toNat (2 ^ 64 - base.toNat)) g.va g.size) ∧
  (Completes .coldReset s fun t => (∀ d, t.die d = { Die.reset with recovery := !bootVerifies d.val }) ∧ t.ep = s.ep ∧ t.routes = s.routes ∧ t.chiplets = State.reset.chiplets ∧ t.clusters = State.reset.clusters ∧ t.parts = State.reset.parts ∧ t.launches = [] ∧
    t.agenda = [] ∧ t.gangs = [] ∧ t.safe = [] ∧ (∀ c, t.slot c = Slot.reset) ∧ (∀ k, t.core k = { Core.reset with fuse := (s.core k).fuse }) ∧
    (∀ a : PAddr, a.space.package = true → a.off < 2 ^ 64 → t.byteAt a = 0) ∧ ∀ a : PAddr, a.space = .host → t.byteAt a = s.byteAt a) ∧
  (Completes .warmReset s fun t => t.mem = s.mem ∧ t.ep = s.ep ∧ t.routes = s.routes ∧ t.ecc = s.ecc ∧ t.parts = State.reset.parts ∧ (∀ c, t.slot c = Slot.reset) ∧
    (∀ k, (t.core k).elog = (s.core k).elog ∧ (t.core k).einj = 0 ∧ (t.core k).fuse = (s.core k).fuse ∧ (t.core k).recq = []) ∧
    (∀ k, (t.cluster k).cblog = (s.cluster k).cblog ∧ (t.cluster k).cdlog = (s.cluster k).cdlog ∧ (t.cluster k).cbinj = 0) ∧
    (∀ d k, ((t.die d).ctl.get k).hlog = ((s.die d).ctl.get k).hlog ∧ ((t.die d).ctl.get k).hinj = 0 ∧ (t.die d).gcyc = (s.die d).gcyc ∧ (t.die d).recovery = (s.die d).recovery) ∧ (∀ k, (t.chiplet k).kvlog = (s.chiplet k).kvlog ∧ (t.chiplet k).kvinj = 0) ∧
    ∀ a : PAddr, (∀ d, a.space ≠ .hbm d) → t.byteAt a = s.byteAt a) ∧
  MemoryCanonical State.reset

/-- R198, R220, R446: when a bound slot's CP has its cycle and nothing else is due to it, the step runs the instruction that the four bytes at its PC decode to, lowest address first, and then ends the CP's cycle; for a far PC the bytes are those of its cached line. While a far address of the
instruction has to be walked for, the CP waits at issue, and once the walks are back the instruction runs. A CP that awaits an answer stays in its instruction until that is there; then the answer goes to its register, or an
instruction that has asked takes effect. An event at the head of the agenda runs as it stands. That the CP's cycle is a step
of its own, and how long a walk and an answer take, is the model's choice (entries 3 and 4). -/
def Obligations.StepRunsDecoded : Prop := ∀ (s : State) (c : CpId) (rest : List Task) (i : Instr) (w : W32) (pa : PAddr) (l : ICacheLine),
  let u : State := { s with agenda := rest, cur := c }
  let p := s.cp c
  let issued : State := u.modCp c fun p => { p with iword := w }
  let runsAt (t : State) : Prop := step s = match exec i t with
    | .next t => .next (t.finishCp c)
    | .fault r => .fault r
    | .refused r => .refused r
  let runs : Prop := (issued.walks i = [] → runsAt issued) ∧
    (issued.walks i ≠ [] → Config.freeBool s.fresh = true → step s = .next (issued.took.finishCp c)) ∧
    (issued.walks i ≠ [] → Config.freeBool s.fresh = false → runsAt ((issued.walks i).foldl State.cacheTranslation issued.took))
  (s.agenda = .cp c :: rest → (s.slot c).status = 1 → p.run = .running → p.untimed = 0 → p.gap = false → p.answerDue = false → p.asked = false → p.handler = true ∨ p.dtraps = [] →
    (p.pc ≠ 0x3FFFFC → s.marksAt pa 4 = [] → classOf p.pc = .near → s.nearPlace c p.pc 4 = .ok pa → decode (s.bytesAt pa 4) = .ok (i, []) → w = BitVec.ofNat 32 (leNat (s.bytesAt pa 4)) → runs) ∧
    (classOf p.pc = .far → (p.icache.find? fun x => x.part == (s.slot c).part && x.line == p.pc.toNat / 64) = some l →
      w = BitVec.ofNat 32 (l.data.toNat / 2 ^ (8 * (p.pc.toNat % 64))) → decodeWord w = .ok i → runs)) ∧
  (s.agenda = .cp c :: rest → (s.slot c).status = 1 → p.run = .running → p.untimed = 0 →
    (p.answerDue = true → step s = .next (((if Config.freeBool s.fresh then u.took else u.took.takeAnswer)).finishCp c)) ∧
    (p.answerDue = false → p.asked = true → decodeWord p.iword = .ok i → runsAt u)) ∧
  (s.agenda = .ev i :: rest → step s = exec i { s with agenda := rest })

/-- R13, R199 to R206, R82, R86: words written out from the spec's encodings decode to the instructions they stand for. -/
def Obligations.DecodeWords : Prop := decodeWord 0x00531C01 = .ok (.add 5 6 7) ∧ decodeWord 0x08537FF4 = .ok (.addImm 5 6 0x7FF4) ∧ decodeWord 0x02531C03 = .ok (.div 5 6 7) ∧
  decodeWord 0x04239019 = .ok (.bfxu 2 7 8 3) ∧ decodeWord 0x42207FFD = .ok (.bNe 2 0 0x7FFD) ∧ decodeWord 0x500F0002 = .ok .ret ∧
  decodeWord 0x604FA010 = .ok (.ld 4 31 2 16) ∧ decodeWord 0x70429800 = .ok (.amoAdd 4 5 6) ∧ decodeWord 0x8000000C = .ok (.trap 12) ∧
  decodeWord 0x82000000 = .ok .tret ∧ decodeWord 0x00000000 = .error .reservedFunction ∧ decodeWord 0xFE000000 = .error .reservedOpcode

/-- R82, R83, R86, R93, R199 to R206: the word of every well-formed instruction, context and cue decodes to exactly it, with every operand, and the cue's time is the one encoded. -/
def Obligations.EncodeDecode : Prop := ∀ (i : Instr), i.wf = true →
  (∀ w, encode i = some w → decodeWord w = .ok i) ∧
  (∀ op x f w, elemParts i = some (op, x, f) → encodeCtx i = some w → decodeCtx x w = .ok i) ∧
  (∀ (t : CueTime) (x : ElemSite) w, t.lap ≠ 3 → (∃ a b c d e f, i = .cueRun x a ∨ i = .cueStart x a ∨ i = .cueStop x a ∨ i = .cueDrain x b a c d e f ∨ i = .cueBegin x ∨ i = .cueEnd x ∨ i = .cueEndtake x) ∨
      (∃ a b c, i = .cueSig x a b c ∨ i = .cueWait x a b c) → encodeCue t i = some w → decodeCue x w = .ok i ∧ cueTimeOf w = t)

/-- R198 to R207: a word that decodes is the word of exactly that instruction, which is well-formed: no bit of a word is ignored, and a reserved code stands for nothing. -/
def Obligations.DecodeEncode : Prop := ∀ (w : W32) (i : Instr), decodeWord w = .ok i → encode i = some w ∧ i.wf = true

/-- Every step keeps the canonical form of memory: addresses rise, and no entry equals what an unlisted byte reads as (entry 1 is the model's choice of that value). -/
def Obligations.MemoryInvariant : Prop := ∀ (s t : State), MemoryCanonical s → step s = .next t → MemoryCanonical t
end

