-- ==== Sys2Proof/Laws/Hash.lean ====
section
/-! SUPPORT. What SHAKE256 and ML-DSA-65 verification answer without running the permutation: lengths, and the check of a signature whose
vector is zero under a key whose vector is zero. -/
namespace Sys2Proof.Machine

theorem leBytes_length (n v : Nat) : (leBytes n v).length = n := by
  induction n generalizing v with
  | zero => rfl
  | succ n ih => simp [leBytes, ih]

theorem keccakRound_length (a : List Word) (rc : Word) : (keccakRound a rc).length = 25 := by
  unfold keccakRound
  simp only [List.range_succ_eq_map, List.map_cons]
  simp

theorem keccakF_length (a : List Word) : (keccakF a).length = 25 := by
  simp only [keccakF, keccakRc, List.cons_append, List.foldl_cons, List.foldl_nil, List.nil_append]
  exact keccakRound_length _ _

theorem absorbAll_length (rate n : Nat) (a : List Word) (m : List Byte) (h : a.length = 25) : (absorbAll rate n a m).length = 25 := by
  induction n generalizing a m with
  | zero => exact h
  | succ n ih => exact ih _ _ (keccakF_length _)

theorem lanes_length (a : List Word) : (a.flatMap fun w => leBytes 8 w.toNat).length = 8 * a.length := by
  induction a with
  | nil => rfl
  | cons x t ih => simp only [List.flatMap_cons, List.length_append, leBytes_length, ih, List.length_cons]; omega

theorem squeeze_length (rate n : Nat) (a : List Word) (h : a.length = 25) (hr : rate ≤ 200) : (squeeze rate n a).length = n * rate := by
  induction n generalizing a with
  | zero => simp [squeeze]
  | succ n ih =>
    simp only [squeeze, List.length_append, List.length_take, lanes_length, h]
    cases n with
    | zero => simp; omega
    | succ n => simp [ih _ (keccakF_length _), Nat.add_mul]; omega

/-- SHAKE256 gives as many bytes as it is asked for. -/
theorem shake256_length (m : List Byte) (n : Nat) : (shake256 m n).length = n := by
  simp only [shake256, shake, List.length_take]
  rw [squeeze_length _ _ _ (absorbAll_length _ _ _ _ (by simp)) (by omega)]
  omega

theorem polyMul_zero (a b : Poly) (h : a.all (· == 0) = true) : polyMul a b = polyZero := by
  unfold polyMul; rw [if_pos h]

/-- Rows of A times a zero vector. -/
theorem rowTimes_zero (rho : List Byte) (r : Nat) : rowTimes rho r (List.replicate 5 polyZero) = polyZero := by
  have h : ∀ b, polyMul polyZero b = polyZero := fun b => polyMul_zero _ _ (by decide +kernel)
  have k : polyAdd polyZero polyZero = polyZero := by decide +kernel
  simp [rowTimes, List.replicate, List.zipIdx, h, k]

/-- A vector of five zero polynomials as a signature holds it, and no hints. -/
def zeroVector : List Byte := (List.replicate 640 [0, 0, 8, 0, 0x80]).flatten
def noHints : List Byte := List.replicate 61 0

/-- Under a key whose vector is zero a signature whose vector is zero verifies when its challenge is the hash of the message's. -/
theorem mldsaVerify_zero (m ct : List Byte) (h : ct.length = 48) : mldsaVerify (List.replicate 1952 0) m (ct ++ (zeroVector ++ noHints)) =
    (ct == shake256 (shake256 (shake256 (List.replicate 1952 0) 64 ++ mldsaMessage m) 64 ++ w1Encode (List.replicate 6 (List.replicate 256 0))) 48) := by
  have e1 : (ct ++ (zeroVector ++ noHints)).take 48 = ct := List.take_left' h
  have e2 : (ct ++ (zeroVector ++ noHints)).drop 48 = zeroVector ++ noHints := List.drop_left' h
  have e3 : (ct ++ (zeroVector ++ noHints)).drop 3248 = noHints := by
    have : (ct ++ (zeroVector ++ noHints)).drop 3248 = ((ct ++ (zeroVector ++ noHints)).drop 48).drop 3200 := by rw [List.drop_drop]
    rw [this, e2]; exact List.drop_left' (by decide +kernel)
  have e4 : unpackHints noHints = some (List.replicate 6 []) := by decide +kernel
  have e5 : (piecesOf 320 6 ((List.replicate 1952 (0 : Byte)).drop 32)).map (unpackBits 10 256) = List.replicate 6 polyZero := by decide +kernel
  have e6 : (piecesOf 640 5 (zeroVector ++ noHints)).map (unpackBelow 20 524288) = List.replicate 5 polyZero := by decide +kernel
  have e7 : ntt polyZero = polyZero := by decide +kernel
  have e8 : nttInv (polySub polyZero polyZero) = polyZero := by decide +kernel
  have e9 : polyZero.map (fun a => a * 8192 % mq) = polyZero := by decide +kernel
  have e10 : polyZero.zipIdx.map (fun y => useHint (([] : List Nat).contains y.2) y.1) = List.replicate 256 0 := by decide +kernel
  have e11 : (ct ++ (zeroVector ++ noHints)).length = 3309 := by rw [List.length_append, h]; decide +kernel
  have e12 : (List.replicate 5 polyZero).all (polyBelow (524288 - 196)) = true := by decide +kernel
  have e13 : ∀ b, polyMul polyZero b = polyZero := fun b => polyMul_zero _ _ (by decide +kernel)
  unfold mldsaVerify
  simp only [e1, e2, e3, e4, e5, e6, e11, e12, List.map_replicate, e7]
  have r1 : List.replicate 6 polyZero = [polyZero, polyZero, polyZero, polyZero, polyZero, polyZero] := rfl
  have r2 : List.replicate 6 ([] : List Nat) = [[], [], [], [], [], []] := rfl
  have r3 (x : List Nat) : [x, x, x, x, x, x] = List.replicate 6 x := rfl
  simp only [r1, r2, List.zip_cons_cons, List.zip_nil_right, List.zipIdx_cons, List.zipIdx_nil, List.map_cons, List.map_nil, e9, e7, e13]
  simp only [rowTimes_zero, e8, e10, r3, List.length_replicate, beq_self_eq_true, Bool.true_and]

end Sys2Proof.Machine
end

