-- ==== Sys2Proof/Laws/State.lean ====
section
/-! SUPPORT. Reading a state after an update: one lemma per field per update of Machine/Ops.lean. -/
namespace Sys2Proof.Machine

@[simp] theorem State.modCore_clusters (s : State) (k : Fin 256) (f : Core → Core) : (s.modCore k f).clusters = s.clusters := rfl
@[simp] theorem State.modCore_dies (s : State) (k : Fin 256) (f : Core → Core) : (s.modCore k f).dies = s.dies := rfl
@[simp] theorem State.modCore_chiplets (s : State) (k : Fin 256) (f : Core → Core) : (s.modCore k f).chiplets = s.chiplets := rfl
@[simp] theorem State.modCore_parts (s : State) (k : Fin 256) (f : Core → Core) : (s.modCore k f).parts = s.parts := rfl
@[simp] theorem State.modCore_mem (s : State) (k : Fin 256) (f : Core → Core) : (s.modCore k f).mem = s.mem := rfl
@[simp] theorem State.modCore_ecc (s : State) (k : Fin 256) (f : Core → Core) : (s.modCore k f).ecc = s.ecc := rfl
@[simp] theorem State.modCore_tiles (s : State) (k : Fin 256) (f : Core → Core) : (s.modCore k f).tiles = s.tiles := rfl
@[simp] theorem State.modCore_adds (s : State) (k : Fin 256) (f : Core → Core) : (s.modCore k f).adds = s.adds := rfl
@[simp] theorem State.modCore_launches (s : State) (k : Fin 256) (f : Core → Core) : (s.modCore k f).launches = s.launches := rfl
@[simp] theorem State.modCore_mailbox (s : State) (k : Fin 256) (f : Core → Core) : (s.modCore k f).mailbox = s.mailbox := rfl
@[simp] theorem State.modCore_hsteer (s : State) (k : Fin 256) (f : Core → Core) : (s.modCore k f).hsteer = s.hsteer := rfl
@[simp] theorem State.modCore_tdi (s : State) (k : Fin 256) (f : Core → Core) : (s.modCore k f).tdi = s.tdi := rfl
@[simp] theorem State.modCore_ide (s : State) (k : Fin 256) (f : Core → Core) : (s.modCore k f).ide = s.ide := rfl
@[simp] theorem State.modCore_dwsel (s : State) (k : Fin 256) (f : Core → Core) : (s.modCore k f).dwsel = s.dwsel := rfl
@[simp] theorem State.modCore_spdm (s : State) (k : Fin 256) (f : Core → Core) : (s.modCore k f).spdm = s.spdm := rfl
@[simp] theorem State.modCore_meas (s : State) (k : Fin 256) (f : Core → Core) : (s.modCore k f).meas = s.meas := rfl
@[simp] theorem State.modCore_escrowed (s : State) (k : Fin 256) (f : Core → Core) : (s.modCore k f).escrowed = s.escrowed := rfl
@[simp] theorem State.modCore_safe (s : State) (k : Fin 256) (f : Core → Core) : (s.modCore k f).safe = s.safe := rfl
@[simp] theorem State.modCore_powerLimit (s : State) (k : Fin 256) (f : Core → Core) : (s.modCore k f).powerLimit = s.powerLimit := rfl
@[simp] theorem State.modCore_ep (s : State) (k : Fin 256) (f : Core → Core) : (s.modCore k f).ep = s.ep := rfl
@[simp] theorem State.modCore_links (s : State) (k : Fin 256) (f : Core → Core) : (s.modCore k f).links = s.links := rfl
@[simp] theorem State.modCore_ftime (s : State) (k : Fin 256) (f : Core → Core) : (s.modCore k f).ftime = s.ftime := rfl
@[simp] theorem State.modCore_lockCount (s : State) (k : Fin 256) (f : Core → Core) : (s.modCore k f).lockCount = s.lockCount := rfl
@[simp] theorem State.modCore_gangs (s : State) (k : Fin 256) (f : Core → Core) : (s.modCore k f).gangs = s.gangs := rfl
@[simp] theorem State.modCore_cur (s : State) (k : Fin 256) (f : Core → Core) : (s.modCore k f).cur = s.cur := rfl
@[simp] theorem State.modCore_agenda (s : State) (k : Fin 256) (f : Core → Core) : (s.modCore k f).agenda = s.agenda := rfl
@[simp] theorem State.modCore_inbox (s : State) (k : Fin 256) (f : Core → Core) : (s.modCore k f).inbox = s.inbox := rfl
@[simp] theorem State.modCore_outbox (s : State) (k : Fin 256) (f : Core → Core) : (s.modCore k f).outbox = s.outbox := rfl
@[simp] theorem State.modCore_fresh (s : State) (k : Fin 256) (f : Core → Core) : (s.modCore k f).fresh = s.fresh := rfl
@[simp] theorem State.modCore_ids (s : State) (k : Fin 256) (f : Core → Core) : (s.modCore k f).ids = s.ids := rfl
@[simp] theorem State.modSlot_clusters (s : State) (c : CpId) (f : Slot → Slot) : (s.modSlot c f).clusters = s.clusters := rfl
@[simp] theorem State.modSlot_dies (s : State) (c : CpId) (f : Slot → Slot) : (s.modSlot c f).dies = s.dies := rfl
@[simp] theorem State.modSlot_chiplets (s : State) (c : CpId) (f : Slot → Slot) : (s.modSlot c f).chiplets = s.chiplets := rfl
@[simp] theorem State.modSlot_parts (s : State) (c : CpId) (f : Slot → Slot) : (s.modSlot c f).parts = s.parts := rfl
@[simp] theorem State.modSlot_mem (s : State) (c : CpId) (f : Slot → Slot) : (s.modSlot c f).mem = s.mem := rfl
@[simp] theorem State.modSlot_ecc (s : State) (c : CpId) (f : Slot → Slot) : (s.modSlot c f).ecc = s.ecc := rfl
@[simp] theorem State.modSlot_tiles (s : State) (c : CpId) (f : Slot → Slot) : (s.modSlot c f).tiles = s.tiles := rfl
@[simp] theorem State.modSlot_adds (s : State) (c : CpId) (f : Slot → Slot) : (s.modSlot c f).adds = s.adds := rfl
@[simp] theorem State.modSlot_launches (s : State) (c : CpId) (f : Slot → Slot) : (s.modSlot c f).launches = s.launches := rfl
@[simp] theorem State.modSlot_mailbox (s : State) (c : CpId) (f : Slot → Slot) : (s.modSlot c f).mailbox = s.mailbox := rfl
@[simp] theorem State.modSlot_hsteer (s : State) (c : CpId) (f : Slot → Slot) : (s.modSlot c f).hsteer = s.hsteer := rfl
@[simp] theorem State.modSlot_tdi (s : State) (c : CpId) (f : Slot → Slot) : (s.modSlot c f).tdi = s.tdi := rfl
@[simp] theorem State.modSlot_ide (s : State) (c : CpId) (f : Slot → Slot) : (s.modSlot c f).ide = s.ide := rfl
@[simp] theorem State.modSlot_dwsel (s : State) (c : CpId) (f : Slot → Slot) : (s.modSlot c f).dwsel = s.dwsel := rfl
@[simp] theorem State.modSlot_spdm (s : State) (c : CpId) (f : Slot → Slot) : (s.modSlot c f).spdm = s.spdm := rfl
@[simp] theorem State.modSlot_meas (s : State) (c : CpId) (f : Slot → Slot) : (s.modSlot c f).meas = s.meas := rfl
@[simp] theorem State.modSlot_escrowed (s : State) (c : CpId) (f : Slot → Slot) : (s.modSlot c f).escrowed = s.escrowed := rfl
@[simp] theorem State.modSlot_safe (s : State) (c : CpId) (f : Slot → Slot) : (s.modSlot c f).safe = s.safe := rfl
@[simp] theorem State.modSlot_powerLimit (s : State) (c : CpId) (f : Slot → Slot) : (s.modSlot c f).powerLimit = s.powerLimit := rfl
@[simp] theorem State.modSlot_ep (s : State) (c : CpId) (f : Slot → Slot) : (s.modSlot c f).ep = s.ep := rfl
@[simp] theorem State.modSlot_links (s : State) (c : CpId) (f : Slot → Slot) : (s.modSlot c f).links = s.links := rfl
@[simp] theorem State.modSlot_ftime (s : State) (c : CpId) (f : Slot → Slot) : (s.modSlot c f).ftime = s.ftime := rfl
@[simp] theorem State.modSlot_lockCount (s : State) (c : CpId) (f : Slot → Slot) : (s.modSlot c f).lockCount = s.lockCount := rfl
@[simp] theorem State.modSlot_gangs (s : State) (c : CpId) (f : Slot → Slot) : (s.modSlot c f).gangs = s.gangs := rfl
@[simp] theorem State.modSlot_cur (s : State) (c : CpId) (f : Slot → Slot) : (s.modSlot c f).cur = s.cur := rfl
@[simp] theorem State.modSlot_agenda (s : State) (c : CpId) (f : Slot → Slot) : (s.modSlot c f).agenda = s.agenda := rfl
@[simp] theorem State.modSlot_inbox (s : State) (c : CpId) (f : Slot → Slot) : (s.modSlot c f).inbox = s.inbox := rfl
@[simp] theorem State.modSlot_outbox (s : State) (c : CpId) (f : Slot → Slot) : (s.modSlot c f).outbox = s.outbox := rfl
@[simp] theorem State.modSlot_fresh (s : State) (c : CpId) (f : Slot → Slot) : (s.modSlot c f).fresh = s.fresh := rfl
@[simp] theorem State.modSlot_ids (s : State) (c : CpId) (f : Slot → Slot) : (s.modSlot c f).ids = s.ids := rfl
@[simp] theorem State.modCp_clusters (s : State) (c : CpId) (f : Cp → Cp) : (s.modCp c f).clusters = s.clusters := rfl
@[simp] theorem State.modCp_dies (s : State) (c : CpId) (f : Cp → Cp) : (s.modCp c f).dies = s.dies := rfl
@[simp] theorem State.modCp_chiplets (s : State) (c : CpId) (f : Cp → Cp) : (s.modCp c f).chiplets = s.chiplets := rfl
@[simp] theorem State.modCp_parts (s : State) (c : CpId) (f : Cp → Cp) : (s.modCp c f).parts = s.parts := rfl
@[simp] theorem State.modCp_mem (s : State) (c : CpId) (f : Cp → Cp) : (s.modCp c f).mem = s.mem := rfl
@[simp] theorem State.modCp_ecc (s : State) (c : CpId) (f : Cp → Cp) : (s.modCp c f).ecc = s.ecc := rfl
@[simp] theorem State.modCp_tiles (s : State) (c : CpId) (f : Cp → Cp) : (s.modCp c f).tiles = s.tiles := rfl
@[simp] theorem State.modCp_adds (s : State) (c : CpId) (f : Cp → Cp) : (s.modCp c f).adds = s.adds := rfl
@[simp] theorem State.modCp_launches (s : State) (c : CpId) (f : Cp → Cp) : (s.modCp c f).launches = s.launches := rfl
@[simp] theorem State.modCp_mailbox (s : State) (c : CpId) (f : Cp → Cp) : (s.modCp c f).mailbox = s.mailbox := rfl
@[simp] theorem State.modCp_hsteer (s : State) (c : CpId) (f : Cp → Cp) : (s.modCp c f).hsteer = s.hsteer := rfl
@[simp] theorem State.modCp_tdi (s : State) (c : CpId) (f : Cp → Cp) : (s.modCp c f).tdi = s.tdi := rfl
@[simp] theorem State.modCp_ide (s : State) (c : CpId) (f : Cp → Cp) : (s.modCp c f).ide = s.ide := rfl
@[simp] theorem State.modCp_dwsel (s : State) (c : CpId) (f : Cp → Cp) : (s.modCp c f).dwsel = s.dwsel := rfl
@[simp] theorem State.modCp_spdm (s : State) (c : CpId) (f : Cp → Cp) : (s.modCp c f).spdm = s.spdm := rfl
@[simp] theorem State.modCp_meas (s : State) (c : CpId) (f : Cp → Cp) : (s.modCp c f).meas = s.meas := rfl
@[simp] theorem State.modCp_escrowed (s : State) (c : CpId) (f : Cp → Cp) : (s.modCp c f).escrowed = s.escrowed := rfl
@[simp] theorem State.modCp_safe (s : State) (c : CpId) (f : Cp → Cp) : (s.modCp c f).safe = s.safe := rfl
@[simp] theorem State.modCp_powerLimit (s : State) (c : CpId) (f : Cp → Cp) : (s.modCp c f).powerLimit = s.powerLimit := rfl
@[simp] theorem State.modCp_ep (s : State) (c : CpId) (f : Cp → Cp) : (s.modCp c f).ep = s.ep := rfl
@[simp] theorem State.modCp_links (s : State) (c : CpId) (f : Cp → Cp) : (s.modCp c f).links = s.links := rfl
@[simp] theorem State.modCp_ftime (s : State) (c : CpId) (f : Cp → Cp) : (s.modCp c f).ftime = s.ftime := rfl
@[simp] theorem State.modCp_lockCount (s : State) (c : CpId) (f : Cp → Cp) : (s.modCp c f).lockCount = s.lockCount := rfl
@[simp] theorem State.modCp_gangs (s : State) (c : CpId) (f : Cp → Cp) : (s.modCp c f).gangs = s.gangs := rfl
@[simp] theorem State.modCp_cur (s : State) (c : CpId) (f : Cp → Cp) : (s.modCp c f).cur = s.cur := rfl
@[simp] theorem State.modCp_agenda (s : State) (c : CpId) (f : Cp → Cp) : (s.modCp c f).agenda = s.agenda := rfl
@[simp] theorem State.modCp_inbox (s : State) (c : CpId) (f : Cp → Cp) : (s.modCp c f).inbox = s.inbox := rfl
@[simp] theorem State.modCp_outbox (s : State) (c : CpId) (f : Cp → Cp) : (s.modCp c f).outbox = s.outbox := rfl
@[simp] theorem State.modCp_fresh (s : State) (c : CpId) (f : Cp → Cp) : (s.modCp c f).fresh = s.fresh := rfl
@[simp] theorem State.modCp_ids (s : State) (c : CpId) (f : Cp → Cp) : (s.modCp c f).ids = s.ids := rfl
@[simp] theorem State.modRegion_clusters (s : State) (c : CpId) (r : Fin 4) (f : Region → Region) : (s.modRegion c r f).clusters = s.clusters := rfl
@[simp] theorem State.modRegion_dies (s : State) (c : CpId) (r : Fin 4) (f : Region → Region) : (s.modRegion c r f).dies = s.dies := rfl
@[simp] theorem State.modRegion_chiplets (s : State) (c : CpId) (r : Fin 4) (f : Region → Region) : (s.modRegion c r f).chiplets = s.chiplets := rfl
@[simp] theorem State.modRegion_parts (s : State) (c : CpId) (r : Fin 4) (f : Region → Region) : (s.modRegion c r f).parts = s.parts := rfl
@[simp] theorem State.modRegion_mem (s : State) (c : CpId) (r : Fin 4) (f : Region → Region) : (s.modRegion c r f).mem = s.mem := rfl
@[simp] theorem State.modRegion_ecc (s : State) (c : CpId) (r : Fin 4) (f : Region → Region) : (s.modRegion c r f).ecc = s.ecc := rfl
@[simp] theorem State.modRegion_tiles (s : State) (c : CpId) (r : Fin 4) (f : Region → Region) : (s.modRegion c r f).tiles = s.tiles := rfl
@[simp] theorem State.modRegion_adds (s : State) (c : CpId) (r : Fin 4) (f : Region → Region) : (s.modRegion c r f).adds = s.adds := rfl
@[simp] theorem State.modRegion_launches (s : State) (c : CpId) (r : Fin 4) (f : Region → Region) : (s.modRegion c r f).launches = s.launches := rfl
@[simp] theorem State.modRegion_mailbox (s : State) (c : CpId) (r : Fin 4) (f : Region → Region) : (s.modRegion c r f).mailbox = s.mailbox := rfl
@[simp] theorem State.modRegion_hsteer (s : State) (c : CpId) (r : Fin 4) (f : Region → Region) : (s.modRegion c r f).hsteer = s.hsteer := rfl
@[simp] theorem State.modRegion_tdi (s : State) (c : CpId) (r : Fin 4) (f : Region → Region) : (s.modRegion c r f).tdi = s.tdi := rfl
@[simp] theorem State.modRegion_ide (s : State) (c : CpId) (r : Fin 4) (f : Region → Region) : (s.modRegion c r f).ide = s.ide := rfl
@[simp] theorem State.modRegion_dwsel (s : State) (c : CpId) (r : Fin 4) (f : Region → Region) : (s.modRegion c r f).dwsel = s.dwsel := rfl
@[simp] theorem State.modRegion_spdm (s : State) (c : CpId) (r : Fin 4) (f : Region → Region) : (s.modRegion c r f).spdm = s.spdm := rfl
@[simp] theorem State.modRegion_meas (s : State) (c : CpId) (r : Fin 4) (f : Region → Region) : (s.modRegion c r f).meas = s.meas := rfl
@[simp] theorem State.modRegion_escrowed (s : State) (c : CpId) (r : Fin 4) (f : Region → Region) : (s.modRegion c r f).escrowed = s.escrowed := rfl
@[simp] theorem State.modRegion_safe (s : State) (c : CpId) (r : Fin 4) (f : Region → Region) : (s.modRegion c r f).safe = s.safe := rfl
@[simp] theorem State.modRegion_powerLimit (s : State) (c : CpId) (r : Fin 4) (f : Region → Region) : (s.modRegion c r f).powerLimit = s.powerLimit := rfl
@[simp] theorem State.modRegion_ep (s : State) (c : CpId) (r : Fin 4) (f : Region → Region) : (s.modRegion c r f).ep = s.ep := rfl
@[simp] theorem State.modRegion_links (s : State) (c : CpId) (r : Fin 4) (f : Region → Region) : (s.modRegion c r f).links = s.links := rfl
@[simp] theorem State.modRegion_ftime (s : State) (c : CpId) (r : Fin 4) (f : Region → Region) : (s.modRegion c r f).ftime = s.ftime := rfl
@[simp] theorem State.modRegion_lockCount (s : State) (c : CpId) (r : Fin 4) (f : Region → Region) : (s.modRegion c r f).lockCount = s.lockCount := rfl
@[simp] theorem State.modRegion_gangs (s : State) (c : CpId) (r : Fin 4) (f : Region → Region) : (s.modRegion c r f).gangs = s.gangs := rfl
@[simp] theorem State.modRegion_cur (s : State) (c : CpId) (r : Fin 4) (f : Region → Region) : (s.modRegion c r f).cur = s.cur := rfl
@[simp] theorem State.modRegion_agenda (s : State) (c : CpId) (r : Fin 4) (f : Region → Region) : (s.modRegion c r f).agenda = s.agenda := rfl
@[simp] theorem State.modRegion_inbox (s : State) (c : CpId) (r : Fin 4) (f : Region → Region) : (s.modRegion c r f).inbox = s.inbox := rfl
@[simp] theorem State.modRegion_outbox (s : State) (c : CpId) (r : Fin 4) (f : Region → Region) : (s.modRegion c r f).outbox = s.outbox := rfl
@[simp] theorem State.modRegion_fresh (s : State) (c : CpId) (r : Fin 4) (f : Region → Region) : (s.modRegion c r f).fresh = s.fresh := rfl
@[simp] theorem State.modRegion_ids (s : State) (c : CpId) (r : Fin 4) (f : Region → Region) : (s.modRegion c r f).ids = s.ids := rfl
@[simp] theorem State.modElem_clusters (s : State) (c : CpId) (e : Fin 256) (f : Elem → Elem) : (s.modElem c e f).clusters = s.clusters := rfl
@[simp] theorem State.modElem_dies (s : State) (c : CpId) (e : Fin 256) (f : Elem → Elem) : (s.modElem c e f).dies = s.dies := rfl
@[simp] theorem State.modElem_chiplets (s : State) (c : CpId) (e : Fin 256) (f : Elem → Elem) : (s.modElem c e f).chiplets = s.chiplets := rfl
@[simp] theorem State.modElem_parts (s : State) (c : CpId) (e : Fin 256) (f : Elem → Elem) : (s.modElem c e f).parts = s.parts := rfl
@[simp] theorem State.modElem_mem (s : State) (c : CpId) (e : Fin 256) (f : Elem → Elem) : (s.modElem c e f).mem = s.mem := rfl
@[simp] theorem State.modElem_ecc (s : State) (c : CpId) (e : Fin 256) (f : Elem → Elem) : (s.modElem c e f).ecc = s.ecc := rfl
@[simp] theorem State.modElem_tiles (s : State) (c : CpId) (e : Fin 256) (f : Elem → Elem) : (s.modElem c e f).tiles = s.tiles := rfl
@[simp] theorem State.modElem_adds (s : State) (c : CpId) (e : Fin 256) (f : Elem → Elem) : (s.modElem c e f).adds = s.adds := rfl
@[simp] theorem State.modElem_launches (s : State) (c : CpId) (e : Fin 256) (f : Elem → Elem) : (s.modElem c e f).launches = s.launches := rfl
@[simp] theorem State.modElem_mailbox (s : State) (c : CpId) (e : Fin 256) (f : Elem → Elem) : (s.modElem c e f).mailbox = s.mailbox := rfl
@[simp] theorem State.modElem_hsteer (s : State) (c : CpId) (e : Fin 256) (f : Elem → Elem) : (s.modElem c e f).hsteer = s.hsteer := rfl
@[simp] theorem State.modElem_tdi (s : State) (c : CpId) (e : Fin 256) (f : Elem → Elem) : (s.modElem c e f).tdi = s.tdi := rfl
@[simp] theorem State.modElem_ide (s : State) (c : CpId) (e : Fin 256) (f : Elem → Elem) : (s.modElem c e f).ide = s.ide := rfl
@[simp] theorem State.modElem_dwsel (s : State) (c : CpId) (e : Fin 256) (f : Elem → Elem) : (s.modElem c e f).dwsel = s.dwsel := rfl
@[simp] theorem State.modElem_spdm (s : State) (c : CpId) (e : Fin 256) (f : Elem → Elem) : (s.modElem c e f).spdm = s.spdm := rfl
@[simp] theorem State.modElem_meas (s : State) (c : CpId) (e : Fin 256) (f : Elem → Elem) : (s.modElem c e f).meas = s.meas := rfl
@[simp] theorem State.modElem_escrowed (s : State) (c : CpId) (e : Fin 256) (f : Elem → Elem) : (s.modElem c e f).escrowed = s.escrowed := rfl
@[simp] theorem State.modElem_safe (s : State) (c : CpId) (e : Fin 256) (f : Elem → Elem) : (s.modElem c e f).safe = s.safe := rfl
@[simp] theorem State.modElem_powerLimit (s : State) (c : CpId) (e : Fin 256) (f : Elem → Elem) : (s.modElem c e f).powerLimit = s.powerLimit := rfl
@[simp] theorem State.modElem_ep (s : State) (c : CpId) (e : Fin 256) (f : Elem → Elem) : (s.modElem c e f).ep = s.ep := rfl
@[simp] theorem State.modElem_links (s : State) (c : CpId) (e : Fin 256) (f : Elem → Elem) : (s.modElem c e f).links = s.links := rfl
@[simp] theorem State.modElem_ftime (s : State) (c : CpId) (e : Fin 256) (f : Elem → Elem) : (s.modElem c e f).ftime = s.ftime := rfl
@[simp] theorem State.modElem_lockCount (s : State) (c : CpId) (e : Fin 256) (f : Elem → Elem) : (s.modElem c e f).lockCount = s.lockCount := rfl
@[simp] theorem State.modElem_gangs (s : State) (c : CpId) (e : Fin 256) (f : Elem → Elem) : (s.modElem c e f).gangs = s.gangs := rfl
@[simp] theorem State.modElem_cur (s : State) (c : CpId) (e : Fin 256) (f : Elem → Elem) : (s.modElem c e f).cur = s.cur := rfl
@[simp] theorem State.modElem_agenda (s : State) (c : CpId) (e : Fin 256) (f : Elem → Elem) : (s.modElem c e f).agenda = s.agenda := rfl
@[simp] theorem State.modElem_inbox (s : State) (c : CpId) (e : Fin 256) (f : Elem → Elem) : (s.modElem c e f).inbox = s.inbox := rfl
@[simp] theorem State.modElem_outbox (s : State) (c : CpId) (e : Fin 256) (f : Elem → Elem) : (s.modElem c e f).outbox = s.outbox := rfl
@[simp] theorem State.modElem_fresh (s : State) (c : CpId) (e : Fin 256) (f : Elem → Elem) : (s.modElem c e f).fresh = s.fresh := rfl
@[simp] theorem State.modElem_ids (s : State) (c : CpId) (e : Fin 256) (f : Elem → Elem) : (s.modElem c e f).ids = s.ids := rfl
@[simp] theorem State.modPort_clusters (s : State) (c : CpId) (p : BitVec 5) (f : PortCtx → PortCtx) : (s.modPort c p f).clusters = s.clusters := rfl
@[simp] theorem State.modPort_dies (s : State) (c : CpId) (p : BitVec 5) (f : PortCtx → PortCtx) : (s.modPort c p f).dies = s.dies := rfl
@[simp] theorem State.modPort_chiplets (s : State) (c : CpId) (p : BitVec 5) (f : PortCtx → PortCtx) : (s.modPort c p f).chiplets = s.chiplets := rfl
@[simp] theorem State.modPort_parts (s : State) (c : CpId) (p : BitVec 5) (f : PortCtx → PortCtx) : (s.modPort c p f).parts = s.parts := rfl
@[simp] theorem State.modPort_mem (s : State) (c : CpId) (p : BitVec 5) (f : PortCtx → PortCtx) : (s.modPort c p f).mem = s.mem := rfl
@[simp] theorem State.modPort_ecc (s : State) (c : CpId) (p : BitVec 5) (f : PortCtx → PortCtx) : (s.modPort c p f).ecc = s.ecc := rfl
@[simp] theorem State.modPort_tiles (s : State) (c : CpId) (p : BitVec 5) (f : PortCtx → PortCtx) : (s.modPort c p f).tiles = s.tiles := rfl
@[simp] theorem State.modPort_adds (s : State) (c : CpId) (p : BitVec 5) (f : PortCtx → PortCtx) : (s.modPort c p f).adds = s.adds := rfl
@[simp] theorem State.modPort_launches (s : State) (c : CpId) (p : BitVec 5) (f : PortCtx → PortCtx) : (s.modPort c p f).launches = s.launches := rfl
@[simp] theorem State.modPort_mailbox (s : State) (c : CpId) (p : BitVec 5) (f : PortCtx → PortCtx) : (s.modPort c p f).mailbox = s.mailbox := rfl
@[simp] theorem State.modPort_hsteer (s : State) (c : CpId) (p : BitVec 5) (f : PortCtx → PortCtx) : (s.modPort c p f).hsteer = s.hsteer := rfl
@[simp] theorem State.modPort_tdi (s : State) (c : CpId) (p : BitVec 5) (f : PortCtx → PortCtx) : (s.modPort c p f).tdi = s.tdi := rfl
@[simp] theorem State.modPort_ide (s : State) (c : CpId) (p : BitVec 5) (f : PortCtx → PortCtx) : (s.modPort c p f).ide = s.ide := rfl
@[simp] theorem State.modPort_dwsel (s : State) (c : CpId) (p : BitVec 5) (f : PortCtx → PortCtx) : (s.modPort c p f).dwsel = s.dwsel := rfl
@[simp] theorem State.modPort_spdm (s : State) (c : CpId) (p : BitVec 5) (f : PortCtx → PortCtx) : (s.modPort c p f).spdm = s.spdm := rfl
@[simp] theorem State.modPort_meas (s : State) (c : CpId) (p : BitVec 5) (f : PortCtx → PortCtx) : (s.modPort c p f).meas = s.meas := rfl
@[simp] theorem State.modPort_escrowed (s : State) (c : CpId) (p : BitVec 5) (f : PortCtx → PortCtx) : (s.modPort c p f).escrowed = s.escrowed := rfl
@[simp] theorem State.modPort_safe (s : State) (c : CpId) (p : BitVec 5) (f : PortCtx → PortCtx) : (s.modPort c p f).safe = s.safe := rfl
@[simp] theorem State.modPort_powerLimit (s : State) (c : CpId) (p : BitVec 5) (f : PortCtx → PortCtx) : (s.modPort c p f).powerLimit = s.powerLimit := rfl
@[simp] theorem State.modPort_ep (s : State) (c : CpId) (p : BitVec 5) (f : PortCtx → PortCtx) : (s.modPort c p f).ep = s.ep := rfl
@[simp] theorem State.modPort_links (s : State) (c : CpId) (p : BitVec 5) (f : PortCtx → PortCtx) : (s.modPort c p f).links = s.links := rfl
@[simp] theorem State.modPort_ftime (s : State) (c : CpId) (p : BitVec 5) (f : PortCtx → PortCtx) : (s.modPort c p f).ftime = s.ftime := rfl
@[simp] theorem State.modPort_lockCount (s : State) (c : CpId) (p : BitVec 5) (f : PortCtx → PortCtx) : (s.modPort c p f).lockCount = s.lockCount := rfl
@[simp] theorem State.modPort_gangs (s : State) (c : CpId) (p : BitVec 5) (f : PortCtx → PortCtx) : (s.modPort c p f).gangs = s.gangs := rfl
@[simp] theorem State.modPort_cur (s : State) (c : CpId) (p : BitVec 5) (f : PortCtx → PortCtx) : (s.modPort c p f).cur = s.cur := rfl
@[simp] theorem State.modPort_agenda (s : State) (c : CpId) (p : BitVec 5) (f : PortCtx → PortCtx) : (s.modPort c p f).agenda = s.agenda := rfl
@[simp] theorem State.modPort_inbox (s : State) (c : CpId) (p : BitVec 5) (f : PortCtx → PortCtx) : (s.modPort c p f).inbox = s.inbox := rfl
@[simp] theorem State.modPort_outbox (s : State) (c : CpId) (p : BitVec 5) (f : PortCtx → PortCtx) : (s.modPort c p f).outbox = s.outbox := rfl
@[simp] theorem State.modPort_fresh (s : State) (c : CpId) (p : BitVec 5) (f : PortCtx → PortCtx) : (s.modPort c p f).fresh = s.fresh := rfl
@[simp] theorem State.modPort_ids (s : State) (c : CpId) (p : BitVec 5) (f : PortCtx → PortCtx) : (s.modPort c p f).ids = s.ids := rfl
@[simp] theorem State.modCluster_cores (s : State) (k : Fin 32) (f : Cluster → Cluster) : (s.modCluster k f).cores = s.cores := rfl
@[simp] theorem State.modCluster_dies (s : State) (k : Fin 32) (f : Cluster → Cluster) : (s.modCluster k f).dies = s.dies := rfl
@[simp] theorem State.modCluster_chiplets (s : State) (k : Fin 32) (f : Cluster → Cluster) : (s.modCluster k f).chiplets = s.chiplets := rfl
@[simp] theorem State.modCluster_parts (s : State) (k : Fin 32) (f : Cluster → Cluster) : (s.modCluster k f).parts = s.parts := rfl
@[simp] theorem State.modCluster_mem (s : State) (k : Fin 32) (f : Cluster → Cluster) : (s.modCluster k f).mem = s.mem := rfl
@[simp] theorem State.modCluster_ecc (s : State) (k : Fin 32) (f : Cluster → Cluster) : (s.modCluster k f).ecc = s.ecc := rfl
@[simp] theorem State.modCluster_tiles (s : State) (k : Fin 32) (f : Cluster → Cluster) : (s.modCluster k f).tiles = s.tiles := rfl
@[simp] theorem State.modCluster_adds (s : State) (k : Fin 32) (f : Cluster → Cluster) : (s.modCluster k f).adds = s.adds := rfl
@[simp] theorem State.modCluster_launches (s : State) (k : Fin 32) (f : Cluster → Cluster) : (s.modCluster k f).launches = s.launches := rfl
@[simp] theorem State.modCluster_mailbox (s : State) (k : Fin 32) (f : Cluster → Cluster) : (s.modCluster k f).mailbox = s.mailbox := rfl
@[simp] theorem State.modCluster_hsteer (s : State) (k : Fin 32) (f : Cluster → Cluster) : (s.modCluster k f).hsteer = s.hsteer := rfl
@[simp] theorem State.modCluster_tdi (s : State) (k : Fin 32) (f : Cluster → Cluster) : (s.modCluster k f).tdi = s.tdi := rfl
@[simp] theorem State.modCluster_ide (s : State) (k : Fin 32) (f : Cluster → Cluster) : (s.modCluster k f).ide = s.ide := rfl
@[simp] theorem State.modCluster_dwsel (s : State) (k : Fin 32) (f : Cluster → Cluster) : (s.modCluster k f).dwsel = s.dwsel := rfl
@[simp] theorem State.modCluster_spdm (s : State) (k : Fin 32) (f : Cluster → Cluster) : (s.modCluster k f).spdm = s.spdm := rfl
@[simp] theorem State.modCluster_meas (s : State) (k : Fin 32) (f : Cluster → Cluster) : (s.modCluster k f).meas = s.meas := rfl
@[simp] theorem State.modCluster_escrowed (s : State) (k : Fin 32) (f : Cluster → Cluster) : (s.modCluster k f).escrowed = s.escrowed := rfl
@[simp] theorem State.modCluster_safe (s : State) (k : Fin 32) (f : Cluster → Cluster) : (s.modCluster k f).safe = s.safe := rfl
@[simp] theorem State.modCluster_powerLimit (s : State) (k : Fin 32) (f : Cluster → Cluster) : (s.modCluster k f).powerLimit = s.powerLimit := rfl
@[simp] theorem State.modCluster_ep (s : State) (k : Fin 32) (f : Cluster → Cluster) : (s.modCluster k f).ep = s.ep := rfl
@[simp] theorem State.modCluster_links (s : State) (k : Fin 32) (f : Cluster → Cluster) : (s.modCluster k f).links = s.links := rfl
@[simp] theorem State.modCluster_ftime (s : State) (k : Fin 32) (f : Cluster → Cluster) : (s.modCluster k f).ftime = s.ftime := rfl
@[simp] theorem State.modCluster_lockCount (s : State) (k : Fin 32) (f : Cluster → Cluster) : (s.modCluster k f).lockCount = s.lockCount := rfl
@[simp] theorem State.modCluster_gangs (s : State) (k : Fin 32) (f : Cluster → Cluster) : (s.modCluster k f).gangs = s.gangs := rfl
@[simp] theorem State.modCluster_cur (s : State) (k : Fin 32) (f : Cluster → Cluster) : (s.modCluster k f).cur = s.cur := rfl
@[simp] theorem State.modCluster_agenda (s : State) (k : Fin 32) (f : Cluster → Cluster) : (s.modCluster k f).agenda = s.agenda := rfl
@[simp] theorem State.modCluster_inbox (s : State) (k : Fin 32) (f : Cluster → Cluster) : (s.modCluster k f).inbox = s.inbox := rfl
@[simp] theorem State.modCluster_outbox (s : State) (k : Fin 32) (f : Cluster → Cluster) : (s.modCluster k f).outbox = s.outbox := rfl
@[simp] theorem State.modCluster_fresh (s : State) (k : Fin 32) (f : Cluster → Cluster) : (s.modCluster k f).fresh = s.fresh := rfl
@[simp] theorem State.modCluster_ids (s : State) (k : Fin 32) (f : Cluster → Cluster) : (s.modCluster k f).ids = s.ids := rfl
@[simp] theorem State.modDie_cores (s : State) (d : Fin 4) (f : Die → Die) : (s.modDie d f).cores = s.cores := rfl
@[simp] theorem State.modDie_clusters (s : State) (d : Fin 4) (f : Die → Die) : (s.modDie d f).clusters = s.clusters := rfl
@[simp] theorem State.modDie_chiplets (s : State) (d : Fin 4) (f : Die → Die) : (s.modDie d f).chiplets = s.chiplets := rfl
@[simp] theorem State.modDie_parts (s : State) (d : Fin 4) (f : Die → Die) : (s.modDie d f).parts = s.parts := rfl
@[simp] theorem State.modDie_mem (s : State) (d : Fin 4) (f : Die → Die) : (s.modDie d f).mem = s.mem := rfl
@[simp] theorem State.modDie_ecc (s : State) (d : Fin 4) (f : Die → Die) : (s.modDie d f).ecc = s.ecc := rfl
@[simp] theorem State.modDie_tiles (s : State) (d : Fin 4) (f : Die → Die) : (s.modDie d f).tiles = s.tiles := rfl
@[simp] theorem State.modDie_adds (s : State) (d : Fin 4) (f : Die → Die) : (s.modDie d f).adds = s.adds := rfl
@[simp] theorem State.modDie_launches (s : State) (d : Fin 4) (f : Die → Die) : (s.modDie d f).launches = s.launches := rfl
@[simp] theorem State.modDie_mailbox (s : State) (d : Fin 4) (f : Die → Die) : (s.modDie d f).mailbox = s.mailbox := rfl
@[simp] theorem State.modDie_hsteer (s : State) (d : Fin 4) (f : Die → Die) : (s.modDie d f).hsteer = s.hsteer := rfl
@[simp] theorem State.modDie_tdi (s : State) (d : Fin 4) (f : Die → Die) : (s.modDie d f).tdi = s.tdi := rfl
@[simp] theorem State.modDie_ide (s : State) (d : Fin 4) (f : Die → Die) : (s.modDie d f).ide = s.ide := rfl
@[simp] theorem State.modDie_dwsel (s : State) (d : Fin 4) (f : Die → Die) : (s.modDie d f).dwsel = s.dwsel := rfl
@[simp] theorem State.modDie_spdm (s : State) (d : Fin 4) (f : Die → Die) : (s.modDie d f).spdm = s.spdm := rfl
@[simp] theorem State.modDie_meas (s : State) (d : Fin 4) (f : Die → Die) : (s.modDie d f).meas = s.meas := rfl
@[simp] theorem State.modDie_escrowed (s : State) (d : Fin 4) (f : Die → Die) : (s.modDie d f).escrowed = s.escrowed := rfl
@[simp] theorem State.modDie_safe (s : State) (d : Fin 4) (f : Die → Die) : (s.modDie d f).safe = s.safe := rfl
@[simp] theorem State.modDie_powerLimit (s : State) (d : Fin 4) (f : Die → Die) : (s.modDie d f).powerLimit = s.powerLimit := rfl
@[simp] theorem State.modDie_ep (s : State) (d : Fin 4) (f : Die → Die) : (s.modDie d f).ep = s.ep := rfl
@[simp] theorem State.modDie_links (s : State) (d : Fin 4) (f : Die → Die) : (s.modDie d f).links = s.links := rfl
@[simp] theorem State.modDie_ftime (s : State) (d : Fin 4) (f : Die → Die) : (s.modDie d f).ftime = s.ftime := rfl
@[simp] theorem State.modDie_lockCount (s : State) (d : Fin 4) (f : Die → Die) : (s.modDie d f).lockCount = s.lockCount := rfl
@[simp] theorem State.modDie_gangs (s : State) (d : Fin 4) (f : Die → Die) : (s.modDie d f).gangs = s.gangs := rfl
@[simp] theorem State.modDie_cur (s : State) (d : Fin 4) (f : Die → Die) : (s.modDie d f).cur = s.cur := rfl
@[simp] theorem State.modDie_agenda (s : State) (d : Fin 4) (f : Die → Die) : (s.modDie d f).agenda = s.agenda := rfl
@[simp] theorem State.modDie_inbox (s : State) (d : Fin 4) (f : Die → Die) : (s.modDie d f).inbox = s.inbox := rfl
@[simp] theorem State.modDie_outbox (s : State) (d : Fin 4) (f : Die → Die) : (s.modDie d f).outbox = s.outbox := rfl
@[simp] theorem State.modDie_fresh (s : State) (d : Fin 4) (f : Die → Die) : (s.modDie d f).fresh = s.fresh := rfl
@[simp] theorem State.modDie_ids (s : State) (d : Fin 4) (f : Die → Die) : (s.modDie d f).ids = s.ids := rfl
@[simp] theorem State.modChiplet_cores (s : State) (k : Fin 2) (f : Chiplet → Chiplet) : (s.modChiplet k f).cores = s.cores := rfl
@[simp] theorem State.modChiplet_clusters (s : State) (k : Fin 2) (f : Chiplet → Chiplet) : (s.modChiplet k f).clusters = s.clusters := rfl
@[simp] theorem State.modChiplet_dies (s : State) (k : Fin 2) (f : Chiplet → Chiplet) : (s.modChiplet k f).dies = s.dies := rfl
@[simp] theorem State.modChiplet_parts (s : State) (k : Fin 2) (f : Chiplet → Chiplet) : (s.modChiplet k f).parts = s.parts := rfl
@[simp] theorem State.modChiplet_mem (s : State) (k : Fin 2) (f : Chiplet → Chiplet) : (s.modChiplet k f).mem = s.mem := rfl
@[simp] theorem State.modChiplet_ecc (s : State) (k : Fin 2) (f : Chiplet → Chiplet) : (s.modChiplet k f).ecc = s.ecc := rfl
@[simp] theorem State.modChiplet_tiles (s : State) (k : Fin 2) (f : Chiplet → Chiplet) : (s.modChiplet k f).tiles = s.tiles := rfl
@[simp] theorem State.modChiplet_adds (s : State) (k : Fin 2) (f : Chiplet → Chiplet) : (s.modChiplet k f).adds = s.adds := rfl
@[simp] theorem State.modChiplet_launches (s : State) (k : Fin 2) (f : Chiplet → Chiplet) : (s.modChiplet k f).launches = s.launches := rfl
@[simp] theorem State.modChiplet_mailbox (s : State) (k : Fin 2) (f : Chiplet → Chiplet) : (s.modChiplet k f).mailbox = s.mailbox := rfl
@[simp] theorem State.modChiplet_hsteer (s : State) (k : Fin 2) (f : Chiplet → Chiplet) : (s.modChiplet k f).hsteer = s.hsteer := rfl
@[simp] theorem State.modChiplet_tdi (s : State) (k : Fin 2) (f : Chiplet → Chiplet) : (s.modChiplet k f).tdi = s.tdi := rfl
@[simp] theorem State.modChiplet_ide (s : State) (k : Fin 2) (f : Chiplet → Chiplet) : (s.modChiplet k f).ide = s.ide := rfl
@[simp] theorem State.modChiplet_dwsel (s : State) (k : Fin 2) (f : Chiplet → Chiplet) : (s.modChiplet k f).dwsel = s.dwsel := rfl
@[simp] theorem State.modChiplet_spdm (s : State) (k : Fin 2) (f : Chiplet → Chiplet) : (s.modChiplet k f).spdm = s.spdm := rfl
@[simp] theorem State.modChiplet_meas (s : State) (k : Fin 2) (f : Chiplet → Chiplet) : (s.modChiplet k f).meas = s.meas := rfl
@[simp] theorem State.modChiplet_escrowed (s : State) (k : Fin 2) (f : Chiplet → Chiplet) : (s.modChiplet k f).escrowed = s.escrowed := rfl
@[simp] theorem State.modChiplet_safe (s : State) (k : Fin 2) (f : Chiplet → Chiplet) : (s.modChiplet k f).safe = s.safe := rfl
@[simp] theorem State.modChiplet_powerLimit (s : State) (k : Fin 2) (f : Chiplet → Chiplet) : (s.modChiplet k f).powerLimit = s.powerLimit := rfl
@[simp] theorem State.modChiplet_ep (s : State) (k : Fin 2) (f : Chiplet → Chiplet) : (s.modChiplet k f).ep = s.ep := rfl
@[simp] theorem State.modChiplet_links (s : State) (k : Fin 2) (f : Chiplet → Chiplet) : (s.modChiplet k f).links = s.links := rfl
@[simp] theorem State.modChiplet_ftime (s : State) (k : Fin 2) (f : Chiplet → Chiplet) : (s.modChiplet k f).ftime = s.ftime := rfl
@[simp] theorem State.modChiplet_lockCount (s : State) (k : Fin 2) (f : Chiplet → Chiplet) : (s.modChiplet k f).lockCount = s.lockCount := rfl
@[simp] theorem State.modChiplet_gangs (s : State) (k : Fin 2) (f : Chiplet → Chiplet) : (s.modChiplet k f).gangs = s.gangs := rfl
@[simp] theorem State.modChiplet_cur (s : State) (k : Fin 2) (f : Chiplet → Chiplet) : (s.modChiplet k f).cur = s.cur := rfl
@[simp] theorem State.modChiplet_agenda (s : State) (k : Fin 2) (f : Chiplet → Chiplet) : (s.modChiplet k f).agenda = s.agenda := rfl
@[simp] theorem State.modChiplet_inbox (s : State) (k : Fin 2) (f : Chiplet → Chiplet) : (s.modChiplet k f).inbox = s.inbox := rfl
@[simp] theorem State.modChiplet_outbox (s : State) (k : Fin 2) (f : Chiplet → Chiplet) : (s.modChiplet k f).outbox = s.outbox := rfl
@[simp] theorem State.modChiplet_fresh (s : State) (k : Fin 2) (f : Chiplet → Chiplet) : (s.modChiplet k f).fresh = s.fresh := rfl
@[simp] theorem State.modChiplet_ids (s : State) (k : Fin 2) (f : Chiplet → Chiplet) : (s.modChiplet k f).ids = s.ids := rfl
@[simp] theorem State.modPart_cores (s : State) (p : BitVec 5) (f : Part → Part) : (s.modPart p f).cores = s.cores := rfl
@[simp] theorem State.modPart_clusters (s : State) (p : BitVec 5) (f : Part → Part) : (s.modPart p f).clusters = s.clusters := rfl
@[simp] theorem State.modPart_dies (s : State) (p : BitVec 5) (f : Part → Part) : (s.modPart p f).dies = s.dies := rfl
@[simp] theorem State.modPart_chiplets (s : State) (p : BitVec 5) (f : Part → Part) : (s.modPart p f).chiplets = s.chiplets := rfl
@[simp] theorem State.modPart_mem (s : State) (p : BitVec 5) (f : Part → Part) : (s.modPart p f).mem = s.mem := rfl
@[simp] theorem State.modPart_ecc (s : State) (p : BitVec 5) (f : Part → Part) : (s.modPart p f).ecc = s.ecc := rfl
@[simp] theorem State.modPart_tiles (s : State) (p : BitVec 5) (f : Part → Part) : (s.modPart p f).tiles = s.tiles := rfl
@[simp] theorem State.modPart_adds (s : State) (p : BitVec 5) (f : Part → Part) : (s.modPart p f).adds = s.adds := rfl
@[simp] theorem State.modPart_launches (s : State) (p : BitVec 5) (f : Part → Part) : (s.modPart p f).launches = s.launches := rfl
@[simp] theorem State.modPart_mailbox (s : State) (p : BitVec 5) (f : Part → Part) : (s.modPart p f).mailbox = s.mailbox := rfl
@[simp] theorem State.modPart_hsteer (s : State) (p : BitVec 5) (f : Part → Part) : (s.modPart p f).hsteer = s.hsteer := rfl
@[simp] theorem State.modPart_tdi (s : State) (p : BitVec 5) (f : Part → Part) : (s.modPart p f).tdi = s.tdi := rfl
@[simp] theorem State.modPart_ide (s : State) (p : BitVec 5) (f : Part → Part) : (s.modPart p f).ide = s.ide := rfl
@[simp] theorem State.modPart_dwsel (s : State) (p : BitVec 5) (f : Part → Part) : (s.modPart p f).dwsel = s.dwsel := rfl
@[simp] theorem State.modPart_spdm (s : State) (p : BitVec 5) (f : Part → Part) : (s.modPart p f).spdm = s.spdm := rfl
@[simp] theorem State.modPart_meas (s : State) (p : BitVec 5) (f : Part → Part) : (s.modPart p f).meas = s.meas := rfl
@[simp] theorem State.modPart_escrowed (s : State) (p : BitVec 5) (f : Part → Part) : (s.modPart p f).escrowed = s.escrowed := rfl
@[simp] theorem State.modPart_safe (s : State) (p : BitVec 5) (f : Part → Part) : (s.modPart p f).safe = s.safe := rfl
@[simp] theorem State.modPart_powerLimit (s : State) (p : BitVec 5) (f : Part → Part) : (s.modPart p f).powerLimit = s.powerLimit := rfl
@[simp] theorem State.modPart_ep (s : State) (p : BitVec 5) (f : Part → Part) : (s.modPart p f).ep = s.ep := rfl
@[simp] theorem State.modPart_links (s : State) (p : BitVec 5) (f : Part → Part) : (s.modPart p f).links = s.links := rfl
@[simp] theorem State.modPart_ftime (s : State) (p : BitVec 5) (f : Part → Part) : (s.modPart p f).ftime = s.ftime := rfl
@[simp] theorem State.modPart_lockCount (s : State) (p : BitVec 5) (f : Part → Part) : (s.modPart p f).lockCount = s.lockCount := rfl
@[simp] theorem State.modPart_gangs (s : State) (p : BitVec 5) (f : Part → Part) : (s.modPart p f).gangs = s.gangs := rfl
@[simp] theorem State.modPart_cur (s : State) (p : BitVec 5) (f : Part → Part) : (s.modPart p f).cur = s.cur := rfl
@[simp] theorem State.modPart_agenda (s : State) (p : BitVec 5) (f : Part → Part) : (s.modPart p f).agenda = s.agenda := rfl
@[simp] theorem State.modPart_inbox (s : State) (p : BitVec 5) (f : Part → Part) : (s.modPart p f).inbox = s.inbox := rfl
@[simp] theorem State.modPart_outbox (s : State) (p : BitVec 5) (f : Part → Part) : (s.modPart p f).outbox = s.outbox := rfl
@[simp] theorem State.modPart_fresh (s : State) (p : BitVec 5) (f : Part → Part) : (s.modPart p f).fresh = s.fresh := rfl
@[simp] theorem State.modPart_ids (s : State) (p : BitVec 5) (f : Part → Part) : (s.modPart p f).ids = s.ids := rfl
@[simp] theorem State.took_cores (s : State) : (s.took).cores = s.cores := rfl
@[simp] theorem State.took_clusters (s : State) : (s.took).clusters = s.clusters := rfl
@[simp] theorem State.took_dies (s : State) : (s.took).dies = s.dies := rfl
@[simp] theorem State.took_chiplets (s : State) : (s.took).chiplets = s.chiplets := rfl
@[simp] theorem State.took_parts (s : State) : (s.took).parts = s.parts := rfl
@[simp] theorem State.took_mem (s : State) : (s.took).mem = s.mem := rfl
@[simp] theorem State.took_ecc (s : State) : (s.took).ecc = s.ecc := rfl
@[simp] theorem State.took_tiles (s : State) : (s.took).tiles = s.tiles := rfl
@[simp] theorem State.took_adds (s : State) : (s.took).adds = s.adds := rfl
@[simp] theorem State.took_launches (s : State) : (s.took).launches = s.launches := rfl
@[simp] theorem State.took_mailbox (s : State) : (s.took).mailbox = s.mailbox := rfl
@[simp] theorem State.took_hsteer (s : State) : (s.took).hsteer = s.hsteer := rfl
@[simp] theorem State.took_tdi (s : State) : (s.took).tdi = s.tdi := rfl
@[simp] theorem State.took_ide (s : State) : (s.took).ide = s.ide := rfl
@[simp] theorem State.took_dwsel (s : State) : (s.took).dwsel = s.dwsel := rfl
@[simp] theorem State.took_spdm (s : State) : (s.took).spdm = s.spdm := rfl
@[simp] theorem State.took_meas (s : State) : (s.took).meas = s.meas := rfl
@[simp] theorem State.took_escrowed (s : State) : (s.took).escrowed = s.escrowed := rfl
@[simp] theorem State.took_safe (s : State) : (s.took).safe = s.safe := rfl
@[simp] theorem State.took_powerLimit (s : State) : (s.took).powerLimit = s.powerLimit := rfl
@[simp] theorem State.took_ep (s : State) : (s.took).ep = s.ep := rfl
@[simp] theorem State.took_links (s : State) : (s.took).links = s.links := rfl
@[simp] theorem State.took_ftime (s : State) : (s.took).ftime = s.ftime := rfl
@[simp] theorem State.took_lockCount (s : State) : (s.took).lockCount = s.lockCount := rfl
@[simp] theorem State.took_gangs (s : State) : (s.took).gangs = s.gangs := rfl
@[simp] theorem State.took_cur (s : State) : (s.took).cur = s.cur := rfl
@[simp] theorem State.took_agenda (s : State) : (s.took).agenda = s.agenda := rfl
@[simp] theorem State.took_inbox (s : State) : (s.took).inbox = s.inbox := rfl
@[simp] theorem State.took_outbox (s : State) : (s.took).outbox = s.outbox := rfl
@[simp] theorem State.took_ids (s : State) : (s.took).ids = s.ids := rfl
@[simp] theorem State.newId_cores (s : State) : (s.newId).cores = s.cores := rfl
@[simp] theorem State.newId_clusters (s : State) : (s.newId).clusters = s.clusters := rfl
@[simp] theorem State.newId_dies (s : State) : (s.newId).dies = s.dies := rfl
@[simp] theorem State.newId_chiplets (s : State) : (s.newId).chiplets = s.chiplets := rfl
@[simp] theorem State.newId_parts (s : State) : (s.newId).parts = s.parts := rfl
@[simp] theorem State.newId_mem (s : State) : (s.newId).mem = s.mem := rfl
@[simp] theorem State.newId_ecc (s : State) : (s.newId).ecc = s.ecc := rfl
@[simp] theorem State.newId_tiles (s : State) : (s.newId).tiles = s.tiles := rfl
@[simp] theorem State.newId_adds (s : State) : (s.newId).adds = s.adds := rfl
@[simp] theorem State.newId_launches (s : State) : (s.newId).launches = s.launches := rfl
@[simp] theorem State.newId_mailbox (s : State) : (s.newId).mailbox = s.mailbox := rfl
@[simp] theorem State.newId_hsteer (s : State) : (s.newId).hsteer = s.hsteer := rfl
@[simp] theorem State.newId_tdi (s : State) : (s.newId).tdi = s.tdi := rfl
@[simp] theorem State.newId_ide (s : State) : (s.newId).ide = s.ide := rfl
@[simp] theorem State.newId_dwsel (s : State) : (s.newId).dwsel = s.dwsel := rfl
@[simp] theorem State.newId_spdm (s : State) : (s.newId).spdm = s.spdm := rfl
@[simp] theorem State.newId_meas (s : State) : (s.newId).meas = s.meas := rfl
@[simp] theorem State.newId_escrowed (s : State) : (s.newId).escrowed = s.escrowed := rfl
@[simp] theorem State.newId_safe (s : State) : (s.newId).safe = s.safe := rfl
@[simp] theorem State.newId_powerLimit (s : State) : (s.newId).powerLimit = s.powerLimit := rfl
@[simp] theorem State.newId_ep (s : State) : (s.newId).ep = s.ep := rfl
@[simp] theorem State.newId_links (s : State) : (s.newId).links = s.links := rfl
@[simp] theorem State.newId_ftime (s : State) : (s.newId).ftime = s.ftime := rfl
@[simp] theorem State.newId_lockCount (s : State) : (s.newId).lockCount = s.lockCount := rfl
@[simp] theorem State.newId_gangs (s : State) : (s.newId).gangs = s.gangs := rfl
@[simp] theorem State.newId_cur (s : State) : (s.newId).cur = s.cur := rfl
@[simp] theorem State.newId_agenda (s : State) : (s.newId).agenda = s.agenda := rfl
@[simp] theorem State.newId_inbox (s : State) : (s.newId).inbox = s.inbox := rfl
@[simp] theorem State.newId_outbox (s : State) : (s.newId).outbox = s.outbox := rfl
@[simp] theorem State.newId_fresh (s : State) : (s.newId).fresh = s.fresh := rfl
@[simp] theorem State.emit_cores (s : State) (e : Emit) : (s.emit e).cores = s.cores := rfl
@[simp] theorem State.emit_clusters (s : State) (e : Emit) : (s.emit e).clusters = s.clusters := rfl
@[simp] theorem State.emit_dies (s : State) (e : Emit) : (s.emit e).dies = s.dies := rfl
@[simp] theorem State.emit_chiplets (s : State) (e : Emit) : (s.emit e).chiplets = s.chiplets := rfl
@[simp] theorem State.emit_parts (s : State) (e : Emit) : (s.emit e).parts = s.parts := rfl
@[simp] theorem State.emit_mem (s : State) (e : Emit) : (s.emit e).mem = s.mem := rfl
@[simp] theorem State.emit_ecc (s : State) (e : Emit) : (s.emit e).ecc = s.ecc := rfl
@[simp] theorem State.emit_tiles (s : State) (e : Emit) : (s.emit e).tiles = s.tiles := rfl
@[simp] theorem State.emit_adds (s : State) (e : Emit) : (s.emit e).adds = s.adds := rfl
@[simp] theorem State.emit_launches (s : State) (e : Emit) : (s.emit e).launches = s.launches := rfl
@[simp] theorem State.emit_mailbox (s : State) (e : Emit) : (s.emit e).mailbox = s.mailbox := rfl
@[simp] theorem State.emit_hsteer (s : State) (e : Emit) : (s.emit e).hsteer = s.hsteer := rfl
@[simp] theorem State.emit_tdi (s : State) (e : Emit) : (s.emit e).tdi = s.tdi := rfl
@[simp] theorem State.emit_ide (s : State) (e : Emit) : (s.emit e).ide = s.ide := rfl
@[simp] theorem State.emit_dwsel (s : State) (e : Emit) : (s.emit e).dwsel = s.dwsel := rfl
@[simp] theorem State.emit_spdm (s : State) (e : Emit) : (s.emit e).spdm = s.spdm := rfl
@[simp] theorem State.emit_meas (s : State) (e : Emit) : (s.emit e).meas = s.meas := rfl
@[simp] theorem State.emit_escrowed (s : State) (e : Emit) : (s.emit e).escrowed = s.escrowed := rfl
@[simp] theorem State.emit_safe (s : State) (e : Emit) : (s.emit e).safe = s.safe := rfl
@[simp] theorem State.emit_powerLimit (s : State) (e : Emit) : (s.emit e).powerLimit = s.powerLimit := rfl
@[simp] theorem State.emit_ep (s : State) (e : Emit) : (s.emit e).ep = s.ep := rfl
@[simp] theorem State.emit_links (s : State) (e : Emit) : (s.emit e).links = s.links := rfl
@[simp] theorem State.emit_ftime (s : State) (e : Emit) : (s.emit e).ftime = s.ftime := rfl
@[simp] theorem State.emit_lockCount (s : State) (e : Emit) : (s.emit e).lockCount = s.lockCount := rfl
@[simp] theorem State.emit_gangs (s : State) (e : Emit) : (s.emit e).gangs = s.gangs := rfl
@[simp] theorem State.emit_cur (s : State) (e : Emit) : (s.emit e).cur = s.cur := rfl
@[simp] theorem State.emit_agenda (s : State) (e : Emit) : (s.emit e).agenda = s.agenda := rfl
@[simp] theorem State.emit_inbox (s : State) (e : Emit) : (s.emit e).inbox = s.inbox := rfl
@[simp] theorem State.emit_fresh (s : State) (e : Emit) : (s.emit e).fresh = s.fresh := rfl
@[simp] theorem State.emit_ids (s : State) (e : Emit) : (s.emit e).ids = s.ids := rfl
@[simp] theorem State.dueFirst_cores (s : State) (l : List Instr) : (s.dueFirst l).cores = s.cores := rfl
@[simp] theorem State.dueFirst_clusters (s : State) (l : List Instr) : (s.dueFirst l).clusters = s.clusters := rfl
@[simp] theorem State.dueFirst_dies (s : State) (l : List Instr) : (s.dueFirst l).dies = s.dies := rfl
@[simp] theorem State.dueFirst_chiplets (s : State) (l : List Instr) : (s.dueFirst l).chiplets = s.chiplets := rfl
@[simp] theorem State.dueFirst_parts (s : State) (l : List Instr) : (s.dueFirst l).parts = s.parts := rfl
@[simp] theorem State.dueFirst_mem (s : State) (l : List Instr) : (s.dueFirst l).mem = s.mem := rfl
@[simp] theorem State.dueFirst_ecc (s : State) (l : List Instr) : (s.dueFirst l).ecc = s.ecc := rfl
@[simp] theorem State.dueFirst_tiles (s : State) (l : List Instr) : (s.dueFirst l).tiles = s.tiles := rfl
@[simp] theorem State.dueFirst_adds (s : State) (l : List Instr) : (s.dueFirst l).adds = s.adds := rfl
@[simp] theorem State.dueFirst_launches (s : State) (l : List Instr) : (s.dueFirst l).launches = s.launches := rfl
@[simp] theorem State.dueFirst_mailbox (s : State) (l : List Instr) : (s.dueFirst l).mailbox = s.mailbox := rfl
@[simp] theorem State.dueFirst_hsteer (s : State) (l : List Instr) : (s.dueFirst l).hsteer = s.hsteer := rfl
@[simp] theorem State.dueFirst_tdi (s : State) (l : List Instr) : (s.dueFirst l).tdi = s.tdi := rfl
@[simp] theorem State.dueFirst_ide (s : State) (l : List Instr) : (s.dueFirst l).ide = s.ide := rfl
@[simp] theorem State.dueFirst_dwsel (s : State) (l : List Instr) : (s.dueFirst l).dwsel = s.dwsel := rfl
@[simp] theorem State.dueFirst_spdm (s : State) (l : List Instr) : (s.dueFirst l).spdm = s.spdm := rfl
@[simp] theorem State.dueFirst_meas (s : State) (l : List Instr) : (s.dueFirst l).meas = s.meas := rfl
@[simp] theorem State.dueFirst_escrowed (s : State) (l : List Instr) : (s.dueFirst l).escrowed = s.escrowed := rfl
@[simp] theorem State.dueFirst_safe (s : State) (l : List Instr) : (s.dueFirst l).safe = s.safe := rfl
@[simp] theorem State.dueFirst_powerLimit (s : State) (l : List Instr) : (s.dueFirst l).powerLimit = s.powerLimit := rfl
@[simp] theorem State.dueFirst_ep (s : State) (l : List Instr) : (s.dueFirst l).ep = s.ep := rfl
@[simp] theorem State.dueFirst_links (s : State) (l : List Instr) : (s.dueFirst l).links = s.links := rfl
@[simp] theorem State.dueFirst_ftime (s : State) (l : List Instr) : (s.dueFirst l).ftime = s.ftime := rfl
@[simp] theorem State.dueFirst_lockCount (s : State) (l : List Instr) : (s.dueFirst l).lockCount = s.lockCount := rfl
@[simp] theorem State.dueFirst_gangs (s : State) (l : List Instr) : (s.dueFirst l).gangs = s.gangs := rfl
@[simp] theorem State.dueFirst_cur (s : State) (l : List Instr) : (s.dueFirst l).cur = s.cur := rfl
@[simp] theorem State.dueFirst_inbox (s : State) (l : List Instr) : (s.dueFirst l).inbox = s.inbox := rfl
@[simp] theorem State.dueFirst_outbox (s : State) (l : List Instr) : (s.dueFirst l).outbox = s.outbox := rfl
@[simp] theorem State.dueFirst_fresh (s : State) (l : List Instr) : (s.dueFirst l).fresh = s.fresh := rfl
@[simp] theorem State.dueFirst_ids (s : State) (l : List Instr) : (s.dueFirst l).ids = s.ids := rfl
@[simp] theorem State.setByte_cores (s : State) (a : PAddr) (v : Byte) : (s.setByte a v).cores = s.cores := rfl
@[simp] theorem State.setByte_clusters (s : State) (a : PAddr) (v : Byte) : (s.setByte a v).clusters = s.clusters := rfl
@[simp] theorem State.setByte_dies (s : State) (a : PAddr) (v : Byte) : (s.setByte a v).dies = s.dies := rfl
@[simp] theorem State.setByte_chiplets (s : State) (a : PAddr) (v : Byte) : (s.setByte a v).chiplets = s.chiplets := rfl
@[simp] theorem State.setByte_parts (s : State) (a : PAddr) (v : Byte) : (s.setByte a v).parts = s.parts := rfl
@[simp] theorem State.setByte_ecc (s : State) (a : PAddr) (v : Byte) : (s.setByte a v).ecc = s.ecc := rfl
@[simp] theorem State.setByte_tiles (s : State) (a : PAddr) (v : Byte) : (s.setByte a v).tiles = s.tiles := rfl
@[simp] theorem State.setByte_adds (s : State) (a : PAddr) (v : Byte) : (s.setByte a v).adds = s.adds := rfl
@[simp] theorem State.setByte_launches (s : State) (a : PAddr) (v : Byte) : (s.setByte a v).launches = s.launches := rfl
@[simp] theorem State.setByte_mailbox (s : State) (a : PAddr) (v : Byte) : (s.setByte a v).mailbox = s.mailbox := rfl
@[simp] theorem State.setByte_hsteer (s : State) (a : PAddr) (v : Byte) : (s.setByte a v).hsteer = s.hsteer := rfl
@[simp] theorem State.setByte_tdi (s : State) (a : PAddr) (v : Byte) : (s.setByte a v).tdi = s.tdi := rfl
@[simp] theorem State.setByte_ide (s : State) (a : PAddr) (v : Byte) : (s.setByte a v).ide = s.ide := rfl
@[simp] theorem State.setByte_dwsel (s : State) (a : PAddr) (v : Byte) : (s.setByte a v).dwsel = s.dwsel := rfl
@[simp] theorem State.setByte_spdm (s : State) (a : PAddr) (v : Byte) : (s.setByte a v).spdm = s.spdm := rfl
@[simp] theorem State.setByte_meas (s : State) (a : PAddr) (v : Byte) : (s.setByte a v).meas = s.meas := rfl
@[simp] theorem State.setByte_escrowed (s : State) (a : PAddr) (v : Byte) : (s.setByte a v).escrowed = s.escrowed := rfl
@[simp] theorem State.setByte_safe (s : State) (a : PAddr) (v : Byte) : (s.setByte a v).safe = s.safe := rfl
@[simp] theorem State.setByte_powerLimit (s : State) (a : PAddr) (v : Byte) : (s.setByte a v).powerLimit = s.powerLimit := rfl
@[simp] theorem State.setByte_ep (s : State) (a : PAddr) (v : Byte) : (s.setByte a v).ep = s.ep := rfl
@[simp] theorem State.setByte_links (s : State) (a : PAddr) (v : Byte) : (s.setByte a v).links = s.links := rfl
@[simp] theorem State.setByte_ftime (s : State) (a : PAddr) (v : Byte) : (s.setByte a v).ftime = s.ftime := rfl
@[simp] theorem State.setByte_lockCount (s : State) (a : PAddr) (v : Byte) : (s.setByte a v).lockCount = s.lockCount := rfl
@[simp] theorem State.setByte_gangs (s : State) (a : PAddr) (v : Byte) : (s.setByte a v).gangs = s.gangs := rfl
@[simp] theorem State.setByte_cur (s : State) (a : PAddr) (v : Byte) : (s.setByte a v).cur = s.cur := rfl
@[simp] theorem State.setByte_agenda (s : State) (a : PAddr) (v : Byte) : (s.setByte a v).agenda = s.agenda := rfl
@[simp] theorem State.setByte_inbox (s : State) (a : PAddr) (v : Byte) : (s.setByte a v).inbox = s.inbox := rfl
@[simp] theorem State.setByte_outbox (s : State) (a : PAddr) (v : Byte) : (s.setByte a v).outbox = s.outbox := rfl
@[simp] theorem State.setByte_fresh (s : State) (a : PAddr) (v : Byte) : (s.setByte a v).fresh = s.fresh := rfl
@[simp] theorem State.setByte_ids (s : State) (a : PAddr) (v : Byte) : (s.setByte a v).ids = s.ids := rfl

/-! ### What the changed part reads as -/

@[simp] theorem vmod_get_same {α : Type} {n : Nat} (v : Vector α n) (i : Fin n) (f : α → α) : (vmod v i f).get i = f (v.get i) := by
  simp [vmod, Vector.get_eq_getElem]

theorem vmod_get_ne {α : Type} {n : Nat} (v : Vector α n) (i j : Fin n) (f : α → α) (h : j ≠ i) : (vmod v i f).get j = v.get j := by
  have h' : i.val ≠ j.val := fun e => h (Fin.ext e.symm)
  simp [vmod, Vector.get_eq_getElem, h']

@[simp] theorem State.core_modCore_same (s : State) (k : Fin 256) (f : Core → Core) : (s.modCore k f).core k = f (s.core k) :=
  vmod_get_same _ _ _
theorem State.core_modCore_ne (s : State) (k j : Fin 256) (f : Core → Core) (h : j ≠ k) : (s.modCore k f).core j = s.core j :=
  vmod_get_ne _ _ _ _ h
@[simp] theorem State.slot_modSlot_same (s : State) (c : CpId) (f : Slot → Slot) : (s.modSlot c f).slot c = f (s.slot c) := by
  simp [State.slot, State.modSlot]
theorem State.slot_modSlot_ne (s : State) (c d : CpId) (f : Slot → Slot) (h : d ≠ c) : (s.modSlot c f).slot d = s.slot d := by
  by_cases hk : d.core = c.core
  · have hs : d.slot ≠ c.slot := fun e => h (by cases d; cases c; simp_all)
    simp [State.slot, State.modSlot, hk, vmod_get_ne, hs]
  · simp [State.slot, State.modSlot, State.core_modCore_ne, hk]
@[simp] theorem State.cp_modCp_same (s : State) (c : CpId) (f : Cp → Cp) : (s.modCp c f).cp c = f (s.cp c) := by
  simp [State.cp, State.modCp]
theorem State.cp_modCp_ne (s : State) (c d : CpId) (f : Cp → Cp) (h : d ≠ c) : (s.modCp c f).cp d = s.cp d := by
  simp [State.cp, State.modCp, State.slot_modSlot_ne, h]
@[simp] theorem State.region_modRegion_same (s : State) (c : CpId) (r : Fin 4) (f : Region → Region) :
    (s.modRegion c r f).region c r = f (s.region c r) := by
  simp [State.region, State.modRegion]
@[simp] theorem State.elem_modElem_same (s : State) (c : CpId) (e : Fin 256) (f : Elem → Elem) :
    (s.modElem c e f).elem c e = f (s.elem c e) := by
  simp [State.elem, State.modElem]
theorem State.elem_modElem_ne (s : State) (c : CpId) (e d : Fin 256) (f : Elem → Elem) (h : d ≠ e) :
    (s.modElem c e f).elem c d = s.elem c d := by
  simp [State.elem, State.modElem, vmod_get_ne, h]
@[simp] theorem State.cluster_modCluster_same (s : State) (k : Fin 32) (f : Cluster → Cluster) :
    (s.modCluster k f).cluster k = f (s.cluster k) := vmod_get_same _ _ _
@[simp] theorem State.die_modDie_same (s : State) (d : Fin 4) (f : Die → Die) : (s.modDie d f).die d = f (s.die d) := vmod_get_same _ _ _
@[simp] theorem State.chiplet_modChiplet_same (s : State) (k : Fin 2) (f : Chiplet → Chiplet) :
    (s.modChiplet k f).chiplet k = f (s.chiplet k) := vmod_get_same _ _ _
@[simp] theorem State.part_modPart_same (s : State) (p : BitVec 5) (f : Part → Part) : (s.modPart p f).part p = f (s.part p) :=
  vmod_get_same _ _ _

/-- The core of a slot that was changed. -/
theorem State.core_modSlot_same (s : State) (c : CpId) (f : Slot → Slot) :
    (s.modSlot c f).core c.core = { s.core c.core with slots := vmod (s.core c.core).slots c.slot f } := by
  simp [State.modSlot]
theorem State.core_modSlot_ne (s : State) (c : CpId) (k : Fin 256) (f : Slot → Slot) (h : k ≠ c.core) :
    (s.modSlot c f).core k = s.core k := State.core_modCore_ne _ _ _ _ h

end Sys2Proof.Machine
end

