-- ==== Sys2Proof/Laws/Memory.lean ====
section
/-! SUPPORT. Memory: reading after writing, and that every write keeps the canonical form. -/
namespace Sys2Proof.Machine

/-- Every key of a memory lies above a bound. -/
def Memory.above (m : Memory) (x : Nat) : Prop := ∀ c ∈ m, x < c.1

theorem Memory.wf_cons (c : Host.Cell) (t : Memory) :
    Memory.wf (c :: t) = true ↔ c.2 ≠ unlisted ∧ Memory.above t c.1 ∧ Memory.wf t = true := by
  simp [Memory.wf, Memory.above, and_assoc]

theorem memSet_above (m : Memory) (x y : Nat) (v : Byte) (h : Memory.above m y) (hx : y < x) : Memory.above (memSet m x v) y := by
  induction m with
  | nil =>
    unfold memSet
    split <;> simp [Memory.above, hx]
  | cons c t ih =>
    have ht : Memory.above t y := fun d hd => h d (List.mem_cons_of_mem _ hd)
    have hc : y < c.1 := h c List.mem_cons_self
    unfold memSet
    split
    · split
      · exact h
      · intro d hd
        rcases List.mem_cons.mp hd with e | hd
        · simpa [e] using hx
        · exact h d hd
    · split
      · split
        · exact ht
        · intro d hd
          rcases List.mem_cons.mp hd with e | hd
          · simpa [e] using hx
          · exact ht d hd
      · intro d hd
        rcases List.mem_cons.mp hd with e | hd
        · simpa [e] using hc
        · exact ih ht d hd

/-- A write of a byte keeps the canonical form. -/
theorem memSet_wf (m : Memory) (x : Nat) (v : Byte) (h : Memory.wf m = true) : Memory.wf (memSet m x v) = true := by
  induction m with
  | nil =>
    unfold memSet
    split
    · rfl
    · rename_i hv
      exact (Memory.wf_cons _ _).mpr ⟨hv, by simp [Memory.above], rfl⟩
  | cons c t ih =>
    obtain ⟨hc, ha, ht⟩ := (Memory.wf_cons c t).mp h
    unfold memSet
    split
    · rename_i hlt
      split
      · exact h
      · rename_i hv
        refine (Memory.wf_cons _ _).mpr ⟨hv, ?_, h⟩
        intro d hd
        rcases List.mem_cons.mp hd with e | hd
        · simpa [e] using hlt
        · exact Nat.lt_trans hlt (ha d hd)
    · split
      · rename_i heq
        split
        · exact ht
        · rename_i hv
          exact (Memory.wf_cons _ _).mpr ⟨hv, by simpa [heq] using ha, ht⟩
      · rename_i h1 h2
        exact (Memory.wf_cons _ _).mpr ⟨hc, memSet_above t x c.1 v ha (by have := h1; have := h2; simp_all; omega), ih ht⟩

/-- Leaving out entries keeps the canonical form. -/
theorem filter_wf (m : Memory) (p : Host.Cell → Bool) (h : Memory.wf m = true) : Memory.wf (m.filter p) = true := by
  induction m with
  | nil => rfl
  | cons c t ih =>
    obtain ⟨hc, ha, ht⟩ := (Memory.wf_cons c t).mp h
    rw [List.filter_cons]
    split
    · exact (Memory.wf_cons _ _).mpr ⟨hc, fun d hd => ha d (List.mem_of_mem_filter hd), ih ht⟩
    · exact ih ht

/-- A byte reads as it was written. -/
theorem memGet_memSet_same (m : Memory) (x : Nat) (v : Byte) (h : Memory.wf m = true) : memGet (memSet m x v) x = v := by
  have absent : ∀ t : Memory, Memory.above t x → memGet t x = unlisted := by
    intro t
    induction t with
    | nil => intro _; rfl
    | cons d t ih =>
      intro ha
      have hd : x < d.1 := ha d List.mem_cons_self
      unfold memGet
      rw [if_neg (by omega)]
      exact ih fun e he => ha e (List.mem_cons_of_mem _ he)
  induction m with
  | nil =>
    unfold memSet
    split
    · rename_i hv; simp [memGet, hv]
    · simp [memGet]
  | cons c t ih =>
    obtain ⟨_, ha, ht⟩ := (Memory.wf_cons c t).mp h
    unfold memSet
    split
    · rename_i hlt
      split
      · rename_i hv
        rw [hv]
        refine absent _ fun d hd => ?_
        rcases List.mem_cons.mp hd with e | hd
        · simpa [e] using hlt
        · exact Nat.lt_trans hlt (ha d hd)
      · simp [memGet]
    · split
      · rename_i heq
        split
        · rename_i hv
          rw [hv]
          exact absent _ (by simpa [heq] using ha)
        · simp [memGet]
      · rename_i h1 h2
        unfold memGet
        rw [if_neg (fun e => h2 e.symm)]
        exact ih ht

/-- A write leaves every other place alone. -/
theorem memGet_memSet_ne (m : Memory) (x y : Nat) (v : Byte) (h : y ≠ x) : memGet (memSet m x v) y = memGet m y := by
  induction m with
  | nil =>
    unfold memSet
    split
    · rfl
    · simp [memGet, h.symm]
  | cons c t ih =>
    unfold memSet
    split
    · split
      · rfl
      · conv_lhs => unfold memGet
        rw [if_neg (fun e => h e.symm)]
    · split
      · rename_i heq
        split
        · conv_rhs => unfold memGet
          rw [if_neg (by rw [← heq]; exact fun e => h e.symm)]
        · conv_lhs => unfold memGet
          conv_rhs => unfold memGet
          rw [if_neg (fun e => h e.symm), if_neg (by rw [← heq]; exact fun e => h e.symm)]
      · conv_lhs => unfold memGet
        conv_rhs => unfold memGet
        split
        · rfl
        · exact ih

/-! ### The writes of Machine/Ops.lean -/

theorem State.setByte_wf (s : State) (a : PAddr) (v : Byte) (h : Memory.wf s.mem = true) : Memory.wf (s.setByte a v).mem = true :=
  memSet_wf _ _ _ h

theorem State.setBytes_wf (s : State) (a : PAddr) (b : List Byte) (h : Memory.wf s.mem = true) :
    Memory.wf (s.setBytes a b).mem = true := by
  induction b generalizing s a with
  | nil => exact h
  | cons c t ih => exact ih _ _ (State.setByte_wf s a c h)

@[simp] theorem State.setInjOf_mem (s : State) (a : PAddr) (v : Word) : (s.setInjOf a v).mem = s.mem := by
  unfold State.setInjOf
  split <;> rfl

/-- What a write leaves of the memory: the bytes it wrote. -/
theorem State.store_mem (s : State) (part : BitVec 5) (a : PAddr) (b : List Byte) :
    (s.store part a b).mem = (s.setBytes a b).mem := by
  unfold State.store
  simp only
  split
  · split <;> rfl
  · split <;> simp <;> split <;> rfl

theorem State.store_wf (s : State) (part : BitVec 5) (a : PAddr) (b : List Byte) (h : Memory.wf s.mem = true) :
    Memory.wf (s.store part a b).mem = true := by
  rw [State.store_mem]
  exact State.setBytes_wf s a b h

@[simp] theorem State.logAt_mem (s : State) (who : CpId) (part : BitVec 5) (a : PAddr) (m : EccMark) :
    (s.logAt who part a m).mem = s.mem := by
  unfold State.logAt
  simp only
  split <;> rfl

@[simp] theorem State.logMarks_mem (s : State) (who : CpId) (part : BitVec 5) (a : PAddr) (ms : List EccMark) :
    (s.logMarks who part a ms).mem = s.mem := by
  have step : ∀ (l : List EccMark) (t : State),
      (l.foldl (fun t m => t.logAt who part { a with off := a.off + (m.word - a.key / 8) * 8 } m) t).mem = t.mem := by
    intro l
    induction l with
    | nil => intro t; rfl
    | cons m l ih => intro t; rw [List.foldl_cons, ih, State.logAt_mem]
  exact step _ _

/-- A read changes no memory. -/
@[simp] theorem State.load_mem (s : State) (who : CpId) (part : BitVec 5) (a : PAddr) (n : Nat) : (s.load who part a n).1.mem = s.mem := by
  unfold State.load
  simp only
  split <;> simp

@[simp] theorem State.injectArr_mem (s : State) (core : Fin 256) (part : BitVec 5) (arr unit word : Nat) :
    (s.injectArr core part arr unit word).mem = s.mem := by
  unfold State.injectArr
  simp only
  split
  · split
    · rfl
    · split <;> rfl
  · rfl

@[simp] theorem State.writeArr_mem (s : State) (core : Fin 256) (part : BitVec 5) (arr unit word n : Nat) :
    (s.writeArr core part arr unit word n).mem = s.mem := by
  rw [State.writeArr, State.injectArr_mem]
  unfold State.cleanArr
  split <;> rfl

/-- The key under which a place is read does not depend on the memory. -/
@[simp] theorem State.pad_setByte (s : State) (a b : PAddr) (v : Byte) : (s.setByte a v).pad b = s.pad b := rfl

/-- A byte reads as it was written. -/
theorem State.byteAt_setByte_same (s : State) (a : PAddr) (v : Byte) (h : Memory.wf s.mem = true) : (s.setByte a v).byteAt a = v := by
  simp [State.byteAt, State.setByte, memGet_memSet_same _ _ _ h, State.pad, BitVec.xor_assoc]
  rfl

/-- Another byte reads as before. -/
theorem State.byteAt_setByte_ne (s : State) (a b : PAddr) (v : Byte) (h : b.key ≠ a.key) : (s.setByte a v).byteAt b = s.byteAt b := by
  simp only [State.byteAt, State.setByte, memGet_memSet_ne _ _ _ _ h]
  rfl

theorem State.byteAt_setBytes_before (s : State) (a b : PAddr) (l : List Byte) (hs : b.space = a.space) (h : b.off < a.off) : (s.setBytes a l).byteAt b = s.byteAt b := by
  induction l generalizing s a with
  | nil => rfl
  | cons x t ih =>
    have k : b.key ≠ a.key := by simp only [PAddr.key, hs]; omega
    exact (ih (s.setByte a x) (a.plus 1) hs (Nat.lt_succ_of_lt h)).trans (State.byteAt_setByte_ne _ _ _ _ k)

/-- Bytes read as they were written. -/
theorem State.bytesAt_setBytes (s : State) (a : PAddr) (l : List Byte) (h : Memory.wf s.mem = true) : (s.setBytes a l).bytesAt a l.length = l := by
  induction l generalizing s a with
  | nil => rfl
  | cons x t ih =>
    simp only [State.setBytes, List.length_cons, State.bytesAt]
    rw [ih _ _ (State.setByte_wf _ _ _ h), State.byteAt_setBytes_before (s.setByte a x) (a.plus 1) a t rfl (Nat.lt_succ_self _), State.byteAt_setByte_same _ _ _ h]

/-- With no error on the words a read is plain. -/
theorem State.load_clean (s : State) (who : CpId) (part : BitVec 5) (a : PAddr) (n : Nat) (h : s.ecc = []) : s.load who part a n = (s, some (s.bytesAt a n)) := by
  simp [State.load, State.marksAt, h, State.logMarks]

/-- With no error on the words pieces read as the bytes at their places, and nothing changes. -/
theorem State.loadPieces_clean (s : State) (who : CpId) (n : Nat) (ps : List PAddr) (h : s.ecc = []) :
    s.loadPieces who n ps = (s, .ok (ps.flatMap fun p => s.bytesAt p n)) := by
  induction ps with
  | nil => rfl
  | cons p t ih => simp [State.loadPieces, State.load_clean _ _ _ _ _ h, ih]

theorem State.bytesAt_append (s : State) (a : PAddr) (m n : Nat) : s.bytesAt a (m + n) = s.bytesAt a m ++ s.bytesAt (a.plus m) n := by
  induction m generalizing a with
  | zero => simp [State.bytesAt, PAddr.plus]
  | succ m ih =>
    rw [Nat.succ_add]
    simp only [State.bytesAt, ih, List.cons_append]
    rw [show (a.plus 1).plus m = a.plus (m + 1) by simp only [PAddr.plus]; congr 1; omega]

/-- The bytes of local memory depend on memory alone. -/
theorem State.bytesAt_loc (s t : State) (k : Fin 256) (o n : Nat) (h : s.mem = t.mem) : s.bytesAt ⟨.loc k, o⟩ n = t.bytesAt ⟨.loc k, o⟩ n := by
  induction n generalizing o with
  | zero => rfl
  | succ n ih => simp only [State.bytesAt, State.byteAt, State.pad, h, PAddr.plus, ih]

theorem State.bytesAt_length (s : State) (a : PAddr) (n : Nat) : (s.bytesAt a n).length = n := by
  induction n generalizing a with
  | zero => rfl
  | succ n ih => simp [State.bytesAt, ih]

/-- Pieces one after another hold the bytes of the range. -/
theorem State.bytesAt_pieces (s : State) (a : PAddr) (n k : Nat) : (((List.range k).map fun i => a.plus (n * i)).flatMap fun p => s.bytesAt p n) = s.bytesAt a (n * k) := by
  induction k with
  | zero => rfl
  | succ k ih =>
    rw [List.range_succ, List.map_append, List.flatMap_append, ih, Nat.mul_succ, State.bytesAt_append]
    simp

theorem leNat_leBytes (n v : Nat) (h : v < 256 ^ n) : leNat (leBytes n v) = v := by
  induction n generalizing v with
  | zero => simp at h; simp [leBytes, leNat, h]
  | succ n ih =>
    have k : v / 256 < 256 ^ n := by rw [Nat.pow_succ] at h; omega
    simp only [leBytes, leNat, ih _ k, BitVec.toNat_ofNat]; omega

/-- The reset memory has the canonical form. -/
theorem reset_mem_wf : Memory.wf State.reset.mem = true := rfl

end Sys2Proof.Machine
end

