-- ==== Sys2Proof/Laws/Issue.lean ====
section
/-! SUPPORT. The frame of the CP instructions: what their shared operations leave alone. -/
namespace Sys2Proof.Machine

theorem vmod_self {α : Type} {n : Nat} (v : Vector α n) (i : Fin n) : vmod v i (fun _ => v.get i) = v := by
  apply Vector.ext; intro j hj
  by_cases h : i.val = j
  · subst h; simp [vmod, Vector.get_eq_getElem]
  · simp [vmod, h]

theorem scrub_nil (s : State) (l : List Reg) (h : s.ecc = []) : s.scrub l = s := by simp [State.scrub, h]

theorem onlyCp_refl (c : CpId) (s : State) : OnlyCp c s s := by
  refine ⟨⟨rfl, fun _ _ => rfl⟩, rfl, rfl, rfl⟩

theorem onlyCp_trans {c : CpId} {s t u : State} (h : OnlyCp c s t) (k : OnlyCp c t u) : OnlyCp c s u := by
  obtain ⟨⟨h1, h2⟩, h3, h4, h5⟩ := h
  obtain ⟨⟨k1, k2⟩, k3, k4, k5⟩ := k
  refine ⟨⟨?_, fun j hj => (k2 j hj).trans (h2 j hj)⟩, ?_, k4.trans h4, ?_⟩
  · rw [k1, h1]
  · rw [k3, h3]
  · rw [k5, h5]

theorem otherSlot_ne (c : CpId) : otherSlot c ≠ c := by
  rcases c with ⟨k, i⟩; intro h
  have := congrArg CpId.slot h
  simp [otherSlot] at this; revert this; fin_cases i <;> decide

theorem onlyCp_modCp (c : CpId) (s : State) (f : Cp → Cp) : OnlyCp c s (s.modCp c f) := by
  refine ⟨⟨rfl, fun k hk => State.core_modSlot_ne _ _ _ _ hk⟩, ?_, State.slot_modSlot_ne _ _ _ _ (otherSlot_ne c), ?_⟩
  · simp [State.modCp, State.core_modSlot_same]
  · simp [State.modCp, State.cp]

theorem onlyCp_injectArr (c : CpId) (s : State) (p : BitVec 5) (a u w : Nat) : OnlyCp c s (s.injectArr c.core p a u w) := by
  unfold State.injectArr; simp only
  split
  · split
    · exact onlyCp_refl c s
    · split
      · refine ⟨⟨rfl, fun k hk => State.core_modCore_ne _ _ _ _ hk⟩, ?_, ?_, ?_⟩
        · simp
        · simp [State.slot, otherSlot]
        · simp [State.slot, State.cp]
      · refine ⟨⟨rfl, fun k hk => State.core_modCore_ne _ _ _ _ hk⟩, ?_, ?_, ?_⟩
        · simp [State.core, State.took, State.modCore]
        · simp [State.slot, otherSlot,State.core, State.took, State.modCore]
        · simp [State.slot, State.cp,State.core, State.took, State.modCore]
  · exact onlyCp_refl c s

theorem onlyCp_writeArr (c : CpId) (s : State) (p : BitVec 5) (a u w n : Nat) : OnlyCp c s (s.writeArr c.core p a u w n) := by
  refine onlyCp_trans (t := s.cleanArr c.core a u w n) ?_ (onlyCp_injectArr _ _ _ _ _ _)
  unfold State.cleanArr
  split
  · exact onlyCp_refl c s
  · exact ⟨⟨rfl, fun _ _ => rfl⟩, rfl, rfl, rfl⟩

theorem sameBytes_of {s t : State} (h : t.mem = s.mem) (k : t.dies = s.dies) : SameBytes s t := by
  intro a
  have hp : t.pad a = s.pad a := by unfold State.pad State.die; rw [k]
  simp only [State.byteAt, h, hp]

theorem injectArr_cp (c d : CpId) (s : State) (p : BitVec 5) (a u w : Nat) : (s.injectArr c.core p a u w).cp d = s.cp d := by
  unfold State.injectArr; simp only
  split
  · split
    · rfl
    · split
      · by_cases h : d.core = c.core <;> simp [State.cp, State.slot, State.core_modCore_ne, h]
      · show (s.modCore c.core _).cp d = _
        by_cases h : d.core = c.core <;> simp [State.cp, State.slot, State.core_modCore_ne, h]
  · rfl

theorem injectArr_dies (s : State) (k : Fin 256) (p : BitVec 5) (a u w : Nat) : (s.injectArr k p a u w).dies = s.dies := by
  unfold State.injectArr; simp only
  split
  · split
    · rfl
    · split <;> rfl
  · rfl

theorem injectArr_cur (s : State) (k : Fin 256) (p : BitVec 5) (a u w : Nat) : (s.injectArr k p a u w).cur = s.cur := by
  unfold State.injectArr; simp only
  split
  · split
    · rfl
    · split <;> rfl
  · rfl

/-- Words of an array that are written: the CPs, the dies and the marks of memory stay. -/
theorem writeArr_cp (c d : CpId) (s : State) (p : BitVec 5) (a u w n : Nat) : (s.writeArr c.core p a u w n).cp d = s.cp d := by
  rw [State.writeArr, injectArr_cp]; unfold State.cleanArr; split <;> rfl
theorem writeArr_dies (s : State) (k : Fin 256) (p : BitVec 5) (a u w n : Nat) : (s.writeArr k p a u w n).dies = s.dies := by
  rw [State.writeArr, injectArr_dies]; unfold State.cleanArr; split <;> rfl
theorem writeArr_cur (s : State) (k : Fin 256) (p : BitVec 5) (a u w n : Nat) : (s.writeArr k p a u w n).cur = s.cur := by
  rw [State.writeArr, injectArr_cur]; unfold State.cleanArr; split <;> rfl

/-! ### `State.issued` and `State.advance` -/

/-- What issuing counts in a CP. -/
def Cp.asIssued (p : Cp) : Cp := { p.count 1 1 with stepOne := false }

theorem issued_cp (s : State) : s.issued.cp s.cur = (s.cp s.cur).asIssued := by
  unfold State.issued; simp only
  split
  · show ((s.modCp s.cur _).modCore s.cur.core _).cp s.cur = _
    simp [State.cp, State.slot, State.modCp, State.modSlot, Cp.asIssued]
  · simp [Cp.asIssued]

theorem issued_cur (s : State) : s.issued.cur = s.cur := by unfold State.issued; simp only; split <;> rfl
theorem issued_mem (s : State) : s.issued.mem = s.mem := by unfold State.issued; simp only; split <;> rfl
theorem issued_dies (s : State) : s.issued.dies = s.dies := by unfold State.issued; simp only; split <;> rfl

theorem onlyCp_issued (s : State) : OnlyCp s.cur s s.issued := by
  unfold State.issued; simp only
  split
  · refine onlyCp_trans (onlyCp_modCp s.cur s _) ⟨⟨rfl, fun k hk => State.core_modCore_ne _ _ _ _ hk⟩, ?_, ?_, ?_⟩
    · simp
    · simp [State.slot, otherSlot]
    · simp [State.slot, State.cp]
  · exact onlyCp_modCp _ _ _

theorem advance_cp (s : State) : s.advance.cp s.cur = { (s.cp s.cur).asIssued with pc := (s.cp s.cur).pc + 4 } := by
  simp [State.advance, issued_cp, Cp.asIssued, Cp.count]
theorem advance_cur (s : State) : s.advance.cur = s.cur := issued_cur s
theorem advance_mem (s : State) : s.advance.mem = s.mem := issued_mem s
theorem advance_dies (s : State) : s.advance.dies = s.dies := issued_dies s
theorem onlyCp_advance (s : State) : OnlyCp s.cur s s.advance := onlyCp_trans (onlyCp_issued s) (onlyCp_modCp _ _ _)

theorem jumpTo_cp (s : State) (x : Word) : (s.jumpTo x).cp s.cur = { (s.cp s.cur).asIssued with pc := x, gap := true } := by
  simp [State.jumpTo, issued_cp, Cp.asIssued, Cp.count]
theorem onlyCp_jumpTo (s : State) (x : Word) : OnlyCp s.cur s (s.jumpTo x) := onlyCp_trans (onlyCp_issued s) (onlyCp_modCp _ _ _)

/-! ### Register writes -/

theorem putReg_cp (s : State) (r : Reg) (v : Word) : (s.putReg r v).cp s.cur = (s.cp s.cur).putReg r v := by
  simp [State.putReg, writeArr_cp]
theorem putReg_cur (s : State) (r : Reg) (v : Word) : (s.putReg r v).cur = s.cur := writeArr_cur _ _ _ _ _ _ _
theorem putReg_mem (s : State) (r : Reg) (v : Word) : (s.putReg r v).mem = s.mem := by simp [State.putReg]
theorem putReg_dies (s : State) (r : Reg) (v : Word) : (s.putReg r v).dies = s.dies := by simp [State.putReg, writeArr_dies]
theorem onlyCp_putReg (s : State) (r : Reg) (v : Word) : OnlyCp s.cur s (s.putReg r v) :=
  onlyCp_trans (onlyCp_modCp _ _ _) (onlyCp_writeArr _ _ _ _ _ _ _)

theorem bankReg_bankSet (b : Vector Word 32) (r q : Reg) (v : Word) :
    bankReg (bankSet b r v) q = if q = r ∧ r ≠ 0 then v else bankReg b q := by
  unfold bankSet
  by_cases hr : r = 0
  · rw [if_pos hr, if_neg (fun h => h.2 hr)]
  · rw [if_neg hr]
    unfold bankReg
    by_cases hq : q = r
    · rw [if_neg (hq ▸ hr), if_pos ⟨hq, hr⟩, hq, vmod_get_same]
    · have : ix32 q ≠ ix32 r := fun e => hq (BitVec.eq_of_toNat_eq (Fin.mk.inj e))
      rw [vmod_get_ne _ _ _ _ this]
      have hn : ¬ (q = r ∧ r ≠ 0) := fun h => hq h.1
      rw [if_neg hn]

theorem putReg_reg (p : Cp) (r q : Reg) (v : Word) : (p.putReg r v).reg q = if q = r ∧ r ≠ 0 then v else p.reg q := by
  unfold Cp.putReg Cp.reg Cp.bank
  cases h : p.handler <;> simp [Cp.setQueue, h, bankReg_bankSet]

theorem putReg_queue (p : Cp) (r : Reg) (v : Word) : (p.putReg r v).queue = p.queue.filter fun e => !(e.reg == r && e.rem == some 1) := by
  unfold Cp.putReg Cp.queue
  cases h : p.handler <;> simp [Cp.setQueue, h]

theorem onlyRegs_putReg (p : Cp) (r : Reg) (v : Word) : OnlyRegs p (p.putReg r v) := by
  unfold OnlyRegs Cp.putReg
  cases h : p.handler <;> simp [Cp.setQueue, h]

/-- Going on after an effect that changed registers only. -/
theorem onlyRegs_next {p q : Cp} (x : Word) (g : Bool) (h : OnlyRegs p q) : OnlyRegs p { q.asIssued with pc := x, gap := g } := by
  obtain ⟨h1, h2⟩ := h
  refine ⟨?_, h2⟩
  generalize q.pc = a1, q.gap = a2, q.pmc = a3, q.stepOne = a4, q.bankT = a5, q.bankH = a6, q.lqT = a7, q.lqH = a8 at h1
  subst h1
  rfl

theorem onlyRegs_refl (p : Cp) : OnlyRegs p p := ⟨rfl, by split <;> exact ⟨rfl, rfl⟩⟩

/-! ### `State.issue` -/

/-- An instruction that can issue has its effect. -/
theorem issue_ok (s : State) (reads writes : List Reg) (late : Bool) (k : State → State) (h : CanIssue s (reads ++ writes) late) :
    s.issue reads writes late k = .next (k s) := by
  obtain ⟨h1, h2, h3⟩ := h
  unfold State.issue
  rw [h1, scrub_nil s reads h3]
  cases late
  · simp
  · simp [h2 rfl]

/-- A latency-1 result completes as R210 states. -/
theorem result1_writes (i : Instr) (s : State) (reads : List Reg) (d : Reg) (f : State → Word) (h : exec i s = s.result1 reads d f) :
    Writes i s reads d (f s) := by
  intro hc
  refine ⟨(s.putReg d (f s)).advance, by rw [h]; exact issue_ok s reads [d] false _ hc, ?_⟩
  have hcur := putReg_cur s d (f s)
  have hcp : (s.putReg d (f s)).advance.cp s.cur = { ((s.cp s.cur).putReg d (f s)).asIssued with pc := ((s.cp s.cur).putReg d (f s)).pc + 4 } := by
    have := advance_cp (s.putReg d (f s))
    rw [hcur, putReg_cp] at this; exact this
  have hr : ∀ r, ((s.putReg d (f s)).advance).reg r = ((s.cp s.cur).putReg d (f s)).reg r := by
    intro r
    unfold State.reg
    rw [advance_cur, hcur, hcp]; rfl
  have hpc : ((s.cp s.cur).putReg d (f s)).pc = (s.cp s.cur).pc := by
    unfold Cp.putReg; cases (s.cp s.cur).handler <;> simp [Cp.setQueue] <;> split <;> rfl
  refine ⟨⟨?_, ?_, ?_⟩, ?_, ?_, ?_, ?_⟩
  · have := onlyCp_advance (s.putReg d (f s))
    rw [hcur] at this
    exact onlyCp_trans (onlyCp_putReg s d (f s)) this
  · exact sameBytes_of (by rw [advance_mem, putReg_mem]) (by rw [advance_dies, putReg_dies])
  · rw [hcp]
    exact onlyRegs_next _ _ (onlyRegs_putReg (s.cp s.cur) d (f s))
  · unfold State.pc
    rw [advance_cur, hcur, hcp]
    simp [hpc]
  · rw [hr, putReg_reg]
    by_cases h0 : d = 0
    · rw [if_neg (fun h => h.2 h0), if_pos h0, h0]; rfl
    · rw [if_pos ⟨rfl, h0⟩, if_neg h0]
  · intro r hne
    rw [hr, putReg_reg]; simp [hne]; rfl
  · rw [hcp]; exact putReg_queue _ _ _

end Sys2Proof.Machine
end

