-- ==== Sys2Proof/Tests/Slice0.lean ====
section
/-! SUPPORT. Tests: well-formedness, words written out from the spec's encodings, single steps, and for each statement states and operands
that meet its hypotheses. Expected values come from the spec's examples and rules, worked by hand. -/
namespace Sys2Proof.Tests
open Sys2Proof Sys2Proof.Machine
set_option Elab.async false

/-! ### Small states -/

/-- Slot 0 of core 0. -/
def c0 : CpId := ⟨0, 0⟩
/-- Slot 0 of core 0 runs a task of partition 0. -/
def start : State := (State.reset.modSlot c0 fun t => { t with status := 1 }).modCp c0 fun p => { p with run := .running }
/-- Registers of both banks of that CP. -/
def withRegs (s : State) (l : List (Reg × Word)) : State :=
  s.modCp c0 fun p => l.foldl (fun p x => { p with bankT := bankSet p.bankT x.1 x.2, bankH := bankSet p.bankH x.1 x.2 }) p
/-- The same in handler mode. -/
def handler : State := start.modCp c0 fun p => { p with handler := true, tpc := 0x40, tvec := 0x80 }
/-- What follows a completed instruction. -/
def after (i : Instr) (s : State) : State := match exec i s with | .next t => t | _ => s
/-- A landing entry for a register. -/
def entry (r : Reg) (k : LandKind) (rem : Option Nat) (v : Word) : LandEntry :=
  { id := 1, reg := r, kind := k, rem := rem, value := v, far := none, ask := none, vaddr := 0, fpc := 0, since := 0, place := 0 }
/-- The thread's landing queue holds entries. -/
def withQueue (s : State) (q : List LandEntry) : State := s.modCp c0 fun p => { p with lqT := q }
/-- A far page of partition 0: 1 MiB at 0x1000_0000, in the cluster buffer of core 0, which partition 0 owns. -/
def mapped (s : State) : State :=
  (s.modPart 0 fun p => { p with live := true, pages := [⟨0x10000000, 0x100000, ⟨.cb 0, 0⟩, true, true, none⟩] }).modCluster 0 fun k =>
    { k with owners := Vector.replicate 128 (some 0) }

theorem test_decode_alu : ∀ x ∈ ([
    (0x00531C01, .add 5 6 7), (0x00531C02, .sub 5 6 7), (0x00531C03, .and 5 6 7), (0x00531C04, .or 5 6 7),
    (0x00531C05, .xor 5 6 7), (0x00531C06, .andn 5 6 7), (0x00531C07, .shl 5 6 7), (0x00531C08, .shr 5 6 7),
    (0x00531C09, .sar 5 6 7), (0x00531C0A, .slt 5 6 7), (0x00531C0B, .sltu 5 6 7), (0x00531C0C, .min 5 6 7),
    (0x00531C0D, .max 5 6 7), (0x0053000E, .clz 5 6), (0x0053000F, .ctz 5 6), (0x00530010, .popc 5 6)] : List (W32 × Instr)), decodeWord x.1 = .ok x.2 := by decide

theorem test_decode_constants : ∀ x ∈ ([
    (0x085300A5, .addImm 5 6 165), (0x0A5300A5, .andImm 5 6 165), (0x0C5300A5, .orImm 5 6 165), (0x0E5300A5, .xorImm 5 6 165),
    (0x105300A5, .sltImm 5 6 165), (0x125300A5, .sltuImm 5 6 165), (0x145300A5, .minImm 5 6 165), (0x165300A5, .maxImm 5 6 165),
    (0x18530004, .shlImm 5 6 4), (0x18530044, .shrImm 5 6 4), (0x18530084, .sarImm 5 6 4)] : List (W32 × Instr)), decodeWord x.1 = .ok x.2 := by decide

theorem test_decode_muldiv : ∀ x ∈ ([
    (0x02531C00, .mul 5 6 7), (0x02531C01, .mulh 5 6 7), (0x02531C02, .mulhu 5 6 7), (0x02531C03, .div 5 6 7),
    (0x02531C04, .divu 5 6 7), (0x02531C05, .rem 5 6 7), (0x02531C06, .remu 5 6 7)] : List (W32 × Instr)), decodeWord x.1 = .ok x.2 := by decide

theorem test_decode_fields : ∀ x ∈ ([
    (0x04532220, .bfx 5 6 17 4), (0x04532221, .bfxu 5 6 17 4), (0x04532222, .bfi 5 6 17 4), (0x205000A5, .movi 5 165),
    (0x225000A5, .movh 5 0 165)] : List (W32 × Instr)), decodeWord x.1 = .ok x.2 := by decide

theorem test_decode_branches : ∀ x ∈ ([
    (0x40639ACE, .bEq 6 7 6862), (0x42639ACE, .bNe 6 7 6862), (0x44639ACE, .bLt 6 7 6862), (0x46639ACE, .bGe 6 7 6862),
    (0x48639ACE, .bLtu 6 7 6862), (0x4A639ACE, .bGeu 6 7 6862), (0x4C001ACE, .jmp 6862), (0x4E001ACE, .call 6862),
    (0x50030000, .jmpReg 6), (0x50030001, .callReg 6), (0x500F0002, .ret)] : List (W32 × Instr)), decodeWord x.1 = .ok x.2 := by decide

theorem test_decode_memory : ∀ x ∈ ([
    (0x605330A5, .ld 5 6 3 165), (0x625330A5, .st 5 6 3 165), (0x645330A5, .ldf 5 6 3 165), (0x665330A5, .stf 5 6 3 165),
    (0x68000000, .fenceLd), (0x68000001, .fenceSt), (0x68000002, .fenceAll), (0x68000003, .fenceEng),
    (0x6A0300A5, .pref 6 165), (0x70531C00, .amoAdd 5 6 7), (0x70531C01, .amoSwp 5 6 7), (0x70531D02, .amoCas 5 6 7 8),
    (0x70531C03, .amoMax 5 6 7), (0x70531C04, .amoMin 5 6 7), (0x70531C05, .amoAnd 5 6 7), (0x70531C06, .amoOr 5 6 7)] : List (W32 × Instr)), decodeWord x.1 = .ok x.2 := by decide

theorem test_decode_system : ∀ x ∈ ([
    (0x80000008, .trap 8), (0x82000000, .tret), (0x84030003, .wait 6 3), (0x86000008, .bkpt 8),
    (0x88530000, .syscVerify 5 6), (0x88530001, .syscFused 5 6), (0x88530002, .syscEnergy 5 6), (0x90500004, .csrr 5 4),
    (0x90031025, .csrw 6 37), (0x90532001, .csrs 5 6 1), (0x9053305F, .csrc 5 6 95)] : List (W32 × Instr)), decodeWord x.1 = .ok x.2 := by decide

theorem test_decode_engine : ∀ x ∈ ([
    (0xA0010C02, .rload 2 3 2), (0xA2030002, .rarm 6 2), (0xA4000002, .rgo 2), (0xA6000002, .rstop 2),
    (0xA8300002, .rstatState 3 2), (0xA8B00006, .rstatLoadrep 11 2), (0xA8B0000A, .rstatFlags 11 2), (0xA8B0000E, .rstatTclap 11 2),
    (0xA8B00012, .rstatHeld 11 2), (0xA8B00016, .rstatCycles 11 2), (0xA8B0001A, .rstatEnergy 11 2), (0xA8B0001E, .rstatFault 11 2),
    (0xA8B00022, .rstatOrigin 11 2), (0xAA030002, .rsave 6 2), (0xAC030002, .rrest 6 2), (0xAE030009, .spat 6 9),
    (0xB0000119, .sbind 17 9), (0xB2030119, .sbindt 6 17 9), (0xB4000110, .sstop 17), (0xB6030000, .cpy 6),
    (0xB8030000, .cpyg 6), (0xBA030003, .stgdef 6 3), (0xBC030003, .stgrel 6 3)] : List (W32 × Instr)), decodeWord x.1 = .ok x.2 := by decide

theorem test_decode_sync : ∀ x ∈ ([
    (0xC0031C04, .sig 6 7 4), (0xC2031C04, .waitge 6 7 4), (0xC4031C55, .pub 6 7 10 5), (0xC6B31C00, .bind 11 6 7),
    (0xC8030000, .unbind 6), (0xCA000000, .trig), (0xCC031C00, .launch 6 7), (0xCE031C00, .tinv 6 7),
    (0xD000000A, .cbarArr 10), (0xD200000A, .cbarWait 10), (0xD4030001, .cpeer 6 1)] : List (W32 × Instr)), decodeWord x.1 = .ok x.2 := by decide

theorem test_decode_attention : ∀ x ∈ ([
    (0xD8030000, .attn 6), (0xDAB31C00, .kvapp 11 6 7), (0xDCB31C00, .kvlook 11 6 7), (0xDEB31C00, .kvfork 11 6 7),
    (0xE0030000, .kvrel 6), (0xE2030009, .mload 6 9), (0xE4B30000, .mstatFull 11 6), (0xE4B30001, .mstatPart 11 6),
    (0xE4B30002, .mstatEmpty 11 6), (0xE4B30003, .mstatSkipb 11 6), (0xE6030002, .ringset 6 2), (0xE6030200, .kvpool 6),
    (0xE8031C00, .glaunch 6 7), (0xEA030000, .coll 6), (0xECB30000, .gstat 11 6)] : List (W32 × Instr)), decodeWord x.1 = .ok x.2 := by decide

/-- A site, and the fields of the spec's example line `fma.f32.h f3, p0, n, D` (R95): H set, SRCA 21, SRCB 16, SRCC 20, DW 3. -/
def site : ElemSite := ⟨c0, 1, 0, 4⟩
def fields : CtxFields := ⟨true, false, 0, 21, 16, 20, 3, 0, 0, 0⟩

theorem test_decode_contexts : ∀ x ∈ ([
    (0x0085614180000000, .elemNop site fields), (0x0185614180000000, .iadd site fields), (0x0285614180000000, .isub site fields),
    (0x0385614180000000, .imul site fields), (0x0485614180000000, .imad site fields), (0x0585614180000000, .imin site fields),
    (0x0685614180000000, .imax site fields), (0x0785614180000000, .iabs site fields), (0x0885614180000000, .elemAnd site fields),
    (0x0985614180000000, .elemOr site fields), (0x0A85614180000000, .elemXor site fields), (0x0B85614180000000, .elemShl site fields),
    (0x0C85614180000000, .elemShr site fields), (0x0D85614180000000, .sra site fields), (0x0E85614180000000, .icmp site fields),
    (0x0F85614180000000, .sel site fields), (0x1085614180000000, .fadd site fields), (0x1185614180000000, .fsub site fields),
    (0x1285614180000000, .fmul site fields), (0x1385614180000000, .fma site fields), (0x1485614180000000, .fmin site fields),
    (0x1585614180000000, .fmax site fields), (0x1685614180000000, .fabs site fields), (0x1785614180000000, .fneg site fields),
    (0x1885614180000000, .fcmp site fields), (0x2085614180000000, .rcps site fields), (0x2185614180000000, .rsqs site fields),
    (0x2285614180000000, .exp2 site fields), (0x2385614180000000, .act site fields), (0x2485614180000000, .dact site fields),
    (0x3085614180000000, .cvt site fields), (0x3185614180000000, .sdenc site fields), (0x3285614180000000, .sddec site fields),
    (0x3385614180000000, .qnt site fields), (0x4085614180000000, .mov site fields), (0x4185614180000000, .rep site fields),
    (0x4285614180000000, .perm site fields), (0x4385614180000000, .pack site fields), (0x4485614180000000, .unpk site fields),
    (0x4585614180000000, .lsum site fields), (0x4685614180000000, .lmax site fields), (0x4785614180000000, .tap site fields),
    (0x4885614180000000, .put site fields), (0x5085614180000000, .trix site fields), (0x5185614180000000, .trixb site fields),
    (0x5285614180000000, .trixi site fields), (0x5385614180000000, .trixg site fields), (0x5485614180000000, .sptrix site fields),
    (0x5585614180000000, .scac site fields), (0x5685614180000000, .accz site fields), (0x5785614180000000, .drn site fields),
    (0x5885614180000000, .drna site fields), (0x5985614180000000, .cmpr site fields), (0x5A85614180000000, .spx site fields),
    (0x5B85614180000000, .wld site fields), (0x5C85614180000000, .wldt site fields)] : List (BitVec 64 × Instr)), decodeCtx site x.1 = .ok x.2 := by decide
/-- Example words of the spec: `add g5, g6, -12`, `shr g3, g4, 7`, `bfxu g2, g7, 8, 4`, `b.ne g2, g0, -3`, `call g12`, `ld.w g4, [sp+16]`, `trap 12`,
`sysc g3, g4, 0`, `csrr g5, 0x004`, `sstop 9`. -/
theorem test_decode_examples : ∀ x ∈ ([
    (0x08537FF4, .addImm 5 6 (-12)), (0x18320047, .shrImm 3 4 7), (0x04239019, .bfxu 2 7 8 3), (0x42207FFD, .bNe 2 0 (-3)), (0x50060001, .callReg 12),
    (0x604FA010, .ld 4 31 2 16), (0x8000000C, .trap 12), (0x88320000, .syscVerify 3 4), (0x90500004, .csrr 5 4), (0xB4000090, .sstop 9)] : List (W32 × Instr)),
    decodeWord x.1 = .ok x.2 := by decide

/-- The context words of R94 and R95, nop and `fma.f32.h f3, p0, n, D`, and one with every field at a value of its own. -/
theorem test_decode_context_fields : decodeCtx site 0x00077BDE00000000 = .ok (.elemNop site ⟨false, false, 0, 29, 29, 29, 28, 0, 0, 0⟩) ∧
    decodeCtx site 0x1385614180000000 = .ok (.fma site fields) ∧
    decodeCtx site 0x016882051A5C0001 = .ok (.iadd site ⟨false, true, 5, 2, 1, 0, 10, 1, 0xA5, 0xC0001⟩) := by decide

/-- The cue of R85, `.cue 40, first, start, port=17`, and one word of each kind. -/
theorem test_decode_cues : ∀ x ∈ ([
    (0x0281400000000011, .cueStart site 17), (0x0000000000000005, .cueRun site 5), (0x0002000000000003, .cueStop site 3), (0x000300000000205D, .cueDrain site 1 23 false 0 0 true),
    (0x0003000000000D82, .cueDrain site 2 0 true 5 1 false), (0x0004000000000129, .cueSig site 9 2 2), (0x0005000000000129, .cueWait site 9 2 2), (0x0006000000000000, .cueBegin site),
    (0x0007000000000000, .cueEnd site), (0x0008000000000000, .cueEndtake site)] : List (BitVec 64 × Instr)), decodeCue site x.1 = .ok x.2 := by decide

theorem test_cue_time : cueTimeOf 0x0281400000000011 = ⟨0x28, 1⟩ := by decide

/-- Words that are no instruction (R199 to R207). -/
theorem test_decode_refusals : decodeWord 0 = .error .reservedFunction ∧ decodeWord 0xFE000000 = .error .reservedOpcode ∧ decodeWord 0x00531C21 = .error .nonzeroField ∧
    decodeWord 0x043FE0F8 = .error .brokenLimit ∧ decodeWord 0x60007000 = .error .reservedFunction ∧ decodeWord 0x90000002 = .error .noSuchCsr ∧
    decodeWord 0x88000003 = .error .otherService ∧ decodeCtx site 0x5D85614180000000 = .error .reservedOpcode ∧ decodeCue site 0x0009000000000000 = .error .reservedFunction := by decide

theorem test_decode_bytes : decode [0x01, 0x1C, 0x53, 0x00, 9] = .ok (.add 5 6 7, [9]) ∧ decode [1, 2, 3] = .error .noWord ∧
    decodeTableWord 32 0x00531C01 = some (.add 5 6 7) ∧ decodeTableWord 32 0 = none := by decide

/-! ### Well-formedness: each limit at its edge, and beyond it -/

theorem test_wf_field : (Instr.bfx 1 2 60 3).wf = true ∧ (Instr.bfx 1 2 60 4).wf = false ∧ (Instr.bfxu 1 2 1 63).wf = false ∧ (Instr.bfi 1 2 63 1).wf = false := by decide
theorem test_wf_size : (Instr.ld 1 2 6 0).wf = true ∧ (Instr.ld 1 2 7 0).wf = false ∧ (Instr.ldf 1 2 7 0).wf = false ∧ (Instr.st 1 2 3 0).wf = true ∧
    (Instr.st 1 2 4 0).wf = false ∧ (Instr.stf 1 2 4 0).wf = false := by decide
theorem test_wf_csr : (Instr.csrr 1 0x05F).wf = true ∧ (Instr.csrr 1 0x060).wf = false ∧ (Instr.csrw 1 0x007).wf = false ∧ (Instr.csrs 1 2 0x014).wf = false ∧
    (Instr.csrc 1 2 0x026).wf = false := by decide
theorem test_wf_port : (Instr.sbind 23 0).wf = true ∧ (Instr.sbind 24 0).wf = false ∧ (Instr.sbindt 1 31 0).wf = false ∧ (Instr.sstop 24).wf = false ∧
    (Instr.cueStart site 24).wf = false ∧ (Instr.cueStop site 24).wf = false := by decide
theorem test_wf_scope : (Instr.sig 1 2 5).wf = true ∧ (Instr.sig 1 2 6).wf = false ∧ (Instr.waitge 1 2 7).wf = false ∧ (Instr.pub 1 2 0 6).wf = false ∧
    (Instr.cueSig site 0 6 1).wf = false ∧ (Instr.cueWait site 0 7 1).wf = false := by decide
theorem test_wf_drain : (Instr.cueDrain site 0 23 false 0 0 false).wf = true ∧ (Instr.cueDrain site 0 24 false 0 0 false).wf = false ∧
    (Instr.cueDrain site 0 1 true 0 0 false).wf = false := by decide
theorem test_wf_context : (Instr.fma site fields).wf = true ∧ (Instr.fma site { fields with srcA := 31 }).wf = false ∧ (Instr.mov site { fields with srcB := 31 }).wf = false ∧
    (Instr.imad site { fields with srcC := 31 }).wf = false ∧ (Instr.trix site { fields with dw := 29 }).wf = false ∧ (Instr.wld site { fields with aux := 0x600 }).wf = false := by decide
/-! ### Single steps of the CP -/

/-- g6 and g7 hold values. -/
def two (x y : Word) : State := withRegs start [(6, x), (7, y)]
/-- The value of the last landing entry of the current mode, with its distance. -/
def landed (s : State) : Option (Reg × Option Nat × Word) := (s.cp c0).queue.getLast?.map fun e => (e.reg, e.rem, e.value)

theorem test_alu_wraps : (after (.add 5 6 7) (two (-1) 2)).reg 5 = 1 ∧ (after (.sub 5 6 7) (two 1 2)).reg 5 = -1 ∧ (after (.addImm 6 6 (-12)) (two 10 0)).reg 6 = -2 ∧
    (after (.add 0 6 7) (two 1 2)).reg 0 = 0 ∧ (after (.add 5 6 7) (two 1 2)).pc = 4 := by decide +kernel
theorem test_alu_bits : (after (.and 5 6 7) (two 12 10)).reg 5 = 8 ∧ (after (.or 5 6 7) (two 12 10)).reg 5 = 14 ∧ (after (.xor 5 6 7) (two 12 10)).reg 5 = 6 ∧
    (after (.andn 5 6 7) (two 12 10)).reg 5 = 4 ∧ (after (.andImm 5 6 (-8)) (two 0xFFF 0)).reg 5 = 0xFF8 ∧ (after (.orImm 5 6 (-1)) (two 0 0)).reg 5 = -1 ∧
    (after (.xorImm 5 6 (-1)) (two 5 0)).reg 5 = -6 := by decide +kernel
theorem test_shifts : (after (.shl 5 6 7) (two 3 64)).reg 5 = 0 ∧ (after (.shl 5 6 7) (two 3 63)).reg 5 = 0x8000000000000000 ∧ (after (.shr 5 6 7) (two (-1) 60)).reg 5 = 15 ∧
    (after (.sar 5 6 7) (two (-8) 70)).reg 5 = -1 ∧ (after (.shlImm 5 6 4) (two 3 0)).reg 5 = 48 ∧ (after (.shrImm 5 6 63) (two (-1) 0)).reg 5 = 1 ∧
    (after (.sarImm 5 6 1) (two (-4) 0)).reg 5 = -2 := by decide +kernel
theorem test_compares : (after (.slt 5 6 7) (two (-1) 0)).reg 5 = 1 ∧ (after (.sltu 5 6 7) (two (-1) 0)).reg 5 = 0 ∧ (after (.min 5 6 7) (two (-1) 3)).reg 5 = -1 ∧
    (after (.max 5 6 7) (two (-1) 3)).reg 5 = 3 ∧ (after (.sltImm 5 6 (-1)) (two (-2) 0)).reg 5 = 1 ∧ (after (.sltuImm 5 6 (-1)) (two 5 0)).reg 5 = 1 ∧
    (after (.minImm 5 6 (-3)) (two 2 0)).reg 5 = -3 ∧ (after (.maxImm 5 6 (-3)) (two 2 0)).reg 5 = 2 := by decide +kernel
theorem test_counts : (after (.clz 5 6) (two 0 0)).reg 5 = 64 ∧ (after (.clz 5 6) (two 1 0)).reg 5 = 63 ∧ (after (.ctz 5 6) (two 0 0)).reg 5 = 64 ∧
    (after (.ctz 5 6) (two 8 0)).reg 5 = 3 ∧ (after (.popc 5 6) (two 0xF0F 0)).reg 5 = 8 := by decide +kernel
theorem test_muldiv : [.mul 5 6 7, .mulh 5 6 7, .mulhu 5 6 7, .divu 5 6 0, .remu 5 6 0].map (fun i => landed (after i (two (-1) 3))) =
    [some (5, some 3, -3), some (5, some 3, -1), some (5, some 3, 2), some (5, some 18, -1), some (5, some 18, -1)] ∧
    [.div 5 6 7, .rem 5 6 7].map (fun i => landed (after i (two (-7) 2))) = [some (5, some 18, -3), some (5, some 18, -1)] := by decide +kernel
theorem test_division_overflow : landed (after (.div 5 6 7) (two 0x8000000000000000 (-1))) = some (5, some 18, 0x8000000000000000) ∧
    landed (after (.rem 5 6 7) (two 0x8000000000000000 (-1))) = some (5, some 18, 0) := by decide +kernel
theorem test_fields : (after (.bfx 5 6 4 3) (two 0xF0 0)).reg 5 = -1 ∧ (after (.bfxu 5 6 4 3) (two 0xF0 0)).reg 5 = 15 ∧ (after (.bfi 7 6 8 7) (two 0x1AB (-1))).reg 7 = 0xFFFFFFFFFFFFABFF ∧
    (after (.movi 5 0xFFFFF) start).reg 5 = -1 ∧ (after (.movh 6 1 0xABCD) (two 0x1234567812345678 0)).reg 6 = 0x12345678ABCD5678 := by decide +kernel
theorem test_branches : (after (.bNe 6 7 (-3)) (start.modCp c0 fun p => { p with pc := 0x40 })).pc = 0x44 ∧ (after (.bEq 6 7 (-3)) (start.modCp c0 fun p => { p with pc := 0x40 })).pc = 0x34 ∧
    (after (.bLt 6 7 2) (two (-1) 0)).pc = 8 ∧ (after (.bLtu 6 7 2) (two (-1) 0)).pc = 4 ∧ (after (.bGe 6 7 2) (two 0 0)).pc = 8 ∧ (after (.bGeu 6 7 2) (two (-1) 0)).pc = 8 := by decide +kernel
theorem test_jumps : (after (.call 4) (start.modCp c0 fun p => { p with pc := 0x40 })).pc = 0x50 ∧ (after (.call 4) (start.modCp c0 fun p => { p with pc := 0x40 })).reg 30 = 0x44 ∧
    (after (.callReg 30) (withRegs start [(30, 0x100)])).pc = 0x100 ∧ (after (.callReg 30) (withRegs start [(30, 0x100)])).reg 30 = 4 ∧ (after (.jmp (-1)) start).pc = -4 ∧
    (after .ret (withRegs start [(30, 0x20)])).pc = 0x20 ∧ ((after (.jmpReg 6) (two 0x22 0)).cp c0).tcause = 2 := by decide +kernel
/-- Bytes at the start of the local store, and of the cluster buffer that `mapped` maps. -/
def filled (s : State) : State := (s.setBytes ⟨.loc 0, 0⟩ [0x80, 1, 2, 0x83, 4, 5, 6, 0x87, 9]).setBytes ⟨.cb 0, 0⟩ [0x80, 1, 2, 0x83, 4, 5, 6, 0x87, 9]
theorem test_loads : landed (after (.ld 5 0 0 0) (filled start)) = some (5, some 6, 0xFFFFFFFFFFFFFF80) ∧ landed (after (.ld 5 0 4 0) (filled start)) = some (5, some 6, 0x80) ∧
    landed (after (.ld 5 0 2 0) (filled start)) = some (5, some 6, 0xFFFFFFFF83020180) ∧ landed (after (.ld 5 0 3 0) (filled start)) = some (5, some 6, 0x8706050483020180) ∧
    landed (after (.ldf 5 0 5 2) (filled start)) = some (5, some 6, 0x8302) := by decide +kernel
theorem test_stores : ((after (.st 6 0 1 2) (withRegs (filled start) [(6, 0xABCD)])).wordAt ⟨.loc 0, 0⟩) = 0x87060504ABCD0180 ∧
    (((after (.stf 6 7 3 0) (withRegs (mapped start) [(6, 3), (7, 0x10000000)])).cp c0).posted.map fun w => (w.pa, w.bytes)) = [(⟨.cb 0, 0⟩, [3, 0, 0, 0, 0, 0, 0, 0])] := by decide +kernel
theorem test_store_faults : ((after (.st 6 7 3 0) (two 0 4)).cp c0).tcause = 2 ∧ ((after (.st 6 7 0 0) (two 0 0x10000)).cp c0).tcause = 3 ∧ ((after (.ldf 5 7 3 0) (two 0 0x10000000)).cp c0).tcause = 5 ∧
    ((after (.st 6 7 3 0) (two 0 4)).cp c0).tval = 4 := by decide +kernel
theorem test_atomics : landed (after (.amoAdd 5 0 7) (two 0 3)) = some (5, some 6, 0) ∧ (after (.amoAdd 5 0 7) (two 0 3)).wordAt ⟨.loc 0, 0⟩ = 3 ∧ (after (.amoMax 5 0 7) (two 0 (-3))).wordAt ⟨.loc 0, 0⟩ = 0 ∧
    (after (.amoMin 5 0 7) (two 0 (-3))).wordAt ⟨.loc 0, 0⟩ = -3 ∧ (after (.amoCas 5 0 7 6) (two 0 9)).wordAt ⟨.loc 0, 0⟩ = 9 ∧ (after (.amoCas 5 0 7 6) (two 1 9)).wordAt ⟨.loc 0, 0⟩ = 0 ∧
    (after (.amoSwp 5 0 7) (two 0 3)).wordAt ⟨.loc 0, 0⟩ = 3 ∧ (after (.amoAnd 5 0 7) (filled (two 0 0xFF))).wordAt ⟨.loc 0, 0⟩ = 0x80 ∧ (after (.amoOr 5 0 7) (two 0 8)).wordAt ⟨.loc 0, 0⟩ = 8 := by decide +kernel
theorem test_traps : ((after (.trap 12) start).cp c0).tcause = 0x0F ∧ ((after (.trap 12) start).cp c0).tval = 12 ∧ ((after (.trap 12) start).cp c0).tpc = 4 ∧ ((after (.bkpt 3) start).cp c0).tcause = 0x10 ∧
    (after .tret handler).pc = 0x40 ∧ ((after .tret handler).cp c0).handler = false ∧ ((after .tret start).cp c0).tcause = 6 ∧ ((after (.illegalWord 0) start).cp c0).tcause = 1 := by decide +kernel
theorem test_csrs : landed (after (.csrr 5 0x001) start) = some (5, some 2, 65) ∧ landed (after (.csrr 5 0x010) start) = some (5, some 2, 0x404010) ∧
    ((after (.csrw 6 0x020) (withRegs handler [(6, 0x47)])).cp c0).tvec = 0x44 ∧ ((after (.csrw 6 0x025) (two 7 0)).cp c0).tcause = 6 ∧
    ((after (.csrw 6 0x008) ((two 3 0).modCp c0 fun p => { p with cpevt := 7 })).cp c0).cpevt = 4 ∧ ((after (.csrs 5 6 0x025) (withRegs handler [(6, 5)])).cp c0).tscr = 5 ∧
    ((after (.csrc 5 6 0x021) (withRegs handler [(6, 0x40)])).cp c0).tpc = 0 := by decide +kernel
theorem test_waits : ((after (.wait 6 3) (two 5 0)).cp c0).waitLeft = some 4 ∧ (after (.wait 6 3) ((two 5 0).modCp c0 fun p => { p with cpevt := 2 })).pc = 4 ∧
    ((after (.waitTimeout c0) (start.modCp c0 fun p => { p with waitLeft := some 0 })).cp c0).cpevt = 16 := by decide +kernel
/-! ### For every statement with hypotheses: states and operands that meet them, clause by clause, at the edges of their ranges -/

/-- Seven entries wait, one fewer than the landing queue holds. -/
def seven : State := withQueue (two 7 3) (List.replicate 7 (entry 9 .fixed (some 5) 1))

theorem witness_AluOperations : CanIssue (two 7 3) ([6, 7] ++ [5]) false ∧ CanIssue (two 7 3) ([6] ++ [5]) false ∧ CanIssue (two 7 3) ([] ++ [5]) false ∧
    CanIssue (two 7 3) ([6, 5] ++ [5]) false ∧ CanIssue (withRegs handler [(6, 1)]) ([6] ++ [0]) false ∧ (63#6).toNat + ((0#6).toNat + 1) ≤ 64 ∧ (0#6).toNat + ((63#6).toNat + 1) ≤ 64 := by
  unfold CanIssue; decide +kernel

theorem witness_MulDiv : CanIssue seven ([6, 7] ++ [5]) true ∧ CanIssue handler ([6, 7] ++ [31]) true := by unfold CanIssue; decide +kernel

theorem witness_BranchJump : CanIssue (two 7 3) [6, 7] false ∧ CanIssue start [] false ∧ CanIssue start [30] false ∧ CanIssue start [6, 30] false ∧ CanIssue start [6] false ∧
    ((two 0x24 0).reg 6).toNat % 4 = 0 ∧ (start.reg 30).toNat % 4 = 0 ∧ (start.cp start.cur).handler = false ∧ ((two 0x21 0).cp (two 0x21 0).cur).handler = false ∧
    ((two 0x21 0).reg 6).toNat % 4 ≠ 0 ∧ CanIssue (two 0x21 0) [6] false ∧ CanIssue (two 0x21 0) [6, 30] false ∧ ((withRegs start [(30, 0x23)]).reg 30).toNat % 4 ≠ 0 ∧
    CanIssue (withRegs start [(30, 0x23)]) [30] false := by unfold CanIssue; decide +kernel

/-- The thread waits for a value of g5. -/
def pendingReg (k : LandKind) (rem : Option Nat) : State := withQueue start [entry 5 k rem 4]
theorem witness_LandingQueue : (pendingReg .interlocked none).ecc = [] ∧ entry 5 .interlocked none 4 ∈ ((pendingReg .interlocked none).cp c0).queue ∧ (pendingReg .interlocked none).cur = c0 ∧
    (entry 5 .interlocked none 4).reg ∈ [6, 7, (5 : Reg)] ∧ entry 5 .fixed (some 2) 4 ∈ ((pendingReg .fixed (some 2)).cp c0).queue ∧
    (∀ x ∈ ((pendingReg .fixed (some 2)).cp c0).queue, x.kind = .fixed) ∧ ((pendingReg .fixed (some 2)).cp c0).check = true ∧ ((pendingReg .fixed (some 2)).cp c0).handler = false ∧
    (((withQueue start (List.replicate 8 (entry 9 .fixed (some 5) 1))).cp c0).ready [6, 7, 5] = .ok) ∧
    8 ≤ ((withQueue start (List.replicate 8 (entry 9 .fixed (some 5) 1))).cp c0).queue.length := by decide +kernel

theorem witness_LandingCycle :
    let p := (withQueue start [entry 5 .fixed (some 1) 4, entry 5 .fixed (some 1) 7, entry 6 .interlocked none 1]).cp c0
    let due (e : LandEntry) : Bool := e.rem == some 0 || e.rem == some 1
    (p.queue.filter fun e => due e && e.reg == 6) = [] ∧ (p.queue.filter fun e => due e && e.reg == 5) = [entry 5 .fixed (some 1) 4] ++ [entry 5 .fixed (some 1) 7] ∧
    (5 : Reg) ≠ 0 := by decide +kernel

/-- Debug is open and DBGCTL.HALT set. -/
def debugged : State := (start.modPart 0 fun p => { p with pflags := 1 }).modCp c0 fun p => { p with dbgctl := 1 }
theorem witness_TrapEntry : (start.cp start.cur).handler = false ∧ CanIssue start [] false ∧
    ((start.part start.myPart).pflags.getLsbD 0 && (start.cp start.cur).dbgctl.getLsbD 0) = false ∧ CanIssue debugged [] false ∧
    (debugged.part debugged.myPart).pflags.getLsbD 0 = true ∧ (debugged.cp debugged.cur).dbgctl.getLsbD 0 = true := by unfold CanIssue; decide +kernel

theorem witness_FaultsAndPrivilege : (handler.cp handler.cur).handler = true ∧ RecRoom handler handler.cur.core ∧ CanIssue handler [] false ∧
    CanIssue (withRegs handler [(6, 3)]) [6] false ∧ ((withRegs handler [(6, 3)]).reg 6).toNat % 4 ≠ 0 ∧ ((withRegs handler [(6, 3)]).cp c0).handler = true ∧
    (0 : W32).extractLsb' 25 7 ≠ 0x44#7 ∧ (start.cp start.cur).handler = false ∧ (37#12).toNat ∈ [1, 32, 33, 37] ∧ 64 ≤ (64#12).toNat ∧ (95#12).toNat ≤ 95 ∧ (6 : Reg) ≠ 0 := by
  unfold CanIssue RecRoom; decide +kernel

/-- The CP's cycle belongs to neither mode. -/
def between : State := { (start.modCp c0 fun p => { p with untimed := 1 }) with agenda := [.cp c0] }
theorem witness_TrapReturn : (handler.cp handler.cur).handler = true ∧ CanIssue handler [] false ∧ (handler.cp handler.cur).lqH = [] ∧ (handler.cp handler.cur).tpc.toNat % 4 = 0 ∧
    (let s := handler.modCp c0 fun p => { p with lqH := [entry 5 .fixed (some 4) 3] }
     (s.cp s.cur).handler = true ∧ CanIssue s [] false ∧ (s.cp s.cur).lqH ≠ []) ∧ (start.cp start.cur).handler = false ∧
    between.agenda = .cp c0 :: [] ∧ (between.cp c0).untimed ≠ 0 := by unfold CanIssue; decide +kernel

/-- A wait under way, or an event pending. -/
def waiting (left : Option Word) (ev : BitVec 5) : State := (two 5 0).modCp c0 fun p => { p with waitLeft := left, cpevt := ev }
/-- A deferred trap. -/
def later (o : Nat) : DTrap := ⟨o, 6, 5, 8⟩
theorem witness_WaitAndDeferred : CanIssue (waiting none 2) [6] false ∧ (((waiting none 2).cp c0).cpevt &&& 3) ≠ 0 ∧ CanIssue start [6] false ∧ ((start.cp c0).cpevt &&& 0) = 0 ∧
    (start.reg 6).toNat = 0 ∧ (start.cp c0).waitLeft = none ∧ ((start.cp c0).cpevt &&& 31) = 0 ∧ (31 : BitVec 5) ≠ 0 ∧ CanIssue (waiting none 0) [6] false ∧
    ((waiting none 0).reg 6).toNat ≠ 0 ∧ ((waiting none 0).cp c0).waitLeft = none ∧ ((waiting none 0).cp c0).waitFor = false ∧ (start.cp c0).waitFor = false ∧
    (let s := (waiting none 0).modCp c0 fun p => { p with waitFor := true }; CanIssue s [6] false ∧ ((s.cp c0).cpevt &&& 3) = 0 ∧ (s.cp c0).waitFor = true ∧ (s.cp c0).waitLeft = none) ∧ CanIssue (waiting (some 1) 0) [6] false ∧ ((waiting (some 1) 0).cp c0).waitLeft = some 1 ∧
    (1 : Word) ≠ 0 ∧ CanIssue (waiting (some 0) 4) [6] false ∧ (((waiting (some 0) 4).cp c0).cpevt &&& 3) = 0 ∧ ((waiting (some 0) 4).cp c0).waitLeft = some 0 ∧
    (let s := start.modCp c0 fun p => { p with dtraps := [later 3, later 2] }
     later 2 ∈ (s.cp c0).dtraps ∧ (∀ e ∈ (s.cp c0).dtraps, e = later 2 ∨ (later 2).order < e.order) ∧ (s.core 0).recWait = []) := by unfold CanIssue; decide +kernel

/-- An interlocked entry with number 7 awaits its answer. -/
def awaits (e : LandEntry) : State := (mapped start).modCp c0 fun p => { p with lqT := [entry 3 .fixed (some 4) 3, e] }
def asked (q : Ask) : LandEntry := { entry 5 .interlocked none 0 with id := 7, ask := some q }
def afar (op : FarOp) : LandEntry := { entry 5 .interlocked none 0 with id := 7, far := some (⟨.cb 0, 8⟩, op) }
def found (e : LandEntry) : Prop := (((awaits e).cp c0).lqT ++ ((awaits e).cp c0).lqH).find? (fun x => x.id == 7 && x.rem.isNone) = some e
/-- A CP that awaits the line of an address. -/
def fetching (va : Word) : State := (mapped start).modCp c0 fun p => { p with run := .fetchWait va }
theorem witness_LateAnswers : CanIssue (two 3 0) [6, 5] true ∧ (0x88537FFF : W32).extractLsb' 25 7 = 0x44#7 ∧ 2 < ((0x88530003 : W32).extractLsb' 0 15).toNat ∧
    CanIssue (two 3 0) [(0x88530003 : W32).extractLsb' 15 5, (0x88530003 : W32).extractLsb' 20 5] true ∧
    found (asked .energy) ∧ found (asked .other) ∧ found (asked (.fused 15)) ∧ found (asked (.fused 16)) ∧ (awaits (asked .other)).ecc = [] ∧
    found (afar (.load (accessBytes 6) (decide ((6 : BitVec 3).toNat < 3)))) ∧ (afar (.load 4 false)).ask = none ∧ (6 : BitVec 3).toNat ≤ 6 ∧ (⟨.cb 0, 8⟩ : PAddr).space.package = true ∧
    (let s := awaits (afar (.load 4 false)); s.parkedBlock ⟨.cb 0, 8⟩ = false ∧ s.ownerOk (s.slot c0).part ⟨.cb 0, 8⟩ false = true ∧ s.olderAccess c0 7 ⟨.cb 0, 8⟩ (accessBytes 6) = false) ∧
    ((fetching 0x10000040).cp c0).run = .fetchWait 0x10000040 ∧ (fetching 0x10000040).place c0 0x10000040 4 false = .ok ⟨.cb 0, 0x40⟩ ∧ (fetching 0x10000040).parkedBlock ⟨.cb 0, 0x40⟩ = false ∧
    (fetching 0x10000040).ecc = [] ∧ (fetching 0x10100000).place c0 0x10100000 4 false = .error 0x05 ∧ ((fetching 0x10100000).cp c0).handler = false ∧
    ((fetching 0x10100000).cp c0).dtraps = [] ∧ (let s := (fetching 0x10100000).modCp c0 fun p => { p with dtraps := [later 2] }; (s.cp c0).run = .fetchWait 0x10100000 ∧ s.place c0 0x10100000 4 false = .error 0x05 ∧ (s.cp c0).dtraps ≠ []) ∧
    RecRoom (fetching 0x10100000) 0 ∧ (⟨.cb 0, 0x40⟩ : PAddr).outside = false := by unfold CanIssue found RecRoom; decide +kernel
theorem witness_LateAnswers_idle : ∀ x, (start.cp c0).run ≠ .fetchWait x := by
  have h : (start.cp c0).run = .running := by decide +kernel
  intro x; simp [h]

theorem witness_CsrAccess : CanIssue seven ([] ++ [5]) true ∧ (handler.cp handler.cur).handler = true ∧ CanIssue handler ([] ++ [5]) true ∧ CanIssue handler [6] false ∧
    CanIssue handler [6, 5] true ∧ CanIssue handler [0, 0] true := by unfold CanIssue; decide +kernel

/-- Region 1 runs a take that declares the Scene bytes 8 to 15 for writing. -/
def declared (s : State) : State := s.modRegion c0 1 fun g => { g with on := .running, onHdr := { g.onHdr with smr := [⟨8, 8, true, true⟩] } }
theorem witness_NearPlace : 8 ∈ [1, 2, 4, 8] ∧ (4 : Word).toNat % 8 ≠ 0 ∧ (0x10000 : Word).toNat % 8 = 0 ∧ (0x10000 ≤ (0x10000 : Word).toNat ∧ (0x3FFFF8 : Word).toNat < 0x400000) ∧
    0x800000 ≤ (0x800000 : Word).toNat ∧ (0xFFF8 : Word).toNat < 0x10000 ∧ (0x400000 ≤ (0x400000 : Word).toNat ∧ (0x7FFFF8 : Word).toNat < 0x800000) ∧
    (∃ r : Fin 4, ∃ m ∈ ((declared start).region (declared start).cur r).onHdr.smr,
      (((declared start).region (declared start).cur r).on = .running ∨ ((declared start).region (declared start).cur r).on = .draining) ∧ m.wr = true ∧
      m.off < ((0x400008 : Word).toNat - 0x400000) + 8 ∧ (0x400008 : Word).toNat - 0x400000 < m.off + m.len) := by decide +kernel

theorem witness_NearAccess : (6 : BitVec 3).toNat ≤ 6 ∧ (3 : BitVec 3).toNat ≤ 3 ∧ CanIssue (two 0xFFF8 1) [6, 5] true ∧ (two 0xFFF8 1).dataPlace 0xFFF8 8 true false = .ok ⟨.loc 0, 0xFFF8⟩ ∧
    MemoryCanonical (two 0xFFF8 1) ∧ CanIssue (two 0xFFF8 1) [6, 5] false ∧ (two 0xFFF8 1).dataPlace 0x7FFFF8 8 true true = .ok ⟨.scene 0, 0x3FFFF8⟩ := by
  unfold CanIssue MemoryCanonical; decide +kernel

/-- A far address in g6 and a place for it. -/
def far (a : Word) : State := withRegs (mapped start) [(6, a), (7, 3)]
theorem witness_FarAccess : (6 : BitVec 3).toNat ≤ 6 ∧ classOf (0x100FFFF8 : Word) = .far ∧ (far 0x100FFFF8).dataPlace 0x100FFFF8 8 false false = .ok ⟨.cb 0, 0xFFFF8⟩ ∧
    CanIssue (far 0x100FFFF8) [6, 5] true ∧ (far 0x100FFFF8).dataPlace 0x100FFFF8 8 false true = .ok ⟨.cb 0, 0xFFFF8⟩ ∧ CanIssue (far 0x100FFFF8) [6, 5] false ∧
    (⟨.cb 0, 0xFFFF8⟩ : PAddr).space.package = true ∧ CanIssue (far 0x100FFFF8) [6, 7, 5] true ∧ CanIssue (far 0x100FFFF8) [6, 7, 8, 5] true ∧
    (far 0x100FFFF8).reg 6 = 0x100FFFF8 := by unfold CanIssue; decide +kernel
/-- A page of 1 MiB outside the package, and its address in g6. -/
def outsidePage (sp : Space) : PageMap := ⟨0x10000000, 0x100000, ⟨sp, 0⟩, true, true, none⟩
def outside (sp : Space) : State := withRegs (start.modPart 0 fun p => { p with live := true, pages := [outsidePage sp] }) [(6, 0x10000000), (7, 3)]
theorem witness_FarAccess_outside : (outside .host).dataPlace ((outside .host).reg 6) 8 false true = .ok ⟨.host, 0⟩ ∧ CanIssue (outside .host) [6, 7, 5] true ∧ CanIssue (outside .host) [6, 7, 8, 5] true ∧
    (∀ sp ∈ [.host, .peer 9], (outside sp).pageOf (outside sp).cur ((outside sp).reg 6) = some (outsidePage sp) ∧ ((outsidePage sp).dest.space).package = false ∧
      (∀ k, (outsidePage sp).dest.space ≠ .stat k) ∧ (∀ k, (outsidePage sp).dest.space ≠ .kv k) ∧ ((outside sp).cp (outside sp).cur).handler = false ∧ ((outside sp).reg 6).toNat % 8 = 0) ∧
    (outsidePage (.peer 9)).dest.space ≠ .host ∧ CanIssue (outside (.peer 9)) [6, 7, 5] true ∧ CanIssue (outside (.peer 9)) [6, 7, 8, 5] true := by unfold CanIssue; decide +kernel

theorem witness_AtomicAccess : MemoryCanonical (filled (two 0 9)) ∧ classOf ((filled (two 0 9)).reg 6) ≠ .far ∧ (filled (two 0 9)).dataPlace ((filled (two 0 9)).reg 6) 8 false true = .ok ⟨.loc 0, 0⟩ ∧
    CanIssue (filled (two 0 9)) [6, 7, 5] true ∧ CanIssue (filled (two 0 9)) [6, 7, 8, 5] true ∧ (filled (two 0 9)).wordAt ⟨.loc 0, 0⟩ ≠ (filled (two 0 9)).reg 8 ∧
    (two 0 9).wordAt ⟨.loc 0, 0⟩ = (two 0 9).reg 8 ∧ (start.cp start.cur).handler = false ∧ (two 7 0).ea 6 0 = 7 ∧ (7 : Word).toNat % accessBytes 1 ≠ 0 ∧ CanIssue (two 7 0) [6, 5] true ∧
    CanIssue (two 7 0) [6, 5] false ∧ ((two 7 0).reg 6).toNat % 8 ≠ 0 ∧ CanIssue (two 7 0) [6, 7, 5] true := by unfold CanIssue MemoryCanonical; decide +kernel
/-- Sixteen-byte pieces of the mapped page from an offset on. -/
def pieces (o n : Nat) : List PAddr := (List.range n).map fun i => ⟨.cb 0, o + 16 * i⟩
/-- Bytes in the mapped page. -/
def put (s : State) (o : Nat) (b : List Byte) : State := s.setBytes ⟨.cb 0, o⟩ b
theorem record_ok {s : State} {a : Word} {al n : Nat} {w : Bool} (h : (s.record a al n w).toOption.isSome = true) : RecordOk s a al n w := by
  unfold RecordOk; cases hh : s.record a al n w <;> simp_all [Except.toOption]

def cmd (i : Instr) : Cmd := { order := 3, pc := 0, i := i, a := 0, b := 0, part := 0 }
def withCmds (s : State) (l : List Cmd) : State := s.modSlot c0 fun t => { t with cmdq := l }
def store8 : Posted := { id := 4, pa := ⟨.cb 0, 8⟩, surf := none, vaddr := 0x10000008, fpc := 0, bytes := [1, 2, 3, 4], parked := false }
def withPosted (s : State) (l : List Posted) : State := s.modCp c0 fun p => { p with posted := l }
theorem witness_FencesAndPrefetch : CanIssue start [] false ∧ (start.cp c0).posted = [] ∧ (start.cp c0).lqT ++ (start.cp c0).lqH = [] ∧ start.adds = [] ∧ (start.slot c0).cmdq = [] ∧
    (withPosted start [store8]).cp c0 ≠ start.cp c0 ∧ ((withPosted start [store8]).cp c0).posted ≠ [] ∧ CanIssue (withPosted start [store8]) [] false ∧ CanIssue start [6] false ∧
    ((withCmds start [cmd (.rgo 1)]).slot c0).cmdq = [cmd (.rgo 1)] ∧ ((withCmds start [cmd (.cpy 3)]).slot c0).cmdq = [cmd (.cpy 3)] := by unfold CanIssue; decide +kernel

/-- A parked write to a compressed surface on controller 1 of die 0. -/
def parkedStore : Posted := { store8 with surf := some 0x10000400, parked := true }
def parked : State := (withPosted (mapped start) [parkedStore]).modDie 0 fun d => d.modCtl 1 fun l => { l with park := [(c0, 4)] }
theorem witness_StoresPerform : MemoryCanonical (withPosted (mapped start) [store8]) ∧ ((withPosted (mapped start) [store8]).cp c0).posted.find? (fun x => x.id == 4) = some store8 ∧
    store8.parked = false ∧ store8.surf = none ∧ (withPosted (mapped start) [store8]).olderAccess c0 4 store8.pa 4 = false ∧ store8.pa.space.package = true ∧
    (withPosted (mapped start) [store8]).parkedBlock store8.pa = false ∧ (withPosted (mapped start) [store8]).ownerOk ((withPosted (mapped start) [store8]).slot c0).part store8.pa true = true ∧
    (let s := withPosted start [store8]; MemoryCanonical s ∧ (s.cp c0).posted.find? (fun x => x.id == 4) = some store8 ∧ s.olderAccess c0 4 store8.pa 4 = false ∧ s.parkedBlock store8.pa = false ∧
      s.ownerOk (s.slot c0).part store8.pa true = false ∧ (s.core c0.core).recq.length < 4 ∧ (s.cp c0).run = .running) ∧
    ((parked.die 0).ctl.get 1).park = [(c0, 4)] ∧ ((parked.die 0).ctl.get 1).left = [] ∧ (parked.cp (c0, 4).1).posted.find? (fun y => y.id == (c0, 4).2) = some parkedStore ∧ parkedStore.surf = some 0x10000400 ∧
    (parked.performStore c0 parkedStore).needsEscape (parked.slot c0).part 0x10000400 = false := by unfold MemoryCanonical; decide +kernel
/-- A store into a surface whose record gives one block an extent, no slot size and no escape page. -/
def storeC : Posted := { store8 with surf := some 0x10000400, pa := ⟨.hbm 0, 64⟩ }
def crowded : State := (withPosted (mapped start) [storeC]).setBytes ⟨.cb 0, 0x411⟩ [1]
theorem witness_StoresPerform_parks : MemoryCanonical crowded ∧ (crowded.cp c0).posted.find? (fun x => x.id == 4) = some storeC ∧ storeC.parked = false ∧ storeC.pa.space.package = true ∧
    crowded.olderAccess c0 4 storeC.pa storeC.bytes.length = false ∧ crowded.parkedBlock storeC.pa = false ∧ storeC.surf = some 0x10000400 ∧ storeC.pa.space = .hbm 0 ∧ (c0, 4) ∉ ((crowded.die 0).ctl.get (ctlOf storeC.pa.off)).park ∧
    ((crowded.die 0).ctl.get (ctlOf storeC.pa.off)).park.length + (((crowded.die 0).ctl.get (ctlOf storeC.pa.off)).left.filter fun x => x.2.parked).length < 16 ∧
    (crowded.performStore c0 storeC).needsEscape (crowded.slot c0).part 0x10000400 = true := by unfold MemoryCanonical; decide +kernel

def fullQueue : State := withCmds (two 0x21 0) (List.replicate 16 (cmd (.rgo 1)))
theorem witness_EngineCommands : CanIssue (far 0x10000000) [] false ∧ CanIssue (far 0x10000000) [6] false ∧ CanIssue (far 0x10000000) [6, 7] false ∧ (6 : Reg) ≠ 0 ∧
    ((withCmds start (List.replicate 15 (cmd (.rgo 1)))).slot c0).cmdq.length < 16 ∧ CanIssue fullQueue [] false ∧ 16 ≤ (fullQueue.slot c0).cmdq.length ∧ fullQueue.cur = c0 ∧
    CanIssue fullQueue [6] false ∧ (fullQueue.cp c0).handler = false ∧ (fullQueue.reg 6).toNat % 64 ≠ 0 ∧ (fullQueue.reg 6).toNat % 256 ≠ 0 ∧ CanIssue start [5] true := by
  unfold CanIssue; decide +kernel
theorem witness_EngineCommands_records : RecordOk (far 0x10000000) ((far 0x10000000).reg 6) 64 160 false ∧ RecordOk (far 0x10000000) ((far 0x10000000).reg 6) 16 272 false ∧
    RecordOk (far 0x10000000) ((far 0x10000000).reg 6) 256 64 true ∧ RecordOk (far 0x100FFF00) ((far 0x100FFF00).reg 6) 256 64 false ∧ RecordOk (far 0x100FFFC0) ((far 0x100FFFC0).reg 6) 64 64 false ∧
    RecordOk (far 0x100FFFE0) ((far 0x100FFFE0).reg 6) 32 32 false :=
  ⟨record_ok (by decide +kernel), record_ok (by decide +kernel), record_ok (by decide +kernel), record_ok (by decide +kernel), record_ok (by decide +kernel), record_ok (by decide +kernel)⟩

/-- Region 1 in a state, with its command at the head. -/
def heads (i : Instr) (f : Region → Region) : State := (withCmds start [cmd i]).modRegion c0 1 f
theorem witness_CommandHead : ((heads (.rgo 1) id).slot c0).status = 0x01 ∧ ((heads (.rgo 1) id).slot c0).cmdq = [cmd (.rgo 1)] ∧
    ((heads (.rgo 1) id).region c0 (ix4 1)).on ≠ .draining ∧ (heads (.rload 6 7 1) id).recordParked c0 (cmd (.rload 6 7 1)) = false ∧ (heads (.rarm 0 1) id).recordParked c0 (cmd (.rarm 0 1)) = false ∧ ((heads (.rload 6 7 1) id).region c0 (ix4 1)).loading = none ∧ ((heads (.rarm 0 1) id).region c0 (ix4 1)).next = .empty ∧
    ((heads (.rgo 1) fun g => { g with next := .armed }).region c0 (ix4 1)).on = .free ∧ ((heads (.rgo 1) fun g => { g with next := .armed }).region c0 (ix4 1)).next = .armed ∧
    ((heads (.rgo 1) fun g => { g with on := .stopped, next := .loaded }).region c0 (ix4 1)).next ≠ .armed ∧ ((heads (.rgo 1) id).region c0 (ix4 1)).nextLost = false ∧
    ((heads (.rstop 1) fun g => { g with on := .running }).region c0 (ix4 1)).on = .running ∧ ((heads (.rstop 1) id).region c0 (ix4 1)).on ≠ .running := by decide +kernel

/-- The smallest image: one element without contexts, cues or immediates. -/
def image : List Byte := [0x5A, 0x52, 0x4C, 0x31, 1, 0, 1, 1, 1, 0, 1, 0, 1, 0, 0, 0, 0, 0, 0, 0, 1, 0, 0, 0, 0xB8, 0x0D, 0, 0]
def section0 : List Byte := [0, 0, 0, 0, 0, 0, 40, 0] ++ List.replicate 24 0 ++ [0xF6, 0x4C, 0x84, 0x45, 0, 0, 0, 0]
def loading (good : Bool) : State :=
  let m := { cmd (.rload 6 7 1) with a := 0x10000000, b := 0 }
  let s := (withCmds (mapped start) [m]).modRegion c0 1 fun g => { g with loading := some m }
  if good then put (put s 0 image) 0xD90 section0 else s
def accepted (good : Bool) : Bool := match ((loading good).readImage c0 1 0x10000000 0).2 with | .ok (.ok _) => true | _ => false
theorem witness_ReelAndCopy_load : ((loading true).slot c0).status = 0x01 ∧ ((loading true).region c0 1).loading = some { cmd (.rload 6 7 1) with a := 0x10000000, b := 0 } ∧
    (loading true).ecc = [] ∧ accepted true = true ∧ ((loading false).readImage c0 1 0x10000000 0).2 = .ok (.error 0x02000000) := by decide +kernel

def job : CopyJob := { cmd := cmd (.cpy 6), gather := false, src := 0x10000000, dst := 0x400000, len := 64, ssurf := false, dsurf := false, stgd := false, scope := 0
                       stage := none, ctr := some (8, ⟨.loc 0, 8⟩), inc := 5, seq := 0, idx := 0, nidx := 0, elen := 0 }
def copies (q : List CopyJob) (r : Option CopyRun) : State := (mapped start).modSlot c0 fun t => { t with copyq := q, copying := r }
def moved : CopyRun := { job := job, srcBase := 0x10000000, srcLimit := none, dstBase := 0x400000, dstLen := 0, unit := 2, index := none, parked := none }
theorem witness_ReelAndCopy_copy : ((copies [job] none).slot c0).status = 0x01 ∧ ((copies [job] none).slot c0).copying = none ∧ ((copies [job] none).slot c0).copyq = job :: [] ∧
    job.gather = false ∧ job.ssurf = false ∧ job.dsurf = false ∧ job.stage = none ∧ ((copies [job] none).slot c0).declared false job.dst job.len = false ∧
    ((copies [job] none).slot c0).declared true job.src job.len = false ∧ MemoryCanonical (copies [] (some moved)) ∧ ((copies [] (some moved)).slot c0).copying = some moved ∧
    (copies [] (some moved)).ecc = [] ∧ (copies [] (some moved)).addsOf c0 .engine (copies [] (some moved)).ids = false ∧ moved.job.dsurf = false ∧ moved.job.stage = none ∧ moved.job.len ≤ 32 * moved.unit ∧ moved.job.ctr = some (8, ⟨.loc 0, 8⟩) ∧ ((copies [] (some moved)).cp c0).trigged = none ∧ ((copies [] (some moved)).slot c0).launch = none := by
  unfold MemoryCanonical; decide +kernel

def stage : Stage := { base := 0, slen := 64, n := 2, scope := 0, fill := ⟨.loc 0, 64⟩, rel := ⟨.loc 0, 72⟩, fillVa := 64, relVa := 72 }
def staged (s : State) : State := s.modSlot c0 fun t => { t with stages := vmod t.stages 2 fun _ => some stage }
theorem witness_PatternAndStage : (far 0x10000000).record ((far 0x10000000).reg 6) 64 64 false = .ok (pieces 0 4) ∧ CanIssue (far 0x10000000) [6] false ∧ (∀ p ∈ pieces 0 4, (far 0x10000000).parkedBlock p = false) ∧
    MemoryCanonical (staged (two 4 0)) ∧ CanIssue (staged (two 4 0)) [6] false ∧ (staged (two 4 0)).accessesDone (staged (two 4 0)).cur = true ∧
    ((staged (two 4 0)).slot (staged (two 4 0)).cur).stages.get (ix16 2) = some stage ∧ (start.slot start.cur).stages.get (ix16 2) = none ∧ start.accessesDone start.cur = true ∧
    (withPosted start [store8]).accessesDone (withPosted start [store8]).cur = false ∧ CanIssue (withPosted start [store8]) [6] false := by unfold CanIssue MemoryCanonical; decide +kernel

def arriving : CtrAdd := { id := 9, agent := .cp, sender := c0, part := 0, gen := 0, wid := 0, pa := ⟨.cb 0, 16⟩, vaddr := 0x10000010, inc := 5 }
theorem witness_Counters : MemoryCanonical (two 0xFFF8 3) ∧ CanIssue (two 0xFFF8 3) [6, 7] false ∧ (two 0xFFF8 3).counterPlace c0 ((two 0xFFF8 3).reg 6) true = .ok ⟨.loc 0, 0xFFF8⟩ ∧
    (two 0xFFF8 3).cur = c0 ∧ (two 0xFFF8 3).accessesDone c0 = true ∧ (⟨.loc 0, 0xFFF8⟩ : PAddr).space = .loc 0 ∧ CanIssue (far 0x10000008) [6, 7] false ∧
    (far 0x10000008).counterPlace (far 0x10000008).cur ((far 0x10000008).reg 6) true = .ok ⟨.cb 0, 8⟩ ∧ (far 0x10000008).accessesDone (far 0x10000008).cur = true ∧
    (∀ k, (⟨.cb 0, 8⟩ : PAddr).space ≠ .loc k ∧ (⟨.cb 0, 8⟩ : PAddr).space ≠ .scene k) ∧ (withPosted (two 8 3) [store8]).accessesDone c0 = false ∧
    (withPosted (two 8 3) [store8]).counterPlace c0 8 true = .ok ⟨.loc 0, 8⟩ ∧ (two 7 0).cp c0 = (two 7 0).cp (two 7 0).cur ∧ ((two 7 0).cp c0).handler = false ∧ ((two 7 0).reg 6).toNat % 8 ≠ 0 ∧
    (let s := { mapped start with adds := [arriving] }
     s.adds.find? (fun y => y.id == arriving.id) = some arriving ∧ (s.part arriving.part).live = true ∧ (s.part arriving.part).gen = arriving.gen ∧ s.ownerOk arriving.part arriving.pa true = true ∧
     s.addWaits arriving = false ∧ s.ecc = [] ∧ s.surfaceOf arriving.part arriving.vaddr = none) ∧
    (let s := { start with adds := [arriving] }
     s.adds.find? (fun y => y.id == arriving.id) = some arriving ∧ s.addWaits arriving = false ∧ (s.part arriving.part).live = false ∧ (s.core arriving.sender.core).recq.length < 4) ∧
    (two 8 0).olderAccess c0 (two 8 0).ids ⟨.loc 0, 8⟩ 8 = false ∧ (two 8 0).parkedBlock ⟨.loc 0, 8⟩ = false ∧ (two 8 0).counterPlace c0 ((two 8 0).reg 6) false = .ok ⟨.loc 0, 8⟩ ∧ ((two 8 0).reg 7).toNat ≤ ((two 8 0).wordAt ⟨.loc 0, 8⟩).toNat ∧
    ((two 8 1).wordAt ⟨.loc 0, 8⟩).toNat < ((two 8 1).reg 7).toNat ∧ CanIssue (far 0x10000000) [6, 0] false ∧
    (far 0x10000000).record ((far 0x10000000).reg 6) 32 32 true = .ok (pieces 0 2) ∧ (pieces 0 2)[1]? = some ⟨.cb 0, 16⟩ := by unfold CanIssue MemoryCanonical; decide +kernel
/-- A range of the mapped page in g6 (base) and g7 (length), a counter at 8 in g11. -/
def ranged (s : State) (base len : Word) : State := withRegs (mapped s) [(11, 8), (6, base), (7, len)]
def bound (s : State) : State := s.modPart 0 fun p => { p with binds := [(8, 0x10000040, 64)] }
theorem witness_BindAndInvalidate : CanIssue (ranged start 0x10000000 64) [11, 6, 7] false ∧ (0x10000000 : Word).toNat % 64 = 0 ∧ 64 ≤ (64 : Word).toNat ∧
    (ranged start 0x10000000 64).rangeBindable 0 ((64 : Word).toNat / 65536 + 2) 0x10000000 64 = .ok () ∧ (ranged start 0x10000000 64).myPart = 0 ∧
    (ranged start 0x10000000 64).counterPlace c0 ((ranged start 0x10000000 64).reg 11) false = .ok ⟨.loc 0, 8⟩ ∧
    (¬ ∃ y ∈ ((bound (ranged start 0x10000000 64)).part 0).binds, y.2.1.toNat < (0x10000000 : Word).toNat + 64 ∧ (0x10000000 : Word).toNat < y.2.1.toNat + y.2.2.toNat) ∧
    ((bound (ranged start 0x10000000 64)).part 0).binds.length < 1024 ∧
    (∃ y ∈ ((bound (ranged start 0x10000000 128)).part 0).binds, y.2.1.toNat < (0x10000000 : Word).toNat + 128 ∧ (0x10000000 : Word).toNat < y.2.1.toNat + y.2.2.toNat) ∧
    ((ranged start 0x10000020 64).cp c0).handler = false ∧ (0x10000020 : Word).toNat % 64 ≠ 0 ∧ CanIssue (ranged start 0x10000020 64) [11, 6, 7] false ∧ CanIssue start [6] false ∧
    CanIssue (ranged start 0 (-1)) [6, 7] false := by unfold CanIssue; decide +kernel

/-- Queue 3 of partition 0 is open to launches, with 16 entries and n slates in it. -/
def opened (n : W32) (s : State) : State := s.setWq 3 { base := 0x10001000, cfg := 0x1008004, tail := n, head := 0, err := 0 }
theorem witness_TriggerAndLaunch : CanIssue start [] false ∧ (start.slot start.cur).launch = none ∧
    (let s := opened 15 (far 0x10000000)
     CanIssue s [6, 7] false ∧ s.record (s.reg 6) 64 64 false = .ok (pieces 0 4) ∧ (∀ p ∈ pieces 0 4, s.parkedBlock p = false) ∧ (s.reg 7).toNat = 3 ∧ (s.wq 3).part = s.myPart ∧ (s.wq 3).cfg.getLsbD 24 = true ∧ (s.wq 3).enabled = true ∧
     s.accessesDone s.cur = true ∧ ((s.wq 3).tail - (s.wq 3).head).toNat < 2 ^ ((s.wq 3).cfg.toNat % 32) ∧ MemoryCanonical s ∧
     s.translate (s.wq 3).part ((s.wq 3).base + BitVec.ofNat 64 (64 * ((s.wq 3).tail.toNat % 2 ^ ((s.wq 3).cfg.toNat % 32)))) true = .ok ⟨.cb 0, 0x13C0⟩) ∧
    (let s := opened 16 (far 0x10000000); 2 ^ ((s.wq 3).cfg.toNat % 32) ≤ ((s.wq 3).tail - (s.wq 3).head).toNat) ∧
    (let s := far 0x10000000; (s.wq 3).enabled = false ∧ (s.cp s.cur).handler = false) := by unfold CanIssue MemoryCanonical; decide +kernel

/-- Barrier 5 of cluster 0 serves n participants of partition 0. -/
def barrier (n : BitVec 5) (arrived : Nat) (pend : Bool) (gen : W32) : State :=
  (start.modCluster 0 fun k => { k with barN := vmod k.barN 5 fun _ => n, barArr := vmod k.barArr 5 fun _ => arrived, barGen := vmod k.barGen 5 fun _ => gen }).modSlot c0
    fun t => { t with barPend := vmod t.barPend 5 fun _ => pend }
/-- Core 1 belongs to partition 0 and runs a task of it. -/
def neighbourly (d : Word) : State :=
  (((two d 0).modDie 0 fun x => { x with ptab := vmod x.ptab 0 fun p => { p with cores := 3 } }).modSlot ⟨1, 0⟩ fun t => { t with status := 1 }).modRegion ⟨1, 0⟩ 0 fun g => { g with on := .running, takeSeq := 4 }
theorem witness_BarriersAndPeers :
    (let s := barrier 16 15 false 0
     CanIssue s [] false ∧ 1 ≤ ((s.cluster 0).barN.get (ix16 5)).toNat ∧ ((s.cluster 0).barN.get (ix16 5)).toNat ≤ 16 ∧ (s.cluster 0).barPart.get (ix16 5) = s.myPart ∧ s.accessesDone s.cur = true ∧
     ((s.cluster 0).barN.get (ix16 5)).toNat ≤ (s.cluster 0).barArr.get (ix16 5) + 1 ∧ clusterOf s.cur.core = 0) ∧
    (let s := barrier 2 0 false 0; (s.cluster 0).barArr.get (ix16 5) + 1 < ((s.cluster 0).barN.get (ix16 5)).toNat) ∧
    (let s := barrier 1 0 true 7; (s.slot s.cur).barPend.get (ix16 5) = true ∧ (s.cluster 0).barGen.get (ix16 5) ≠ (s.slot s.cur).barAph.get (ix16 5)) ∧
    (let s := barrier 1 0 true 0; (s.slot s.cur).barPend.get (ix16 5) = true ∧ (s.cluster 0).barGen.get (ix16 5) = (s.slot s.cur).barAph.get (ix16 5)) ∧
    (let s := (barrier 0 0 true 7).modCp c0 fun p => { p with waitFor := true }; CanIssue s [] false ∧ (s.cp s.cur).waitFor = true ∧ (s.slot s.cur).barPend.get (ix16 5) = true ∧ (s.cluster 0).barGen.get (ix16 5) ≠ (s.slot s.cur).barAph.get (ix16 5)) ∧
    (¬ (1 ≤ ((start.cluster 0).barN.get (ix16 5)).toNat) ∧ (start.cp start.cur).handler = false ∧ ¬ (start.cp start.cur).waitFor = true) ∧
    CanIssue (two 0 0) [6] false ∧ (two 0 0).reg 6 = 0 ∧
    (let s := neighbourly 0x80000001
     CanIssue s [6] false ∧ (s.reg 6).getLsbD 31 = true ∧ ¬ (s.reg 6 &&& 0xFFFFFFFF600CCEC0 ≠ 0) ∧ s.coreOfPart 1 s.myPart = true ∧ (s.slot ⟨1, 0⟩).status = 0x01 ∧
     (s.slot ⟨1, 0⟩).part = s.myPart ∧ (s.core 1).cquar = false) ∧
    (let s := two 0x40 0; CanIssue s [6] false ∧ s.reg 6 &&& 0xFFFFFFFF600CCEC0 ≠ 0 ∧ (s.cp s.cur).handler = false) := by unfold CanIssue; decide +kernel

def tile : Tile := { id := 6, sender := c0, elem := 0, imgElem := 0, region := 0, cue := true, idx := 0, part := 0, wid := 0, int := true, strm := 0, pb := 0, sendCycle := 0
                     desc := 0x80000001, seq := 4, lanes := Vector.replicate 8 0x7FFFFFFF, takeSeq := 1, refused := none }
def tiled (s : State) : State := { s with tiles := [tile] }
/-- The peer region holds one element with a bank. -/
def taker : State := ((tiled (neighbourly 0)).modRegion ⟨1, 0⟩ 0 fun g => { g with onHdr := { g.onHdr with rows := 1, cols := 1 } }).modElem ⟨1, 0⟩ 0 fun e => { e with on := { e.on with present := true } }
theorem witness_TileArrive : taker.tiles.find? (fun t => t.id == tile.id) = some tile ∧ (∀ y ∈ taker.tiles, ¬ (y.ordered tile = true ∧ y.before tile = true)) ∧ tile.refused = none ∧ taker.tileTarget tile = .ok 0 ∧ (∀ y ∈ (tiled start).tiles, ¬ (y.ordered tile = true ∧ y.before tile = true)) ∧
    4 ≤ (((tiled start).modCore 0 fun k => { k with recq := [1, 2, 3, 4] }).core tile.sender.core).recq.length ∧
    tile.int = true ∧ (tiled start).tiles.find? (fun t => t.id == tile.id) = some tile ∧ ((tiled start).slot tile.peer).status = 0x00 ∧ ((tiled start).core tile.sender.core).recq.length < 4 := by
  decide +kernel

/-- Pool 3 of chiplet 0 is partition 0's, with a sequence of t positions and a sealed block. -/
def seqn (t : Nat) : KvSeq := { index := 0, gen := 0, live := true, part := 0, pool := 3, t := t, blocks := [5] }
def block5 (n : Nat) : KvBlock := { id := 5, pool := 3, part := 0, home := 0, pages := [7], ids := List.replicate n 1, key := some 0, written := (List.range n).map fun p => (0, p), refs := 1
                                    tagged := true, released := 0 }
def cached (s : State) (t : Nat) : State := s.modChiplet 0 fun k =>
  { k with kvpool := vmod k.kvpool 3 fun _ => 0x8000000000000000, seqs := [seqn t], blocks := [block5 t], free := [(3, 0, 9)] }
def kvRegs (t : Nat) (a b : Word) : State := cached (withRegs (mapped start) [(6, a), (7, b)]) t
def seqHdl : Word := 0x400C000000000000
/-- One token ID in a token record at the start of the page. -/
def tokenRec (s : State) : State := put s 0 (List.replicate 64 0 ++ [1])
theorem witness_KvAppend_noBlocks (s : State) : s.takeBlocks 0 3 0 = some (s, []) := rfl
theorem witness_KvAppend :
    (let s := tokenRec (kvRegs 16 seqHdl 0x10000000)
     CanIssue s [6, 7, 11] false ∧ s.record (s.reg 7) 64 128 false = .ok (pieces 0 8) ∧ (∀ p ∈ pieces 0 8, s.parkedBlock p = false) ∧ s.seqOf s.myPart (s.reg 6) = some (seqn 16) ∧
     tokenIds ((pieces 0 8).flatMap fun p => s.bytesAt p 16) = some [0] ∧ (s.takeBlocks (hdlChip (s.reg 6)) 3 (blocksNeeded 16 1)).isSome = true) ∧
    (let s := tokenRec (kvRegs 15 seqHdl 0x10000000)
     s.seqOf s.myPart (s.reg 6) = some (seqn 15) ∧ (s.chiplet (hdlChip (s.reg 6))).seqs = [seqn 15] ∧ (seqn 15).t % 16 ≠ 0 ∧ (seqn 15).t % 16 + [0#32].length ≤ 16 ∧
     blocksNeeded 15 1 = 0 ∧ (seqn 15).blocks[(seqn 15).t / 16]? = some 5 ∧ (s.chiplet (hdlChip (s.reg 6))).blocks = [block5 15]) ∧
    (let s := kvRegs 16 (seqHdl + 0x1000000) 0x10000000; s.seqOf s.myPart (s.reg 6) = none ∧ (s.cp s.cur).handler = false ∧ CanIssue s [6] false) := by unfold CanIssue; decide +kernel

theorem witness_KvSequences :
    (let s := put (kvRegs 16 0x10000000 1) 0 ([0, 0, 0, 0, 0, 0, 0, 0, 3, 0, 0, 0, 0, 0, 0, 0, 0, 1, 0, 0x10])
     let r := (pieces 0 2).flatMap fun p => s.bytesAt p 16
     CanIssue s [6, 7, 11] false ∧ s.record (s.reg 6) 64 32 true = .ok (pieces 0 2) ∧ (∀ p ∈ pieces 0 2 ++ (List.range 16).map fun i => ⟨.cb 0, 0x100 + 4 * i⟩, s.parkedBlock p = false) ∧ fld64 r 8 >>> 6 = 0 ∧ (s.reg 7).toNat ≤ 65536 ∧ s.poolChip s.myPart ((fld64 r 8).setWidth 6) = some 0 ∧
     (fld64 r 0x10).toNat % 4 = 0 ∧ s.places s.cur false 4 (16 * (s.reg 7).toNat) (fld64 r 0x10) = .ok ((List.range 16).map fun i => ⟨.cb 0, 0x100 + 4 * i⟩) ∧
     (s.chiplet 0).freeEntry = some (1, 0) ∧ MemoryCanonical s) ∧
    (let s := kvRegs 16 seqHdl 1
     CanIssue s [6, 7, 11] false ∧ s.seqOf s.myPart (s.reg 6) = some (seqn 16) ∧ (s.reg 7).toNat ≤ (seqn 16).blocks.length ∧ (s.chiplet (hdlChip (s.reg 6))).freeEntry = some (1, 0) ∧
     (∀ i ∈ (seqn 16).blocks.take 1, (s.chiplet 0).block i = some (block5 16)) ∧ (block5 16).isSealed (poolLayers ((s.chiplet 0).pool 3)) = true ∧ CanIssue s [6] false) ∧
    (start.seqOf start.myPart (start.reg 6) = none ∧ (start.cp start.cur).handler = false ∧ CanIssue start [6] false) := by unfold CanIssue MemoryCanonical; decide +kernel

/-- The program m.true; m.end at the start of the page, and one of a reserved instruction. -/
theorem witness_MaskInstructions :
    (let s := put (far 0x10000000) 0 [0, 8, 0, 0xF8]
     let p := maskProg ((pieces 0 8).flatMap fun p => s.bytesAt p 16)
     s.record (s.reg 6) 64 128 false = .ok (pieces 0 8) ∧ CanIssue s [6] false ∧ (∀ i, i < 128 → s.parkedBlock (pieceAt (pieces 0 8) i) = false) ∧ (s.slot s.cur).mreport = none ∧ p.walk p.w 0 0 = none) ∧
    (let s := far 0x10000000
     let p := maskProg ((pieces 0 8).flatMap fun p => s.bytesAt p 16)
     s.record (s.reg 6) 64 128 false = .ok (pieces 0 8) ∧ CanIssue s [6] false ∧ p.walk p.w 0 0 ≠ none ∧ (s.core s.cur.core).recq.length < 4 ∧ (s.cp s.cur).run = .running ∧ CanIssue s ([6] ++ [11]) false ∧ (s.slot s.cur).mreport = none) ∧
    (let s := (far 0x10000000).modCore 0 fun k => { k with recq := [1, 2, 3, 4] }
     let p := maskProg ((pieces 0 8).flatMap fun p => s.bytesAt p 16)
     s.record (s.reg 6) 64 128 false = .ok (pieces 0 8) ∧ CanIssue s [6] false ∧ p.walk p.w 0 0 ≠ none ∧ 4 ≤ (s.core s.cur.core).recq.length ∧ (s.cp s.cur).run = .running) ∧
    (let s := (far 0x10000000).modSlot c0 fun t => { t with mreport := some default }; CanIssue s [6] false ∧ ¬ (s.slot s.cur).mreport = none) ∧
    fld ((pieces 0 8).flatMap fun p => (put (far 0x10000000) 0 [0, 0, 22]).bytesAt p 16) 2 1 = 22 := by unfold CanIssue; decide +kernel

/-- In handler mode, with the page mapped. -/
def handlerFar (t : State → State) : State := t (withRegs (mapped handler) [(6, 0x10000000), (7, 3)])
theorem witness_AttentionInstructions :
    (let s := put (cached (far 0x10000000) 16) 0 [0, 0, 18, 0, 0, 0, 0, 0, 0, 0, 0, 0, 0, 0, 0x0C, 0x40]
     let r := (pieces 0 8).flatMap fun p => s.bytesAt p 16
     CanIssue s [6] false ∧ s.record (s.reg 6) 64 128 true = .ok (pieces 0 8) ∧ (∀ p ∈ pieces 0 8, s.parkedBlock p = false) ∧ (s.slot s.cur).status = 1 ∧ fld r 2 1 = 18 ∧ hdlChip (fld64 r 8) = 0 ∧ s.seqOf s.myPart (fld64 r 8) = some (seqn 16) ∧
     (s.callsOf s.cur (BitVec.ofNat 5 (fld r 2 1))).length < 64) ∧
    (let s := put (handlerFar id) 0 [0, 0, 64]
     let r := (pieces 0 1).flatMap fun p => s.bytesAt p 16
     let m := (pieces 0 65).flatMap fun p => s.bytesAt p 16
     (s.cp s.cur).handler = true ∧ CanIssue s [6] false ∧ s.record (s.reg 6) 64 16 false = .ok (pieces 0 1) ∧ 1 ≤ fld r 2 2 ∧ fld r 2 2 ≤ 64 ∧
     s.record (s.reg 6) 64 (16 + 16 * fld r 2 2) false = .ok (pieces 0 65) ∧ (∀ p ∈ pieces 0 1 ++ pieces 0 65, s.parkedBlock p = false) ∧ disjointRanges ((ringEntries (fld r 2 2) m).filter fun e => !e.skip) = true) ∧
    (let s := put ((handlerFar (cached · 16)).modChiplet 0 fun k => { k with kvpool := vmod k.kvpool 63 fun _ => 0x8000000000000000 }) 0 [0, 3, 63, 0, 1]
     let r := (pieces 0 2).flatMap fun p => s.bytesAt p 16
     (s.cp s.cur).handler = true ∧ CanIssue s [6] false ∧ s.record (s.reg 6) 32 32 true = .ok (pieces 0 2) ∧ (∀ p ∈ pieces 0 2, s.parkedBlock p = false) ∧ fld r 1 1 < 64 ∧ fld r 2 1 < 64 ∧ fld r 1 1 ≠ fld r 2 1 ∧
     (s.chiplet 0).owns (BitVec.ofNat 6 (fld r 1 1)) s.myPart = true ∧ (s.chiplet 0).owns (BitVec.ofNat 6 (fld r 2 1)) s.myPart = true ∧ MemoryCanonical s) ∧
    (start.cp start.cur).handler = false := by unfold CanIssue MemoryCanonical; decide +kernel

/-- A gang of this package, endpoint 5, and another. -/
def gang (st : GangState) (initHere : Bool) : Gang := { (default : Gang) with gid := 0x500000000001, state := st, initHere := initHere, members := [(5, 0), (6, 0), (7, 0)], wdogNs := 1000, since := 0, born := 0 }
def ganged (s : State) (g : Gang) : State := { s with gangs := [g], ep := 5 }
/-- The task of slot 0 belongs to the gang. -/
def inGang (g : Gang) (s : State) : State :=
  (ganged { s with launches := [{ (default : Launch) with id := 1, gang := some g.gid }] } g).modSlot c0 fun t => { t with launch := some 1 }
/-- A gang record with DELAY 10000, and a member set of endpoints 5 and 6. -/
def gangRec (s : State) : State := put (put { s with ep := 5 } 0 (List.replicate 0x50 0 ++ [0x10, 0x27])) 0x400 [2, 0, 0, 0, 0, 0, 0, 0, 5, 0, 0, 0, 0, 0, 0, 0, 6]
/-- An all-reduce of 96 bytes over three members. -/
def collBytes : List Byte := [0, 0, 0, 0, 0, 0, 0, 0, 1, 0, 0, 0, 0, 0x50, 0, 0, 0, 1, 0, 0x10, 0, 0, 0, 0, 0, 2, 0, 0x10, 0, 0, 0, 0, 96]
def collJob (b : List Byte) : CollJob := { id := 4, gid := 0x500000000001, result := ⟨.cb 0, 0x30⟩, ctr := none, pc := 0, recAddr := 0x10000000, bytes := b, src := 0x10000100, dst := 0x10000200,
                                            own := List.replicate 96 0, fault := none }
def collecting : State := (inGang (gang .committed true) (put (far 0x10000000) 0 collBytes)).modSlot c0 fun t => { t with colls := [collJob (collBytes ++ List.replicate 31 0)] }
def launching : State := gangRec (withRegs (mapped start) [(6, 0x10000000), (7, 0x10000400)])
def bytes128 (s : State) (o n : Nat) : List Byte := (pieces o n).flatMap fun p => s.bytesAt p 16
theorem witness_GangInstructions_launch : CanIssue launching [6, 7] false ∧ launching.record (launching.reg 6) 64 128 true = .ok (pieces 0 8) ∧
    launching.record (launching.reg 7) 64 16 false = .ok (pieces 0x400 1) ∧ launching.accessesDone launching.cur = true ∧ fld (bytes128 launching 0x400 1) 0 4 = 2 ∧
    launching.record (launching.reg 7) 64 ((8 + 8 * 2 + 15) / 16 * 16) false = .ok (pieces 0x400 2) ∧ launching.gangRecordOk (bytes128 launching 0 8) = true ∧
    memberSetOk launching.ep 2 (bytes128 launching 0x400 2) = true ∧ (launching.wq ((memberEntries 2 (bytes128 launching 0x400 2)).headD default).2.toNat).part = launching.myPart ∧
    fld64 (bytes128 launching 0 8) 0x58 = 0 ∧ (∀ p ∈ pieces 0 8 ++ pieces 0x400 1 ++ pieces 0x400 2, launching.parkedBlock p = false) ∧ CanIssue (two 1 0) [6, 5] true := by unfold CanIssue; decide +kernel
/-- Fifteen collectives are in flight. -/
def nearlyFull : State := collecting.modSlot c0 fun t => { t with colls := List.replicate 15 (collJob []) }
theorem witness_GangInstructions_coll : CanIssue nearlyFull [6] false ∧ nearlyFull.record (nearlyFull.reg 6) 64 64 true = .ok (pieces 0 4) ∧ nearlyFull.accessesDone nearlyFull.cur = true ∧
    (nearlyFull.slot nearlyFull.cur).colls.length < 16 ∧ nearlyFull.gangOf nearlyFull.cur = some (gang .committed true) ∧ (gang .committed true).gid = fld64 (bytes128 nearlyFull 0 4) 8 ∧
    collOk (bytes128 nearlyFull 0 4) (gang .committed true).members.length = true ∧ fld64 (bytes128 nearlyFull 0 4) 0x28 = 0 ∧ (∀ p ∈ pieces 0 4, nearlyFull.parkedBlock p = false) ∧
    (nearlyFull.collBuffer nearlyFull.cur (nearlyFull.reg 6) (collSsurf (bytes128 nearlyFull 0 4)) false (fld64 (bytes128 nearlyFull 0 4) 0x10) (collSrcLen (bytes128 nearlyFull 0 4) 3)).2.toOption = some 0x10000100 ∧
    (nearlyFull.collBuffer nearlyFull.cur (nearlyFull.reg 6) (collDsurf (bytes128 nearlyFull 0 4)) true (fld64 (bytes128 nearlyFull 0 4) 0x18) (collDstLen (bytes128 nearlyFull 0 4) 3)).2.toOption = some 0x10000200 ∧
    (nearlyFull.readVirt nearlyFull.cur 0x10000100 (collSrcLen (bytes128 nearlyFull 0 4) 3)).2.toOption = some (List.replicate 96 0) := by
  unfold CanIssue; decide +kernel
def inFlight : CollJob := collJob (collBytes ++ List.replicate 31 0)
def zeros96 : List Byte := List.replicate 96 0
theorem witness_GangInstructions_complete : (collecting.slot c0).colls.find? (fun y => y.id == inFlight.id) = some inFlight ∧ collecting.gang inFlight.gid = some (gang .committed true) ∧
    MemoryCanonical collecting ∧ (collecting.core c0.core).recq.length < 4 ∧ collDsurf inFlight.bytes = false ∧ inFlight.ctr = none ∧ inFlight.fault = none ∧
    collResult inFlight.bytes ((List.range 3).map fun k => if k = 0 then inFlight.own else ([[], zeros96, zeros96][k]?).getD []) 3 0 = zeros96 ∧
    ((collecting.writeVirt c0 inFlight.dst zeros96).toOption.map fun t => Memory.wf t.mem && t.ecc == []) = some true := by unfold MemoryCanonical; decide +kernel
/-- Old and new content agree, so that the free choice of each unit does not show. -/
theorem witness_GangInstructions_failed : collecting.ecc = [] ∧ (collecting.readVirt c0 inFlight.dst (collDstLen inFlight.bytes 3)).2.toOption = some zeros96 ∧
    (0 : Nat) < 4096 := by decide +kernel
theorem witness_GangInstructions_mix (n : Nat) : collMix n zeros96 zeros96 = zeros96 := by
  unfold collMix
  have h : ∀ x ∈ zeros96.zipIdx, (if Config.freeBool (n + x.2 / 32) then (zeros96[x.2]?).getD x.1 else x.1) = x.1 := by
    intro x hx
    have hz : ∀ y ∈ zeros96.zipIdx, (zeros96[y.2]?).getD y.1 = y.1 := by decide +kernel
    rw [hz x hx]; exact ite_self _
  rw [List.map_congr_left h]
  exact List.zipIdx_map_fst 0 zeros96
/-- The same with DST a surface, whose record stands at 0x1000_0200. -/
def publishing : CollJob := collJob (collBytes.set 2 2 ++ List.replicate 31 0)
theorem witness_GangInstructions_publish : collDsurf publishing.bytes = true ∧ ((collecting.writeVirt c0 publishing.dst zeros96).toOption.map fun t => (t.place c0 (fld64 publishing.bytes 0x18 + 0x10) 8 true).toOption) = some (some ⟨.cb 0, 0x210⟩) ∧
    (∀ k, k < 8 → (⟨.cb 0, 0x210⟩ : PAddr).key + k < (⟨.cb 0, 0x30⟩ : PAddr).key ∨ (⟨.cb 0, 0x30⟩ : PAddr).key + 8 ≤ (⟨.cb 0, 0x210⟩ : PAddr).key + k) := by decide +kernel
/-- Region 1 of slot 0 runs take cycle 0 of 8 with II 1 and two laps on element 0, whose bank holds some words. -/
def hdr11 : Header := { rows := 1, cols := 1, row0 := 0, col0 := 0, ii := 1, p := 8, laps := 2, seed := 1, smr := [] }
def taking (b : Bank) (f : Elem → Elem) : State :=
  (start.modRegion c0 1 fun g => { g with on := .running, onHdr := hdr11, going := true, started := true }).modElem c0 0 fun e => f { e with on := b }
def bank : Bank := { present := true, repl := false, ctx := [], cues := [], imt := [], taps := [0, 0, 0, 0] }
/-- f0 and f1 hold words. -/
def operands (a b : W256) (e : Elem) : Elem := { e with f := vmod (vmod e.f 0 fun _ => ⟨a, false, true, false⟩) 1 fun _ => ⟨b, true, false, false⟩ }
def lanes (a b : W256) : State := taking bank (operands a b)
/-- Sources f0, f1, zero; result to f2. -/
def ctx (fmt : BitVec 3) (mod : BitVec 8) (aux : BitVec 20) : CtxFields := ⟨false, false, 0, 0, 1, 29, 2, fmt, mod, aux⟩
def here : ElemSite := ⟨c0, 1, 0, 4⟩
/-- The bits, latency and flags of the last result that an element has started. -/
def flown (s : State) : Option (Nat × Tok × BitVec 8) := (s.elem c0 0).flight.getLast?.bind fun f => match f.act with | .write _ t fl => some (f.rem, t, fl) | _ => none

theorem witness_LaneInteger : (ctx 2 0 0).fmt.toNat ≤ 2 ∧ (ctx 2 0 0).mod.getLsbD 0 = false ∧ (ctx 0 0 0).dw ≠ 17 ∧ Issues (lanes 1 2) here 0x01 (ctx 0 0 0) ∧
    ((lanes 1 2).source here (ctx 0 0 0) 1 0).k = false ∧ ((lanes 1 2).source here (ctx 0 0 0) 1 1).k = false ∧ ((lanes 1 2).source here (ctx 0 0 0) 1 29).k = false ∧
    Issues (lanes 1 2) here 0x0F { ctx 0 0 0 with dw := 17, srcA := 30, srcB := 30 } ∧ ({ ctx 0 0 0 with dw := 17, srcA := 30, srcB := 30 } : CtxFields).dw = 17 := by unfold Issues; decide +kernel

theorem witness_LaneFloat : Issues (lanes 1 2) here 0x10 (ctx 0 0 0) ∧ Issues (lanes 1 2) here 0x24 (ctx 1 0 0) ∧ ((lanes 1 2).source here (ctx 0 0 0) 1 0).k = false ∧
    ((lanes 1 2).source here (ctx 0 0 0) 1 1).k = false ∧ ((lanes 1 2).source here (ctx 0 0 0) 1 29).k = false ∧ CtxOps.rm (ctx 0 8 0) ≠ RMode.sto := by unfold Issues; decide +kernel

/-- f0 holds a bubble. -/
def bubbles : State := taking bank fun e => { e with f := vmod e.f 0 fun _ => Tok.bubble }
theorem witness_LaneRoute : Issues (lanes 1 2) here 0x00 (ctx 0 0 0) ∧ (ctx 0 0 0).dw ≠ 17 ∧ Issues (lanes 1 2) here 0x40 { ctx 0 0 0 with dw := 17, srcA := 30 } ∧ Issues (lanes 1 2) here 0x45 (ctx 6 0 0) ∧
    (ctx 6 0 0).fmt ≠ 0 ∧ (ctx 0 0 0).fmt = 0 ∧ (∀ j, j < 8 → (fp32.exact (lane 32 ((lanes 1 2).source here (ctx 0 0 0) (oneF fp32) 0).bits j)).isNan = false) ∧
    CtxOps.rm (ctx 0 0 0) ≠ RMode.sto ∧ (ctx 0 0 0).aux.toNat % 32 % 2 = 0 ∧ (ctx 0 0 1).aux.toNat % 32 % 2 = 1 ∧ Issues bubbles here 0x01 (ctx 0 0 0) ∧
    (bubbles.source here (ctx 0 0 0) (oneI (widthI 0)) 0).k = true ∧ (lanes 1 2).canIssue here 0x10 { ctx 0 0 0 with pn := true } = true ∧
    (lanes 1 2).predicate here { ctx 0 0 0 with pn := true } = false ∧ (lanes 1 2).ecc = [] := by unfold Issues; decide +kernel

/-- A contraction's fields: the stationary block 3 as SRCB, the result to accumulator 2. -/
def con (fmt : BitVec 3) (aux : BitVec 20) : CtxFields := ⟨false, false, 0, 0, 28, 0, 20, fmt, 0, aux + 0x1800⟩
def peered : State := (lanes 1 2).modSlot c0 fun t => { t with peers := vmod t.peers 1 fun _ => some ⟨0x80000001, 4⟩ }
theorem witness_Contraction : Issues (lanes 1 2) here 0x50 (con 1 0) ∧ (∀ t ∈ [(lanes 1 2).source here (con 1 0) (oneF (fmtF 1)) 0, (lanes 1 2).source here (con 1 0) (oneF (fmtF 1)) 0], t.k = false) ∧
    Issues (lanes 1 2) here 0x51 (con 5 0) ∧ Issues (lanes 1 2) here 0x52 (con 3 0) ∧ Issues (lanes 1 2) here 0x53 (con 1 0) ∧ Issues (lanes 1 2) here 0x54 (con 1 0) ∧
    Issues (lanes 1 2) here 0x55 (con 0 0) ∧ Issues (lanes 1 2) here 0x56 (con 0 0) ∧ Issues (lanes 1 2) here 0x57 (con 0 0) ∧ Issues peered here 0x58 (con 0 1) ∧
    (peered.slot c0).peers.get (ix8 (BitVec.ofNat 3 ((con 0 1).aux.toNat % 32))) = some ⟨0x80000001, 4⟩ ∧ Issues (lanes 1 2) here 0x59 (con 1 0) ∧
    (256 / 16 / 4 - 1 < 256 / (fmtF 1).width / 4 ∧ (fmtF 1).width = 16) ∧ Issues (lanes 1 2) here 0x5A (con 0 0) ∧ Issues (lanes 1 2) here 0x5B (con 0 0) ∧ Issues (lanes 1 2) here 0x5C (con 0 0) := by
  unfold Issues; decide +kernel

/-- A wait cue on counter 0 at stamp 0, whose target is one above the counter. -/
def waitBank : Bank := { bank with cues := [0x0005000000000000] }
def below : State := (taking waitBank id).modRegion c0 1 fun g => { g with ctrs := [⟨8, ⟨.loc 0, 8⟩, 1⟩] }
/-- A context that reads an empty tap without H stops. -/
def stopBank : Bank := { bank with ctx := [0x0105415C00000000 ||| 0x0005400000000000], taps := [0x80000000, 0, 0, 0] }
def tapped (b : BitVec 32) : Bank := { bank with taps := [b, 0, 0, 0] }
def ends (f : Region → Region) : State := (taking bank id).modRegion c0 1 f
theorem witness_RegionCycle : ((taking bank id).slot c0).status = 0x01 ∧ ((taking bank id).region c0 1).on = .running ∧ ((taking bank id).region c0 1).startIn = 0 ∧
    ((taking bank id).region c0 1).stopDue = none ∧ (taking bank id).holds c0 1 ((taking bank id).dueContexts c0 1) ((taking bank id).dueCues c0 1) = false ∧
    (∀ d ∈ (taking bank id).dueContexts c0 1, (taking bank id).ctxStops c0 1 d = []) ∧ (∀ q ∈ (taking bank id).dueCues c0 1, (taking bank id).cueStops c0 1 q = []) ∧ (taking bank id).ecc = [] ∧
    (taking bank id).guardWaits c0 1 ((taking bank id).dueContexts c0 1) = false ∧ (taking bank id).landStops c0 1 = [] ∧ (taking bank id).landWalk c0 1 = none ∧ ((taking bank id).cp c0).run = .running ∧
    (((taking bank id).modCp c0 fun p => { p with run := .halted 5 }).cp c0).run = .halted 5 ∧
    below.holds c0 1 (below.dueContexts c0 1) (below.dueCues c0 1) = true ∧ (⟨0, 0, .cueWait ⟨c0, 1, 0, BitVec.ofNat 6 0⟩ 0 0 0⟩ : DueCue) ∈ below.dueCues c0 1 ∧
    (below.region c0 1).ctr 0 = some ⟨8, ⟨.loc 0, 8⟩, 1⟩ ∧ (below.wordAt ⟨.loc 0, 8⟩).toNat < (1 : Word).toNat + (below.region c0 1).lap * 0 ∧ below.ecc = [] ∧ below.ownerOk (below.slot c0).part ⟨.loc 0, 8⟩ false = true ∧
    ((taking { bank with cues := [0x0001000000000003] } id).modRegion c0 1 fun g => { g with started := false }).holds c0 1 [] [] = false ∧
    ((ends fun g => { g with on := .draining }).region c0 1).on = .draining ∧ ((ends fun g => { g with lap := 2 }).region c0 1).onHdr.laps ≤ ((ends fun g => { g with lap := 2 }).region c0 1).lap ∧
    ((taking bank id).region c0 1).lap < ((taking bank id).region c0 1).onHdr.laps ∧ (ends fun g => { g with on := .draining }).drained c0 1 = true ∧ (ends fun g => { g with on := .draining }).landStops c0 1 = [] ∧
    (let s := (taking (tapped 0xA4800000) fun e => { e with flight := [⟨1, .write (.tapOut 0) Tok.zero 0, 0⟩] }).modRegion c0 1 fun g => { g with on := .draining }
     (s.region c0 1).on = .draining ∧ s.landStops c0 1 ≠ []) ∧
    (taking bank fun e => { e with flight := [⟨1, .clearBp, 0⟩] }).drained c0 1 = false ∧ ((ends fun g => { g with on := .free }).region c0 1).on ≠ .running := by decide +kernel
def startless : State := ((taking { bank with cues := [0x0001000000000003] } id).modRegion c0 1 fun g => { g with started := false })
theorem witness_RegionCycle_stops : startless.holds c0 1 (startless.dueContexts c0 1) (startless.dueCues c0 1) = false ∧
    (∃ q ∈ startless.dueCues c0 1, startless.cueStops c0 1 q ≠ []) := by decide +kernel

def flying (f : Act) : State := taking bank fun e => { operands 1 2 e with flight := [⟨1, f, 0⟩] }
def stopping : StopInfo := { cause := 0x08, detail := 1, port := 0, elem := 0, index := 0, vaddr := 0, synd := 0 }
theorem witness_ResultLand : ((ends fun g => { g with stopDue := some stopping }).region c0 1).stopDue = some stopping ∧ ((taking bank id).core c0.core).recq.length < 4 ∧
    ((taking bank id).region c0 1).stopDue = none ∧ ((taking bank id).region c0 1).on = .running ∧ ((taking bank id).region c0 1).going = true ∧ (0 : Fin 256) ∈ ((taking bank id).region c0 1).onHdr.elems ∧
    (∀ f ∈ ((taking bank fun e => { e with flight := [⟨2, .clearBp, 0⟩] }).elem c0 0).flight, 1 < f.rem) ∧ ((flying (.write (.f 3) Tok.bubble 1)).elem c0 0).flight = [⟨1, .write (.f 3) Tok.bubble 1, 0⟩] ∧
    ((flying (.writeC 7 0)).elem c0 0).flight = [⟨1, .writeC 7 0, 0⟩] ∧ ((flying (.clearAcc 2)).elem c0 0).flight = [⟨1, .clearAcc 2, 0⟩] ∧
    ((flying (.accumI 1 true (List.replicate 16 5) 0)).elem c0 0).flight = [⟨1, .accumI 1 true (List.replicate 16 5) 0, 0⟩] ∧ (List.replicate 16 (5 : Int)).length = 16 ∧
    ((flying (.drain 1 0 false true true false (.f 9))).elem c0 0).flight = [⟨1, .drain 1 0 false true true false (.f 9), 0⟩] ∧
    ((ends fun g => { g with endDue := true }).region c0 1).endDue = true ∧ ((ends fun g => { g with tc := 7, lap := 1 }).region c0 1).onHdr.p ≤ ((ends fun g => { g with tc := 7, lap := 1 }).region c0 1).tc + 1 := by
  decide +kernel

def binding (pat : BitVec 512) (stamp : Option Nat) (take : Option (Fin 4 × W32)) : Binding := { pat := pat, patSlot := 0, order := 1, extents := [], ipat := 0, stamp := stamp, take := take }
def running (pat : BitVec 512) (e : Nat) : Stream := { pat := pat, patSlot := 0, order := 1, extents := [], ipat := 0, region := 1, engine := e, timed := true, lane := 0, dispatched := false, pos := 0, ipos := 0
                                                       stored := 0, ahead := false, paused := false, walkVa := none }
def ported (s : State) (p : BitVec 5) (f : PortCtx → PortCtx) : State := s.modPort c0 p f
/-- A pattern of 8 tokens in the cluster buffer. -/
def farPat : BitVec 512 := 2 ^ (8 * 0x3A) + 7 * 2 ^ (8 * 0x30)
/-- All engines of the slot run streams. -/
def busyEngines (s : State) : State := (List.range 8).foldl (fun t e => ported t (BitVec.ofNat 5 e) fun q => { q with run := some (running 0 e) }) s
theorem witness_Cues : (((taking bank id).siteRegion here).on = .running ∧ ((taking bank id).siteRegion here).going = true ∧ ((taking bank id).siteRegion here).stopDue = none) ∧
    ((taking { bank with ctx := [0x0105415C00000000] } id).ctxAt c0 1 0 (0 : BitVec 5).toNat none).isSome = true ∧ (((taking bank id).slot c0).port 23).pending = none ∧ (23 : BitVec 5).toNat < 24 ∧
    ((ported (taking bank id) 3 fun q => { q with pending := some (binding farPat none none) }).slot c0).port 3 = { PortCtx.reset with pending := some (binding farPat none none) } ∧
    (ported (taking bank id) 3 fun q => { q with pending := some (binding farPat none none) }).freeEngine c0 = some 0 ∧ patSpace farPat ≠ 0 ∧ (taking bank id).ecc = [] ∧
    ((ported (taking bank id) 3 fun q => { q with pending := some (binding farPat none none) }).slot c0).portIdle 3 = true ∧ patWrite farPat = false ∧
    (busyEngines (taking bank id)).freeEngine c0 = none ∧ ((taking (tapped 0xA4800000) id).siteElem here).on.drainTap 9 = some 0 ∧ peered.peerAt c0 1 = some ⟨0x80000001, 4⟩ ∧
    (taking bank id).peerAt c0 1 = none ∧ MemoryCanonical below ∧ (below.siteRegion here).ctr 0 = some ⟨8, ⟨.loc 0, 8⟩, 1⟩ ∧ below.ecc = [] ∧
    below.addsOf c0 (.take 1) below.ids = false ∧ ({ below with ids := 10, adds := [{ arriving with agent := .take 1 }] } : State).addsOf c0 (.take 1) 10 = true ∧
    (∀ o, (⟨.cb 0, 8⟩ : PAddr).space ≠ .loc o ∧ (⟨.cb 0, 8⟩ : PAddr).space ≠ .scene o) := by unfold MemoryCanonical; decide +kernel

/-- A read stream on port 0 of region 1, into tap 0 of element 0, from Scene byte 0. -/
def scenePat : BitVec 512 := 7 * 2 ^ (8 * 0x30)
def reading (timed : Bool) (n : Nat) (f : Region → Region) : State :=
  (ported (taking (tapped 0x80000000) id) 0 fun q => { q with run := some { running scenePat 0 with timed := timed }, unconsumed := n }).modRegion c0 1 f
theorem witness_StreamRead : (0 : BitVec 5).toNat < 24 ∧ ((((reading true 15 id).slot c0).port 0).run = some (running scenePat 0) ∧ patWrite scenePat = false ∧ (running scenePat 0).paused = false ∧
    (running scenePat 0).walkVa = none ∧ (running scenePat 0).pos < patTotal scenePat ∧ patSpace scenePat ≠ 2 ∧ ((reading true 15 id).region c0 1).on = .running ∧ ((reading true 15 id).region c0 1).startIn = 0) ∧
    ((reading true 15 id).region c0 1).going = true ∧ (((reading true 15 id).slot c0).port 0).unconsumed < 16 ∧ (reading true 15 id).formToken c0 (running scenePat 0) = .place ⟨.scene 0, 0⟩ 0 ∧
    (reading true 15 id).ecc = [] ∧ (reading true 15 id).parkedBlock ⟨.scene 0, 0⟩ = false ∧ (reading true 15 id).blockTaken 0 (blockOf ⟨.scene 0, 0⟩) = false ∧ ((reading true 15 id).slot c0).tapOfPort 1 false 0 (fun b => !tapOut b) = some (0, 0) ∧
    16 ≤ (((reading true 16 id).slot c0).port 0).unconsumed ∧ ((reading true 16 id).region c0 1).stopDue = none ∧ ((reading true 15 fun g => { g with going := false }).region c0 1).going = false ∧
    16 ≤ (((reading false 16 id).slot c0).port 0).unconsumed ∧ patWrite (scenePat + 8 * 2 ^ (8 * 0x3A)) = true := by decide +kernel
/-- The same stream indirect through pattern slot 5, whose one index, at scene byte 64, is null. -/
def gathering : Stream := { running (scenePat + 2 ^ (8 * 0x3A + 2)) 0 with ipat := 64 + 7 * 2 ^ (8 * 0x30) }
theorem witness_StreamRead_bubble : (let s := (ported (reading true 15 id) 0 fun q => { q with run := some gathering }).setBytes ⟨.scene 0, 64⟩ [0xFF, 0xFF, 0xFF, 0xFF]
    s.formToken c0 gathering = .bubble ∧ s.ecc = [] ∧ patWrite gathering.pat = false ∧ gathering.pos < patTotal gathering.pat ∧ patSpace gathering.pat ≠ 2 ∧ ((s.slot c0).port 0).run = some gathering ∧
    (s.slot c0).tapOfPort 1 false 0 (fun b => !tapOut b) = some (0, 0)) := by decide +kernel

def token (inb : Bool) (a : PAddr) (seq : W32) : RingTok := { id := 5, slot := 0, port := 16, inbound := inb, tok := Tok.zero, addr := a, va := 0, pos := .due, timed := false, order := 1, lane := 0, cw := true
                                                              station := 0, hops := 0, region := 1, elem := 0, tap := 0, takeSeq := seq }
def arrivals (w : RingTok) (n : Nat) : State := mapped ((taking bank fun e => { e with tapq := vmod e.tapq 0 fun _ => List.replicate n Tok.zero }).modCore 0 fun k => { k with ring := [w] })
theorem witness_StreamTokens : ((arrivals (token true default 0) 15).core 0).token 0 5 = some (token true default 0) ∧ (token true default 0).inbound = true ∧ (token true default 0).pos = .due ∧ ({ token true default 0 with pos := .far } : RingTok).pos = .far ∧ (token true default 0).port = 16 ∧
    ((arrivals { token true default 0 with pos := .far } 0).core 0).olderToken { token true default 0 with pos := .far } = false ∧
    ((arrivals (token true default 0) 15).slot c0).status = 0x01 ∧ ((arrivals (token true default 0) 15).core 0).olderToken (token true default 0) = false ∧ (token true default 0).port.toNat ≤ 16 ∧
    ((arrivals (token true default 0) 15).region c0 1).on = .running ∧ ((arrivals (token true default 0) 15).region c0 1).takeSeq = (token true default 0).takeSeq ∧
    (((arrivals (token true default 0) 15).elem c0 0).tapq.get 0).length < 16 ∧ 16 ≤ (((arrivals (token true default 0) 16).elem c0 0).tapq.get 0).length ∧
    ((arrivals (token true default 1) 0).region c0 1).takeSeq ≠ (token true default 1).takeSeq ∧ (token false ⟨.cb 0, 64⟩ 0).inbound = false ∧ (token false ⟨.cb 0, 64⟩ 0).port.toNat < 24 ∧
    MemoryCanonical (arrivals (token false ⟨.cb 0, 64⟩ 0) 0) ∧ (arrivals (token false ⟨.cb 0, 64⟩ 0) 0).ownerOk 0 ⟨.cb 0, 64⟩ true = true ∧ (arrivals (token false ⟨.cb 0, 64⟩ 0) 0).parkedBlock ⟨.cb 0, 64⟩ = false ∧
    (arrivals (token false ⟨.cb 0, 64⟩ 0) 0).surfaceOf 0 0 = none ∧
    (arrivals (token false ⟨.cb 1, 64⟩ 0) 0).ownerOk 0 ⟨.cb 1, 64⟩ true = false ∧ ((arrivals (token false ⟨.cb 1, 64⟩ 0) 0).region c0 1).stopDue = none := by unfold MemoryCanonical; decide +kernel

def dispatch (b : Binding) (tap : BitVec 32) : State := ported (taking (tapped tap) id) 0 fun q => { q with pending := some b }
def walking (va : Nat) : State := ported (mapped (taking bank id)) 16 fun q => { q with run := some { running farPat 0 with walkVa := some va } }
theorem witness_StreamStarts : (((dispatch (binding farPat none none) 0xC0000000).slot c0).port 0).pending = some (binding farPat none none) ∧ (dispatch (binding farPat none none) 0xC0000000).freeEngine c0 = some 0 ∧
    ((dispatch (binding farPat none none) 0xC0000000).slot c0).portIdle 0 = true ∧ (dispatch (binding farPat none none) 0xC0000000).takesRun c0 = true ∧
    (regions4.find? fun k => ((dispatch (binding farPat none none) 0xC0000000).region c0 k).live && (((dispatch (binding farPat none none) 0xC0000000).slot c0).tapOfPort k false 0 fun _ => true).isSome) = some 1 ∧
    ((dispatch (binding farPat none none) 0xC0000000).slot c0).hasStartCue 1 0 = false ∧ (((dispatch (binding farPat none none) 0xC0000000).slot c0).tapOfPort 1 false 0 fun _ => true) = some (0, 0) ∧
    tapElastic (((dispatch (binding farPat none none) 0xC0000000).elem c0 0).on.tap 0) = true ∧ tapElastic (((dispatch (binding farPat none none) 0x80000000).elem c0 0).on.tap 0) = false ∧
    ((dispatch (binding farPat none none) 0x80000000).region c0 1).stopDue = none ∧
    (((dispatch (binding farPat (some 0) (some (1, 0))) 0xC0000000).slot c0).port 0).pending = some (binding farPat (some 0) (some (1, 0))) ∧
    ((dispatch (binding farPat (some 0) (some (1, 0))) 0xC0000000).region c0 1).lap * ((dispatch (binding farPat (some 0) (some (1, 0))) 0xC0000000).region c0 1).onHdr.p +
      ((dispatch (binding farPat (some 0) (some (1, 0))) 0xC0000000).region c0 1).tc = 0 ∧ patSpace farPat ≠ 0 ∧ (busyEngines (taking bank id)).freeEngine c0 = none ∧
    (((walking 0x10000000).slot c0).port 16).run = some { running farPat 0 with walkVa := some 0x10000000 } ∧ (((walking 0x10000000).part ((walking 0x10000000).slot c0).part).page 0x10000000).isSome = true ∧
    ((walking 0x20000000).part ((walking 0x20000000).slot c0).part).page 0x20000000 = none := by decide +kernel

theorem witness_StreamStop : (23 : BitVec 5).toNat < 24 ∧ ((withCmds start [cmd (.sstop 23)]).slot c0).status = 0x01 ∧ ((withCmds start [cmd (.sstop 23)]).slot c0).cmdq = [cmd (.sstop 23)] ∧
    (cmd (.sstop 23)).i = .sstop 23 ∧ ((withCmds start [cmd (.sstop 23)]).cp c0).trigged = none ∧ ((withCmds start [cmd (.sstop 23)]).slot c0).launch = none ∧ CanIssue start [] false ∧
    (start.slot start.cur).cmdq.length < 16 ∧ ((taking bank id).siteRegion here).on = .running ∧ ((taking bank id).siteRegion here).going = true ∧ ((taking bank id).siteRegion here).stopDue = none := by
  unfold CanIssue; decide +kernel
def flit (t : BitVec 4) (ok : Bool) (dest : BitVec 20) : Flit := { (default : Flit) with typ := t, dest := dest, tagOk := ok, lseq := 1 }
def downed : State := { State.reset with links := Vector.replicate 18 { LinkPort.reset with up := false } }
/-- Partition 1 of function 7 owns granule 2 of die 0. -/
def owned : State := (start.modPart 1 fun p => { p with live := true, fn := 7 }).modDie 0 fun d => { d with granules := vmod d.granules 2 fun _ => some 1 }
def peerReq (off : Nat) (dig : List Byte) : PeerReq := { ep := 9, tag := 1, tkdig := dig, die := 0, off := off, write := true, size := 8, data := List.replicate 8 7 }
theorem witness_FabricLinksAndServices : State.reset.gangs = [] ∧ (State.reset.links.get 17).up = true ∧ (flit 0 false 5).tagOk = false ∧ (flit 1 true 5).tagOk = true ∧
    (flit 1 true 5).lseq = (State.reset.links.get 17).lastRecv + 1 ∧ (flit 0 true 5).dest ≠ State.reset.ep ∧ (flit 0 true 5).toks.length ≤ 7 ∧ (flit 0 true 5).typ = 0 ∧ (flit 1 true 5).typ = 1 ∧
    (downed.links.get 17).up = false ∧ (State.reset.links.get 17).replays < 15 ∧ 15 ≤ ({ LinkPort.reset with replays := 15 } : LinkPort).replays ∧ ((2 : Fin 94).val = (peerReq (3 * 2 ^ 30 - 8) []).off / 2 ^ 30 ∧ (peerReq (3 * 2 ^ 30 - 8) []).off + 8 ≤ 94 * 2 ^ 30) ∧ (owned.die 0).granules.get 2 = some 1 ∧
    ((owned.die 0).ptab.get (ix32 1)).tkdig = (peerReq 0 []).tkdig ∧ owned.ecc = [] ∧ (peerReq 0 []).data.length = (peerReq 0 []).size ∧ MemoryCanonical owned ∧
    ((owned.die 0).ptab.get (ix32 1)).tkdig ≠ (peerReq 0 [3]).tkdig ∧ 94 * 2 ^ 30 < (peerReq (94 * 2 ^ 30 - 7) []).off + (peerReq 0 []).size := by unfold MemoryCanonical; decide +kernel

/-- A member that can take a gang: locked time, a core for the one task. -/
def member (locked : Bool) : State :=
  { (State.reset.modDie 0 fun d => { d with ftstat := if locked then 0x8000000000000000 else 0, ptab := vmod d.ptab 0 fun p => { p with cores := 1, quota := 1 } }) with ep := 6, ftime := 11 * 2000 }
def prepare : PrepareMsg := { (default : PrepareMsg) with gid := 0x500000000001, slate := List.replicate 64 0, members := [(5, 0), (6, 0)], index := 1, wdogUs := 1 }
theorem witness_GangProtocol_prepare : (member true).gang prepare.gid = none ∧ prepare.members ≠ [] ∧
    (({ member true with gangs := (member true).gangs ++ [memberGang (member true) prepare] } : State).prepareRefusal (memberGang (member true) prepare).queue prepare).2 = 0 ∧
    (({ member false with gangs := (member false).gangs ++ [memberGang (member false) prepare] } : State).prepareRefusal (memberGang (member false) prepare).queue prepare).2 = 8 + 1 ∧
    (ganged start (gang .ready false)).gang prepare.gid ≠ none := by decide +kernel
def atNs (n : Nat) (g : Gang) : State := { ganged start g with ftime := 11 * n }
def acked (g : Gang) : Gang := { g with acks := [0], commits := [0], ts := 500, launch := some 3 }
theorem witness_GangProtocol_states : (atNs 500 (acked (gang .ready true))).gang 0x500000000001 = some (acked (gang .ready true)) ∧ (gang .ready true).initHere = true ∧ (gang .ready true).state = .ready ∧
    (gang .preparing true).state = .preparing ∧ 1 ∉ (acked (gang .ready true)).acks ∧ 1 < (acked (gang .ready true)).members.length ∧
    (acked (gang .ready true)).acks.length + 1 < (acked (gang .ready true)).members.length ∧ (gang .ready false).initHere = false ∧ (atNs 500 (gang .ready false)).ftime / 11 ≤ (500 : Word).toNat ∧
    (gang .committed true).state = .committed ∧ (atNs 1499 (acked (gang .committed true))).ftime / 11 < (acked (gang .committed true)).ts.toNat + (acked (gang .committed true)).wdogNs ∧
    (acked (gang .committed true)).commits.length + 1 < (acked (gang .committed true)).members.length ∧ (gang .committed true).launch = none ∧ (gang .confirmed true).state ≠ .committed ∧
    (acked (gang .committed true)).started = false ∧ (acked (gang .committed true)).ts.toNat ≤ (atNs 500 (acked (gang .committed true))).ftime / 11 ∧ (acked (gang .committed true)).launch = some 3 ∧
    (atNs 499 (acked (gang .committed true))).ftime / 11 < (acked (gang .committed true)).ts.toNat ∧
    (acked (gang .committed true)).ts.toNat + (acked (gang .committed true)).wdogNs ≤ (atNs 1500 (acked (gang .committed true))).ftime / 11 ∧
    (gang .ready false).since + (gang .ready false).wdogNs ≤ (atNs 1000 (gang .ready false)).ftime / 11 ∧ (atNs 999 (gang .ready false)).ftime / 11 < (gang .ready false).since + (gang .ready false).wdogNs ∧
    (gang .preparing true).born + (gang .preparing true).wdogNs ≤ (atNs 1000 (gang .preparing true)).ftime / 11 ∧ (gang .aborted true).state = .aborted ∧
    (gang .aborted true).since + 1000000000 ≤ (atNs 1000000000 (gang .aborted true)).ftime / 11 ∧ (gang .confirmed true).state = .confirmed := by decide +kernel

/-- Queue 3 of partition 0 in the mapped page, with 16 entries, open to slates; `filled` slates stand in it. -/
def queued (slates : W32) (cfg : Word) : State := (mapped start).setWq 3 { base := 0x10001000, cfg := cfg, tail := slates, head := 0, err := 0 }
def newLaunch : Launch := { (default : Launch) with id := 1, queue := 3, slate := List.replicate 64 0, deps := [⟨0x10000008, 1, 0, false⟩, ⟨0x10000008, 1, 1, false⟩, ⟨0x10000008, 0, 0, true⟩] }
def launched (s : State) : State := { s with launches := [newLaunch] }
theorem witness_WorkQueues_registers : (5 : BitVec 8) ≠ 0 ∧ ((queued 15 0x8004).wq 3).cfg.extractLsb' 16 8 ≠ 5 ∧ ((queued 15 0x8004).wq 3).cfg.getLsbD 24 = false ∧
    ((16 : W32) - ((queued 15 0x8004).wq 3).tail).toNat + (((queued 15 0x8004).wq 3).tail - ((queued 15 0x8004).wq 3).head).toNat ≤ 2 ^ (((queued 15 0x8004).wq 3).cfg.toNat % 32) ∧
    ¬ (((17 : W32) - ((queued 15 0x8004).wq 3).tail).toNat + (((queued 15 0x8004).wq 3).tail - ((queued 15 0x8004).wq 3).head).toNat ≤ 2 ^ (((queued 15 0x8004).wq 3).cfg.toNat % 32)) ∧
    (launched (queued 15 0x8004)).lastLaunch 3 = some newLaunch ∧
    (allSlots.find? fun c => (((launched (queued 15 0x8004)).modSlot c0 fun t => { t with launch := some 1, wid := 9 }).slot c).launch == some newLaunch.id &&
      (((launched (queued 15 0x8004)).modSlot c0 fun t => { t with launch := some 1, wid := 9 }).slot c).wid == 9 &&
      ((((launched (queued 15 0x8004)).modSlot c0 fun t => { t with launch := some 1, wid := 9 }).slot c).status == 1 ||
       (((launched (queued 15 0x8004)).modSlot c0 fun t => { t with launch := some 1, wid := 9 }).slot c).status == 2)) = some c0 := by decide +kernel
theorem witness_WorkQueues_take : ((queued 0 0x8004).wq 3).head = ((queued 0 0x8004).wq 3).tail ∧ ((queued 15 0x8004).wq 3).cfg.getLsbD 15 = true ∧
    4 ≤ ((queued 15 0x8004).wq 3).cfg.toNat % 32 ∧ ((queued 15 0x8010).wq 3).cfg.toNat % 32 ≤ 16 ∧ ((queued 15 0x8004).wq 3).head ≠ ((queued 15 0x8004).wq 3).tail ∧
    (queued 15 0x8004).tdiOf (((queued 15 0x8004).wq 3).cfg.extractLsb' 16 8) ≠ .error ∧
    (queued 15 0x8004).translate (((queued 15 0x8004).wq 3).cfg.extractLsb' 8 5) (((queued 15 0x8004).wq 3).base + BitVec.ofNat 64 (64 * 0)) false = .ok ⟨.cb 0, 0x1000⟩ ∧ (queued 15 0x8004).ecc = [] ∧
    (((queued 15 0x8004).setWq 3 { (queued 15 0x8004).wq 3 with head := 1 }).slateRefusal 3 (List.replicate 64 0)).2 = none ∧ (queued 15 0x8004).bytesAt ⟨.cb 0, 0x1000⟩ 64 = List.replicate 64 0 ∧
    (((put (queued 15 0x8004) 0x103F [1]).setWq 3 { (queued 15 0x8004).wq 3 with head := 1 }).slateRefusal 3 (List.replicate 63 0 ++ [1])).2 = some 1 := by decide +kernel
theorem witness_WorkQueues_dependences : (launched (mapped start)).launches.find? (fun x => x.id == 1) = some newLaunch ∧ newLaunch.deps[(0 : Fin 4).val]? = some ⟨0x10000008, 1, 0, false⟩ ∧
    (launched (mapped start)).translate 0 0x10000008 false = .ok ⟨.cb 0, 8⟩ ∧ (launched (mapped start)).ecc = [] ∧ (⟨.cb 0, 8⟩ : PAddr).space.package = true ∧ (launched (mapped start)).parkedBlock ⟨.cb 0, 8⟩ = false ∧ (0 : Word).toNat ≤ ((launched (mapped start)).wordAt ⟨.cb 0, 8⟩).toNat ∧
    ((launched (mapped start)).wordAt ⟨.cb 0, 8⟩).toNat < (1 : Word).toNat ∧ newLaunch.queue = 3 ∧ newLaunch.deps[(2 : Fin 4).val]? = some ⟨0x10000008, 0, 0, true⟩ := by decide +kernel

def slots (a b : BitVec 8) (f : Core → Core) : State := (((State.reset.modSlot c0 fun t => { t with status := a }).modSlot ⟨0, 1⟩ fun t => { t with status := b }).modCore 0 f)
/-- A configuration with every share at its limit. -/
def shares : Word := 64 * 2 ^ 16 + 64 * 2 ^ 8 + 16
theorem witness_SlotCommands : ((slots 1 0 fun k => { k with cquar := true }).core 0).cquar = true ∧ ((slots 1 0 fun k => { k with swap := some 1 }).core 0).cquar = false ∧
    ((slots 1 0 fun k => { k with swap := some 1 }).core 0).swap ≠ none ∧ ((slots 1 2 id).core 0).swap = none ∧ ((slots 1 2 id).die (dieOf 0)).recovery = false ∧ ((slots 1 2 id).slot c0).status ≠ 0 ∧
    ((shares.extractLsb' 16 7).toNat ≤ 64 ∧ (shares.extractLsb' 8 7).toNat ≤ 64 ∧ (shares.extractLsb' 0 5).toNat ≤ 16) ∧ ¬ (((shares + 1).extractLsb' 0 5).toNat ≤ 16) ∧ shares.extractLsb' 6 2 = 0 ∧
    ((slots 0 0 id).slot c0).status = 0 ∧ ((slots 0 0 id).slot (otherSlot c0)).status = 0 ∧ ((slots 0 1 id).slot (otherSlot c0)).status = 1 ∧
    (let b := ((slots 0 1 id).modSlot ⟨0, 1⟩ fun t => { t with cfg := shares }).slot (otherSlot c0)
     b.cfg.extractLsb' 16 7 = shares.extractLsb' 16 7 ∧ b.cfg.extractLsb' 8 7 = shares.extractLsb' 8 7 ∧ b.cfg.extractLsb' 0 5 = shares.extractLsb' 0 5 ∧ b.cfg.extractLsb' 6 2 = 0) ∧
    ((slots 1 2 fun k => { k with gc := 1 }).core 0).gc ≠ 0 ∧ ((slots 1 2 id).core 0).gc = 0 ∧ ((slots 1 2 id).slot c0).status = 1 ∧ ((slots 1 2 id).slot (otherSlot c0)).status = 2 ∧
    ((slots 2 1 id).slot c0).status = 2 ∧ ((slots 2 1 id).slot (otherSlot c0)).status = 1 ∧ ((slots 3 0 id).slot c0).status ≠ 1 ∧ ((slots 3 0 id).slot c0).status ≠ 2 := by decide +kernel

def oneTask : Launch := { (default : Launch) with id := 1, slate := List.replicate 64 0 }
def startable : State := { (State.reset.modDie 0 fun d => { d with ptab := vmod d.ptab 0 fun p => { p with cores := 1, quota := 1 } }) with launches := [oneTask] }
def prioritised : State := (slots 1 2 id).modSlot ⟨0, 1⟩ fun t => { t with prio := 7 }
def retiring (b : Bool) (posted : List Posted) : State := (slots 1 2 id).modCp c0 fun p => { p with run := .retiring b, posted := posted }
/-- Partitions 0 and 1 share core 0, whose other slot is owed time. -/
def sharing (ft : Nat) (w : BitVec 8) : State :=
  { (((slots 1 2 fun k => { k with ranFrom := 0 }).modSlot ⟨0, 1⟩ fun t => { t with part := 1 }).modDie 0 fun d =>
      { d with ptab := (vmod (vmod d.ptab 0 fun p => { p with cores := 1, quota := 64, quantum := 1, weight := 1 }) 1 fun p => { p with cores := 1, quota := 64, weight := w }) }) with ftime := ft }
/-- A launch of higher priority stands behind the first. -/
def contested : State := { startable with launches := [oneTask, { oneTask with id := 2, slate := List.replicate 0x16 0 ++ [0xC0, 1] ++ List.replicate 0x28 0 }] }
theorem witness_TaskDispatch_shares : (sharing 1100000 1).swappable 0 = some c0 ∧ ((sharing 1100000 1).slot c0).part ≠ ((sharing 1100000 1).slot (otherSlot c0)).part ∧
    (sharing 1100000 1).quantumOver c0 = true ∧ (sharing 1100000 1).owesTime c0 = true ∧ (sharing 1099999 1).quantumOver c0 = false ∧ (sharing 1100000 0).owesTime c0 = false ∧
    (∃ y ∈ contested.launches, y.precedes oneTask = true ∧ (contested.startNext y c0).isSome = true) ∧ contested.launches.find? (fun x => x.id == 1) = some oneTask ∧
    (∀ h ∈ (startable.core 0).localHeld.toList ++ (startable.core 0).sceneHeld.toList ++ (startable.core 0).statHeld.toList, h = none ∨ h = some ((startable.slot ⟨0, 1⟩).cfg.extractLsb' 24 5)) := by decide +kernel
theorem witness_TaskDispatch : ((slots 2 2 fun k => { k with swap := some 1 }).core 0).swap = some 1 ∧ ((slots 1 2 id).core 0).swap = none ∧ (slots 1 0 id).swappable 0 = none ∧
    prioritised.swappable 0 = some c0 ∧ (prioritised.slot c0).part = (prioritised.slot (otherSlot c0)).part ∧ (prioritised.slot c0).prio.toNat < (prioritised.slot (otherSlot c0)).prio.toNat ∧
    (prioritised.slot c0).launch = none ∧ (prioritised.slot (otherSlot c0)).launch = none ∧ (slots 1 2 id).swappable 0 = some c0 ∧
    ((slots 1 2 id).slot (otherSlot c0)).prio.toNat ≤ ((slots 1 2 id).slot c0).prio.toNat ∧ startable.launches.find? (fun x => x.id == 1) = some oneTask ∧ oneTask.shape.testBit 62 = false ∧
    startable.taskReady oneTask 0 = true ∧ startable.coreFits oneTask 0 0 = true ∧ startable.scheduleOk oneTask.part c0 = true ∧ (∀ y ∈ startable.launches, y.precedes oneTask = false) ∧
    (startable.die (dieOf 0)).recovery = false ∧ (startable.slot c0).status = 0 ∧ (startable.slot (otherSlot c0)).status = 0 ∧ (startable.core 0).cquar = false ∧
    (startable.core 0).swap = none ∧ (startable.core 0).gc = 0 ∧ (startable.core 0).ssb.toNat ≤ 64 ∧ (startable.core 0).smb.toNat ≤ 64 ∧ (startable.core 0).lsb.toNat ≤ 16 ∧
    ((retiring false []).slot c0).status = 1 ∧ ((retiring false []).cp c0).run = .retiring false ∧ (retiring false []).accessesDone c0 = true ∧
    ((retiring false []).slot c0).writesDone (retiring false []).ids = true ∧ ((retiring true []).cp c0).run = .retiring true ∧
    (∀ r, ((retiring true []).region c0 r).on ≠ .running ∧ ((retiring true []).region c0 r).on ≠ .draining) ∧ (retiring true []).accessesDone c0 = true ∧ (retiring true []).engineDone c0 = true ∧
    ({ retiring true [] with adds := [arriving] } : State).engineDone c0 = false ∧ (retiring false [store8]).accessesDone c0 = false := by decide +kernel

def recorded (tail : W32) : State := (start.modCore 0 fun k => { k with recq := [3, 4] }).modDie 0 fun d => { d with fbTail := tail, fbuf := [(0, 3)] }
theorem witness_FaultRecords : ((recorded 1023).core 0).recq = 3 :: [4] ∧ ((recorded 1023).core 0).offerIn = 0 ∧ (((recorded 1023).die (dieOf 0)).fbTail - ((recorded 1023).die (dieOf 0)).fbHead).toNat < 1024 ∧
    1024 ≤ (((recorded 1024).die (dieOf 0)).fbTail - ((recorded 1024).die (dieOf 0)).fbHead).toNat ∧ (((recorded 1).die 0).fbTail - ((recorded 1).die 0).fbHead).toNat < ((2 : W32) - ((recorded 1).die 0).fbHead).toNat ∧
    ((1 : W32) - ((recorded 1).die 0).fbHead).toNat ≤ (((recorded 1).die 0).fbTail - ((recorded 1).die 0).fbHead).toNat ∧ (1 : W32) = ((recorded 1).die 0).fbHead + 1 ∧
    ((recorded 1).die 0).fbuf.find? (fun y => y.1 == ((recorded 1).die 0).fbHead.toNat % 1024) = some (((recorded 1).die 0).fbHead.toNat % 1024, 3) ∧
    ((recorded 1).part ((3 : FaultRec).extractLsb' 16 5)).live = false ∧
    (let x := (State.reset.modDie 0 fun d => d.modCtl 1 fun l => { l with recs := [3] }).die 0; (x.ctl.get 1).recs = 3 :: [] ∧ (x.ctl.get 1).offerIn = 0 ∧ (x.fbTail - x.fbHead).toNat < 1024) := by decide +kernel

/-- Crossing patterns between port 17 of core 0 and port 21 of core 64: each base is the descriptor of the other end. -/
def toFar : BitVec 512 := (64 * 2 ^ 52 + 21 * 2 ^ 46) + 10 * 2 ^ (8 * 0x3A)
def fromNear : BitVec 512 := (17 * 2 ^ 46) + 2 * 2 ^ (8 * 0x3A) + 99 * 2 ^ (8 * 0x30)
def bindPort (s : State) (c : CpId) (p : BitVec 5) (pat : BitVec 512) (ch : Channel) : State := s.modPort c p fun q => { q with pending := some (binding pat none none), chan := ch }
def crossing : State := bindPort (bindPort (start.modSlot ⟨64, 0⟩ fun t => { t with status := 1 }) c0 17 toFar Channel.closed) ⟨64, 0⟩ 21 fromNear Channel.closed
def granted (pat : BitVec 512) (seq e : Nat) : State := bindPort start c0 21 pat { Channel.closed with isOpen := true, recvSeq := seq, recvEnd := e }
/-- A fabric pattern: KIND 1, endpoint 6. -/
def fabricPat (w : Bool) : BitVec 512 := (2 ^ 62 + 6 * 2 ^ 40) + (if w then 10 else 2) * 2 ^ (8 * 0x3A)
def onFabric (st : GangState) (w : Bool) : State := bindPort (inGang (gang st true) start) c0 19 (fabricPat w) Channel.closed
theorem witness_Channels : (17 : BitVec 5).toNat < 24 ∧ ((crossing.slot c0).port 17).pattern = some toFar ∧ ((crossing.slot ⟨64, 0⟩).port 21).pattern = some fromNear ∧ names toFar ⟨64, 0⟩ 21 = true ∧
    names fromNear c0 17 = true ∧ patWrite toFar = true ∧ patWrite fromNear = false ∧ (crossing.slot c0).part = (crossing.slot ⟨64, 0⟩).part ∧ ((crossing.slot c0).port 17).chan.isOpen = false ∧
    ((crossing.slot ⟨64, 0⟩).port 21).chan.isOpen = false ∧ names toFar c0 21 = false ∧ (((granted fromNear 8 8).slot c0).port 21).pattern = some fromNear ∧
    (((granted fromNear 8 8).slot c0).port 21).chan.isOpen = true ∧ ((granted fromNear 8 8).slot c0).status = 1 ∧ patSpace fromNear = 2 ∧
    Max.max 8 (Min.min (patTotal fromNear) (8 - 0 + 16)) ≠ 8 ∧ Max.max 24 (Min.min (patTotal fromNear) (8 - 0 + 16)) = 24 ∧ (BitVec.ofNat 64 (patBase fromNear)).extractLsb' 62 2 = 0 ∧
    (descPort (BitVec.ofNat 64 (patBase fromNear))).toNat < 24 ∧ (BitVec.ofNat 64 (patBase (fabricPat false))).extractLsb' 62 2 ≠ 0 ∧
    (((onFabric .committed true).slot c0).port 19).fabric = some (fabricPat true, 2 ^ 62 + 6 * 2 ^ 40) ∧ (onFabric .committed true).gangOf c0 = some (gang .committed true) ∧
    (((onFabric .committed true).slot c0).port 19).chan.isOpen = false ∧ (∃ m ∈ (gang .committed true).members, m.1 = descEp (2 ^ 62 + 6 * 2 ^ 40)) ∧ (gang .committed true).resume = false ∧
    patWrite (fabricPat true) = true ∧ patWrite (fabricPat false) = false ∧ (((onFabric .confirmed false).slot c0).port 19).fabric = some (fabricPat false, 2 ^ 62 + 6 * 2 ^ 40) ∧
    (gang .ready true).state ≠ .committed ∧ (gang .ready true).state ≠ .confirmed := by decide +kernel

/-- A call of one query row of one head over one key, D 64: its row is four tokens. -/
def callBytes (flags : Byte) : List Byte := [flags, 0, 18, 0, 0, 0, 1, 0] ++ List.replicate 8 0 ++ [1, 0, 0, 0, 0, 0, 0, 0, 1, 0, 0, 0, (if flags = 2 then 1 else 0), 0, 0, 0] ++ List.replicate 96 0
def call (flags : Byte) : Call := { (default : Call) with id := 8, caller := c0, port := 18, bytes := callBytes flags, recAddr := 0x10000000, pool := 0x8000000000000000, blocks := [5], t := 16 }
def chipped (x : Call) (kept : List (Nat × Tok)) : State :=
  (((cached (mapped start) 16).modDie 0 fun d => { d with ptab := vmod d.ptab 0 fun p => { p with cores := 1 } }).modChiplet 0 fun k => { k with calls := [x] }).modPort c0 18
    fun q => { q with chan := { q.chan with kept := kept } }
def begun (f : Byte) (taken rows : Nat) (input : List W256) : Call := { call f with started := true, taken := taken, rowsDone := rows, input := input }
def ringCall : Call := { begun 0x40 4 0 [] with ring := [⟨0xFFFFF, false, false, 0, 1⟩, ⟨9, false, false, 1, 1⟩] }
def ringPart : RingPart := ⟨0, 0, List.replicate 64 0⟩
theorem witness_AttentionCalls_start : start.callsOf c0 18 = [] ∧ (chipped (call 0) []).callsOf c0 18 = [call 0] ∧ (chipped (call 0) []).callHere (call 0) = true ∧ (call 0).started = false ∧ (call 0).failed = false ∧
    ((chipped (call 0) []).callCheck (call 0)).2.toOption = some ([(0, 0)], [(0, 0)], none) ∧ (call 0).ringed = false ∧
    ((chipped { call 0 with t := 0 } []).callCheck { call 0 with t := 0 }).2.toOption = none ∧ ((chipped (call 0) []).core c0.core).recq.length < 4 ∧ ((chipped (call 0) []).cp c0).run = .running ∧
    (begun 0 0 0 []).started = true := by decide +kernel
theorem witness_AttentionCalls_input : ((((chipped (begun 0 2 0 [0, 0]) [(2, Tok.zero)]).slot c0).port 18).chan.kept = (2, Tok.zero) :: []) ∧ (begun 0 2 0 [0, 0]).taken < (begun 0 2 0 [0, 0]).need ∧
    (begun 0 2 0 [0, 0]).started = true ∧ (begun 0 2 0 [0, 0]).failed = false ∧ (begun 0 2 0 [0, 0]).kvToks ≤ (begun 0 2 0 [0, 0]).taken ∧
    (begun 0 2 0 [0, 0]).out = [] ∧ ((begun 0 2 0 [0, 0]).taken + 1 - (begun 0 2 0 [0, 0]).kvToks) % (begun 0 2 0 [0, 0]).rowToks ≠ 0 ∧
    ((begun 0 2 0 [0, 0]).taken + 1 - (begun 0 2 0 [0, 0]).kvToks) / (begun 0 2 0 [0, 0]).rowToks ≤ (begun 0 2 0 [0, 0]).rowsDone ∧ (begun 2 3 0 []).taken + 1 < (begun 2 3 0 []).kvToks ∧ MemoryCanonical (chipped (begun 2 3 0 []) [(2, Tok.zero)]) ∧
    (((chipped (begun 0 2 0 []) []).slot c0).port 18).chan.kept = [] := by unfold MemoryCanonical; decide +kernel
theorem witness_AttentionCalls_end : (begun 0 4 1 []).failed = false ∧ (begun 0 4 1 []).rowsDone = (begun 0 4 1 []).nq ∧ (begun 0 4 1 []).need ≤ (begun 0 4 1 []).taken ∧ (begun 0 4 1 []).out = [] ∧ (begun 0 4 1 []).report = none ∧ (begun 0 4 1 []).started = true ∧
    (chipped (begun 0 4 1 []) []).waitingResults (begun 0 4 1 []) = 0 ∧ (begun 0 4 1 []).ctr = none ∧ MemoryCanonical (chipped (begun 0 4 1 []) []) ∧
    (chipped (begun 0 4 1 []) []).callPlace (begun 0 4 1 []) ((begun 0 4 1 []).recAddr + 0x58) 8 true = .ok ⟨.cb 0, 0x58⟩ ∧ (⟨.cb 0, 0x58⟩ : PAddr).space.package = true ∧
    ({ begun 0 4 1 [] with failed := true } : Call).failed = true ∧ ringCall.ringed = true ∧ 1 ∈ ringCall.members ∧ [ringPart].length % ringCall.hq = 0 ∧ (ringCall.partsOf 1).length + [ringPart].length ≤ ringCall.rowsIn * ringCall.hq ∧
    (∀ y ∈ [ringPart], y.o.length = poolD ringCall.pool) ∧ ringCall.failed = false ∧ ringCall.started = true ∧ (∃ k ∈ ringCall.members, (ringCall.partsOf k).length < ringCall.rowsIn * ringCall.hq) ∧ 2 ∉ ringCall.members ∧
    (∀ k ∈ ({ ringCall with parts := [(1, [ringPart])] } : Call).members, ringCall.rowsIn * ringCall.hq ≤ (({ ringCall with parts := [(1, [ringPart])] } : Call).partsOf k).length) ∧ (begun 0 2 0 []).taken < (begun 0 2 0 []).need ∧ (begun 0 2 0 []).report = none ∧
    ((chipped (call 0) []).modSlot c0 fun t => { t with wid := 5 }).callHere (call 0) = false := by unfold MemoryCanonical; decide +kernel

/-- The same state with function 7's TDI in another state. -/
def tdi (x : Tdi) (s : State) : State := { s with tdi := vmod s.tdi 7 fun _ => x }
theorem witness_HostAccess : State.reset.accepts 253 0 none = false ∧ (tdi .run owned).accepts 7 0 none = false ∧ owned.accepts 7 0 none = true ∧
    ({ tdi .run owned with ide := vmod owned.ide 7 fun _ => some (1, 3) } : State).accepts 7 1 (some 3) = true ∧ owned.barSize 7 4 = 2 ^ 30 ∧ owned.barSize 7 4 < 2 ^ 30 - 7 + [0, 0, 0, 0, 0, 0, 0, (0 : Byte)].length ∧
    owned.bar4 7 (2 ^ 30 - 8) = some ⟨.hbm 0, 3 * 2 ^ 30 - 8⟩ ∧ owned.ecc = [] ∧ (2 ^ 30 - 8) % 2 ^ 30 + 8 ≤ 2 ^ 30 ∧ 2 ^ 30 - 8 + 8 ≤ owned.barSize 7 4 ∧ (2 ^ 30 - 8) % 8 = 0 ∧ MemoryCanonical owned ∧
    start.accepts 0 0 none = true ∧ 0x7FFFFF8 % 8 = 0 ∧ 0x7FFFFF8 + 8 ≤ 0x8000000 ∧ start.accepts 5 0 none = true ∧ 0x3FFC0 % 64 = 0 ∧ 0x3FFC0 < 0x40000 ∧ (4095 : Fin 4096).val = 0x3FFC0 / 64 ∧
    ((start.setWq 4095 { start.wq 4095 with cfg := 0x58000 }).wq 4095).fn = 5 ∧ 2 ^ 64 - 1 + [(0 : Byte)].length ≤ 2 ^ 64 := by unfold MemoryCanonical; decide +kernel

/-- Queue 3 belongs to function 7, whose TDI is locked. -/
def lockedQueue : State := tdi .locked (start.setWq 3 { start.wq 3 with cfg := 0x70000 })
/-- The debug window of function 7 is open, and selects slot 0 of core 0, which bkpt 5 has halted. -/
def halted : State := ({ tdi .run owned with ide := vmod owned.ide 7 fun _ => some (1, 3) } : State).modPart 1 (fun p => { p with pflags := 1 }) |>.modSlot c0 (fun t => { t with part := 1 })
  |>.modCp c0 fun p => { p with run := .halted 5 }
def sparing (b : Fin 16384) : State := State.reset.modDie 0 fun d => d.modCtl 1 fun l => { l with spBusy := true, spB := b.val }
theorem witness_ManagementWrites : (rowOf (mreg 0x010018) 0x1000000000).isSome = true ∧ mreg 0x010018 = .bindRec c0 3 ∧ (0x010018 : Nat) = (0 : Fin 256).val / 64 * 0x1000000 + 0x010000 + (0 : Fin 256).val % 64 * 64 + (0 : Fin 2).val * 32 + 24 ∧
    (0x1000000000 : Word).extractLsb' 36 4 = 1 ∧ mreg 0x6000038 = .hsteer 7 ∧ (rowOf (mreg 0x6000038) 1).isNone = true ∧ lockedQueue.boundFn (mreg 0x6000038) 1 = some 7 ∧ lockedQueue.boundFn (mreg 0x6000038) 0 = some 7 ∧ (rowOf (mreg 0x6000038) 0).isNone = true ∧ lockedQueue.tdiOf 7 ≠ .error ∧
    (tdi .error lockedQueue).boundFn (mreg 0x6000038) 1 = some 7 ∧ (tdi .error lockedQueue).tdiOf 7 = .error ∧
    (lockedQueue.writeReg (mreg 0x6000038) 1).readReg (mreg 0x6000038) ≠ lockedQueue.readReg (mreg 0x6000038) ∧ (lockedQueue.writeReg (mreg 0x6000038) 0).readReg (mreg 0x6000038) = lockedQueue.readReg (mreg 0x6000038) ∧
    (0x8000000000005041 : Word).getLsbD 63 = true ∧ ((State.reset.die 0).ctl.get 1).spBusy = false ∧
    (0x8000000000005041 : Word).extractLsb' 12 6 ∉ ((State.reset.die 0).ctl.get 1).spUsed ∧ (((sparing 16383).die 0).ctl.get 1).spBusy = true ∧ (((sparing 16383).die 0).ctl.get 1).spB = 16383 ∧
    start.goTarget 7 = none ∧ halted.goTarget 7 = some c0 := by decide +kernel
theorem witness_ManagementWrites_plain : (∀ d p o, mreg 0x6000038 ≠ .ptab d p o) ∧ ∀ d k n j, mreg 0x6000038 ≠ .key d k n j := by
  have h : mreg 0x6000038 = .hsteer 7 := by decide +kernel
  simp [h]

def erring : State := tdi .error owned
theorem witness_TrustInterfaces : ((252 : BitVec 8) ≠ 0 ∧ (252 : BitVec 8).toNat ≤ 252) ∧ owned.tdiOf 252 = .unlocked ∧ (tdi .locked owned).tdiOf 7 = .locked ∧ (tdi .run owned).tdiOf 7 ≠ .unlocked ∧
    (tdi .run owned).tdiOf 7 ≠ .locked ∧ (tdi .run owned).tdiOf 7 = .run ∧ ¬ ((253 : BitVec 8) ≠ 0 ∧ (253 : BitVec 8).toNat ≤ 252) ∧ erring.tdiOf 7 = .error ∧ erring.partsOf 7 = [1] ∧
    (252 : BitVec 8).toNat < 253 := by decide +kernel

/-- The mailbox holds a command with its arguments. -/
def boxed (s : State) (cmd a0 a1 a2 a3 : Word) : State := { s with mailbox := { cmd := cmd, arg := #v[a0, a1, a2, a3], busy := true, detail := 0, result := 0 } }
/-- The first 3,968 bytes of a policy record with a weight and a key of zeros; what follows may be a signature. -/
def policyBody (w : Byte) : List Byte := [0x5A, 0x50, 0x4F, 0x4C, 1, 0, 0, 0, w, 0, 1, 0, 0, 0, 1] ++ List.replicate 3953 0
/-- The challenge that the zero signature of FIPS 204 has under a key of zeros. -/
def challenge (w : Byte) : List Byte :=
  shake256 (shake256 (shake256 (List.replicate 1952 0) 64 ++ mldsaMessage (policyBody w)) 64 ++ w1Encode (List.replicate 6 (List.replicate 256 0))) 48
def policy (w : Byte) : List Byte := policyBody w ++ (challenge w ++ (zeroVector ++ noHints) ++ List.replicate 3 0)
/-- The record stands at host address 64. -/
def creating (w : Byte) : State := boxed (start.setBytes ⟨.host, 64⟩ (policy w)) 1 64 (372 * 65536 + 31) 252 0
theorem policyBody_length (w : Byte) : (policyBody w).length = 3968 := by rw [policyBody, List.length_append, List.length_replicate]; rfl
theorem policyBody_key (w : Byte) : ((policyBody w).drop 0x40).take 1952 = List.replicate 1952 0 := by
  have k : (policyBody w).drop 0x40 = (List.replicate 3953 (0 : Byte)).drop 49 := by
    rw [policyBody, List.drop_append]; rfl
  rw [k, List.drop_replicate, List.take_replicate]; rfl
theorem boxed_bytesAt (s : State) (a b c d e : Word) (p : PAddr) (n : Nat) : (boxed s a b c d e).bytesAt p n = s.bytesAt p n := by
  induction n generalizing p with
  | zero => rfl
  | succ n ih => exact congrArg _ (ih _)
theorem creating_record (w : Byte) : (creating w).bytesAt ⟨.host, 64⟩ 7280 = policy w := by
  have h := State.bytesAt_setBytes start ⟨.host, 64⟩ (policy w) rfl
  have e : zeroVector.length = 3200 ∧ noHints.length = 61 := by decide +kernel
  rw [show (policy w).length = 7280 by simp only [policy, challenge, List.length_append, policyBody_length, shake256_length, e.1, e.2, List.length_replicate]] at h
  exact (boxed_bytesAt _ _ _ _ _ _ _ _).trans h
theorem policy_signed (w : Byte) : policySigned (policy w) = true := by
  have h : (challenge w).length = 48 := shake256_length _ _
  have e0 := policyBody_length w
  have e1 : ((policy w).drop 0x40).take 1952 = List.replicate 1952 0 := by
    have k : (policy w).drop 0x40 = (policyBody w).drop 0x40 ++ (challenge w ++ (zeroVector ++ noHints) ++ List.replicate 3 0) := List.drop_append_of_le_length (by omega)
    rw [k, List.take_append_of_le_length (by rw [List.length_drop]; omega), policyBody_key]
  have e2 : (policy w).take 0xF80 = policyBody w := List.take_left' e0
  have e3 : ((policy w).drop 0xF80).take 3309 = challenge w ++ (zeroVector ++ noHints) := by
    have l : (zeroVector ++ noHints).length = 3261 := by decide +kernel
    rw [show (policy w).drop 0xF80 = _ from List.drop_left' e0]; exact List.take_left' (by rw [List.length_append, h, l])
  rw [policySigned, e1, e2, e3, mldsaVerify_zero _ _ h]; exact beq_self_eq_true _
/-- The record is signed, and with a weight of 1 within its limits; with a weight of 0 it is signed and not within them, and zeros are neither. -/
theorem witness_MailboxCommands_signed : policySigned ((creating 1).bytesAt ⟨.host, 64⟩ 7280) = true ∧ policyOk ((creating 1).bytesAt ⟨.host, 64⟩ 7280) = true ∧
    policySigned ((creating 0).bytesAt ⟨.host, 64⟩ 7280) = true ∧ policyOk ((creating 0).bytesAt ⟨.host, 64⟩ 7280) = false ∧
    policySigned (start.bytesAt ⟨.host, 64⟩ 7280) = false := by
  simp only [creating_record, policy_signed]
  decide +kernel
theorem witness_MailboxCommands_create : (creating 1).mailbox.busy = true ∧ (creating 1).mailbox.cmd = BitVec.ofNat 64 1 ∧
    ((creating 1).mailbox.arg.get 1).toNat = ((creating 1).mailbox.arg.get 1).toNat / 65536 % 65536 * 65536 + (((creating 1).mailbox.arg.get 1).setWidth 5).toNat ∧
    ((creating 1).mailbox.arg.get 2).toNat ≤ 252 ∧ ((creating 1).part 31).live = false ∧ (owned.part 1).live = true ∧ (creating 1).freeGranules.length = 372 ∧ owned.freeGranules.length < 372 ∧
    start.mailbox.busy = false := by decide +kernel
/-- No function of the package is locked. -/
theorem witness_MailboxCommands_free : ∀ fn, (creating 1).locked fn = false := by decide +kernel
def listed (cmd a1 : Word) : State := boxed (owned.setBytes ⟨.host, 0x80⟩ [1]) cmd 0x80 a1 0 0
def sealed : SafeCopy := { list := 0x80, written := [(0x90, [0])], part := 1, key := 5, granules := [(0, 2)], blocks := [], seqs := [], mem := [⟨(⟨.hbm 0, 2 * 2 ^ 30⟩ : PAddr).key, 9⟩], slots := [] }
theorem witness_MailboxCommands_others : (boxed owned 2 0 1 0 0).mailbox.cmd = BitVec.ofNat 64 2 ∧ (1 : Word).toNat < 32 ∧ (owned.part 1).live = true ∧ (owned.part 31).live = false ∧
    (∀ k : Fin 256, dieOf k = 0 → (-1 : Word).getLsbD (k.val % 64) = true → ((owned.coreParts k).filter (· != 1)).length < 2) ∧ (4095 : Word).toNat < 4096 ∧
    (0x78110 : Word) &&& 0x1FF9F1F = 0x78110 ∧ (0x78110 : Word).extractLsb' 16 8 = (owned.part ((0x78110 : Word).extractLsb' 8 5)).fn ∧ (owned.part ((0x78110 : Word).extractLsb' 8 5)).live = true ∧
    ((2 ^ 40 - 1 : Word)).toNat < 2 ^ 40 ∧ (65535 : Word).toNat ≤ 65535 ∧ 65535 < (65536 : Word).toNat := by decide +kernel
theorem witness_MailboxCommands_tier : ((listed 6 0).tierList 0x80).isSome = true ∧ ((listed 6 0).tierList 0x81).isNone = true ∧ (∀ k j, (State.reset.slot ⟨k, j⟩).status ≠ 1) ∧ owned.safe = [] ∧
    ({ listed 7 1 with safe := [sealed] } : State).safe = [sealed] ∧ sealed.list = (listed 7 1).mailbox.arg.get 0 ∧ sealed.part = ((listed 7 1).mailbox.arg.get 1).setWidth 5 ∧ (listed 7 1).restorable sealed = true ∧
    sealed.slots = [] ∧ Memory.wf sealed.mem = true ∧ (∀ c ∈ sealed.mem, inGranules sealed.granules c.1 = true) ∧ MemoryCanonical (listed 7 1) := by unfold MemoryCanonical; decide +kernel

/-- The word of add g5, g6, g7 at local address 0, and the cycle of slot 0 due. -/
def dueNear : State := { start.setBytes ⟨.loc 0, 0⟩ [0x01, 0x1C, 0x53, 0x00] with agenda := [.cp c0] }
/-- The same word in a cached line of the far page. -/
def dueFar : State := { start.modCp c0 (fun p => { p with pc := 0x1000003C, icache := [⟨0, 0x10000000 / 64, 0x00531C01 <<< 480⟩] }) with agenda := [.cp c0] }
theorem witness_StepRunsDecoded : dueNear.agenda = .cp c0 :: [] ∧ (dueNear.slot c0).status = 1 ∧ (dueNear.cp c0).run = .running ∧ (dueNear.cp c0).untimed = 0 ∧ (dueNear.cp c0).gap = false ∧
    (dueNear.cp c0).dtraps = [] ∧ (dueNear.cp c0).answerDue = false ∧ dueNear.marksAt ⟨.loc 0, 0⟩ 4 = [] ∧
    (let s : State := { dueNear with agenda := [], cur := c0 }; (s.modCp c0 fun p => { p with iword := 0x00531C01 }).walks (.add 5 6 7) = []) ∧
    (let s : State := { far 0x10000000 with agenda := [], cur := c0 }; (s.modCp c0 fun p => { p with iword := 0x645330A5 }).walks (.ldf 5 6 3 0) ≠ []) ∧ (dueNear.cp c0).pc ≠ 0x3FFFFC ∧ classOf (dueNear.cp c0).pc = .near ∧ dueNear.nearPlace c0 (dueNear.cp c0).pc 4 = .ok ⟨.loc 0, 0⟩ ∧
    decode (dueNear.bytesAt ⟨.loc 0, 0⟩ 4) = .ok (.add 5 6 7, []) ∧ classOf (dueFar.cp c0).pc = .far ∧
    ((dueFar.cp c0).icache.find? fun x => x.part == (dueFar.slot c0).part && x.line == (dueFar.cp c0).pc.toNat / 64) = some ⟨0, 0x10000000 / 64, 0x00531C01 <<< 480⟩ ∧
    BitVec.ofNat 32 ((0x00531C01 <<< 480 : BitVec 512).toNat / 2 ^ (8 * ((dueFar.cp c0).pc.toNat % 64))) = 0x00531C01 ∧ decodeWord 0x00531C01 = .ok (.add 5 6 7) ∧
    ({ start with agenda := [.ev .coldReset] } : State).agenda = .ev .coldReset :: [] := by decide +kernel

theorem witness_EncodeDecode : (Instr.bfx 31 31 0 63).wf = true ∧ (encode (.bfx 31 31 0 63)).isSome = true ∧ (elemParts (.fma site fields)).isSome = true ∧ (encodeCtx (.fma site fields)).isSome = true ∧
    (Instr.fma site fields).wf = true ∧ (⟨4095, 2⟩ : CueTime).lap ≠ 3 ∧ (Instr.cueDrain site 3 23 false 7 3 true).wf = true ∧ (encodeCue ⟨4095, 2⟩ (.cueDrain site 3 23 false 7 3 true)).isSome = true := by decide
theorem witness_DecodeEncode : decodeWord 0x04239019 = .ok (.bfxu 2 7 8 3) := by decide
theorem witness_MemoryInvariant : MemoryCanonical dueNear ∧ (match step dueNear with | .next t => (t.cp c0).pc == 4 && t.agenda == [] | _ => false) = true := by unfold MemoryCanonical; decide +kernel

/-! ### Further clauses of the statements: records read at the head, answers, refusals, routes and room for records -/

/-- The image of an ended region of one element, and a state that holds it in local memory. -/
def endedOne (s : State) : State := s.modRegion c0 1 fun g => { g with on := .ended, onHdr := { g.onHdr with rows := 1, cols := 1 } }
def regionImage : List Byte := (endedOne start).savedImage c0 1
def holding (s : State) (m : Memory) : State := { s with mem := m }
theorem holding_mem (s : State) (m : Memory) : (holding s m).mem = m := rfl
def restoring : State := holding (withCmds start [cmd (.rrest 6 1)]) (start.setBytes ⟨.loc 0, 0⟩ regionImage).mem
theorem regionImage_length : regionImage.length = 15360 := by decide +kernel
theorem regionImage_crc : fld regionImage 60 4 = (crc32c (regionImage.drop 64)).toNat := by
  have h : ∃ a b, a.length = 60 ∧ regionImage = a ++ (leBytes 4 (crc32c b).toNat ++ b) := ⟨_, _, rfl, by rw [← List.append_assoc]; rfl⟩
  obtain ⟨a, b, ha, hb⟩ := h
  have e : regionImage.drop 60 = leBytes 4 (crc32c b).toNat ++ b := by rw [hb]; exact List.drop_left' ha
  have e' : regionImage.drop 64 = b := by
    rw [show regionImage.drop 64 = (regionImage.drop 60).drop 4 by rw [List.drop_drop], e]; exact List.drop_left' (leBytes_length _ _)
  rw [fld, e, e', List.take_left' (leBytes_length _ _), leNat_leBytes _ _ (by simpa using (crc32c b).isLt)]
theorem restoring_reads (n k : Nat) (hk : (n + 7) / 8 = k) (h8 : 8 * k = n) (hp : restoring.places c0 false 8 k 0 = .ok ((List.range k).map fun i => ⟨.loc 0, 0 + 8 * i⟩)) (hn : n ≤ 15360) :
    restoring.readVirt c0 0 n = (restoring, .ok (regionImage.take n)) := by
  have hb : restoring.bytesAt ⟨.loc 0, 0⟩ 15360 = regionImage := by
    have h := State.bytesAt_setBytes start ⟨.loc 0, 0⟩ regionImage rfl
    rw [regionImage_length] at h
    rw [State.bytesAt_loc restoring (start.setBytes ⟨.loc 0, 0⟩ regionImage) 0 0 15360 (holding_mem _ _)]
    exact h
  have hb' : restoring.bytesAt ⟨.loc 0, 0⟩ n = regionImage.take n := by
    rw [← hb, show 15360 = n + (15360 - n) by omega, State.bytesAt_append, List.take_left' (State.bytesAt_length _ _ _)]
  have hc := State.loadPieces_clean restoring c0 8 ((List.range k).map fun i => (⟨.loc 0, 0⟩ : PAddr).plus (8 * i)) rfl
  rw [State.bytesAt_pieces, h8, hb'] at hc
  have hc' : restoring.loadPieces c0 8 ((List.range k).map fun i => ⟨.loc 0, 0 + 8 * i⟩) = (restoring, .ok (regionImage.take n)) := hc
  simp only [State.readVirt, hk, hp, hc', List.take_take, Nat.min_self]
theorem restoring_header : restoring.readVirt c0 0 64 = (restoring, .ok (regionImage.take 64)) := restoring_reads 64 8 rfl rfl (by decide +kernel) (by omega)
theorem restoring_image : restoring.readVirt c0 0 15360 = (restoring, .ok regionImage) := by
  have h := restoring_reads 15360 1920 rfl rfl (by decide +kernel) (by omega)
  rwa [List.take_of_length_le (Nat.le_of_eq regionImage_length)] at h
/-- rrest: the header is one of a region of one element, the CRC holds, the image is read whole, and its region can stand at region 1. -/
theorem witness_CommandHead_rrest : (restoring.slot c0).status = 0x01 ∧ (restoring.slot c0).cmdq = [cmd (.rrest 6 1)] ∧ restoring.recordWaits c0 (cmd (.rrest 6 1)) = false ∧ restoring.recordParked c0 (cmd (.rrest 6 1)) = false ∧
    ((restoring.region c0 (ix4 1)).on = .free ∧ (restoring.region c0 (ix4 1)).next = .empty) ∧ fld (regionImage.take 64) 0 4 = 0x5653525A ∧ fld (regionImage.take 64) 9 1 % 32 = 1 ∧ fld (regionImage.take 64) 10 1 % 32 = 1 ∧
    ∃ v z, (rSaved 1).run (regionImage.drop 64) = some (v, z) ∧ ((restoring.slot c0).rectangles 1).any v.g.onHdr.meets = false ∧
      (restoring.loadEnv c0 1).columns.1 ≤ v.g.onHdr.col0 ∧ v.g.onHdr.col0 + v.g.onHdr.cols ≤ (restoring.loadEnv c0 1).columns.2 ∧ (∀ e ∈ v.g.onHdr.elems, (restoring.core c0.core).fuse.getLsbD e.val = false) ∧
      (∀ y ∈ v.ports, ((restoring.slot c0).port y.p).run = none ∧ (restoring.loadEnv c0 1).owns y.p.toNat = true) ∧ ¬ (v.g.on = .stopped ∧ v.g.cause = 0x05) := by
  refine ⟨by decide +kernel, by decide +kernel, by decide +kernel, by decide +kernel, by decide +kernel, by decide +kernel, by decide +kernel, by decide +kernel, ?_⟩
  have h : ((rSaved 1).run (regionImage.drop 64)).any (fun x => decide (((restoring.slot c0).rectangles 1).any x.1.g.onHdr.meets = false ∧
      (restoring.loadEnv c0 1).columns.1 ≤ x.1.g.onHdr.col0 ∧ x.1.g.onHdr.col0 + x.1.g.onHdr.cols ≤ (restoring.loadEnv c0 1).columns.2 ∧ (∀ e ∈ x.1.g.onHdr.elems, (restoring.core c0.core).fuse.getLsbD e.val = false) ∧
      (∀ y ∈ x.1.ports, ((restoring.slot c0).port y.p).run = none ∧ (restoring.loadEnv c0 1).owns y.p.toNat = true) ∧ ¬ (x.1.g.on = .stopped ∧ x.1.g.cause = 0x05))) = true := by decide +kernel
  generalize (rSaved 1).run (regionImage.drop 64) = o at h
  cases o with
  | none => exact nomatch h
  | some x => exact ⟨x.1, x.2, rfl, of_decide_eq_true h⟩
theorem witness_FencesAndPrefetch_arm : ((withCmds start [cmd (.rarm 0 1)]).slot c0).cmdq = [cmd (.rarm 0 1)] ∧ ((withCmds start [cmd (.rarm 6 1)]).slot c0).cmdq = [cmd (.rarm 6 1)] ∧ parked.launches = [] := by decide +kernel
theorem witness_EngineCommands_lengths : RecordOk (far 0x10000000) ((far 0x10000000).reg 6) 64 ((far 0x10000000).imageLen ((far 0x10000000).reg 6)) false ∧
    RecordOk (far 0x10000000) ((far 0x10000000).reg 6) 256 (imageSize ((far 0x10000000).region (far 0x10000000).cur (ix4 1)).onHdr.rows ((far 0x10000000).region (far 0x10000000).cur (ix4 1)).onHdr.cols) true ∧
    RecordOk (far 0x10000000) ((far 0x10000000).reg 6) 256 ((far 0x10000000).savedSize ((far 0x10000000).reg 6)) false :=
  ⟨record_ok (by decide +kernel), record_ok (by decide +kernel), record_ok (by decide +kernel)⟩
/-- Region 1 stopped on a page, and its tile is on its way. -/
def paging : State := { heads (.rsave 6 1) (fun g => { g with on := .stopped, cause := 5 }) with tiles := [{ tile with region := 1 }] }
/-- A command whose record stands at an address. -/
def headAt (i : Instr) (a : Word) (s : State) : State := withCmds s [{ cmd i with a := a }]
theorem witness_CommandHead_rsave : (heads (.rsave 6 1) id).recordWaits c0 (cmd (.rsave 6 1)) = false ∧ (cmd (.rsave 6 1)).failed = false ∧
    ¬ (((heads (.rsave 6 1) id).region c0 (ix4 1)).on = .ended ∨ ((heads (.rsave 6 1) id).region c0 (ix4 1)).on = .stopped) ∧ (paging.region c0 (ix4 1)).on = .stopped ∧ (paging.region c0 (ix4 1)).cause = 0x05 ∧
    paging.travelling c0 (ix4 1) = true ∧ (paging.cp c0).trigged = none ∧ (paging.slot c0).launch = none ∧ ((endedOne (headAt (.rsave 6 1) 0 start)).region c0 (ix4 1)).on = .ended ∧
    ((endedOne (headAt (.rsave 6 1) 0 start)).writeVirt c0 0 ((endedOne (headAt (.rsave 6 1) 0 start)).savedImage c0 (ix4 1))).toOption.isSome = true ∧
    ((endedOne (headAt (.rsave 6 1) 0xC500 start)).writeVirt c0 0xC500 ((endedOne (headAt (.rsave 6 1) 0xC500 start)).savedImage c0 (ix4 1))).toOption.isSome = false ∧ RecRoom (endedOne start) 0 ∧
    ((endedOne start).cp c0).run = .running ∧ (1 ≤ ((endedOne start).region c0 1).onHdr.rows ∧ ((endedOne start).region c0 1).onHdr.rows ≤ 16) ∧
    (1 ≤ ((endedOne start).region c0 1).onHdr.cols ∧ ((endedOne start).region c0 1).onHdr.cols ≤ 16) := by unfold RecRoom; decide +kernel
theorem witness_CommandHead_rrest_other : ¬ ((((heads (.rrest 6 1) fun g => { g with on := .running }).region c0 (ix4 1)).on = .free ∧ ((heads (.rrest 6 1) fun g => { g with on := .running }).region c0 (ix4 1)).next = .empty) ∨
      ((heads (.rrest 6 1) fun g => { g with on := .running }).region c0 (ix4 1)).on = .ended ∨ ((heads (.rrest 6 1) fun g => { g with on := .running }).region c0 (ix4 1)).on = .stopped) ∧
    ((headAt (.rrest 6 1) 0x10000000 start).readVirt c0 0x10000000 64).2.toOption = none ∧ (headAt (.rrest 6 1) 0x10000000 start).recordParked c0 { cmd (.rrest 6 1) with a := 0x10000000 } = false ∧
    ((heads (.rrest 6 1) id).readVirt c0 0 64).2.toOption = some (List.replicate 64 0) ∧ fld (List.replicate 64 0) 0 4 ≠ 0x5653525A := by decide +kernel
/-- Pattern slot 3 holds a pattern, and a bind of it to port 0 is at the head. -/
def binds (i : Instr) (a : Word) (pat : BitVec 512) (q : Option Binding) : State :=
  ported ((headAt i a start).modSlot c0 fun t => { t with patterns := vmod t.patterns 3 fun _ => pat }) 0 fun x => { x with pending := q }
theorem witness_CommandHead_sbind : ((binds (.sbind 0 3) 0 scenePat (some (binding scenePat none none))).slot c0).status = 1 ∧
    (((binds (.sbind 0 3) 0 scenePat (some (binding scenePat none none))).slot c0).port 0).pending.isSome = true ∧ (((binds (.sbind 0 3) 0 scenePat none).slot c0).port 0).pending = none ∧
    ((binds (.sbind 0 3) 0 scenePat none).cp c0).trigged = none ∧ ((binds (.sbind 0 3) 0 scenePat none).slot c0).launch = none ∧
    ((binds (.sbind 0 3) 0 scenePat none).checkBinding c0 0 (((binds (.sbind 0 3) 0 scenePat none).slot c0).patterns.get (ix16 3)) 0).toOption.isSome = true ∧
    ((binds (.sbindt 6 0 3) 0xFFFFFFFF (2 ^ 511) none).checkBinding c0 0 (((binds (.sbindt 6 0 3) 0xFFFFFFFF (2 ^ 511) none).slot c0).patterns.get (ix16 3)) 0).toOption.isSome = false ∧
    (((binds (.sbindt 6 0 3) 0xFFFFFFFF scenePat none).slot c0).cmdq = [{ cmd (.sbindt 6 0 3) with a := 0xFFFFFFFF }]) ∧ patInd scenePat = false ∧ patInd gathering.pat = true ∧
    (0xFFFFFFFF : Word).toNat ≤ 0xFFFFFFFF ∧ 0xFFFFFFFF < (0x100000000 : Word).toNat := by decide +kernel
/-- The record of a copy of 32 bytes with flags and a counter, at an offset of local memory. -/
def copyRec (len flags : Byte) (ctr : Byte) : List Byte := [64, 0, 0, 0, 0, 0, 0, 0, 0, 0, 0x40, 0, 0, 0, 0, 0, len, 0, 0, 0, flags, 0, 0, 0, ctr, 0, 0, 0, 0, 0, 0, 0, 1]
def copyHeads (i : Instr) (a : Word) (b : List Byte) : State := headAt i a (start.setBytes ⟨.loc 0, 0x100⟩ b)
def copyRead (a : Word) (b : List Byte) : Option (List Byte) := ((copyHeads (.cpy 6) a b).readVirt c0 a 64).2.toOption
theorem witness_ReelAndCopy_heads : ((copyHeads (.cpy 6) 0x100 (copyRec 32 0 8)).slot c0).cmdq = [{ cmd (.cpy 6) with a := 0x100 }] ∧
    (copyHeads (.cpy 6) 0x100 (copyRec 32 0 8)).recordParked c0 { cmd (.cpy 6) with a := 0x100 } = false ∧ RecRoom (copyHeads (.cpy 6) 0x100 (copyRec 32 0 8)) c0.core ∧
    ((copyHeads (.cpy 6) 0x100 (copyRec 32 0 8)).cp c0).run = .running ∧ ((copyHeads (.cpy 6) 0x100 (copyRec 32 0 8)).cp c0).trigged = none ∧ ((copyHeads (.cpy 6) 0x100 (copyRec 32 0 8)).slot c0).launch = none ∧
    ((copies (List.replicate 8 job) none).slot c0).copyq.length = 8 ∧ ((copyHeads (.cpy 6) 0x100 (copyRec 32 0 8)).slot c0).copyq.length < 8 ∧ copyRead 0x10000000 [] = none ∧
    (copyRead 0x100 (copyRec 32 0 8)).map (fun b => (copyFieldsOk false b, (fld b 0x14 1).testBit 2, fld64 b 0x18)) = some (true, false, 8) ∧
    (copyRead 0x100 (copyRec 32 0 0)).map (fun b => (copyFieldsOk false b, (fld b 0x14 1).testBit 2, fld64 b 0x18)) = some (true, false, 0) ∧
    (copyRead 0x100 (copyRec 32 4 0)).map (fun b => (copyFieldsOk false b, (fld b 0x14 1).testBit 2)) = some (true, true) ∧ (copyRead 0x100 (copyRec 31 0 0)).map (copyFieldsOk false) = some false ∧
    ((copyHeads (.cpy 6) 0x100 (copyRec 32 4 0)).slot c0).stages.get 0 = none ∧ ((staged (copyHeads (.cpy 6) 0x100 (copyRec 32 4 0))).slot c0).stages.get 2 = some stage ∧
    ((copyHeads (.cpy 6) 0x100 (copyRec 32 0 8)).counterPlace c0 8 true).toOption = some ⟨.loc 0, 8⟩ ∧ ((copyHeads (.cpy 6) 0x100 (copyRec 32 0 9)).counterPlace c0 9 true).toOption = none ∧
    copyFieldsOk true ((copyRec 0 0 0).take 0x10 ++ [0, 0, 0, 0, 0, 0, 0, 0] ++ List.replicate 40 0) = false ∧ (copies [] none).copyRecWaits c0 = false := by unfold RecRoom; decide +kernel
/-- The record of a stage of two slots of 32 bytes with its counters. -/
def stageRec (n fill : Byte) : List Byte := [0, 0, 0, 0, 0, 0, 0, 0, 32, 0, 0, 0, n, 0, 0, 0, fill, 0, 0, 0, 0, 0, 0, 0, 16, 0, 0, 0, 0, 0, 0, 0]
def stageRead (b : List Byte) : Option (List Byte) := ((copyHeads (.stgdef 6 2) 0x100 b).readVirt c0 0x100 32).2.toOption
def stageOk (b : List Byte) : Bool := stageFieldsOk (((copyHeads (.stgdef 6 2) 0x100 b).core 0).sceneShare 0).2 b
theorem witness_ReelAndCopy_stage : (stageRead (stageRec 2 8)).map stageOk = some true ∧ (stageRead (stageRec 0 8)).map stageOk = some false ∧
    ((copyHeads (.stgdef 6 2) 0x100 (stageRec 2 8)).counterPlace c0 8 true).toOption = some ⟨.loc 0, 8⟩ ∧ ((copyHeads (.stgdef 6 2) 0x100 (stageRec 2 8)).counterPlace c0 16 true).toOption = some ⟨.loc 0, 16⟩ ∧
    ((copyHeads (.stgdef 6 2) 0x100 (stageRec 2 9)).counterPlace c0 9 true).toOption = none ∧ ((copyHeads (.stgdef 6 2) 0x10000000 []).readVirt c0 0x10000000 32).2.toOption = none := by decide +kernel
/-- A stage whose released count another partition owns by now. -/
def lostStage : Stage := { stage with rel := ⟨.cb 1, 72⟩, relVa := 0x10000048 }
def lost : State := (far 4).modSlot c0 fun t => { t with stages := vmod t.stages 2 fun _ => some lostStage }
theorem witness_PatternAndStage_owner : CanIssue lost [6] false ∧ MemoryCanonical lost ∧ lost.accessesDone lost.cur = true ∧ (lost.slot lost.cur).stages.get (ix16 2) = some lostStage ∧
    lost.ownerOk lost.myPart lostStage.rel true = false ∧ (lost.cp lost.cur).handler = false ∧ (staged (two 4 0)).ownerOk (staged (two 4 0)).myPart stage.rel true = true ∧
    (staged (two 4 0)).surfaceOf (staged (two 4 0)).myPart stage.relVa = none := by unfold CanIssue MemoryCanonical; decide +kernel
theorem witness_Counters_room : arriving.refused = false ∧ RecRoom ({ start with adds := [arriving] } : State) arriving.sender.core ∧ (far 0x10000000).surfaceOf (far 0x10000000).myPart ((far 0x10000000).reg 6 + 0x10) = none ∧
    (far 0x10000000).accessesDone (far 0x10000000).cur = true := by unfold RecRoom; decide +kernel
/-- A CP whose instruction has asked the chiplet. -/
def asking (s : State) : State := s.modCp c0 fun p => { p with asked := true }
theorem witness_TriggerAndLaunch_plain : (opened 15 (far 0x10000000)).surfaceOf 0 (0x10001000 + BitVec.ofNat 64 (64 * 15)) = none ∧
    ((opened 15 (far 0x10000000)).wq 3).base + BitVec.ofNat 64 (64 * (((opened 15 (far 0x10000000)).wq 3).tail.toNat % 2 ^ (((opened 15 (far 0x10000000)).wq 3).cfg.toNat % 32))) = 0x10001000 + BitVec.ofNat 64 (64 * 15) ∧
    (3 : Nat) < 4096 := by decide +kernel
theorem witness_BarriersAndPeers_asks : ((neighbourly 0x80000001).cp c0).asked = false ∧ ((asking (neighbourly 0x80000001)).cp c0).asked = true ∧ CanIssue (asking (neighbourly 0x80000001)) [6] false ∧
    ((neighbourly 0x40000000).reg 6).getLsbD 31 = false ∧ (neighbourly 0x40000000).reg 6 ≠ 0 ∧ ((neighbourly 0x80000002).reg 6).getLsbD 31 = true ∧ (neighbourly 0x80000002).coreOfPart 2 (neighbourly 0x80000002).myPart = false ∧
    ((neighbourly 0x80000002).cp c0).handler = false ∧ ¬ (neighbourly 0x80000002).reg 6 &&& 0xFFFFFFFF600CCEC0 ≠ 0 := by unfold CanIssue; decide +kernel
/-- The tile in FP32, and one that has been refused. -/
def floating : Tile := { tile with int := false }
def refused : Tile := { tile with refused := some .absent }
theorem witness_TileArrive_float : ({ taker with tiles := [floating] } : State).tiles.find? (fun t => t.id == floating.id) = some floating ∧ floating.refused = none ∧ floating.int = false ∧
    ({ taker with tiles := [floating] } : State).tileTarget floating = .ok 0 ∧ (∀ y ∈ ({ taker with tiles := [floating] } : State).tiles, ¬ (y.ordered floating = true ∧ y.before floating = true)) ∧ taker.ecc = [] ∧
    refused.refused.isSome = true ∧ ({ start with tiles := [refused] } : State).tiles.find? (fun t => t.id == refused.id) = some refused ∧
    ({ start with tiles := [refused] } : State).recWaits refused.sender.core (.job refused.id) = false ∧ RecRoom (tiled start) tile.sender.core := by unfold RecRoom; decide +kernel
theorem witness_KvAppend_asks : ((kvRegs 16 (seqHdl + 0x1000000) 0x10000000).cp c0).asked = false ∧ ((asking (kvRegs 16 (seqHdl + 0x1000000) 0x10000000)).cp c0).asked = true ∧
    CanIssue (asking (kvRegs 16 (seqHdl + 0x1000000) 0x10000000)) [6, 7, 11] false ∧ ((start.modCp c0 fun p => { p with answerDue := true, answer := some (5, 7) }).cp c0).answer = some (5, 7) := by unfold CanIssue; decide +kernel
theorem witness_KvSequences_plain : (put (kvRegs 16 0x10000000 1) 0 ([0, 0, 0, 0, 0, 0, 0, 0, 3, 0, 0, 0, 0, 0, 0, 0, 0, 1, 0, 0x10])).surfaceOf 0 0x10000000 = none ∧
    (put (kvRegs 16 0x10000000 1) 0 ([0, 0, 0, 0, 0, 0, 0, 0, 3, 0, 0, 0, 0, 0, 0, 0, 0, 1, 0, 0x10])).myPart = 0 ∧ ((asking start).cp c0).asked = true ∧ (start.cp c0).asked = false := by decide +kernel
theorem witness_MaskInstructions_room : RecRoom (far 0x10000000) (far 0x10000000).cur.core ∧ 4 ≤ (((far 0x10000000).modCore 0 fun k => { k with recq := [1, 2, 3, 4] }).core 0).recq.length ∧
    fld ((pieces 0 8).flatMap fun p => (put (far 0x10000000) 0 [0, 0, 18]).bytesAt p 16) 2 1 = 18 := by unfold RecRoom; decide +kernel
theorem witness_AttentionInstructions_moved : (let s := put ((handlerFar (cached · 16)).modChiplet 0 fun k => { k with kvpool := vmod k.kvpool 63 fun _ => 0x8000000000000000 }) 0 [0, 3, 63, 0, 1]
     s.surfaceOf s.myPart (s.reg 6 + 8) = none) := by decide +kernel
/-- A collective whose members' terms have agreed. -/
def agreedJob : CollJob := { inFlight with agreed := true }
def agreeing : State := (inGang (gang .committed true) (put (far 0x10000000) 0 collBytes)).modSlot c0 fun t => { t with colls := [agreedJob] }
def terms96 : Nat × Nat × Nat := (fld inFlight.bytes 0 1, fld inFlight.bytes 1 1, fld inFlight.bytes 0x20 4)
theorem witness_GangInstructions_asks : (launching.cp c0).asked = false ∧ ((asking launching).cp c0).asked = true ∧ CanIssue (asking launching) [6, 7] false ∧
    (∃ x ∈ (memberEntries 2 (bytes128 launching 0x400 2)).drop 1, launching.routeTo x.1 = none) ∧ inFlight.agreed = false ∧ RecRoom collecting c0.core ∧
    collecting.surfaceOf (collecting.slot c0).part (inFlight.recAddr + 0x38) = none ∧ [terms96, terms96].length + 1 = (gang .committed true).members.length ∧ (∀ x ∈ [terms96, terms96], x = terms96) ∧
    (∃ x ∈ [terms96, (1, 0, 0)], x ≠ terms96) := by unfold CanIssue RecRoom; decide +kernel
theorem witness_GangInstructions_agreed : (agreeing.slot c0).colls.find? (fun y => y.id == agreedJob.id) = some agreedJob ∧ agreeing.gang agreedJob.gid = some (gang .committed true) ∧ agreedJob.agreed = true ∧
    agreedJob.fault = none ∧ agreedJob.ctr = none ∧ agreeing.ecc = [] ∧ MemoryCanonical agreeing ∧ RecRoom agreeing c0.core ∧ agreeing.surfaceOf (agreeing.slot c0).part (agreedJob.recAddr + 0x38) = none ∧
    agreeing.surfaceOf (agreeing.slot c0).part (fld64 agreedJob.bytes 0x18 + 0x10) = none ∧ (agreeing.readVirt c0 agreedJob.dst (collDstLen agreedJob.bytes 3)).2.toOption = some zeros96 ∧
    ((agreeing.writeVirt c0 agreedJob.dst zeros96).toOption.map fun t => Memory.wf t.mem && t.ecc == []) = some true := by unfold MemoryCanonical RecRoom; decide +kernel
/-- A link, with its parameters. -/
def linked (f : LinkPort → LinkPort) (s : State) : State := { s with links := Vector.replicate 18 (f LinkPort.reset) }
theorem witness_FabricLinksAndServices_link : (State.reset.links.get 17).missed ≠ 2 ∧ ((linked (fun l => { l with missed := 2 }) (ganged start (gang .committed true))).links.get 17).missed = 2 ∧
    (linked (fun l => { l with missed := 2 }) (ganged start (gang .committed true))).gangs = [gang .committed true] ∧ (gang .committed true).state = .committed ∧
    (∃ m ∈ (gang .committed true).members, m.1 ∈ [(6 : BitVec 20)] ∨ (m.1, (17 : Fin 18)) ∈ (linked id start).routes) ∧ ((linked (fun l => { l with up := false }) start).links.get 17).up = false ∧
    512 ≤ ((linked (fun l => { l with replayBuf := List.replicate 512 (1, default) }) start).links.get 17).replayBuf.length ∧
    ((linked (fun l => { l with replayBuf := List.replicate 511 (1, default) }) start).links.get 17).replayBuf.length < 512 ∧ (flit 3 true 5).typ = 3 ∧ (State.reset.links.get 17).queue = [] ∧
    ((linked (fun l => { l with replayBuf := [(9, default), (10, default), (11, default)] }) start).links.get 17).replayBuf.findIdx? (fun y => y.1 == ({ flit 3 true 5 with lack := 10 } : Flit).lack) = some 1 ∧
    (flit 2 true 5).typ.toNat ≤ 2 ∧ (9, 1) ∈ ({ start with escrowAsks := [((9 : BitVec 20), (1 : BitVec 5))] } : State).escrowAsks ∧ (9, 1) ∉ start.escrowAsks ∧
    ([] : List (List Byte)) ≠ (start.bootMeasurements.take 3).map (·.2) := by decide +kernel
/-- A gang whose other members have answered. -/
def lastOne (g : Gang) : Gang := { g with acks := [1, 2], delayNs := 10 }
theorem witness_GangProtocol_last : (∀ y ∈ (member true).gangs, y.gid = prepare.gid → y.state = .aborted ∨ y.state = .retired) ∧
    (∀ y ∈ (ganged start (gang .retired false)).gangs, y.gid = prepare.gid → y.state = .aborted ∨ y.state = .retired) ∧
    ¬ (∀ y ∈ (ganged start (gang .ready false)).gangs, y.gid = prepare.gid → y.state = .aborted ∨ y.state = .retired) ∧ prepare.resume = false ∧
    (atNs 500 (lastOne (gang .ready true))).gang 0x500000000001 = some (lastOne (gang .ready true)) ∧ 0 ∉ (lastOne (gang .ready true)).acks ∧
    (lastOne (gang .ready true)).acks.length + 1 = (lastOne (gang .ready true)).members.length ∧ (lastOne (gang .ready true)).commits = [] ∧
    (atNs 500 (lastOne (gang .ready true))).ftime / 11 + (lastOne (gang .ready true)).delayNs < 2 ^ 64 ∧ 2 ≤ (gang .ready true).members.length ∧ 0 ∉ ({ lastOne (gang .committed true) with commits := [2, 1] } : Gang).commits ∧
    ({ lastOne (gang .committed true) with commits := [2, 1] } : Gang).commits.length + 1 = (gang .committed true).members.length ∧ (lastOne (gang .committed true)).launch = none ∧
    (lastOne (gang .committed true)).ts.toNat + (gang .committed true).wdogNs = 1000 ∧ (atNs 999 (lastOne (gang .committed true))).ftime / 11 < 1000 ∧ (ganged start (gang .stopped true)).stoppedSlots 0x500000000001 = [] ∧
    ((ganged start (gang .stopped true)).modSlot c0 fun t => { t with status := 4, gangTag := some 0x500000000001 }).stoppedSlots 0x500000000001 ≠ [] := by decide +kernel
/-- Lane 0 of f0 is a NaN. -/
def nanLane : State := taking bank (operands 0x7FC00000 0)
theorem witness_LaneRoute_nan : (0 < 8 ∧ (fp32.exact (lane 32 (nanLane.source here (ctx 0 0 0) (oneF fp32) (ctx 0 0 0).srcA).bits 0)).isNan = true) ∧ ((lanes 1 2).region c0 1).stopRec = false ∧
    (0 : Nat) < 3 ∧ 2 < 3 := by decide +kernel
theorem witness_ResultLand_room : ((ends fun g => { g with stopDue := some stopping }).region c0 1).stopRec = false ∧ RecRoom (ends fun g => { g with stopDue := some stopping }) c0.core := by unfold RecRoom; decide +kernel
theorem witness_StreamRead_ahead : (running scenePat 0).ahead = false ∧ ({ running scenePat 0 with ahead := true } : Stream).ahead = true ∧ gathering.ahead = false ∧ ((reading true 16 id).region c0 1).stopRec = false ∧
    (((reading false 16 id).slot c0).port 0).run = some { running scenePat 0 with timed := false } := by decide +kernel
theorem witness_StreamTokens_far : ({ token true default 0 with pos := .far, port := 20 } : RingTok).pos = .far ∧
    ((arrivals { token true default 0 with pos := .far, port := 17 } 0).core 0).token 0 5 = some { token true default 0 with pos := .far, port := 17 } ∧ ¬ ((17 : BitVec 5).toNat ≤ 16 ∨ (17 : BitVec 5) = 20) ∧
    ((arrivals (token false ⟨.cb 1, 64⟩ 0) 0).region c0 1).on = .running ∧ ((arrivals (token false ⟨.cb 1, 64⟩ 0) 0).region c0 1).stopRec = false ∧ (token false ⟨.cb 1, 64⟩ 0).pos = .due := by decide +kernel
theorem witness_StreamStarts_stops : ((dispatch (binding farPat none none) 0x80000000).region c0 1).stopRec = false ∧ ((busyEngines (taking bank id)).region c0 1).stopRec = false ∧
    ((walking 0x20000000).region c0 1).on = .running ∧ ((walking 0x20000000).region c0 1).stopDue = none ∧ ((walking 0x20000000).region c0 1).stopRec = false ∧ (cmd (.sstop 23)).failed = false ∧
    (withCmds start [cmd (.sstop 23)]).recordWaits c0 (cmd (.sstop 23)) = false := by decide +kernel
theorem witness_WorkQueues_plain : (queued 15 0x8004).parkedBlock ⟨.cb 0, 0x1000⟩ = false ∧ (queued 15 0x8004).slateWaits (((queued 15 0x8004).wq 3).cfg.extractLsb' 8 5) (List.replicate 64 0) = false ∧
    (put (queued 15 0x8004) 0x103F [1]).slateWaits (((queued 15 0x8004).wq 3).cfg.extractLsb' 8 5) (List.replicate 63 0 ++ [1]) = false := by decide +kernel
theorem witness_TaskDispatch_swaps : ((slots 1 3 fun k => { k with swap := some 1 }).core 0).swap = some 1 ∧ ((slots 1 3 fun k => { k with swap := some 1 }).slot ⟨0, 1⟩).status ≠ 2 ∧
    ((slots 2 2 fun k => { k with swap := some 1 }).slot ⟨0, 1⟩).status = 2 ∧ prioritised.swapWanted 0 = true ∧ (∀ i, ((prioritised.core 0).slots.get i).status ≠ 0) := by decide +kernel
theorem witness_FaultRecords_waits : ((recorded 1023).core 0).recWait = [] := by decide +kernel
/-- A route to endpoint 6 and the peer's grant. -/
def routed (l : List (CpId × BitVec 5 × BitVec 20 × Nat × Nat)) (s : State) : State := { s with routes := [(6, 4)], grants := l }
theorem witness_Channels_routes : (onFabric .committed true).routeTo (descEp (2 ^ 62 + 6 * 2 ^ 40)) = none ∧ (routed [] (onFabric .committed true)).routeTo (descEp (2 ^ 62 + 6 * 2 ^ 40)) = some 4 ∧
    (routed [] (onFabric .committed true)).grantFor c0 19 (descEp (2 ^ 62 + 6 * 2 ^ 40)) = none ∧ (routed [(c0, 19, 6, 0, 16)] (onFabric .committed true)).grantFor c0 19 (descEp (2 ^ 62 + 6 * 2 ^ 40)) = some (0, 16) ∧
    (routed [(c0, 19, 6, 3, 16)] (onFabric .committed true)).grantFor c0 19 (descEp (2 ^ 62 + 6 * 2 ^ 40)) = some (3, 16) ∧ (((onFabric .committed true).slot c0).port 19).chan.sendSeq = 0 ∧
    (((onFabric .committed true).slot c0).port 19).chan.kept = [] ∧ ((onFabric .confirmed false).slot c0).status = 1 ∧ (((granted (fabricPat false) 8 8).slot c0).port 21).pattern = some (fabricPat false) := by decide +kernel
theorem witness_AttentionCalls_chiplet : (chipped (begun 0 2 0 [0, 0]) [(2, Tok.zero)]).atChiplet c0 18 = true ∧
    ((chipped (begun 0 2 0 [0, 0]) [(2, Tok.zero)]).modCore 0 fun k => { k with ring := [{ token false default 0 with port := 18 }] }).atChiplet c0 18 = false ∧
    (chipped (begun 0 4 1 []) []).surfaceOf ((chipped (begun 0 4 1 []) []).slot c0).part ((begun 0 4 1 []).recAddr + 0x58) = none ∧
    (((chipped (begun 0 2 0 []) []).modSlot c0 fun t => { t with wid := 5 }).callsOf c0 18) = [begun 0 2 0 []] ∧ ((chipped (begun 0 2 0 []) []).modSlot c0 fun t => { t with wid := 5 }).callHere (begun 0 2 0 []) = false ∧
    (begun 0 2 0 []).taken < (begun 0 2 0 []).need ∧ (begun 0 2 0 []).rowsIn ≤ (begun 0 2 0 []).rowsDone := by decide +kernel
theorem witness_ManagementWrites_keys : mreg 0x070840 = .key 0 0 2 0 ∧ mreg 0x070838 = .key 0 0 1 3 ∧ (State.reset.boundFn (mreg 0x070840) 5) = none ∧ (tdi .locked owned).boundFn (mreg 0x070840) 5 = some 7 ∧
    ((((tdi .locked owned).die 0).ctl.get 0).keys.get 2).extractLsb' (64 * (0 : Fin 4).val) 64 ≠ (5 : Word) ∧
    ((((tdi .locked owned).die 0).ctl.get 0).keys.get 2).extractLsb' (64 * (0 : Fin 4).val) 64 = (0 : Word) := by decide +kernel
/-- A tier list of one host entry of 2 GiB for the one partition, on a package where no task is bound. -/
def sealing (len : Byte) : State :=
  boxed (((State.reset.modPart 1 fun p => { p with live := true, fn := 7 }).modDie 0 fun d => { d with granules := vmod d.granules 2 fun _ => some 1 }).setBytes ⟨.host, 0x80⟩
    ([1] ++ List.replicate 63 0 ++ [0, 0, 0, 0, 0, 0, 0, 0, 0, 0, 1, 0, 0, 0, 0, 0, 0, 0, 0, len])) 6 0x80 0 0 0
def escrowed (e : Word) (s : State) : State := s.modDie 0 fun d => { d with ptab := vmod d.ptab 1 fun p => { p with escrow := e } }
theorem witness_MailboxCommands_locks : ({ creating 1 with tdi := vmod (creating 1).tdi 252 fun _ => .locked } : State).locked (((creating 1).mailbox.arg.get 2).setWidth 8) = true ∧
    (((creating 1).mailbox.arg.get 2).setWidth 8 : BitVec 8).toNat < 253 ∧ (boxed (tdi .locked owned) 2 0 1 0 0).locked ((boxed (tdi .locked owned) 2 0 1 0 0).part 1).fn = true ∧ 31 < (32 : Word).toNat := by decide +kernel
theorem witness_MailboxCommands_seal : ((sealing 0x80).tierList 0x80).map (fun l => (l.map fun x => x.2.2.2.toNat).sum) = some 0x80000000 ∧ ((sealing 0).tierList 0x80).map (fun l => (l.map fun x => x.2.2.2.toNat).sum) = some 0 ∧
    ((sealing 0x80).tierList 0x80).map (fun l => l.all fun x => decide (x.2.2.1.toNat + x.2.2.2.toNat ≤ 2 ^ 64)) = some true ∧ ((sealing 0x80).liveParts.map fun y => ((sealing 0x80).sealPart 0x80 y).size).sum = 0x40000028 ∧
    (∀ k j, ((sealing 0x80).slot ⟨k, j⟩).status ≠ 1) ∧ (sealing 0x80).mailbox.busy = true ∧ (sealing 0x80).mailbox.cmd = BitVec.ofNat 64 6 := by decide +kernel
theorem witness_MailboxCommands_restore : (boxed owned 7 0x80 31 0 0).safe = [] ∧ ((boxed owned 7 0x80 31 0 0).part 31).live = false ∧ ((listed 7 1).part 1).live = true ∧ (escrowed 0xFFFFFFFFFF (listed 7 1)).escrowEps 1 = [] ∧
    (escrowed 0xFFFFF00009 (listed 7 1)).escrowEps 1 ≠ [] ∧ sealed.blocks = [] ∧ sealed.seqs = [] ∧ ({ listed 7 1 with safe := [sealed] } : State).stands sealed = true ∧
    ({ listed 7 1 with safe := [{ sealed with written := [(0x90, [1])] }] } : State).stands { sealed with written := [(0x90, [1])] } = false ∧
    (listed 7 1).restorable { sealed with written := [(0x90, [1])] } = true := by decide +kernel
theorem witness_PowerAndReset : (State.reset.die 0).winCycles = 0 ∧ ((State.reset.modDie 0 fun d => { d with winCycles := 65536 }).die 0).winCycles ≠ 0 ∧
    ¬ State.reset.powerLimit.toNat * 1000 < (after (.powerControlWindow 0 3600000 0 0) State.reset).power ∧ State.reset.powerLimit.toNat * 1000 < (after (.powerControlWindow 0 3600001 0 0) State.reset).power := by decide +kernel
/-- The CP waits for an answer, or its instruction has asked. -/
theorem witness_StepRunsDecoded_answers : ((dueNear.modCp c0 fun p => { p with answerDue := true }).cp c0).answerDue = true ∧ ((dueNear.modCp c0 fun p => { p with answerDue := true }).agenda) = .cp c0 :: [] ∧
    ((dueNear.modCp c0 fun p => { p with asked := true, iword := 0x00531C01 }).cp c0).asked = true ∧ decodeWord ((dueNear.modCp c0 fun p => { p with asked := true, iword := 0x00531C01 }).cp c0).iword = .ok (.add 5 6 7) ∧
    (dueNear.cp c0).asked = false := by decide +kernel

end Sys2Proof.Tests
end

section
/-! Every step keeps the canonical form of memory (O60). A lemma per operation of the model, in the order of its files: `f_mem` says that the
operation leaves memory as it is, `f_wf` that it keeps the canonical form; the lemmas about `exec` and `step` put them together. -/
namespace Sys2Proof.Machine

/-! ### The canonical form through the shapes that the model's operations have -/

/-- Every state that a step answers has the canonical form of memory. -/
def AnswersCanonical (o : Out State) : Prop := ∀ t, o = .next t → Memory.wf t.mem = true

@[simp] theorem answersCanonical_next (t : State) : AnswersCanonical (.next t) ↔ Memory.wf t.mem = true :=
  ⟨fun h => h t rfl, fun h _ e => by cases e; exact h⟩

@[simp] theorem answersCanonical_fault (r : Fault) : AnswersCanonical (.fault r) := fun _ e => nomatch e
@[simp] theorem answersCanonical_refused (r : Refusal) : AnswersCanonical (.refused r) := fun _ e => nomatch e

/-- The memory of a choice between states, for simp to push the choice inward. -/
theorem mem_ite (c : Prop) [Decidable c] (a b : State) : (if c then a else b).mem = if c then a.mem else b.mem :=
  apply_ite _ _ _ _

/-- A fold whose steps keep the memory keeps it. -/
@[simp] theorem foldl_mem {α : Type} (g : State → α → State) (l : List α) (s : State) (h : ∀ t x, (g t x).mem = t.mem) :
    (l.foldl g s).mem = s.mem :=
  List.foldlRecOn l g (motive := fun t => t.mem = s.mem) rfl fun t ht x _ => (h t x).trans ht

/-- A fold whose steps keep the canonical form keeps it. -/
theorem foldl_wf {α : Type} (g : State → α → State) (l : List α) (s : State)
    (h : ∀ t x, Memory.wf t.mem = true → Memory.wf (g t x).mem = true) (hs : Memory.wf s.mem = true) :
    Memory.wf (l.foldl g s).mem = true :=
  List.foldlRecOn l g (motive := fun t => Memory.wf t.mem = true) hs fun t ht x _ => h t x ht

/-! ### Machine/Ops -/

@[simp] theorem State.readArr_mem (s : State) (who : CpId) (part : BitVec 5) (arr unit word n : Nat) :
    (s.readArr who part arr unit word n).1.mem = s.mem := by
  unfold State.readArr
  split
  · rfl
  · exact foldl_mem _ _ _ fun _ _ => rfl

@[simp] theorem State.loadPieces_mem (s : State) (who : CpId) (n : Nat) (l : List PAddr) : (s.loadPieces who n l).1.mem = s.mem := by
  induction l generalizing s with
  | nil => rfl
  | cons a t ih => grind [State.loadPieces, State.load_mem]

theorem State.updateWord_wf (s : State) (who : CpId) (part : BitVec 5) (pa : PAddr) (f : Word → Option Word) (h : Memory.wf s.mem = true) :
    Memory.wf (s.updateWord who part pa f).mem = true := by grind [State.updateWord, State.load_mem, State.store_wf]

theorem State.addCounter_wf (s : State) (who : CpId) (part : BitVec 5) (pa : PAddr) (k : Word) (h : Memory.wf s.mem = true) :
    Memory.wf (s.addCounter who part pa k).mem = true := by simp [State.addCounter, h, State.updateWord_wf]

@[simp] theorem State.queueRec_mem (s : State) (k : Fin 256) (key : RecKey) (f : RecFields) : (s.queueRec k key f).mem = s.mem := rfl
@[simp] theorem State.holdRec_mem (s : State) (k : Fin 256) (key : RecKey) : (s.holdRec k key).mem = s.mem := rfl
@[simp] theorem State.pushRec_mem (s : State) (k : Fin 256) (key : RecKey) (f : RecFields) : (s.pushRec k key f).mem = s.mem := rfl
@[simp] theorem State.waitUntimed_mem (s : State) (c : CpId) : (s.waitUntimed c).mem = s.mem := rfl
@[simp] theorem State.waitRoom_mem (s : State) (c : CpId) : (s.waitRoom c).mem = s.mem := rfl
@[simp] theorem State.doubleFault_mem (s : State) (c : CpId) (cause : BitVec 8) : (s.doubleFault c cause).mem = s.mem := by
  unfold State.doubleFault
  split <;> rfl

@[simp] theorem State.syncTrapWith_mem (s : State) (c : CpId) (cause : BitVec 8) (val synd : Word) (detail resume : Word) :
    (s.syncTrapWith c cause val synd detail resume).mem = s.mem := by simp [State.syncTrapWith, mem_ite]

@[simp] theorem State.syncTrap_mem (s : State) (c : CpId) (cause : BitVec 8) (val detail resume : Word) :
    (s.syncTrap c cause val detail resume).mem = s.mem := by simp [State.syncTrap]

@[simp] theorem State.trapAt_mem (s : State) (c : CpId) (cause : BitVec 8) (val : Word) : (s.trapAt c cause val).mem = s.mem := by
  simp [State.trapAt]

@[simp] theorem State.trapAccess_mem (s : State) (c : CpId) (cause : BitVec 8) (a : Word) (write : Bool) :
    (s.trapAccess c cause a write).mem = s.mem := by simp [State.trapAccess]

@[simp] theorem State.trapFree_mem (s : State) (c : CpId) (cause : BitVec 8) : (s.trapFree c cause).mem = s.mem := by
  simp [State.trapFree]

@[simp] theorem State.deferTrap_mem (s : State) (c : CpId) (order : Nat) (cause : BitVec 8) (val fpc : Word) :
    (s.deferTrap c order cause val fpc).mem = s.mem := by
  unfold State.deferTrap
  split <;> rfl

@[simp] theorem State.commandFault_mem (s : State) (c : CpId) (order : Nat) (fpc : Word) (cause : BitVec 8) (val vaddr : Word) (synd detail : Word) :
    (s.commandFault c order fpc cause val vaddr synd detail).mem = s.mem := by simp [State.commandFault]

@[simp] theorem State.modLink_mem (s : State) (p : Fin 18) (f : LinkPort → LinkPort) : (s.modLink p f).mem = s.mem := rfl
@[simp] theorem State.emitFlit_mem (s : State) (p : Fin 18) (n : BitVec 24) (x : OutFlit) : (s.emitFlit p n x).mem = s.mem := rfl
@[simp] theorem State.transmit_mem (s : State) (p : Fin 18) (x : OutFlit) : (s.transmit p x).mem = s.mem := by
  simp [State.transmit, mem_ite]

@[simp] theorem State.sendVia_mem (s : State) (p : Option (Fin 18)) (ep : BitVec 20) (m : FabMsg) : (s.sendVia p ep m).mem = s.mem := by
  unfold State.sendVia
  split
  · rfl
  · exact State.transmit_mem ..

@[simp] theorem State.toFabric_mem (s : State) (ep : BitVec 20) (m : FabMsg) : (s.toFabric ep m).mem = s.mem := by simp [State.toFabric]
@[simp] theorem State.dueBefore_mem (s : State) (f : Task → Bool) (l : List Instr) : (s.dueBefore f l).mem = s.mem := rfl
@[simp] theorem State.dueMid_mem (s : State) (l : List Instr) : (s.dueMid l).mem = s.mem := rfl

/-! ### Machine/Element -/

@[simp] theorem State.consumeTaps_mem (s : State) (x : ElemSite) (ts : List (Fin 4)) : (s.consumeTaps x ts).mem = s.mem :=
  foldl_mem _ _ _ fun _ _ => rfl

@[simp] theorem State.noteGuard_mem (s : State) (x : ElemSite) (n : Nat) : (s.noteGuard x n).mem = s.mem := by
  simp [State.noteGuard, mem_ite]

@[simp] theorem State.logOf_mem (s : State) (c : CpId) (l : Reads) : (s.logOf c l).mem = s.mem := by
  simp only [State.logOf]
  repeat' split
  all_goals simp

@[simp] theorem State.logReads_mem (s : State) (x : ElemSite) (op : Nat) (w : CtxFields) : (s.logReads x op w).mem = s.mem := by
  simp [State.logReads]

@[simp] theorem State.launchResult_mem (s : State) (x : ElemSite) (lat : Nat) (a : Act) : (s.launchResult x lat a).mem = s.mem := rfl
@[simp] theorem State.launchCue_mem (s : State) (x : ElemSite) (a : Act) : (s.launchCue x a).mem = s.mem := rfl
@[simp] theorem State.setLfsr_mem (s : State) (x : ElemSite) (l : W32) : (s.setLfsr x l).mem = s.mem := rfl
theorem State.issueCtx_wf {s : State} {x : ElemSite} {op : Nat} {w : CtxFields} {k : State → State} (h : Memory.wf s.mem = true)
    (hk : ∀ t, Memory.wf t.mem = true → Memory.wf (k t).mem = true) : AnswersCanonical (s.issueCtx x op w k) := by
  have h1 : Memory.wf ((s.noteGuard x (s.guardReads x w)).logReads x op w).mem = true := by simpa using h
  simp only [State.issueCtx, answersCanonical_next]
  split
  · split
    · simpa using hk _ h1
    · simpa using h
  · exact h

theorem State.laneOp_wf {s : State} {x : ElemSite} {op : Nat} {w : CtxFields} {lat : Nat} {ones : W256 × W256 × W256}
    {f : Tok → Tok → Tok → W32 → LaneRes} (h : Memory.wf s.mem = true) : AnswersCanonical (s.laneOp x op w lat ones f) :=
  State.issueCtx_wf h fun t ht => by simpa [mem_ite] using ht

theorem State.ctlOp_wf {s : State} {x : ElemSite} {op : Nat} {w : CtxFields} {lat : Nat} {f : Word → Word → Word → Word × BitVec 8}
    (h : Memory.wf s.mem = true) : AnswersCanonical (s.ctlOp x op w lat f) :=
  State.issueCtx_wf h fun t ht => by simpa using ht

/-! ### Machine/Lane -/

theorem State.intOp_wf {s : State} {x : ElemSite} {op : Nat} {w : CtxFields} {f : Nat → Nat → Nat → Nat → Int}
    (h : Memory.wf s.mem = true) : AnswersCanonical (s.intOp x op w f) := by
  unfold State.intOp
  dsimp only
  split
  · exact State.ctlOp_wf h
  · exact State.laneOp_wf h

theorem State.floatOp_wf {s : State} {x : ElemSite} {op : Nat} {w : CtxFields} {third : Bool} {f : XVal → XVal → XVal → XVal}
    (h : Memory.wf s.mem = true) : AnswersCanonical (s.floatOp x op w third f) := by
  unfold State.floatOp
  exact State.laneOp_wf h

theorem State.codeOp_wf {s : State} {x : ElemSite} {op : Nat} {w : CtxFields} {f : Fmt → Nat → Nat → Nat} (h : Memory.wf s.mem = true) :
    AnswersCanonical (s.codeOp x op w f) := by
  unfold State.codeOp
  exact State.laneOp_wf h

theorem State.unaryOp_wf {s : State} {x : ElemSite} {op : Nat} {w : CtxFields} {lat : Nat} {g : Fmt} {f : XVal → Nat × BitVec 8}
    (h : Memory.wf s.mem = true) : AnswersCanonical (s.unaryOp x op w lat g f) := by
  unfold State.unaryOp
  exact State.laneOp_wf h

theorem execExp2_wf (x : ElemSite) (w : CtxFields) (s : State) (h : Memory.wf s.mem = true) : AnswersCanonical (execExp2 x w s) := by
  simp [execExp2, h, State.unaryOp_wf]

theorem execAct_wf (x : ElemSite) (w : CtxFields) (s : State) (h : Memory.wf s.mem = true) : AnswersCanonical (execAct x w s) := by
  simp [execAct, h, State.unaryOp_wf]

theorem execDact_wf (x : ElemSite) (w : CtxFields) (s : State) (h : Memory.wf s.mem = true) : AnswersCanonical (execDact x w s) := by
  simp [execDact, h, State.laneOp_wf]

theorem execCvt_wf (x : ElemSite) (w : CtxFields) (s : State) (h : Memory.wf s.mem = true) : AnswersCanonical (execCvt x w s) := by
  simp [execCvt, h, State.laneOp_wf]

theorem execSdenc_wf (x : ElemSite) (w : CtxFields) (s : State) (h : Memory.wf s.mem = true) : AnswersCanonical (execSdenc x w s) := by
  simp [execSdenc, h, State.laneOp_wf]

theorem execSddec_wf (x : ElemSite) (w : CtxFields) (s : State) (h : Memory.wf s.mem = true) : AnswersCanonical (execSddec x w s) := by
  simp [execSddec, h, State.laneOp_wf]

theorem execQnt_wf (x : ElemSite) (w : CtxFields) (s : State) (h : Memory.wf s.mem = true) : AnswersCanonical (execQnt x w s) := by
  simp only [execQnt]
  split <;> simp [h, State.laneOp_wf]

theorem execElemNop_wf (x : ElemSite) (w : CtxFields) (s : State) (h : Memory.wf s.mem = true) : AnswersCanonical (execElemNop x w s) := by
  simp [execElemNop, h, State.issueCtx_wf]

theorem execMov_wf (x : ElemSite) (w : CtxFields) (s : State) (h : Memory.wf s.mem = true) : AnswersCanonical (execMov x w s) := by
  simp only [execMov]
  split <;> simp [h, State.ctlOp_wf, State.laneOp_wf]

theorem execRep_wf (x : ElemSite) (w : CtxFields) (s : State) (h : Memory.wf s.mem = true) : AnswersCanonical (execRep x w s) := by
  simp [execRep, h, State.laneOp_wf]

theorem execPerm_wf (x : ElemSite) (w : CtxFields) (s : State) (h : Memory.wf s.mem = true) : AnswersCanonical (execPerm x w s) := by
  simp [execPerm, h, State.laneOp_wf]

theorem execPack_wf (x : ElemSite) (w : CtxFields) (s : State) (h : Memory.wf s.mem = true) : AnswersCanonical (execPack x w s) := by
  simp [execPack, h, State.laneOp_wf]

theorem execUnpk_wf (x : ElemSite) (w : CtxFields) (s : State) (h : Memory.wf s.mem = true) : AnswersCanonical (execUnpk x w s) := by
  simp [execUnpk, h, State.laneOp_wf]

theorem execTap_wf (x : ElemSite) (w : CtxFields) (s : State) (h : Memory.wf s.mem = true) : AnswersCanonical (execTap x w s) := by
  simp [execTap, h, State.laneOp_wf]

theorem execPut_wf (x : ElemSite) (w : CtxFields) (s : State) (h : Memory.wf s.mem = true) : AnswersCanonical (execPut x w s) := by
  simp [execPut, h, State.laneOp_wf]

/-! ### Machine/Contract -/

@[simp] theorem State.accumulate_mem (t : State) (x : ElemSite) (w : CtxFields) (bubble : Bool) (cs : List Chunk) (fl : BitVec 8) :
    (t.accumulate x w bubble cs fl).mem = t.mem := by
  unfold State.accumulate
  split <;> rfl

theorem execTrix_wf (x : ElemSite) (w : CtxFields) (s : State) (h : Memory.wf s.mem = true) : AnswersCanonical (execTrix x w s) := by
  simp [execTrix, h, State.issueCtx_wf]

theorem execTrixb_wf (x : ElemSite) (w : CtxFields) (s : State) (h : Memory.wf s.mem = true) : AnswersCanonical (execTrixb x w s) := by
  unfold execTrixb
  refine State.issueCtx_wf h fun t ht => ?_
  extract_lets a z v
  split <;> simpa using ht

theorem execTrixi_wf (x : ElemSite) (w : CtxFields) (s : State) (h : Memory.wf s.mem = true) : AnswersCanonical (execTrixi x w s) := by
  unfold execTrixi
  refine State.issueCtx_wf h fun t ht => ?_
  extract_lets a z cs
  split <;> simpa using ht

theorem execTrixg_wf (x : ElemSite) (w : CtxFields) (s : State) (h : Memory.wf s.mem = true) : AnswersCanonical (execTrixg x w s) := by
  unfold execTrixg
  refine State.issueCtx_wf h fun t ht => ?_
  extract_lets a b z cs
  split <;> simpa using ht

theorem execSptrix_wf (x : ElemSite) (w : CtxFields) (s : State) (h : Memory.wf s.mem = true) : AnswersCanonical (execSptrix x w s) := by
  simp [execSptrix, h, State.issueCtx_wf]

theorem execScac_wf (x : ElemSite) (w : CtxFields) (s : State) (h : Memory.wf s.mem = true) : AnswersCanonical (execScac x w s) := by
  simp [execScac, h, State.issueCtx_wf]

theorem execAccz_wf (x : ElemSite) (w : CtxFields) (s : State) (h : Memory.wf s.mem = true) : AnswersCanonical (execAccz x w s) := by
  refine State.issueCtx_wf h fun t ht => ?_
  simpa using ht

theorem execDrn_wf (x : ElemSite) (w : CtxFields) (s : State) (h : Memory.wf s.mem = true) : AnswersCanonical (execDrn x w s) := by
  unfold execDrn
  exact State.issueCtx_wf h fun t ht => by simpa using ht

@[simp] theorem State.takeTileCredit_mem (s : State) (c : CpId) (strm : BitVec 2) : (s.takeTileCredit c strm).mem = s.mem := rfl
theorem execDrna_wf (x : ElemSite) (w : CtxFields) (s : State) (h : Memory.wf s.mem = true) : AnswersCanonical (execDrna x w s) := by
  unfold execDrna
  refine State.issueCtx_wf h fun t ht => ?_
  split <;> simpa using ht

theorem execCmpr_wf (x : ElemSite) (w : CtxFields) (s : State) (h : Memory.wf s.mem = true) : AnswersCanonical (execCmpr x w s) := by
  simp [execCmpr, h, State.laneOp_wf]

theorem execSpx_wf (x : ElemSite) (w : CtxFields) (s : State) (h : Memory.wf s.mem = true) : AnswersCanonical (execSpx x w s) := by
  simp [execSpx, h, State.laneOp_wf]

theorem execWld_wf (x : ElemSite) (w : CtxFields) (s : State) (h : Memory.wf s.mem = true) : AnswersCanonical (execWld x w s) := by
  unfold execWld
  refine State.issueCtx_wf h fun t ht => ?_
  extract_lets a
  split <;> simpa using ht

theorem execWldt_wf (x : ElemSite) (w : CtxFields) (s : State) (h : Memory.wf s.mem = true) : AnswersCanonical (execWldt x w s) := by
  unfold execWldt
  refine State.issueCtx_wf h fun t ht => ?_
  extract_lets a
  split <;> simpa using ht

/-! ### Machine/Operands -/

@[simp] theorem State.writeEntry_mem (s : State) (c : CpId) (handler : Bool) (place : Nat) : (s.writeEntry c handler place).mem = s.mem := by
  simp [State.writeEntry]

@[simp] theorem State.queueEntry_mem (s : State) (e : LandEntry) : (s.queueEntry e).mem = s.mem := by simp [State.queueEntry]
@[simp] theorem State.putReg_mem (s : State) (r : Reg) (v : Word) : (s.putReg r v).mem = s.mem := Machine.putReg_mem s r v
@[simp] theorem State.putLate_mem (s : State) (r : Reg) (v : Word) (L : Nat) : (s.putLate r v L).mem = s.mem := by simp [State.putLate]
@[simp] theorem State.putInterlocked_mem (s : State) (r : Reg) (v : Word) (L : Nat) : (s.putInterlocked r v L).mem = s.mem := by
  simp [State.putInterlocked]

@[simp] theorem State.putPending_mem (s : State) (r : Reg) (far : Option (PAddr × FarOp)) (ask : Option Ask) (vaddr : Word) :
    (s.putPending r far ask vaddr).mem = s.mem := by simp [State.putPending]

@[simp] theorem State.issued_mem (s : State) : s.issued.mem = s.mem := Machine.issued_mem s
@[simp] theorem State.advance_mem (s : State) : s.advance.mem = s.mem := Machine.advance_mem s
@[simp] theorem State.jumpTo_mem (s : State) (t : Word) : (s.jumpTo t).mem = s.mem := by simp [State.jumpTo]
theorem State.asks_wf {s : State} {k : State → State} (h : Memory.wf s.mem = true) (hk : Memory.wf (k s).mem = true) :
    Memory.wf (s.asks k).mem = true := by
  unfold State.asks
  split
  · exact hk
  · exact h

@[simp] theorem State.trapAnswer_mem (s : State) (cause : BitVec 8) (val : Word) : (s.trapAnswer cause val).mem = s.mem := by
  unfold State.trapAnswer State.asks
  split <;> simp

@[simp] theorem State.trapAnswerFree_mem (s : State) (cause : BitVec 8) : (s.trapAnswerFree cause).mem = s.mem := by
  unfold State.trapAnswerFree State.asks
  split <;> simp

@[simp] theorem State.answered_mem (s : State) (x : Option (Reg × Word)) : (s.answered x).mem = s.mem := by simp [State.answered]
@[simp] theorem State.takeAnswer_mem (s : State) : (s.takeAnswer).mem = s.mem := by
  unfold State.takeAnswer
  split <;> simp

@[simp] theorem State.stall_mem (s : State) : (s.stall).mem = s.mem := rfl
@[simp] theorem State.scrub_mem (s : State) (reads : List Reg) : (s.scrub reads).mem = s.mem := by
  unfold State.scrub
  split
  · rfl
  · refine foldl_mem _ _ _ fun t r => ?_
    grind [State.modCp_mem, State.took_mem, State.readArr_mem]

/-- An instruction that waits, traps WINDOW or has its effect keeps the canonical form when its effect does. -/
theorem State.issue_wf {s : State} {reads writes : List Reg} {late : Bool} {k : State → State} (h : Memory.wf s.mem = true)
    (hk : ∀ t, Memory.wf t.mem = true → Memory.wf (k t).mem = true) : AnswersCanonical (s.issue reads writes late k) := by
  unfold State.issue
  split
  · simpa using h
  · simpa using h
  · split
    · simpa using h
    · exact (answersCanonical_next _).mpr (hk _ (by simpa using h))

theorem State.privileged_wf {s : State} {k : State → Out State} (h : Memory.wf s.mem = true) (hk : AnswersCanonical (k s)) :
    AnswersCanonical (s.privileged k) := by
  unfold State.privileged
  split
  · exact hk
  · simpa using h

@[simp] theorem State.landEntry_mem (s : State) (c : CpId) (handler : Bool) (e : LandEntry) : (s.landEntry c handler e).mem = s.mem := by
  simp [State.landEntry, mem_ite]

@[simp] theorem State.finishCp_mem (s : State) (c : CpId) : (s.finishCp c).mem = s.mem := by
  simp only [State.finishCp]
  repeat' split
  all_goals simp

/-! ### Machine/MemOps -/

@[simp] theorem State.cacheTranslation_mem (s : State) (a : Word) : (s.cacheTranslation a).mem = s.mem := by
  simp only [State.cacheTranslation]
  repeat' split
  all_goals simp

@[simp] theorem State.farAccess_mem (s : State) : (s.farAccess).mem = s.mem := rfl
@[simp] theorem State.farFault_mem (s : State) (c : CpId) (order : Nat) (cause : BitVec 8) (vaddr fpc : Word) (synd detail : Word) :
    (s.farFault c order cause vaddr fpc synd detail).mem = s.mem := by simp [State.farFault]

@[simp] theorem State.nearLoad_mem (s : State) (pa : PAddr) (a : Word) (d : Reg) (z : BitVec 3) (inter : Bool) :
    (s.nearLoad pa a d z inter).mem = s.mem := by
  grind [State.nearLoad, State.load_mem, State.advance_mem, State.putInterlocked_mem, State.putLate_mem, State.farFault_mem, State.newId_mem]

theorem execLd_wf (d a : Reg) (z : BitVec 3) (i : BitVec 12) (s : State) (h : Memory.wf s.mem = true) :
    AnswersCanonical (execLd d a z i s) := by
  refine State.issue_wf h fun t ht => ?_
  grind [State.trapAt_mem, State.nearLoad_mem]

theorem execSt_wf (d a : Reg) (z : BitVec 3) (i : BitVec 12) (s : State) (h : Memory.wf s.mem = true) :
    AnswersCanonical (execSt d a z i s) := by
  refine State.issue_wf h fun t ht => ?_
  grind [State.trapAt_mem, State.advance_mem, State.store_wf]

theorem execLdf_wf (d a : Reg) (z : BitVec 3) (i : BitVec 12) (s : State) (h : Memory.wf s.mem = true) :
    AnswersCanonical (execLdf d a z i s) := by
  refine State.issue_wf h fun t ht => ?_
  grind [State.trapAt_mem, State.advance_mem, State.putPending_mem, State.farAccess_mem, State.cacheTranslation_mem, State.nearLoad_mem]

theorem execStf_wf (d a : Reg) (z : BitVec 3) (i : BitVec 12) (s : State) (h : Memory.wf s.mem = true) :
    AnswersCanonical (execStf d a z i s) := by
  refine State.issue_wf h fun t ht => ?_
  grind [State.trapAccess_mem, State.advance_mem, State.modCp_mem, State.newId_mem, State.farAccess_mem, State.cacheTranslation_mem, State.store_wf]

theorem State.fence_wf {s : State} {ok : State → Bool} (h : Memory.wf s.mem = true) : AnswersCanonical (s.fence ok) :=
  State.issue_wf h fun t ht => by split <;> simpa using ht

theorem execPref_wf (a : Reg) (i : BitVec 12) (s : State) (h : Memory.wf s.mem = true) : AnswersCanonical (execPref a i s) := by
  simp [execPref, h, State.issue_wf]

theorem State.amoAt_wf (s : State) (c : CpId) (pa : PAddr) (fn : Nat) (b x : Word) (h : Memory.wf s.mem = true) :
    Memory.wf (s.amoAt c pa fn b x).1.mem = true := by grind [State.amoAt, State.load_mem, State.store_wf]

theorem State.amo_wf {s : State} {fn : Nat} {d a b : Reg} {c : Option Reg} (h : Memory.wf s.mem = true) :
    AnswersCanonical (s.amo fn d a b c) := by
  refine State.issue_wf h fun t ht => ?_
  dsimp only
  split
  · simpa using ht
  · rename_i pa _
    split
    · simpa using ht
    · split <;> rename_i e <;> have hm := congrArg (fun r => Memory.wf r.1.mem) e <;>
        dsimp only at hm <;> rw [State.amoAt_wf _ _ _ _ _ _ ht] at hm <;> simpa using hm.symm

@[simp] theorem State.requestOf_mem (s : State) (fn : BitVec 8) (addr : Nat) (write : Bool) (data : List Byte) :
    (s.requestOf fn addr write data).mem = s.mem := rfl

@[simp] theorem State.hostRequest_mem (s : State) (part : BitVec 5) (addr : Nat) (write : Bool) (data : List Byte) :
    (s.hostRequest part addr write data).mem = s.mem := rfl

@[simp] theorem State.askPeer_mem (s : State) (core : Fin 256) (part : BitVec 5) (ep : BitVec 20) (off size : Nat) (write : Bool) (data : List Byte) :
    (s.askPeer core part ep off size write data).mem = s.mem := by simp [State.askPeer]

@[simp] theorem State.askRead_mem (s : State) (c : CpId) (pa : PAddr) (n : Nat) : (s.askRead c pa n).mem = s.mem := by
  unfold State.askRead
  cases pa.space with
  | peer ep => exact State.askPeer_mem ..
  | host => exact State.hostRequest_mem ..
  | _ => rfl

@[simp] theorem State.askWrite_mem (s : State) (c : CpId) (pa : PAddr) (b : List Byte) : (s.askWrite c pa b).mem = s.mem := by
  unfold State.askWrite
  cases pa.space with
  | peer ep => exact State.askPeer_mem ..
  | host => exact State.hostRequest_mem ..
  | _ => rfl

@[simp] theorem State.readFrom_mem (s : State) (c : CpId) (pa : PAddr) (n : Nat) : (s.readFrom c pa n).1.mem = s.mem := by
  grind [State.readFrom, State.askRead_mem, State.load_mem]

@[simp] theorem State.writeArrived_mem (s : State) (c : CpId) (id : Nat) : (s.writeArrived c id).mem = s.mem := by
  unfold State.writeArrived
  split <;> simp

@[simp] theorem State.arrive_mem (s : State) (c : CpId) (id : Nat) (v : Word) : (s.arrive c id v).mem = s.mem := by simp [State.arrive]
@[simp] theorem State.dropEntry_mem (s : State) (c : CpId) (id : Nat) : (s.dropEntry c id).mem = s.mem := rfl
@[simp] theorem State.askFar_mem (s : State) (c : CpId) (pa : PAddr) (op : FarOp) : (s.askFar c pa op).mem = s.mem := by
  simp only [State.askFar]
  split <;> simp [mem_ite]

theorem State.performFar_wf (s : State) (c : CpId) (pa : PAddr) (op : FarOp) (h : Memory.wf s.mem = true) :
    Memory.wf (s.performFar c pa op).1.mem = true := by
  have h0 : Memory.wf (if pa.outside then { s.askFar c pa op with fresh := s.fresh + 2 } else s : State).mem = true := by
    split <;> simpa using h
  unfold State.performFar
  dsimp only
  generalize (if pa.outside then { s.askFar c pa op with fresh := s.fresh + 2 } else s : State) = s0 at h0 ⊢
  split
  · exact h0
  · cases op with
    | load n signed => cases pa.space <;> grind [State.load_mem, State.took_mem]
    | amo f b x => grind [State.amoAt_wf]

@[simp] theorem State.dropPosted_mem (s : State) (c : CpId) (id : Nat) : (s.dropPosted c id).mem = s.mem := rfl
theorem State.performStore_wf (s : State) (c : CpId) (w : Posted) (h : Memory.wf s.mem = true) : Memory.wf (s.performStore c w).mem = true := by
  unfold State.performStore
  split <;> simp [h, State.store_wf]

theorem State.completeStore_wf (s : State) (c : CpId) (w : Posted) (h : Memory.wf s.mem = true) :
    Memory.wf (s.completeStore c w).mem = true := by
  simp only [State.completeStore]
  repeat' split
  all_goals simp [h, State.performStore_wf]

@[simp] theorem State.modPark_mem (s : State) (d : Fin 4) (k : Fin 2) (f : List (CpId × Nat) → List (CpId × Nat)) :
    (s.modPark d k f).mem = s.mem := rfl

theorem State.slotted_wf (t : State) (part : BitVec 5) (surf : Option Nat) (va : Word) (h : Memory.wf t.mem = true) :
    Memory.wf (t.slotted part surf va).mem = true := by
  simp only [State.slotted]
  repeat' split
  all_goals simp [h, State.setBytes_wf]

@[simp] theorem State.parkRec_mem (s : State) (c : CpId) (id : Nat) (part : BitVec 5) (va fpc : Word) (d : Fin 4) (k : Fin 2) :
    (s.parkRec c id part va fpc d k).mem = s.mem := rfl

@[simp] theorem State.park_mem (s : State) (c : CpId) (w : Posted) (d : Fin 4) (k : Fin 2) : (s.park c w d k).mem = s.mem := rfl
theorem State.storeOrPark_wf (s : State) (c : CpId) (pa : PAddr) (va fpc : Word) (b : List Byte) (h : Memory.wf s.mem = true) :
    Memory.wf (s.storeOrPark c pa va fpc b).mem = true := by
  simp only [State.storeOrPark]
  split <;> simp [h, State.store_wf, State.slotted_wf]

theorem State.changeWord_wf (s : State) (c : CpId) (pa : PAddr) (va fpc : Word) (f : Word → Option Word) (h : Memory.wf s.mem = true) :
    Memory.wf (s.changeWord c pa va fpc f).mem = true := by grind [State.changeWord, State.load_mem, State.storeOrPark_wf]

theorem State.firmwareStore_wf (s : State) (part : BitVec 5) (pa : PAddr) (va : Word) (b : List Byte) (h : Memory.wf s.mem = true) :
    Memory.wf (s.firmwareStore part pa va b).mem = true := by
  simp only [State.firmwareStore]
  split <;> simp [h, State.store_wf, State.slotted_wf]

theorem State.firmwareAdd_wf (s : State) (part : BitVec 5) (pa : PAddr) (va k : Word) (h : Memory.wf s.mem = true) :
    Memory.wf (s.firmwareAdd part pa va k).mem = true := by grind [State.firmwareAdd, State.load_mem, State.firmwareStore_wf]

theorem execPostedStorePerformed_wf (c : CpId) (id : Nat) (s : State) (h : Memory.wf s.mem = true) :
    AnswersCanonical (execPostedStorePerformed c id s) := by
  simp only [execPostedStorePerformed, answersCanonical_next]
  repeat' split
  all_goals simp [h, State.slotted_wf, State.completeStore_wf]

theorem State.landFar_wf (s : State) (c : CpId) (e : LandEntry) (pa : PAddr) (op : FarOp) (h : Memory.wf s.mem = true) :
    Memory.wf (s.landFar c e pa op).mem = true := by
  grind [State.landFar, State.performFar_wf, State.arrive_mem, State.farFault_mem, State.dropEntry_mem]

theorem State.landFarTurn_wf (s : State) (c : CpId) (e : LandEntry) (pa : PAddr) (op : FarOp) (h : Memory.wf s.mem = true) :
    Memory.wf (s.landFarTurn c e pa op).mem = true := by
  simp only [State.landFarTurn]
  repeat' split
  all_goals simp [h, State.landFar_wf, State.slotted_wf]

theorem State.performAdd_wf (s : State) (x : CtrAdd) (h : Memory.wf s.mem = true) : Memory.wf (s.performAdd x).mem = true := by
  simp [State.performAdd, h, State.addCounter_wf]

theorem State.release_wf (d : Fin 4) (k : Fin 2) (s : State) (x : CpId × Nat) (h : Memory.wf s.mem = true) :
    Memory.wf (State.release d k s x).mem = true := by
  simp only [State.release]
  repeat' split
  all_goals simp [h, State.slotted_wf, State.performStore_wf, State.landFar_wf, State.performAdd_wf]

theorem State.releaseLeft_wf (d : Fin 4) (k : Fin 2) (s : State) (x : BitVec 5 × Posted) (h : Memory.wf s.mem = true) :
    Memory.wf (State.releaseLeft d k s x).mem = true := by
  simp only [State.releaseLeft]
  repeat' split
  all_goals simp [h, State.store_wf, State.slotted_wf]

/-! ### Machine/System -/

theorem execTrap_wf (code : BitVec 15) (s : State) (h : Memory.wf s.mem = true) : AnswersCanonical (execTrap code s) := by
  simp [execTrap, h, State.issue_wf]

theorem execTret_wf (s : State) (h : Memory.wf s.mem = true) : AnswersCanonical (execTret s) :=
  State.privileged_wf h <| State.issue_wf h fun t ht => by split <;> simpa using ht

theorem execBkpt_wf (code : BitVec 15) (s : State) (h : Memory.wf s.mem = true) : AnswersCanonical (execBkpt code s) := by
  refine State.issue_wf h fun t ht => ?_
  grind [State.modCp_mem, State.issued_mem, State.syncTrap_mem]

theorem execDeferredTrap_wf (c : CpId) (s : State) (h : Memory.wf s.mem = true) : AnswersCanonical (execDeferredTrap c s) := by
  simp only [execDeferredTrap, answersCanonical_next]
  repeat' split
  all_goals simp [h]

@[simp] theorem State.leaveWait_mem (s : State) : (s.leaveWait).mem = s.mem := by simp [State.leaveWait]
@[simp] theorem State.timeout_mem (s : State) : (s.timeout).mem = s.mem := by simp [State.timeout]
theorem execWait_wf (a : Reg) (m : BitVec 5) (s : State) (h : Memory.wf s.mem = true) : AnswersCanonical (execWait a m s) := by
  refine State.issue_wf h fun t ht => ?_
  grind [State.leaveWait_mem, State.timeout_mem, State.modCp_mem]

theorem execWaitTimeout_wf (c : CpId) (s : State) (h : Memory.wf s.mem = true) : AnswersCanonical (execWaitTimeout c s) := by
  simp only [execWaitTimeout, answersCanonical_next]
  split <;> simp [h]

theorem execSyscVerify_wf (d a : Reg) (s : State) (h : Memory.wf s.mem = true) : AnswersCanonical (execSyscVerify d a s) := by
  simp [execSyscVerify, h, State.issue_wf]

theorem execSyscFused_wf (d a : Reg) (s : State) (h : Memory.wf s.mem = true) : AnswersCanonical (execSyscFused d a s) := by
  simp [execSyscFused, h, State.issue_wf]

theorem execSyscEnergy_wf (d a : Reg) (s : State) (h : Memory.wf s.mem = true) : AnswersCanonical (execSyscEnergy d a s) := by
  simp [execSyscEnergy, h, State.issue_wf]

theorem execIllegalWord_wf (w : W32) (s : State) (h : Memory.wf s.mem = true) : AnswersCanonical (execIllegalWord w s) := by
  unfold execIllegalWord
  split
  · exact State.issue_wf h fun t ht => by simpa using ht
  · simpa using h

@[simp] theorem State.readOne_mem (s : State) (c : CpId) (a : PAddr) : (s.readOne c a).1.mem = s.mem := by
  grind [State.readOne, State.load_mem, State.askRead_mem]

@[simp] theorem State.readAll_mem (s : State) (c : CpId) (l : List PAddr) : (s.readAll c l).1.mem = s.mem := by
  induction l generalizing s with
  | nil => rfl
  | cons a t ih => grind [State.readAll, State.readOne_mem]

@[simp] theorem State.readRange_mem (s : State) (c : CpId) (a : Word) (n : Nat) : (s.readRange c a n).1.mem = s.mem := by
  unfold State.readRange
  split <;> simp

@[simp] theorem State.verifyImage_mem (s : State) (c : CpId) (a : Word) : (s.verifyImage c a).1.mem = s.mem := by
  grind [State.verifyImage, State.readRange_mem]

@[simp] theorem State.answer_mem (s : State) (c : CpId) (q : Ask) : (s.answer c q).1.mem = s.mem := by
  unfold State.answer
  split <;> simp

theorem execLanding_wf (c : CpId) (id : Nat) (s : State) (h : Memory.wf s.mem = true) : AnswersCanonical (execLanding c id s) := by
  simp only [execLanding, answersCanonical_next]
  repeat' split
  all_goals simp [h, State.landFarTurn_wf]

@[simp] theorem State.writeCsr_mem (s : State) (c : CpId) (n : Nat) (v : Word) : (s.writeCsr c n v).mem = s.mem := by
  unfold State.writeCsr
  split <;> simp

theorem State.csrOp_wf {s : State} {n : Nat} {reads : List Reg} {d : Option Reg} {write : Bool} {new : State → Word → Word}
    (h : Memory.wf s.mem = true) : AnswersCanonical (s.csrOp n reads d write new) := by
  unfold State.csrOp
  split
  · simpa using h
  · refine State.issue_wf h fun t ht => ?_
    cases d <;> simpa [mem_ite] using ht

@[simp] theorem State.fetch_mem (s : State) (c : CpId) : (s.fetch c).1.mem = s.mem := by grind [State.fetch, State.load_mem]
@[simp] theorem State.readLine_mem (s : State) (c : CpId) (base : PAddr) : (s.readLine c base).1.mem = s.mem := by
  grind [State.readLine, State.readFrom_mem]

theorem execFetchMissFill_wf (c : CpId) (s : State) (h : Memory.wf s.mem = true) : AnswersCanonical (execFetchMissFill c s) := by
  simp only [execFetchMissFill, answersCanonical_next]
  grind [State.modCp_mem, State.syncTrapWith_mem, State.holdRec_mem, State.readLine_mem, State.cacheTranslation_mem]

/-! ### Machine/Sync -/

theorem State.withRecord_wf {s : State} {a : Word} {align len : Nat} {write : Bool} {k : List PAddr → State} (h : Memory.wf s.mem = true)
    (hk : ∀ ps, Memory.wf (k ps).mem = true) : Memory.wf (s.withRecord a align len write k).mem = true := by
  unfold State.withRecord
  split
  · simpa using h
  · exact hk _

theorem State.readRecord_wf {s : State} {a : Word} {ps : List PAddr} {k : State → List Byte → State} (h : Memory.wf s.mem = true)
    (hk : ∀ t b, Memory.wf t.mem = true → Memory.wf (k t b).mem = true) : Memory.wf (s.readRecord a ps k).mem = true := by
  have hp := s.loadPieces_mem s.cur 16 ps
  unfold State.readRecord
  split
  · exact h
  · split <;> rename_i e <;> rw [e] at hp <;> dsimp only at hp
    · exact hk _ _ (hp ▸ h)
    · simpa [hp] using h

@[simp] theorem State.enqueue_mem (s : State) (i : Instr) (a b : Word) : (s.enqueue i a b).mem = s.mem := by
  simp [State.enqueue, mem_ite]

theorem State.queuedBy_wf {s : State} {i : Instr} {reads : List Reg} {a b : State → Word} {align : Nat} {len : State → Nat} {write : Bool}
    (h : Memory.wf s.mem = true) : AnswersCanonical (s.queuedBy i reads a b align len write) :=
  State.issue_wf h fun t ht => State.withRecord_wf ht fun _ => by simpa using ht

theorem State.queued_wf {s : State} {i : Instr} {reads : List Reg} {a b : State → Word} {align len : Nat} {write : Bool}
    (h : Memory.wf s.mem = true) : AnswersCanonical (s.queued i reads a b align len write) :=
  State.queuedBy_wf h

theorem State.queuedPlain_wf {s : State} {i : Instr} {reads : List Reg} {a : State → Word} (h : Memory.wf s.mem = true) :
    AnswersCanonical (s.queuedPlain i reads a) :=
  State.issue_wf h fun t ht => by simpa using ht

theorem State.queuedAnswer_wf {s : State} {i : Instr} {x : Reg} (h : Memory.wf s.mem = true) : AnswersCanonical (s.queuedAnswer i x) :=
  State.issue_wf h fun t ht => by
    dsimp only
    split <;> simpa using ht

@[simp] theorem State.postAdd_mem (s : State) (c : CpId) (agent : Agent) (pa : PAddr) (a k : Word) :
    (s.postAdd c agent pa a k).mem = s.mem := rfl

theorem State.signalBy_wf (s : State) (c : CpId) (agent : Agent) (pa : PAddr) (a k : Word) (h : Memory.wf s.mem = true) :
    Memory.wf (s.signalBy c agent pa a k).mem = true := by
  unfold State.signalBy
  split <;> simp [h, State.addCounter_wf]

theorem State.signal_wf (s : State) (pa : PAddr) (a k : Word) (h : Memory.wf s.mem = true) :
    Memory.wf (s.signal pa a k).mem = true := by simp [State.signal, h, State.signalBy_wf]

theorem execSig_wf (a b : Reg) (_scope : BitVec 3) (s : State) (h : Memory.wf s.mem = true) :
    AnswersCanonical (execSig a b _scope s) := by
  refine State.issue_wf h fun t ht => ?_
  repeat' split
  all_goals simp [ht, State.signal_wf]

theorem execWaitge_wf (a b : Reg) (_scope : BitVec 3) (s : State) (h : Memory.wf s.mem = true) :
    AnswersCanonical (execWaitge a b _scope s) := by
  refine State.issue_wf h fun t ht => ?_
  grind [State.trapAt_mem, State.load_mem, State.advance_mem, State.farFault_mem, State.newId_mem]

theorem State.readField_wf {s : State} {a : Word} {ps : List PAddr} {off len : Nat} {k : State → List Byte → State}
    (h : Memory.wf s.mem = true) (hk : ∀ t b, Memory.wf t.mem = true → Memory.wf (k t b).mem = true) :
    Memory.wf (s.readField a ps off len k).mem = true := by
  have hp := s.load_mem s.cur s.myPart (pieceAt ps off) len
  unfold State.readField
  dsimp only
  split
  · exact h
  · split <;> rename_i e <;> rw [e] at hp <;> dsimp only at hp
    · exact hk _ _ (hp ▸ h)
    · simpa [hp] using h

theorem State.flipSel_wf (s : State) (c : CpId) (pa : PAddr) (va fpc : Word) (h : Memory.wf s.mem = true) :
    Memory.wf (s.flipSel c pa va fpc).mem = true := by simp [State.flipSel, h, State.changeWord_wf]

theorem execPub_wf (a b : Reg) (n : BitVec 7) (_scope : BitVec 3) (s : State) (h : Memory.wf s.mem = true) :
    AnswersCanonical (execPub a b n _scope s) := by
  refine State.issue_wf h fun t ht => ?_
  grind [State.trapAccess_mem, State.withRecord_wf, State.flipSel_wf, State.advance_mem, State.signal_wf]

theorem State.raiseCounter_wf (s : State) (c : CpId) (pa : PAddr) (va v : Word) (h : Memory.wf s.mem = true) :
    Memory.wf (s.raiseCounter c pa va v).mem = true := by simp [State.raiseCounter, h, State.changeWord_wf]

theorem execCounterAddArrive_wf (id : Nat) (s : State) (h : Memory.wf s.mem = true) : AnswersCanonical (execCounterAddArrive id s) := by
  simp only [execCounterAddArrive, answersCanonical_next]
  repeat' split
  all_goals simp [h, State.performAdd_wf, State.slotted_wf]

theorem execStgrel_wf (a : Reg) (j : BitVec 4) (s : State) (h : Memory.wf s.mem = true) : AnswersCanonical (execStgrel a j s) := by
  refine State.issue_wf h fun t ht => ?_
  repeat' split
  all_goals simp [ht, State.raiseCounter_wf]

theorem execSpat_wf (a : Reg) (k : BitVec 4) (s : State) (h : Memory.wf s.mem = true) : AnswersCanonical (execSpat a k s) := by
  refine State.issue_wf h fun t ht => ?_
  simp [ht, State.withRecord_wf, State.readRecord_wf]

theorem execBind_wf (x a b : Reg) (s : State) (h : Memory.wf s.mem = true) : AnswersCanonical (execBind x a b s) := by
  refine State.issue_wf h fun t ht => ?_
  grind [State.trapAccess_mem, State.trapAt_mem, State.advance_mem, State.modPart_mem]

theorem execUnbind_wf (a : Reg) (s : State) (h : Memory.wf s.mem = true) : AnswersCanonical (execUnbind a s) := by
  simp [execUnbind, h, State.issue_wf]

@[simp] theorem State.reportTrig_mem (s : State) (c : CpId) : (s.reportTrig c).mem = s.mem := by
  simp only [State.reportTrig]
  repeat' split
  all_goals simp

theorem State.launchSignal_wf (s : State) (part : BitVec 5) (a : Word) (k : Nat) (h : Memory.wf s.mem = true) :
    Memory.wf (s.launchSignal part a k).mem = true := by
  simp only [State.launchSignal]
  repeat' split
  all_goals simp [h, State.firmwareAdd_wf]

theorem State.launchProgress_wf (s : State) (id : Nat) (h : Memory.wf s.mem = true) : Memory.wf (s.launchProgress id).mem = true := by
  simp only [State.launchProgress]
  repeat' split
  all_goals simp [h, State.launchSignal_wf]

theorem execParkRelease_wf (d : Fin 4) (k : Fin 2) (s : State) (h : Memory.wf s.mem = true) : AnswersCanonical (execParkRelease d k s) := by
  rw [execParkRelease, answersCanonical_next]
  exact foldl_wf _ _ _ (fun t l ht => State.launchProgress_wf t _ ht) <|
    foldl_wf _ _ _ (fun t x ht => State.release_wf d k t x ht) <| foldl_wf _ _ _ (fun t x ht => State.releaseLeft_wf d k t x ht) h

theorem State.reportAndProgress_wf (s : State) (c : CpId) (h : Memory.wf s.mem = true) : Memory.wf (s.reportAndProgress c).mem = true := by
  unfold State.reportAndProgress
  split <;> simp [h, State.launchProgress_wf]

theorem execTrig_wf (s : State) (h : Memory.wf s.mem = true) : AnswersCanonical (execTrig s) := by
  refine State.issue_wf h fun t ht => ?_
  grind [State.modCp_mem, State.newId_mem, State.advance_mem, State.reportAndProgress_wf]

@[simp] theorem State.setWq_mem (s : State) (q : Nat) (w : Wq) : (s.setWq q w).mem = s.mem := by
  unfold State.setWq
  split <;> rfl

theorem execLaunch_wf (a b : Reg) (s : State) (h : Memory.wf s.mem = true) : AnswersCanonical (execLaunch a b s) := by
  refine State.issue_wf h fun t ht => ?_
  grind [State.withRecord_wf, State.trapAt_mem, State.readRecord_wf, State.storeOrPark_wf, State.advance_mem, State.setWq_mem]

@[simp] theorem State.dropCached_mem (s : State) (k : Fin 256) (part : BitVec 5) (base len : Nat) :
    (s.dropCached k part base len).mem = s.mem := rfl

theorem execTinv_wf (a b : Reg) (s : State) (h : Memory.wf s.mem = true) : AnswersCanonical (execTinv a b s) := by
  simp [execTinv, h, State.issue_wf]

/-! ### Machine/Stream -/

@[simp] theorem State.streamStop_mem (s : State) (c : CpId) (r : Fin 4) (p : BitVec 5) (cause : BitVec 8) (detail vaddr synd : Word) :
    (s.streamStop c r p cause detail vaddr synd).mem = s.mem := rfl

theorem State.bindHead_go_mem (s : State) (c : CpId) (m : Cmd) (p : BitVec 5) (k : BitVec 4) (stamp : Option Word) (t : Slot) (tval : Word) {t' : State}
    (e : State.bindHead.go s c m p k stamp t tval = some t') : t'.mem = s.mem := by
  grind [State.bindHead.go, State.commandFault_mem, State.modPort_mem]

theorem State.bindHead_mem (s : State) (c : CpId) (m : Cmd) (p : BitVec 5) (k : BitVec 4) (stamp : Option Word) {t' : State}
    (e : s.bindHead c m p k stamp = some t') : t'.mem = s.mem := by
  cases stamp <;> grind [State.bindHead, State.commandFault_mem, State.bindHead_go_mem]

@[simp] theorem State.rewalk_mem (s : State) (c : CpId) (r : Fin 4) : (s.rewalk c r).mem = s.mem := rfl
@[simp] theorem State.endStream_mem (s : State) (c : CpId) (p : BitVec 5) : (s.endStream c p).mem = s.mem := by
  simp only [State.endStream]
  split <;> simp [mem_ite]

@[simp] theorem State.stopHead_mem (s : State) (c : CpId) (p : BitVec 5) : (s.stopHead c p).mem = s.mem := by simp [State.stopHead]
@[simp] theorem State.extentStop_mem (s : State) (c : CpId) (p : BitVec 5) (r : Fin 4) (pat : BitVec 512) (e : Nat × Nat) :
    (s.extentStop c p r pat e).mem = s.mem := rfl

@[simp] theorem State.startStream_mem (s : State) (c : CpId) (p : BitVec 5) (b : Binding) (r : Fin 4) (engine : Nat) (dispatched : Bool) :
    (s.startStream c p b r engine dispatched).mem = s.mem := by
  simp only [State.startStream]
  repeat' split
  all_goals simp

@[simp] theorem State.fixedStart_mem (s : State) (c : CpId) (p : BitVec 5) (b : Binding) (r : Fin 4) : (s.fixedStart c p b r).mem = s.mem := by
  simp only [State.fixedStart]
  split <;> simp [mem_ite]

theorem execDispatchedStreamStart_wf (c : CpId) (p : BitVec 5) (s : State) (h : Memory.wf s.mem = true) :
    AnswersCanonical (execDispatchedStreamStart c p s) := by
  simp only [execDispatchedStreamStart, answersCanonical_next]
  repeat' split
  all_goals simp [h]

theorem execStampedStreamStart_wf (c : CpId) (p : BitVec 5) (s : State) (h : Memory.wf s.mem = true) :
    AnswersCanonical (execStampedStreamStart c p s) := by
  simp only [execStampedStreamStart, answersCanonical_next]
  repeat' split
  all_goals simp [h]

@[simp] theorem State.logIndex_mem (s : State) (c : CpId) (st : Stream) : (s.logIndex c st).mem = s.mem := by
  unfold State.logIndex
  split <;> simp

@[simp] theorem State.claimRead_mem (s : State) (k : Fin 256) (blk order : Nat) (timed : Bool) :
    (s.claimRead k blk order timed).mem = s.mem := rfl

@[simp] theorem State.pushInbound_mem (s : State) (c : CpId) (p : BitVec 5) (st : Stream) (tok : Tok) (pos : RingPos) (src : Option PAddr) :
    (s.pushInbound c p st tok pos src).mem = s.mem := by
  unfold State.pushInbound
  split <;> rfl

@[simp] theorem State.startWalk_mem (s : State) (c : CpId) (p : BitVec 5) (st : Stream) (va : Nat) : (s.startWalk c p st va).mem = s.mem := rfl
@[simp] theorem State.issueRead_mem (s : State) (c : CpId) (p : BitVec 5) (st : Stream) : (s.issueRead c p st).mem = s.mem := by
  grind [State.issueRead, State.logIndex_mem, State.streamStop_mem, State.startWalk_mem, State.pushInbound_mem, State.load_mem, State.claimRead_mem]

theorem execStreamReadIssue_wf (c : CpId) (p : BitVec 5) (s : State) (h : Memory.wf s.mem = true) :
    AnswersCanonical (execStreamReadIssue c p s) := by
  simp only [execStreamReadIssue, answersCanonical_next]
  repeat' split
  all_goals simp [h]

@[simp] theorem State.addToken_mem (s : State) (k : Fin 256) (w : RingTok) : (s.addToken k w).mem = s.mem := rfl
@[simp] theorem State.countSent_mem (s : State) (c : CpId) (p : BitVec 5) : (s.countSent c p).mem = s.mem := rfl
@[simp] theorem State.sendWrite_mem (s : State) (c : CpId) (p : BitVec 5) (st : Stream) (e : Fin 256) (t : Fin 4) (tok : Tok) :
    (s.sendWrite c p st e t tok).1.mem = s.mem := by
  simp only [State.sendWrite]
  split <;> simp [mem_ite]

@[simp] theorem State.skipBubbles_mem (s : State) (c : CpId) (p : BitVec 5) (n : Nat) : (s.skipBubbles c p n).mem = s.mem := by
  induction n generalizing s with
  | zero => rfl
  | succ n ih => grind [State.skipBubbles, State.modPort_mem]

@[simp] theorem State.passBubbles_mem (s : State) (c : CpId) (p : BitVec 5) : (s.passBubbles c p).mem = s.mem := by
  simp only [State.passBubbles]
  repeat' split
  all_goals simp

@[simp] theorem State.keepToken_mem (s : State) (c : CpId) (p : BitVec 5) (tok : Tok) : (s.keepToken c p tok).mem = s.mem := rfl
@[simp] theorem State.sendFar_mem (s : State) (c : CpId) (p : BitVec 5) (r : Fin 4) (e : Fin 256) (t : Fin 4) (tok : Tok) :
    (s.sendFar c p r e t tok).mem = s.mem := rfl

@[simp] theorem State.sendOn_mem (s : State) (c : CpId) (p : BitVec 5) (st : Stream) (e : Fin 256) (t : Fin 4) (tok : Tok) :
    (s.sendOn c p st e t tok).1.mem = s.mem := by
  simp only [State.sendOn]
  repeat' split
  all_goals simp

@[simp] theorem State.sendToken_mem (s : State) (c : CpId) (r : Fin 4) (e : Fin 256) (t : Fin 4) (tok : Tok) :
    (s.sendToken c r e t tok).mem = s.mem := by
  grind [State.sendToken, State.modPort_mem, State.addToken_mem, State.sendFar_mem, State.sendOn_mem]

@[simp] theorem State.dropToken_mem (s : State) (k : Fin 256) (id : Nat) : (s.dropToken k id).mem = s.mem := rfl
@[simp] theorem State.readDone_mem (s : State) (c : CpId) (p : BitVec 5) : (s.readDone c p).mem = s.mem := by
  simp only [State.readDone]
  split <;> simp [mem_ite]

@[simp] theorem State.enterTap_mem (s : State) (c : CpId) (e : Fin 256) (i : Fin 4) (tok : Tok) : (s.enterTap c e i tok).mem = s.mem := rfl
@[simp] theorem State.accepted_mem (s : State) (c : CpId) (p : BitVec 5) : (s.accepted c p).mem = s.mem := by
  simp only [State.accepted]
  repeat' split
  all_goals simp

theorem State.channelEnter_mem (s : State) (c : CpId) (p : BitVec 5) (tok : Tok) {t' : State} (e : s.channelEnter c p tok = some t') :
    t'.mem = s.mem := by grind [State.channelEnter, State.modPort_mem, State.enterTap_mem, State.endStream_mem]

@[simp] theorem State.enterLane_mem (s : State) (c : CpId) (t : RingTok) (e : Fin 256) : (s.enterLane c t e).mem = s.mem := rfl
@[simp] theorem State.resultEnter_mem (s : State) (c : CpId) (t : RingTok) : (s.resultEnter c t).mem = s.mem := by
  simp only [State.resultEnter]
  split <;> simp [mem_ite]

@[simp] theorem State.tellWindow_mem (s : State) (q : Channel) (d : Word) : (s.tellWindow q d).mem = s.mem := by simp [State.tellWindow]
@[simp] theorem State.channelArrive_mem (s : State) (c : CpId) (t : RingTok) : (s.channelArrive c t).mem = s.mem := by
  grind [State.channelArrive, State.channelEnter_mem, State.enterLane_mem, State.dropToken_mem, State.accepted_mem, State.tellWindow_mem]

theorem execTokenArriveTap_wf (c : CpId) (id : Nat) (s : State) (h : Memory.wf s.mem = true) : AnswersCanonical (execTokenArriveTap c id s) := by
  simp only [execTokenArriveTap, answersCanonical_next]
  repeat' split
  all_goals simp [h]

@[simp] theorem State.stored_mem (s : State) (c : CpId) (t : RingTok) : (s.stored c t).mem = s.mem := by
  simp only [State.stored]
  split <;> simp [mem_ite]

@[simp] theorem State.formNow_mem (s : State) (c : CpId) (t : RingTok) : (s.formNow c t).mem = s.mem := by
  grind [State.formNow, State.sendOn_mem, State.modPort_mem, State.dropToken_mem]

@[simp] theorem State.leavePort_mem (s : State) (c : CpId) (t : RingTok) : (s.leavePort c t).mem = s.mem := by
  simp [State.leavePort, mem_ite]

theorem execStreamWriteStore_wf (c : CpId) (id : Nat) (s : State) (h : Memory.wf s.mem = true) :
    AnswersCanonical (execStreamWriteStore c id s) := by
  simp only [execStreamWriteStore, answersCanonical_next]
  repeat' split
  all_goals simp [h, State.store_wf, State.slotted_wf]

@[simp] theorem State.ringCycle_mem (s : State) (k : Fin 256) : (s.ringCycle k).mem = s.mem := by
  unfold State.ringCycle
  extract_lets x moved copying s0
  split
  · split <;> simp
  · have h0 : s0.mem = s.mem := by simp [s0, mem_ite]
    refine (foldl_mem _ _ _ fun t q => ?_).trans <| (foldl_mem _ _ _ fun t q => ?_).trans ?_
    · simp
    · simp
    · simpa using h0

theorem execEdgeTlbWalkReturn_wf (c : CpId) (p : BitVec 5) (s : State) (h : Memory.wf s.mem = true) :
    AnswersCanonical (execEdgeTlbWalkReturn c p s) := by
  simp only [execEdgeTlbWalkReturn, answersCanonical_next]
  repeat' split
  all_goals simp [h]

@[simp] theorem State.rewritePort_mem (s : State) (c : CpId) (p : BitVec 5) (base len : Nat) :
    (s.rewritePort c p base len).mem = s.mem := by
  simp only [State.rewritePort]
  repeat' split
  all_goals simp

theorem execExtentRewrite_wf (part : BitVec 5) (base len : Word) (pages : List PageMap) (s : State) (h : Memory.wf s.mem = true) :
    AnswersCanonical (execExtentRewrite part base len pages s) := by
  have ports (v : State) (c : CpId) (b n : Nat) : (ports24.foldl (fun v p => v.rewritePort c p b n) v).mem = v.mem :=
    foldl_mem _ _ v fun t p => State.rewritePort_mem t c p b n
  rw [execExtentRewrite, answersCanonical_next]
  refine foldl_wf _ _ _ (fun t k ht => ?_) h
  dsimp only
  split
  · exact ht
  · exact foldl_wf _ _ _ (fun u i hu => by split <;> simp [ports, hu]) (by simpa using ht)

/-! ### Machine/Region -/

@[simp] theorem State.claimTiles_mem (s : State) (c : CpId) (ss : List (BitVec 2)) : (s.claimTiles c ss).mem = s.mem := rfl
@[simp] theorem State.logStops_mem (s : State) (c : CpId) (r : Fin 4) (xs : List DueCtx) (qs : List DueCue) :
    (s.logStops c r xs qs).mem = s.mem := by
  unfold State.logStops
  split
  · rfl
  · refine (foldl_mem _ _ _ fun t x => by dsimp only; split <;> simp).trans <| (foldl_mem _ _ _ fun t q => ?_).trans <|
      foldl_mem _ _ _ fun t d => by split <;> simp
    have h1 : (if (s.marksOf c.core (cueReads q.elem q.idx)).any fun m => m.1.two then t.logOf c (cueReads q.elem q.idx) else t).mem = t.mem := by
      split <;> simp
    dsimp only
    split
    · split
      · simpa using h1
      · exact h1
    · exact h1

@[simp] theorem State.dueLast_mem (s : State) (l : List Instr) : (s.dueLast l).mem = s.mem := rfl
@[simp] theorem State.held_mem (s : State) (c : CpId) (r : Fin 4) : (s.held c r).mem = s.mem := rfl
@[simp] theorem State.goes_mem (s : State) (c : CpId) (r : Fin 4) (xs : List DueCtx) (qs : List DueCue) : (s.goes c r xs qs).mem = s.mem := by
  simp [State.goes, mem_ite]

theorem execRegionCycle_wf (c : CpId) (r : Fin 4) (s : State) (h : Memory.wf s.mem = true) : AnswersCanonical (execRegionCycle c r s) := by
  simp only [execRegionCycle, answersCanonical_next]
  repeat' split
  all_goals simp [h]

theorem State.fire_wf {s : State} {x : ElemSite} {k : State → State} (h : Memory.wf s.mem = true)
    (hk : ∀ t, Memory.wf t.mem = true → Memory.wf (k t).mem = true) : AnswersCanonical (s.fire x k) := by
  rw [State.fire, answersCanonical_next]
  split
  · exact hk _ (by simpa using h)
  · exact h

theorem execCueRun_wf (x : ElemSite) (n : BitVec 5) (s : State) (h : Memory.wf s.mem = true) : AnswersCanonical (execCueRun x n s) := by
  simp only [execCueRun]
  grind [State.fire_wf, State.dueFirst_mem]

@[simp] theorem State.dueRead_mem (s : State) (c : CpId) (p : BitVec 5) : (s.dueRead c p).mem = s.mem := by simp [State.dueRead, mem_ite]
theorem execCueStart_wf (x : ElemSite) (p : BitVec 5) (s : State) (h : Memory.wf s.mem = true) : AnswersCanonical (execCueStart x p s) := by
  simp only [execCueStart]
  grind [State.fire_wf, State.fixedStart_mem, State.dueRead_mem, State.modRegion_mem]

theorem execCueStop_wf (x : ElemSite) (p : BitVec 5) (s : State) (h : Memory.wf s.mem = true) : AnswersCanonical (execCueStop x p s) := by
  simp [execCueStop, h, State.fire_wf]

theorem execCueDrain_wf (x : ElemSite) (acc : BitVec 2) (p : BitVec 5) (peer : Bool) (pb : BitVec 3) (strm : BitVec 2) (clr : Bool) (s : State) (h : Memory.wf s.mem = true) :
    AnswersCanonical (execCueDrain x acc p peer pb strm clr s) := by
  simp only [execCueDrain]
  grind [State.fire_wf, State.modRegion_mem, State.takeTileCredit_mem, State.launchCue_mem]

theorem State.regionSignal_wf (s : State) (c : CpId) (r : Fin 4) (t : CtrEntry) (k : Word) (h : Memory.wf s.mem = true) :
    Memory.wf (s.regionSignal c r t k).mem = true := by simp [State.regionSignal, h, State.signalBy_wf]

theorem execCueSig_wf (x : ElemSite) (k : BitVec 4) (_scope : BitVec 3) (inc : BitVec 32) (s : State) (h : Memory.wf s.mem = true) :
    AnswersCanonical (execCueSig x k _scope inc s) := by
  simp only [execCueSig]
  grind [State.fire_wf, State.regionSignal_wf]

theorem execCueWait_wf (x : ElemSite) (k : BitVec 4) (_scope : BitVec 3) (_step : BitVec 32) (s : State) (h : Memory.wf s.mem = true) :
    AnswersCanonical (execCueWait x k _scope _step s) := by
  simp only [execCueWait]
  grind [State.fire_wf, State.load_mem]

theorem execCueBegin_wf (x : ElemSite) (s : State) (h : Memory.wf s.mem = true) : AnswersCanonical (execCueBegin x s) := by
  simp only [execCueBegin]
  grind [State.fire_wf, State.modElem_mem]

theorem execCueEnd_wf (x : ElemSite) (s : State) (h : Memory.wf s.mem = true) : AnswersCanonical (execCueEnd x s) := by
  simp only [execCueEnd]
  grind [State.fire_wf, State.modElem_mem]

theorem execCueEndtake_wf (x : ElemSite) (s : State) (h : Memory.wf s.mem = true) : AnswersCanonical (execCueEndtake x s) := by
  simp only [execCueEndtake]
  grind [State.fire_wf, State.modRegion_mem]

@[simp] theorem State.setFlags_mem (s : State) (c : CpId) (e : Fin 256) (fl : BitVec 8) : (s.setFlags c e fl).mem = s.mem := rfl
@[simp] theorem State.setD_mem (s : State) (c : CpId) (e : Fin 256) (t : Tok) : (s.setD c e t).mem = s.mem := by simp [State.setD]
@[simp] theorem State.setAcc_mem (s : State) (c : CpId) (e : Fin 256) (i : Fin 4) (v : Lanes8) : (s.setAcc c e i v).mem = s.mem := by
  simp [State.setAcc]

@[simp] theorem State.setBp_mem (s : State) (c : CpId) (e : Fin 256) (v : Vector W32 64) : (s.setBp c e v).mem = s.mem := by
  simp [State.setBp]

theorem State.deliverTok_wf (s : State) (c : CpId) (r : Fin 4) (e : Fin 256) (dst : Dest) (t : Tok) (h : Memory.wf s.mem = true) :
    Memory.wf (s.deliverTok c r e dst t).mem = true := by
  simp only [State.deliverTok]
  repeat' split
  all_goals simp [h, State.store_wf]

theorem State.landAct_wf (s : State) (c : CpId) (r : Fin 4) (e : Fin 256) (a : Act) (h : Memory.wf s.mem = true) :
    Memory.wf (s.landAct c r e a).mem = true := by
  cases a with
  | write dst t fl => exact State.deliverTok_wf _ _ _ _ _ _ (by simpa using h)
  | writeC v fl => simpa [State.landAct] using h
  | accumF i za cs fresh fl => simpa [State.landAct] using h
  | accumI i za cs fl => simpa [State.landAct] using h
  | accumG b za cs fresh fl => exact State.store_wf _ _ _ _ (by simpa using h)
  | overBp v => simpa [State.landAct] using h
  | clearAcc i => simpa [State.landAct] using h
  | clearBp => simpa [State.landAct] using h
  | statWord b w v => exact State.store_wf _ _ _ _ h
  | statLanes b wb q v => exact foldl_wf _ _ _ (fun t n ht => State.store_wf _ _ _ _ ht) h
  | drain i fmt sat clr lr ls dst =>
    have hd := State.deliverTok_wf (s.setFlags c e (drainWord fmt sat ((s.elem c e).acc.get i)).2) c r e dst
      ⟨(drainWord fmt sat ((s.elem c e).acc.get i)).1, lr, ls, false⟩ (by simpa using h)
    simp only [State.landAct]
    split
    · simpa using hd
    · exact hd
  | drainPeer i int clr pb strm desc seq cue idx =>
    simp only [State.landAct]
    split
    · simpa using h
    · exact h

theorem State.landElem_wf (s : State) (c : CpId) (r : Fin 4) (e : Fin 256) (h : Memory.wf s.mem = true) :
    Memory.wf (s.landElem c r e).mem = true := by
  unfold State.landElem
  dsimp only
  split
  · exact h
  · exact foldl_wf _ _ s (fun t f ht => State.landAct_wf _ _ _ _ _ (by simpa using ht)) h

@[simp] theorem State.shiftNeighbours_mem (s : State) (c : CpId) (r : Fin 4) : (s.shiftNeighbours c r).mem = s.mem :=
  foldl_mem _ _ _ fun _ _ => rfl

theorem State.landAll_wf (s : State) (c : CpId) (r : Fin 4) (h : Memory.wf s.mem = true) : Memory.wf (s.landAll c r).mem = true :=
  foldl_wf _ _ _ (fun t e ht => State.landElem_wf t c r e ht) (by simpa using h)

@[simp] theorem State.endStreams_mem (s : State) (c : CpId) (r : Fin 4) : (s.endStreams c r).mem = s.mem := rfl
@[simp] theorem State.pauseStreams_mem (s : State) (c : CpId) (r : Fin 4) : (s.pauseStreams c r).mem = s.mem := rfl
@[simp] theorem State.returnTileCredits_mem (s : State) (c : CpId) (r : Fin 4) : (s.returnTileCredits c r).mem = s.mem := rfl
@[simp] theorem State.stopRecord_mem (s : State) (c : CpId) (r : Fin 4) (i : StopInfo) : (s.stopRecord c r i).mem = s.mem := by
  simp [State.stopRecord, mem_ite]

@[simp] theorem State.stopNow_mem (s : State) (c : CpId) (r : Fin 4) (i : StopInfo) : (s.stopNow c r i).mem = s.mem := by
  unfold State.stopNow
  split <;> rfl

@[simp] theorem State.stopRegion_mem (s : State) (c : CpId) (r : Fin 4) (i : StopInfo) : (s.stopRegion c r i).mem = s.mem := by
  simp [State.stopRegion, mem_ite]

theorem execResultLand_wf (c : CpId) (r : Fin 4) (s : State) (h : Memory.wf s.mem = true) : AnswersCanonical (execResultLand c r s) := by
  simp only [execResultLand, answersCanonical_next]
  repeat' split
  all_goals simp [h, State.landAll_wf]

theorem execTakeLastLapEnd_wf (c : CpId) (r : Fin 4) (s : State) (h : Memory.wf s.mem = true) :
    AnswersCanonical (execTakeLastLapEnd c r s) := by
  simp only [execTakeLastLapEnd, answersCanonical_next]
  split <;> simp [h]

theorem execTakeEnded_wf (c : CpId) (r : Fin 4) (s : State) (h : Memory.wf s.mem = true) : AnswersCanonical (execTakeEnded c r s) := by
  simp only [execTakeEnded, answersCanonical_next]
  split <;> simp [h]

/-! ### Machine/Reel -/

theorem execRarm_wf (a : Reg) (r : BitVec 2) (s : State) (h : Memory.wf s.mem = true) : AnswersCanonical (execRarm a r s) := by
  simp only [execRarm]
  split <;> simp [h, State.queuedPlain_wf, State.queued_wf]

@[simp] theorem State.arriveAfter_mem (s : State) (c : CpId) (id : Nat) (v : Word) (n : Nat) : (s.arriveAfter c id v n).mem = s.mem := by
  simp [State.arriveAfter]

@[simp] theorem State.statHead_mem (s : State) (c : CpId) (m : Cmd) (r : Fin 4) : (s.statHead c m r).mem = s.mem := by
  simp [State.statHead]

@[simp] theorem State.readVirt_mem (s : State) (c : CpId) (a : Word) (n : Nat) : (s.readVirt c a n).1.mem = s.mem := by
  grind [State.readVirt, State.loadPieces_mem]

@[simp] theorem State.headFault_mem (s : State) (c : CpId) (m : Cmd) (e : BitVec 8 × Word × Word × Word) : (s.headFault c m e).mem = s.mem := by
  simp [State.headFault]

@[simp] theorem State.clearNext_mem (s : State) (c : CpId) (r : Fin 4) : (s.clearNext c r).mem = s.mem :=
  foldl_mem _ _ s fun _ _ => rfl

@[simp] theorem State.patchExtents_mem (s : State) (c : CpId) (r : Fin 4) : (s.patchExtents c r).mem = s.mem := rfl
@[simp] theorem State.fillNext_mem (s : State) (c : CpId) (r : Fin 4) (i : Image) : (s.fillNext c r i).mem = s.mem :=
  (State.patchExtents_mem _ c r).trans <| foldl_mem _ _ s fun t x => by split <;> rfl

theorem State.loadHead_mem (s : State) (c : CpId) (m : Cmd) (r : Fin 4) {t' : State} (e : s.loadHead c m r = some t') : t'.mem = s.mem := by
  grind [State.loadHead, State.modRegion_mem, State.clearNext_mem]

@[simp] theorem State.readImage_mem (s : State) (c : CpId) (r : Fin 4) (a place : Word) : (s.readImage c r a place).1.mem = s.mem := by
  grind [State.readImage, State.readVirt_mem]

@[simp] theorem State.dequeue_mem (s : State) (c : CpId) (m : Cmd) : (s.dequeue c m).mem = s.mem := by simp [State.dequeue, mem_ite]
theorem execReelLoadComplete_wf (c : CpId) (r : Fin 4) (s : State) (h : Memory.wf s.mem = true) :
    AnswersCanonical (execReelLoadComplete c r s) := by
  simp only [execReelLoadComplete, answersCanonical_next]
  grind [State.dequeue_mem, State.modRegion_mem, State.readImage_mem, State.headFault_mem, State.modSlot_mem, State.fillNext_mem]

theorem State.armHead_mem (s : State) (c : CpId) (m : Cmd) (r : Fin 4) (plain : Bool) {t' : State} (e : s.armHead c m r plain = some t') :
    t'.mem = s.mem := by grind [State.armHead, State.modRegion_mem, State.readVirt_mem, State.headFault_mem]

@[simp] theorem State.leaveBank_mem (s : State) (c : CpId) (r : Fin 4) : (s.leaveBank c r).mem = s.mem := by
  refine (foldl_mem _ _ _ fun t p => ?_).trans <| (foldl_mem _ _ _ fun t e => ?_).trans ?_
  · rfl
  · rfl
  · split <;> simp

@[simp] theorem State.startTake_mem (s : State) (c : CpId) (r : Fin 4) : (s.startTake c r).mem = s.mem := by
  unfold State.startTake
  refine (foldl_mem _ _ _ fun t p => ?_).trans <| (State.modRegion_mem _ _ _ _).trans <| (foldl_mem _ _ _ fun t e => ?_).trans (State.leaveBank_mem s c r)
  · rfl
  · simp

theorem State.goHead_mem (s : State) (c : CpId) (m : Cmd) (r : Fin 4) {t' : State} (e : s.goHead c m r = some t') : t'.mem = s.mem := by
  unfold State.goHead at e
  extract_lets g at e
  split at e
  · cases e
  · obtain rfl := Option.some.inj e; simp
  · split at e <;> obtain rfl := Option.some.inj e <;> simp

@[simp] theorem State.stopTake_mem (s : State) (c : CpId) (r : Fin 4) : (s.stopTake c r).mem = s.mem := by
  unfold State.stopTake
  split <;> simp

theorem State.writeVirt_wf (s : State) (c : CpId) (a : Word) (b : List Byte) {t' : State} (h : Memory.wf s.mem = true)
    (e : s.writeVirt c a b = .ok t') : Memory.wf t'.mem = true := by
  unfold State.writeVirt at e
  split at e
  · cases e
  · cases e
    exact foldl_wf _ _ s (fun t p ht => State.storeOrPark_wf t c _ _ _ _ ht) h

@[simp] theorem State.detach_mem (s : State) (c : CpId) (r : Fin 4) : (s.detach c r).mem = s.mem := rfl
theorem State.saveHead_wf (s : State) (c : CpId) (m : Cmd) (r : Fin 4) {t' : State} (h : Memory.wf s.mem = true) (e : s.saveHead c m r = some t') :
    Memory.wf t'.mem = true := by grind [State.saveHead, State.writeVirt_wf, State.headFault_mem, State.modRegion_mem, State.detach_mem]

@[simp] theorem State.resumeStream_mem (s : State) (c : CpId) (r : Fin 4) (p : BitVec 5) : (s.resumeStream c r p).mem = s.mem := by
  simp only [State.resumeStream]
  repeat' split
  all_goals simp

@[simp] theorem State.putStranded_mem (s : State) (c : CpId) (r : Fin 4) (p : BitVec 5) (x : SavedTok) :
    (s.putStranded c r p x).mem = s.mem := by
  simp only [State.putStranded]
  repeat' split
  all_goals simp

@[simp] theorem State.putElem_mem (s : State) (c : CpId) (e : Fin 256) (x : Elem) : (s.putElem c e x).mem = s.mem := by
  simp [State.putElem]

@[simp] theorem State.restore_mem (s : State) (c : CpId) (r : Fin 4) (v : Saved) : (s.restore c r v).mem = s.mem := by
  unfold State.restore
  extract_lets page s1 s2 g s3 s4 strms s5
  have h2 : s2.mem = s.mem := (foldl_mem _ _ _ fun t x => State.putElem_mem t c _ _).trans (by simp [s1])
  have h3 : s3.mem = s.mem := (State.modRegion_mem _ _ _ _).trans h2
  have h4 : s4.mem = s.mem := by
    refine (foldl_mem _ _ _ fun t q => ?_).trans h3
    simp
  have h5 : s5.mem = s.mem := by
    refine (foldl_mem _ _ _ fun t q => ?_).trans h4
    exact foldl_mem _ _ t fun u x => State.putStranded_mem u c r q.p x
  clear_value s4 s5
  split
  · exact h4
  · refine (foldl_mem _ _ _ fun t q => ?_).trans <| (foldl_mem _ _ _ fun t k => ?_).trans h5
    · exact State.resumeStream_mem t c r q.p
    · exact State.takeTileCredit_mem t c k

theorem State.restHead_mem (s : State) (c : CpId) (m : Cmd) (r : Fin 4) {t' : State} (e : s.restHead c m r = some t') : t'.mem = s.mem := by
  grind [State.restHead, State.modRegion_mem, State.readVirt_mem, State.headFault_mem, State.restore_mem]

/-! ### Machine/Copy -/

theorem State.stageHead_mem (s : State) (c : CpId) (m : Cmd) (j : BitVec 4) {t' : State} (e : s.stageHead c m j = some t') :
    t'.mem = s.mem := by grind [State.stageHead, State.readVirt_mem, State.headFault_mem, State.commandFault_mem, State.modSlot_mem]

theorem State.copyHead_mem (s : State) (c : CpId) (m : Cmd) (gather : Bool) {t' : State} (e : s.copyHead c m gather = some t') :
    t'.mem = s.mem := by grind [State.copyHead, State.readVirt_mem, State.headFault_mem, State.commandFault_mem, State.modSlot_mem]

theorem State.spoil_wf (s : State) (c : CpId) (a : Word) (n : Nat) (h : Memory.wf s.mem = true) : Memory.wf (s.spoil c a n).mem = true := by
  induction n generalizing s a with
  | zero => exact h
  | succ n ih => grind [State.spoil, State.store_wf, State.took_mem]

@[simp] theorem State.copyFault_mem (s : State) (c : CpId) (j : CopyJob) (e : BitVec 8 × Word × Word × Word) :
    (s.copyFault c j e).mem = s.mem := by simp [State.copyFault]

@[simp] theorem State.resolveSurf_mem (s : State) (c : CpId) (j : CopyJob) (named : Bool) (a : Word) :
    (s.resolveSurf c j named a).1.mem = s.mem := by grind [State.resolveSurf, State.readVirt_mem]

/-- The state that a turn at a stage leaves. -/
@[simp] def StageTurn.state : StageTurn → State
  | .free s | .waits s | .failed s _ => s

@[simp] theorem State.stageTurn_mem (s : State) (c : CpId) (j : CopyJob) : (s.stageTurn c j).state.mem = s.mem := by
  unfold State.stageTurn
  split
  · rfl
  · rename_i g _
    have hp := s.load_mem c (s.slot c).part g.rel 8
    split
    · rfl
    · split
      · rfl
      · split
        · rfl
        · split
          · rename_i e; rw [e] at hp; exact hp
          · rename_i e; rw [e] at hp
            split <;> exact hp

theorem execCopyStart_wf (c : CpId) (s : State) (h : Memory.wf s.mem = true) : AnswersCanonical (execCopyStart c s) := by
  unfold execCopyStart
  rw [answersCanonical_next]
  extract_lets t
  split
  · rename_i j _ _ _
    split
    · exact h
    · extract_lets ends
      have hends (u : State) (q : BitVec 8 × Word × Word × Word) (hu : u.mem = s.mem) : Memory.wf (ends u q).mem = true := by
        simp [ends, hu, h]
      have h1 := s.resolveSurf_mem c j j.ssurf j.src
      split <;> rename_i e1 <;> rw [e1] at h1
      · exact hends _ _ h1
      · rename_i s1 sf
        have h2 := s1.resolveSurf_mem c j j.dsurf j.dst
        split <;> rename_i e2 <;> rw [e2] at h2
        · exact hends _ _ (h2.trans h1)
        · rename_i s2 df
          extract_lets src dst
          have h3 := s2.stageTurn_mem c j
          split
          · exact h
          · split <;> rename_i e3 <;> rw [e3] at h3
            · exact h
            · exact hends _ _ (h3.trans (h2.trans h1))
            · simpa [mem_ite, h] using h3.trans (h2.trans h1) ▸ h
  · exact h

theorem State.writeUnit_wf (s : State) (c : CpId) (pa : PAddr) (b : List Byte) (h : Memory.wf s.mem = true) :
    Memory.wf (s.writeUnit c pa b).mem = true := by
  unfold State.writeUnit
  split <;> simp [h, State.store_wf]

@[simp] theorem State.modCopy_mem (s : State) (c : CpId) (f : CopyRun → CopyRun) : (s.modCopy c f).mem = s.mem := rfl
theorem State.copyIndex_read_mem (s : State) (c : CpId) (i : Nat) (a : Word) {y : State × Except (BitVec 8 × Word × Word × Word) Nat}
    (e : State.copyIndex.read s c i a = some y) : y.1.mem = s.mem := by
  grind [State.copyIndex.read, State.readFrom_mem, State.modCopy_mem]

theorem State.copyIndex_mem (s : State) (c : CpId) (r : CopyRun) (i : Nat) {y : State × Except (BitVec 8 × Word × Word × Word) Nat}
    (e : s.copyIndex c r i = some y) : y.1.mem = s.mem := by
  grind [State.copyIndex, State.copyIndex_read_mem]

theorem State.unitSource_mem (s : State) (c : CpId) (r : CopyRun) {y : State × Except (BitVec 8 × Word × Word × Word) (Option Word)}
    (e : s.unitSource c r = some y) : y.1.mem = s.mem := by
  unfold State.unitSource at e
  extract_lets j i off at e
  split at e
  · obtain ⟨q, hq, rfl⟩ := Option.map_eq_some_iff.mp e
    have hp := State.copyIndex_mem s c r i hq
    rcases q with ⟨s1, _ | x⟩
    · exact hp
    · dsimp only
      split
      · exact hp
      · split
        · split <;> exact hp
        · exact hp
  · obtain rfl := Option.some.inj e
    rfl

@[simp] theorem State.claimBlock_mem (s : State) (k : Fin 256) (write : Bool) (pa : PAddr) : (s.claimBlock k write pa).mem = s.mem := by
  unfold State.claimBlock
  split <;> rfl

/-- The state that the move of a unit leaves. -/
@[simp] def UnitOut.state : UnitOut → State
  | .moved s | .blocked s | .failed s _ => s

theorem State.unitWrite_wf (s0 s : State) (c : CpId) (r : CopyRun) (v : List Byte) (h0 : Memory.wf s0.mem = true) (h : Memory.wf s.mem = true) :
    Memory.wf (s0.unitWrite s c r v).state.mem = true := by
  unfold State.unitWrite
  extract_lets va part
  split
  · exact h
  · rename_i pa _
    split
    · exact h0
    · extract_lets s1
      have hw : Memory.wf s1.mem = true := State.writeUnit_wf s c pa v h
      split
      · simpa using State.slotted_wf _ _ _ _ hw
      · exact h0
      · simpa using h0

theorem State.copyUnit_wf (s : State) (c : CpId) (r : CopyRun) (h : Memory.wf s.mem = true) : Memory.wf (s.copyUnit c r).state.mem = true := by
  unfold State.copyUnit
  split
  · exact h
  · rename_i e; exact (State.unitSource_mem s c r e).symm ▸ h
  · rename_i s1 e
    have h1 : Memory.wf s1.mem = true := (State.unitSource_mem s c r e).symm ▸ h
    exact s1.unitWrite_wf s1 c r _ h1 h1
  · rename_i s1 va e
    have h1 : Memory.wf s1.mem = true := (State.unitSource_mem s c r e).symm ▸ h
    split
    · exact h1
    · rename_i pa _
      have hp := s1.readFrom_mem c pa 32
      split
      · exact h1
      · split
        · rename_i q; rw [q] at hp; exact hp.symm ▸ h1
        · rename_i s2 v q; rw [q] at hp
          exact s1.unitWrite_wf _ c r v h1 (by simpa using hp.symm ▸ h1)

theorem State.copyFails_wf (s : State) (c : CpId) (r : CopyRun) (e : BitVec 8 × Word × Word × Word) (h : Memory.wf s.mem = true) :
    Memory.wf (s.copyFails c r e).mem = true := by
  unfold State.copyFails
  split <;> simp [h, State.spoil_wf]

theorem State.copyUnits_wf (s : State) (c : CpId) (n : Nat) (h : Memory.wf s.mem = true) : Memory.wf (s.copyUnits c n).mem = true := by
  induction n generalizing s with
  | zero => exact h
  | succ n ih =>
    unfold State.copyUnits
    split
    · exact h
    · rename_i r _
      have hp := State.copyUnit_wf s c r h
      split
      · exact h
      · split <;> rename_i e <;> rw [e] at hp
        · exact ih _ hp
        · exact hp
        · exact State.copyFails_wf _ c r _ hp

theorem State.copyCycle_wf (s : State) (c : CpId) (h : Memory.wf s.mem = true) : Memory.wf (s.copyCycle c).mem = true := by
  unfold State.copyCycle
  split <;> simp [h, State.copyUnits_wf]

theorem State.engineSignal_wf (s : State) (c : CpId) (pa : PAddr) (vaddr k : Word) (h : Memory.wf s.mem = true) :
    Memory.wf (s.engineSignal c pa vaddr k).mem = true := by simp [State.engineSignal, h, State.signalBy_wf]

theorem State.copySignal_wf (s : State) (c : CpId) (j : CopyJob) (h : Memory.wf s.mem = true) : Memory.wf (s.copySignal c j).mem = true := by
  simp only [State.copySignal]
  repeat' split
  all_goals simp [h, State.raiseCounter_wf, State.engineSignal_wf]

theorem execCopyComplete_wf (c : CpId) (s : State) (h : Memory.wf s.mem = true) : AnswersCanonical (execCopyComplete c s) := by
  simp only [execCopyComplete, answersCanonical_next]
  grind [State.reportAndProgress_wf, State.modSlot_mem, State.copySignal_wf, State.flipSel_wf, State.copyFails_wf]

theorem State.headAct_wf (s : State) (c : CpId) (m : Cmd) {t' : State} (h : Memory.wf s.mem = true) (e : s.headAct c m = some t') :
    Memory.wf t'.mem = true := by
  have hg {o : Option State} (ho : ∀ t, o = some t → Memory.wf t.mem = true) {t' : State}
      (e : (o.map fun t => if t.recordWaits c m then t.modSlot c fun x => x.failCmd m else t.dequeue c m) = some t') :
      Memory.wf t'.mem = true := by
    obtain ⟨t, ht, rfl⟩ := Option.map_eq_some_iff.mp e
    simp [mem_ite, ho t ht]
  have hk {o : Option State} (ho : ∀ t, o = some t → t.mem = s.mem) : ∀ t, o = some t → Memory.wf t.mem = true :=
    fun t ht => (ho t ht).symm ▸ h
  have hs {u : State} (hu : u.mem = s.mem) : ∀ t, some u = some t → Memory.wf t.mem = true := 
    fun t ht => by obtain rfl := Option.some.inj ht; exact hu.symm ▸ h
  unfold State.headAct at e
  extract_lets gone at e
  split at e
  · split at e
    · cases e
    · exact hg (hs rfl) e
  · split at e
    · cases e
    · split at e
      · exact (State.loadHead_mem s c m _ e).symm ▸ h
      · exact hg (hk fun _ => State.armHead_mem s c m _ _) e
      · exact hg (hk fun _ => State.goHead_mem s c m _) e
      · exact hg (hs (by simp)) e
      · exact hg (fun _ => State.saveHead_wf s c m _ h) e
      · exact hg (hk fun _ => State.restHead_mem s c m _) e
      · exact hg (hk fun _ => State.bindHead_mem s c m _ _ _) e
      · exact hg (hk fun _ => State.bindHead_mem s c m _ _ _) e
      · exact hg (hs (by simp)) e
      · exact hg (hk fun _ => State.copyHead_mem s c m _) e
      · exact hg (hk fun _ => State.copyHead_mem s c m _) e
      · exact hg (hk fun _ => State.stageHead_mem s c m _) e
      · split at e
        · exact hg (hs (by simp)) e
        · exact hg (hs rfl) e

theorem execCommandQueueAdvance_wf (c : CpId) (s : State) (h : Memory.wf s.mem = true) : AnswersCanonical (execCommandQueueAdvance c s) := by
  unfold execCommandQueueAdvance
  rw [answersCanonical_next]
  extract_lets t s1
  split
  · exact h
  · refine State.reportAndProgress_wf _ _ ?_
    rcases e : List.findSome? (s.headAct c) ((passing t.cmdq []).takeWhile fun m => !s.recordWaits c m) with _ | u
    · simpa [s1, e] using h
    · obtain ⟨m, _, hm⟩ := List.exists_of_findSome?_eq_some e
      simpa [s1, e] using State.headAct_wf s c m h hm

/-! ### Machine/Cluster -/

@[simp] theorem State.setPeer_mem (s : State) (p : BitVec 3) (b : Option PeerBind) : (s.setPeer p b).mem = s.mem := by
  simp [State.setPeer]

theorem execCpeer_wf (a : Reg) (p : BitVec 3) (s : State) (h : Memory.wf s.mem = true) : AnswersCanonical (execCpeer a p s) := by
  refine State.issue_wf h fun t ht => ?_
  grind [State.trapAt_mem, State.asks_wf, State.setPeer_mem]

@[simp] theorem State.endTile_mem (s : State) (t : Tile) : (s.endTile t).mem = s.mem := rfl
@[simp] theorem State.applyTile_mem (s : State) (t : Tile) (e : Fin 256) : (s.applyTile t e).mem = s.mem := by
  simp only [State.applyTile]
  split <;> simp [mem_ite]

@[simp] theorem State.dropTile_mem (s : State) (t : Tile) (why : DropReason) : (s.dropTile t why).mem = s.mem := by
  simp [State.dropTile, mem_ite]

theorem execTileArrive_wf (id : Nat) (s : State) (h : Memory.wf s.mem = true) : AnswersCanonical (execTileArrive id s) := by
  simp only [execTileArrive, answersCanonical_next]
  repeat' split
  all_goals simp [h]

theorem execCbarArr_wf (b : BitVec 4) (s : State) (h : Memory.wf s.mem = true) : AnswersCanonical (execCbarArr b s) := by
  refine State.issue_wf h fun t ht => ?_
  repeat' split
  all_goals simp [ht]

theorem execCbarWait_wf (b : BitVec 4) (s : State) (h : Memory.wf s.mem = true) : AnswersCanonical (execCbarWait b s) := by
  refine State.issue_wf h fun t ht => ?_
  grind [State.trapAt_mem, State.leaveWait_mem, State.modCp_mem, State.modSlot_mem]

theorem execCbarcfgWrite_wf (cl : Fin 32) (b : BitVec 4) (v : Word) (s : State) (h : Memory.wf s.mem = true) :
    AnswersCanonical (execCbarcfgWrite cl b v s) := by simp [execCbarcfgWrite, h]

theorem execCbinjWrite_wf (cl : Fin 32) (v : Word) (s : State) (h : Memory.wf s.mem = true) : AnswersCanonical (execCbinjWrite cl v s) := by
  simp [execCbinjWrite, h]

/-! ### Machine/Mask -/

@[simp] theorem State.settleMload_mem (s : State) (c : CpId) : (s.settleMload c).mem = s.mem := by
  simp only [State.settleMload]
  split <;> simp [mem_ite]

theorem execMload_wf (a : Reg) (k : BitVec 4) (s : State) (h : Memory.wf s.mem = true) : AnswersCanonical (execMload a k s) := by
  refine State.issue_wf h fun t ht => ?_
  grind [State.withRecord_wf, State.readRecord_wf, State.answered_mem, State.modChiplet_mem, State.modSlot_mem, State.newId_mem, State.settleMload_mem, State.commandFault_mem]

/-! ### Machine/Kv -/

@[simp] theorem State.pushPages_mem (s : State) (p : BitVec 6) (home : Fin 2) (pages : List Nat) : (s.pushPages p home pages).mem = s.mem := rfl
@[simp] theorem State.freeBlock_mem (s : State) (k : Fin 2) (b : KvBlock) : (s.freeBlock k b).mem = s.mem := rfl
theorem State.takePages_mem (s : State) (k : Fin 2) (p : BitVec 6) (n fuel : Nat) {y : State × Fin 2 × List Nat}
    (e : s.takePages k p n fuel = some y) : y.1.mem = s.mem := by
  induction fuel generalizing s with
  | zero => cases e
  | succ fuel ih => grind -ring [State.takePages, State.modChiplet_mem, State.freeBlock_mem]

theorem State.takeBlocks_mem (s : State) (k : Fin 2) (p : BitVec 6) (m : Nat) {y : State × List KvBlock}
    (e : s.takeBlocks k p m = some y) : y.1.mem = s.mem := by
  induction m generalizing s y with
  | zero => cases e; rfl
  | succ m ih =>
    unfold State.takeBlocks at e
    extract_lets c w at e
    split at e
    · cases e
    · rename_i s1 home pages h1
      extract_lets b at e
      split at e
      · cases e
      · rename_i s2 l h2
        obtain rfl := Option.some.inj e
        have hp : s1.mem = s.mem := State.takePages_mem _ _ _ _ _ h1
        have hr : s2.mem = s1.newId.mem := ih _ h2
        simpa [hp] using hr

@[simp] theorem State.dropRef_mem (s : State) (k : Fin 2) (id : Nat) : (s.dropRef k id).mem = s.mem := by
  simp only [State.dropRef]
  split <;> simp [mem_ite]

@[simp] theorem State.append_mem (s : State) (k : Fin 2) (q : KvSeq) (fresh : List KvBlock) (ids : List W32) :
    (s.append k q fresh ids).1.mem = s.mem := rfl

theorem execKvapp_wf (x a b : Reg) (s : State) (h : Memory.wf s.mem = true) : AnswersCanonical (execKvapp x a b s) := by
  refine State.issue_wf h fun t ht => State.withRecord_wf ht fun ps => State.readRecord_wf ht fun u r hu => ?_
  extract_lets hdl
  split
  · simpa using hu
  · split
    · simpa using hu
    · split
      · simpa using hu
      · rename_i e
        simpa using (State.takeBlocks_mem _ _ _ _ e).symm ▸ hu

@[simp] theorem State.startSeq_mem (s : State) (k : Fin 2) (part : BitVec 5) (pool : BitVec 6) (e : Nat × BitVec 26) (blocks : List Nat) (t : Nat) :
    (s.startSeq k part pool e blocks t).1.mem = s.mem := rfl

theorem execKvlook_wf (x a b : Reg) (s : State) (h : Memory.wf s.mem = true) : AnswersCanonical (execKvlook x a b s) := by
  refine State.issue_wf h fun t ht => State.withRecord_wf ht fun ps => State.readRecord_wf ht fun u r hu => ?_
  extract_lets n p ia
  split
  · simpa using hu
  · split
    · simpa using hu
    · rename_i k _
      split
      · simpa using hu
      · split
        · simpa using hu
        · rename_i ip _
          split
          · exact hu
          · have hv := u.loadPieces_mem u.cur 4 ip
            split <;> rename_i e <;> rw [e] at hv
            · simpa using hv.symm ▸ hu
            · rename_i v ids
              have hv : Memory.wf v.mem = true := hv.symm ▸ hu
              split
              · simpa using hv
              · simpa using State.storeOrPark_wf _ _ _ _ _ _ (by simpa using hv)

theorem State.copyPage_wf (s : State) (src dst : PAddr) (h : Memory.wf s.mem = true) : Memory.wf (s.copyPage src dst).mem = true :=
  State.store_wf _ _ _ _ <| List.foldlRecOn _ _ (motive := fun m => Memory.wf m = true) (filter_wf _ _ h) fun m hm _ _ => memSet_wf m _ _ hm

theorem State.copyBlock_wf (s : State) (old new : KvBlock) (h : Memory.wf s.mem = true) : Memory.wf (s.copyBlock old new).1.mem = true :=
  foldl_wf _ _ _ (fun t _ ht => State.copyPage_wf t _ _ ht) h

theorem State.forkBlocks_wf (s : State) (k : Fin 2) (layers : Nat) (l : List Nat) (supply : List KvBlock) (h : Memory.wf s.mem = true) :
    Memory.wf (s.forkBlocks k layers l supply).1.mem = true := by
  induction l generalizing s supply with
  | nil => exact h
  | cons id rest ih =>
    unfold State.forkBlocks
    split
    · exact ih s supply h
    · split
      · exact ih _ supply h
      · split
        · exact ih s [] h
        · exact ih _ _ (State.copyBlock_wf s _ _ h)

theorem execKvfork_wf (x a b : Reg) (s : State) (h : Memory.wf s.mem = true) : AnswersCanonical (execKvfork x a b s) := by
  refine State.issue_wf h fun t ht => ?_
  extract_lets hdl k n c
  split
  · simpa using ht
  · extract_lets layers bs copies
    split
    · simpa using ht
    · split
      · simpa using ht
      · split
        · simpa using ht
        · rename_i e
          simpa using State.forkBlocks_wf _ _ _ _ _ ((State.takeBlocks_mem _ _ _ _ e).symm ▸ ht)

@[simp] theorem State.releaseSeq_mem (s : State) (k : Fin 2) (q : KvSeq) : (s.releaseSeq k q).mem = s.mem := by simp [State.releaseSeq]
theorem execKvrel_wf (a : Reg) (s : State) (h : Memory.wf s.mem = true) : AnswersCanonical (execKvrel a s) := by
  refine State.issue_wf h fun t ht => ?_
  split <;> simp [ht]

theorem execRingset_wf (a : Reg) (r : BitVec 8) (s : State) (h : Memory.wf s.mem = true) : AnswersCanonical (execRingset a r s) := by
  refine State.privileged_wf h <| State.issue_wf h fun t ht => State.withRecord_wf ht fun ps => State.readRecord_wf ht fun u b hu => ?_
  extract_lets n
  split
  · simpa using hu
  · refine State.withRecord_wf hu fun ps => State.readRecord_wf hu fun v b hv => ?_
    extract_lets l
    split <;> simpa using hv

theorem execKvpool_wf (a : Reg) (s : State) (h : Memory.wf s.mem = true) : AnswersCanonical (execKvpool a s) := by
  refine State.privileged_wf h <| State.issue_wf h fun t ht => State.withRecord_wf ht fun ps => State.readRecord_wf ht fun u b hu => ?_
  extract_lets k src dst
  split
  · simpa using hu
  · split
    · simpa using hu
    · simpa using State.storeOrPark_wf _ _ _ _ _ _ (by simpa using hu)

theorem execKvpoolWrite_wf (ch : Fin 2) (p : BitVec 6) (v : Word) (s : State) (h : Memory.wf s.mem = true) :
    AnswersCanonical (execKvpoolWrite ch p v s) := by
  unfold execKvpoolWrite
  rw [answersCanonical_next]
  extract_lets c s1 s2
  split
  · exact h
  · have h1 : s1.mem = s.mem := foldl_mem _ _ _ fun t b => State.freeBlock_mem t ch b
    have h2 : s2.mem = s.mem := h1
    split
    · exact h2.symm ▸ h
    · exact h2.symm ▸ h

theorem execKvinjWrite_wf (ch : Fin 2) (v : Word) (s : State) (h : Memory.wf s.mem = true) : AnswersCanonical (execKvinjWrite ch v s) := by
  simp [execKvinjWrite, h]

/-! ### Machine/Attention -/

@[simp] theorem State.sendResults_mem (s : State) (c : Call) (l : List Tok) : (s.sendResults c l).mem = s.mem :=
  foldl_mem _ _ _ fun _ _ => rfl

@[simp] theorem State.modCall_mem (s : State) (c : Call) (f : Call → Call) : (s.modCall c f).mem = s.mem := rfl
theorem State.callWrite_wf (s : State) (c : Call) (off : Nat) (v : Word) (h : Memory.wf s.mem = true) :
    Memory.wf (s.callWrite c off v).mem = true := by
  simp only [State.callWrite]
  repeat' split
  all_goals simp [h, State.storeOrPark_wf, State.store_wf]

@[simp] theorem State.dropResults_mem (s : State) (c : Call) : (s.dropResults c).mem = s.mem := rfl
@[simp] theorem State.dropBlocks_mem (s : State) (c : Call) : (s.dropBlocks c).mem = s.mem := by simp [State.dropBlocks]
@[simp] theorem State.settleCall_mem (s : State) (c : Call) : (s.settleCall c).mem = s.mem := by
  simp only [State.settleCall]
  split <;> simp [mem_ite]

@[simp] theorem State.reportCall_mem (s : State) (c : Call) (r : Report) : (s.reportCall c r).mem = s.mem := by
  unfold State.reportCall
  split <;> simp

theorem State.callFail_wf (s : State) (c : Call) (e : BitVec 8 × Word × Word × Word) (h : Memory.wf s.mem = true) :
    Memory.wf (s.callFail c e).mem = true := by simp [State.callFail, h, State.callWrite_wf]

@[simp] theorem State.attnGrant_mem (s : State) (c : CpId) (p : BitVec 5) : (s.attnGrant c p).mem = s.mem := rfl
theorem execAttn_wf (a : Reg) (s : State) (h : Memory.wf s.mem = true) : AnswersCanonical (execAttn a s) := by
  refine State.issue_wf h fun t ht => ?_
  grind [State.withRecord_wf, State.readRecord_wf, State.trapFree_mem, State.trapAnswer_mem, State.answered_mem, State.attnGrant_mem, State.modChiplet_mem, State.newId_mem]

@[simp] theorem State.tableError_mem (s : State) (c : Call) (pa : PAddr) : (s.tableError c pa).mem = s.mem := rfl
@[simp] theorem State.readDocs_mem (s : State) (c : Call) (a : Word) : (s.readDocs c a).1.mem = s.mem := by
  unfold State.readDocs
  split
  · rfl
  · split
    · rfl
    · split
      · rfl
      · rename_i p0 _
        have h1 := s.loadPieces_mem c.caller 8 p0
        split <;> rename_i e <;> rw [e] at h1
        · exact h1
        · rename_i s1 b
          extract_lets n
          split
          · exact h1
          · split
            · exact h1
            · rename_i ps _
              have h2 := s1.loadPieces_mem c.caller 8 ps
              split <;> rename_i e2 <;> rw [e2] at h2
              · exact h2.trans h1
              · split <;> exact h2.trans h1

@[simp] theorem State.callCheck_mem (s : State) (c : Call) : (s.callCheck c).1.mem = s.mem := by
  simp only [State.callCheck]
  repeat' split
  all_goals simp

theorem execAttnCallStart_wf (c : CpId) (p : BitVec 5) (s : State) (h : Memory.wf s.mem = true) :
    AnswersCanonical (execAttnCallStart c p s) := by
  simp only [execAttnCallStart, answersCanonical_next]
  grind [State.callCheck_mem, State.callFail_wf, State.modCall_mem]

@[simp] theorem State.countTiles_mem (s : State) (c : Call) (u : Nat) : (s.countTiles c u).mem = s.mem := by
  unfold State.countTiles
  split <;> rfl

@[simp] theorem State.scanReads_mem (s : State) (c : Call) (l : List (PAddr × Nat)) : (s.scanReads c l).1.mem = s.mem := by
  induction l generalizing s with
  | nil => rfl
  | cons a t ih => grind [State.scanReads, State.load_mem]

@[simp] theorem State.askBias_mem (s : State) (c : Call) (i : Nat) : (s.askBias c i).mem = s.mem := by
  unfold State.askBias
  split
  · rfl
  · refine foldl_mem _ _ _ fun t j => ?_
    split
    · rfl
    · split
      · rfl
      · split <;> simp

theorem State.copyError_mem (s : State) (c : Call) {t' : State} (e : s.copyError c = some t') : t'.mem = s.mem := by
  grind [State.copyError, State.modChiplet_mem]

theorem State.doRow_wf (s0 : State) (c : Call) (h : Memory.wf s0.mem = true) : Memory.wf (s0.doRow c).mem = true := by
  grind [State.doRow, State.askBias_mem, State.took_mem, State.scanReads_mem, State.copyError_mem, State.callFail_wf, State.countTiles_mem,
    State.modCall_mem]

@[simp] theorem State.sendOut_mem (s : State) (c : Call) : (s.sendOut c).mem = s.mem := by simp [State.sendOut]
theorem State.doRows_wf (s : State) (c : CpId) (p : BitVec 5) (id n : Nat) (h : Memory.wf s.mem = true) :
    Memory.wf (s.doRows c p id n).mem = true := by
  induction n generalizing s with
  | zero => exact h
  | succ n ih => grind [State.doRows, State.sendOut_mem, State.doRow_wf]

theorem State.writeKv_wf (s : State) (c : Call) (n : Nat) (v : W256) (h : Memory.wf s.mem = true) : Memory.wf (s.writeKv c n v).mem = true := by
  unfold State.writeKv
  split <;> simp [h, State.store_wf]

@[simp] theorem State.askMembers_mem (s : State) (c : Call) : (s.askMembers c).mem = s.mem := by
  unfold State.askMembers
  split
  · exact foldl_mem _ _ _ fun t n => by split <;> simp
  · rfl

theorem execAttnInputToken_wf (c : CpId) (p : BitVec 5) (t : Tok) (s : State) (h : Memory.wf s.mem = true) :
    AnswersCanonical (execAttnInputToken c p t s) := by
  simp only [execAttnInputToken, answersCanonical_next]
  repeat' split
  all_goals simp [h, State.writeKv_wf, State.doRows_wf]

@[simp] theorem State.removeCall_mem (s : State) (c : Call) : (s.removeCall c).mem = s.mem := rfl
theorem State.callSignal_wf (s : State) (c : Call) (pa : PAddr) (h : Memory.wf s.mem = true) : Memory.wf (s.callSignal c pa).mem = true := by
  simp only [State.callSignal]
  repeat' split
  all_goals simp [h, State.engineSignal_wf]

theorem State.finishCall_wf (s : State) (c : Call) (h : Memory.wf s.mem = true) : Memory.wf (s.finishCall c).mem = true := by
  grind [State.finishCall, State.callWrite_wf, State.callSignal_wf, State.removeCall_mem, State.dropBlocks_mem]

theorem execAttnCallComplete_wf (c : CpId) (p : BitVec 5) (s : State) (h : Memory.wf s.mem = true) :
    AnswersCanonical (execAttnCallComplete c p s) := by
  simp only [execAttnCallComplete, answersCanonical_next]
  repeat' split
  all_goals simp [h, State.finishCall_wf, State.doRows_wf]

theorem execRingMemberPartial_wf (c : CpId) (p : BitVec 5) (member : Nat) (parts : List RingPart) (bad : MemberFault) (s : State) (h : Memory.wf s.mem = true) :
    AnswersCanonical (execRingMemberPartial c p member parts bad s) := by
  simp only [execRingMemberPartial, answersCanonical_next]
  repeat' split
  all_goals simp [h, State.callFail_wf, State.doRows_wf]

theorem execRingMemberSilent_wf (c : CpId) (p : BitVec 5) (s : State) (h : Memory.wf s.mem = true) :
    AnswersCanonical (execRingMemberSilent c p s) := by
  simp only [execRingMemberSilent, answersCanonical_next]
  repeat' split
  all_goals simp [h, State.callFail_wf]

theorem State.mstat_wf {s : State} {sel : Fin 4} {x a : Reg} (h : Memory.wf s.mem = true) : AnswersCanonical (s.mstat sel x a) := by
  refine State.issue_wf h fun t ht => State.withRecord_wf ht fun ps => State.readField_wf ht fun u b hu => ?_
  split
  · simpa using hu
  · split
    · simpa using hu
    · exact State.readField_wf hu fun v b hv => by simpa using hv

/-! ### Machine/Die -/

@[simp] theorem State.msix_mem (s : State) (fn : BitVec 8) (v : Nat) : (s.msix fn v).mem = s.mem := rfl
@[simp] theorem State.noteErr_mem (s : State) (q reason : Nat) (seq : W32) : (s.noteErr q reason seq).mem = s.mem := by
  simp [State.noteErr]

theorem execWqTailWrite_wf (fn : BitVec 8) (q : Fin 4096) (v : W32) (s : State) (h : Memory.wf s.mem = true) :
    AnswersCanonical (execWqTailWrite fn q v s) := by
  simp only [execWqTailWrite, answersCanonical_next]
  repeat' split
  all_goals simp [h]

theorem execWqRingWrite_wf (fn : BitVec 8) (q : Fin 4096) (wid : Word) (s : State) (h : Memory.wf s.mem = true) :
    AnswersCanonical (execWqRingWrite fn q wid s) := by
  simp only [execWqRingWrite, answersCanonical_next]
  repeat' split
  all_goals simp [h]

@[simp] theorem State.firmwareRead_mem (s : State) (d : Fin 4) (part : BitVec 5) (a : Word) (n : Nat) :
    (s.firmwareRead d part a n).1.mem = s.mem := by
  simp only [State.firmwareRead]
  repeat' split
  all_goals simp

@[simp] theorem State.slateCounterOk_mem (s : State) (d : Fin 4) (part : BitVec 5) (a : Word) : (s.slateCounterOk d part a).1.mem = s.mem := by
  simp only [State.slateCounterOk]
  repeat' split
  all_goals simp

@[simp] theorem State.entryOk_mem (s : State) (d : Fin 4) (part : BitVec 5) (entry : Word) : (s.entryOk d part entry).1.mem = s.mem := by
  simp only [State.entryOk]
  repeat' split
  all_goals simp

@[simp] theorem State.depsOk_mem (s : State) (d : Fin 4) (part : BitVec 5) (dep : Word) (ndep : Nat) :
    (s.depsOk d part dep ndep).1.mem = s.mem := by grind [State.depsOk, State.firmwareRead_mem]

@[simp] theorem State.slateAddrOk_mem (s : State) (d : Fin 4) (part : BitVec 5) (b : List Byte) : (s.slateAddrOk d part b).1.mem = s.mem := by
  simp [State.slateAddrOk]

@[simp] theorem State.slateRefusal_mem (s : State) (q : Nat) (b : List Byte) : (s.slateRefusal q b).1.mem = s.mem := by
  grind [State.slateRefusal, State.slateAddrOk_mem]

theorem State.accept_wf (s : State) (q : Nat) (seq : W32) (part : BitVec 5) (b : List Byte) (gang : Option Word) (h : Memory.wf s.mem = true) :
    Memory.wf (s.accept q seq part b gang).mem = true := by simp [State.accept, h, State.setBytes_wf]

@[simp] theorem State.refuse_mem (s : State) (q reason : Nat) (seq : W32) : (s.refuse q reason seq).mem = s.mem := by
  simp [State.refuse]

theorem execSlateTake_wf (q : Fin 4096) (s : State) (h : Memory.wf s.mem = true) : AnswersCanonical (execSlateTake q s) := by
  simp only [execSlateTake, answersCanonical_next]
  grind [State.setWq_mem, State.refuse_mem, State.load_mem, State.slateRefusal_mem, State.accept_wf]

@[simp] theorem State.modLaunch_mem (s : State) (id : Nat) (f : Launch → Launch) : (s.modLaunch id f).mem = s.mem := rfl
theorem execDependenceRead_wf (launch : Nat) (i : Fin 4) (s : State) (h : Memory.wf s.mem = true) :
    AnswersCanonical (execDependenceRead launch i s) := by
  unfold execDependenceRead
  split <;> grind [answersCanonical_next, answersCanonical_fault, State.firmwareRead_mem, State.refuse_mem, State.modLaunch_mem]

theorem State.flushToken_wf (s : State) (c : CpId) (t : RingTok) (h : Memory.wf s.mem = true) : Memory.wf (s.flushToken c t).mem = true := by
  simp only [State.flushToken]
  repeat' split
  all_goals simp [h, State.store_wf]

@[simp] theorem State.loseNext_mem (s : State) (c : CpId) (r : Fin 4) : (s.loseNext c r).mem = s.mem := by simp [State.loseNext, mem_ite]
@[simp] theorem State.charge_mem (s : State) (c : CpId) : (s.charge c).mem = s.mem := by
  unfold State.charge
  split <;> rfl

@[simp] theorem State.answerIn_mem (s : State) (c : CpId) : (s.answerIn c).mem = s.mem := by
  simp only [State.answerIn]
  split <;> simp

theorem State.preempt_wf (s : State) (c : CpId) (h : Memory.wf s.mem = true) : Memory.wf (s.preempt c).mem = true := by
  unfold State.preempt
  extract_lets s0 p s1 s2 s3
  have h0 : s0.mem = s.mem := by simp [s0]
  have h1 : s1.mem = s.mem := by
    refine Eq.trans ?_ h0
    unfold s1
    split
    · split <;> simp
    · rfl
  have h2 : s2.mem = s.mem := by
    refine (foldl_mem _ _ _ fun t r => ?_).trans h1
    split <;> simp
  have h3 : Memory.wf s3.mem = true := foldl_wf _ _ _ (fun t x => State.flushToken_wf t c x) (h2.symm ▸ h)
  exact (foldl_mem _ _ _ fun t r => State.loseNext_mem t c r).symm ▸ h3

theorem State.leaveStore_wf (s : State) (c : CpId) (w : Posted) (h : Memory.wf s.mem = true) : Memory.wf (s.leaveStore c w).mem = true := by
  simp only [State.leaveStore]
  repeat' split
  all_goals simp [h, State.slotted_wf, State.completeStore_wf]

theorem State.drainOut_wf (s : State) (c : CpId) (h : Memory.wf s.mem = true) : Memory.wf (s.drainOut c).mem = true := by
  unfold State.drainOut
  extract_lets s1 s2 s3
  have h1 : Memory.wf s1.mem = true := foldl_wf _ _ _ (fun t w => State.leaveStore_wf t c w) h
  have h2 : Memory.wf s2.mem = true := by
    refine foldl_wf _ _ _ (fun t x ht => ?_) h1
    split
    · simpa using ht
    · split
      · exact State.leaveStore_wf _ _ _ ht
      · exact ht
  exact h2

theorem State.emptySlot_wf (s : State) (c : CpId) (h : Memory.wf s.mem = true) : Memory.wf (s.emptySlot c).mem = true := by
  simp [State.emptySlot, h, State.drainOut_wf]

@[simp] theorem State.beginSwap_mem (s : State) (k : Fin 256) (i : Fin 2) : (s.beginSwap k i).mem = s.mem := rfl
@[simp] theorem State.setStatus_mem (s : State) (c : CpId) (v : BitVec 8) : (s.setStatus c v).mem = s.mem := rfl
@[simp] theorem State.setShare_mem (s : State) (c : CpId) : (s.setShare c).mem = s.mem := rfl
theorem State.zeroKeys_wf (s : State) (f : Nat → Bool) (h : Memory.wf s.mem = true) : Memory.wf (s.zeroKeys f).mem = true :=
  filter_wf _ _ h

theorem State.claimShare_wf (s : State) (c : CpId) (h : Memory.wf s.mem = true) : Memory.wf (s.claimShare c).mem = true := by
  simp [State.claimShare, h, State.zeroKeys_wf]

theorem State.zeroHeld_wf (s : State) (p : BitVec 5) (h : Memory.wf s.mem = true) : Memory.wf (s.zeroHeld p).mem = true := by
  simp [State.zeroHeld, h, State.zeroKeys_wf]

theorem State.bindNow_wf (s : State) (c : CpId) (h : Memory.wf s.mem = true) : Memory.wf (s.bindNow c).mem = true := by
  simp [State.bindNow, h, State.claimShare_wf]

@[simp] theorem State.logArrays_mem (s : State) (c : CpId) (lo hi : Nat) : (s.logArrays c lo hi).mem = s.mem :=
  foldl_mem _ _ _ fun t m => by
    split
    · split <;> simp
    · rfl

theorem State.spill_wf (s : State) (c : CpId) (h : Memory.wf s.mem = true) : Memory.wf (s.spill c).mem = true := by
  simp only [State.spill]
  split <;> simp [h, State.store_wf]

@[simp] theorem State.unspill_mem (s : State) (c : CpId) : (s.unspill c).mem = s.mem := by simp [State.unspill, mem_ite]
@[simp] theorem State.exchange_mem (s : State) (inn : CpId) (out : Option CpId) : (s.exchange inn out).mem = s.mem := by
  simp only [State.exchange]
  split <;> simp [mem_ite]

theorem execSlotSwapDone_wf (core : Fin 256) (s : State) (h : Memory.wf s.mem = true) : AnswersCanonical (execSlotSwapDone core s) := by
  simp only [execSlotSwapDone, answersCanonical_next]
  repeat' split
  all_goals simp [h, State.spill_wf, State.bindNow_wf]

@[simp] theorem State.storeImage_mem (s : State) (c : CpId) : (s.storeImage c).mem = s.mem := by
  unfold State.storeImage
  split <;> simp

theorem State.swapSlots_wf (s : State) (c : CpId) (h : Memory.wf s.mem = true) : Memory.wf (s.swapSlots c).mem = true := by
  simp [State.swapSlots, h, State.preempt_wf]

@[simp] theorem State.writeCfg_mem (s : State) (c : CpId) (cfg : Word) : (s.writeCfg c cfg).mem = s.mem := rfl
@[simp] theorem State.refuseCmd_mem (s : State) (c : CpId) (cfg : Word) (v : BitVec 8) : (s.refuseCmd c cfg v).mem = s.mem := rfl
@[simp] theorem State.freshTime_mem (s : State) (k : Fin 256) : (s.freshTime k).mem = s.mem := rfl
theorem State.bindCmd_wf (s : State) (c : CpId) (cfg : Word) (l : Option Launch) (h : Memory.wf s.mem = true) :
    Memory.wf (s.bindCmd c cfg l).mem = true := by
  simp only [State.bindCmd]
  repeat' split
  all_goals simp [h, State.claimShare_wf, State.bindNow_wf]

theorem execCmdBind_wf (c : CpId) (cfg : Word) (s : State) (h : Memory.wf s.mem = true) : AnswersCanonical (execCmdBind c cfg s) := by
  simp only [execCmdBind, answersCanonical_next]
  split <;> simp [h, State.bindCmd_wf]

theorem execCmdSwap_wf (c : CpId) (cfg : Word) (s : State) (h : Memory.wf s.mem = true) : AnswersCanonical (execCmdSwap c cfg s) := by
  simp only [execCmdSwap, answersCanonical_next]
  repeat' split
  all_goals simp [h, State.swapSlots_wf]

theorem State.unbind_wf (s : State) (c : CpId) (h : Memory.wf s.mem = true) : Memory.wf (s.unbind c).mem = true := by
  simp only [State.unbind]
  repeat' split
  all_goals simp [h, State.emptySlot_wf, State.preempt_wf]

theorem execCmdUnbind_wf (c : CpId) (cfg : Word) (s : State) (h : Memory.wf s.mem = true) : AnswersCanonical (execCmdUnbind c cfg s) := by
  simp only [execCmdUnbind, answersCanonical_next]
  repeat' split
  all_goals simp [h, State.unbind_wf]

theorem execCmdRing_wf (c : CpId) (cfg : Word) (s : State) (h : Memory.wf s.mem = true) : AnswersCanonical (execCmdRing c cfg s) := by
  simp only [execCmdRing, answersCanonical_next]
  repeat' split
  all_goals simp [h]

@[simp] theorem State.modGang_mem (s : State) (gid : Word) (f : Gang → Gang) : (s.modGang gid f).mem = s.mem := rfl
theorem State.gangSignal_wf (s : State) (g : Gang) (h : Memory.wf s.mem = true) : Memory.wf (s.gangSignal g).mem = true := by
  simp only [State.gangSignal]
  repeat' split
  all_goals simp [h, State.addCounter_wf]

theorem State.enterState_wf (s : State) (gid : Word) (x : GangState) (h : Memory.wf s.mem = true) :
    Memory.wf (s.enterState gid x).mem = true := by
  simp only [State.enterState]
  repeat' split
  all_goals simp [h, State.firmwareStore_wf, State.gangSignal_wf]

theorem State.gangRetire_wf (s : State) (gid : Word) (h : Memory.wf s.mem = true) : Memory.wf (s.gangRetire gid).mem = true := by
  simp only [State.gangRetire]
  repeat' split
  all_goals simp [h, State.enterState_wf]

theorem State.startOne_wf (s : State) (launch : Nat) (wid : Word) (c : CpId) {t' : State} (h : Memory.wf s.mem = true) (e : s.startOne launch wid c = some t') :
    Memory.wf t'.mem = true := by grind [State.startOne, State.modSlot_mem, State.took_mem, State.bindCmd_wf, State.modLaunch_mem]

theorem State.startAll_wf (s : State) (launch : Nat) (l : Launch) (n : Nat) (cs : List CpId) {t' : State} (h : Memory.wf s.mem = true)
    (e : s.startAll launch l n cs = some t') : Memory.wf t'.mem = true := by
  induction cs generalizing s n with
  | nil => cases e; exact h
  | cons c t ih => grind [State.startAll, State.startOne_wf]

theorem State.startNext_wf (s : State) (l : Launch) (c : CpId) {t' : State} (h : Memory.wf s.mem = true) (e : s.startNext l c = some t') :
    Memory.wf t'.mem = true := by grind [State.startNext, State.startOne_wf, State.startAll_wf]

theorem execTaskStart_wf (launch : Nat) (wid : Word) (c : CpId) (s : State) (h : Memory.wf s.mem = true) :
    AnswersCanonical (execTaskStart launch wid c s) := by
  unfold execTaskStart
  rw [answersCanonical_next]
  split
  · exact h
  · rename_i l _
    split
    · exact h
    · split
      · exact h
      · rcases e : s.startNext l c with _ | t
        · exact h
        · exact State.startNext_wf s l c h e

@[simp] theorem State.stopTakes_mem (s : State) (c : CpId) : (s.stopTakes c).mem = s.mem :=
  foldl_mem _ _ _ fun t r => State.stopTake_mem t c r

@[simp] theorem State.discardQueue_mem (s : State) (c : CpId) : (s.discardQueue c).mem = s.mem := rfl
theorem State.retired_wf (s : State) (c : CpId) (h : Memory.wf s.mem = true) : Memory.wf (s.retired c).mem = true := by
  simp only [State.retired]
  repeat' split
  all_goals simp [h, State.launchProgress_wf, State.gangRetire_wf]

theorem execTaskRetire_wf (c : CpId) (s : State) (h : Memory.wf s.mem = true) : AnswersCanonical (execTaskRetire c s) := by
  simp only [execTaskRetire, answersCanonical_next]
  repeat' split
  all_goals simp [h, State.retired_wf]

theorem State.swapWhole_wf (s : State) (core : Fin 256) (h : Memory.wf s.mem = true) : Memory.wf (s.swapWhole core).mem = true := by
  unfold State.swapWhole
  extract_lets cs
  split
  · exact foldl_wf _ _ _ (fun t x => State.swapSlots_wf t x) h
  · exact h

theorem execSchedulerQuantum_wf (core : Fin 256) (s : State) (h : Memory.wf s.mem = true) : AnswersCanonical (execSchedulerQuantum core s) := by
  simp only [execSchedulerQuantum, answersCanonical_next]
  split <;> simp [h, State.swapWhole_wf]

theorem execSpctlGo_wf (d : Fin 4) (k : Fin 2) (v : Word) (s : State) (h : Memory.wf s.mem = true) :
    AnswersCanonical (execSpctlGo d k v s) := by simp [execSpctlGo, h]

@[simp] theorem State.copyRow_mem (s : State) (d : Fin 4) (k : Fin 2) : (s.copyRow d k).mem = s.mem := by simp [State.copyRow]
theorem execSpareRowCopy_wf (d : Fin 4) (k : Fin 2) (s : State) (h : Memory.wf s.mem = true) : AnswersCanonical (execSpareRowCopy d k s) := by
  simp only [execSpareRowCopy, answersCanonical_next]
  split <;> simp [h]

theorem execEinjWrite_wf (core : Fin 256) (v : Word) (s : State) (h : Memory.wf s.mem = true) : AnswersCanonical (execEinjWrite core v s) := by
  simp [execEinjWrite, h]

theorem execHinjWrite_wf (d : Fin 4) (k : Fin 2) (v : Word) (s : State) (h : Memory.wf s.mem = true) :
    AnswersCanonical (execHinjWrite d k v s) := by simp [execHinjWrite, h]

theorem execCrossingChannelOpen_wf (a : CpId) (p : BitVec 5) (b : CpId) (q : BitVec 5) (s : State) (h : Memory.wf s.mem = true) :
    AnswersCanonical (execCrossingChannelOpen a p b q s) := by
  simp only [execCrossingChannelOpen, answersCanonical_next]
  repeat' split
  all_goals simp [h]

theorem execWindowGrant_wf (c : CpId) (p : BitVec 5) (s : State) (h : Memory.wf s.mem = true) : AnswersCanonical (execWindowGrant c p s) := by
  simp only [execWindowGrant, answersCanonical_next]
  repeat' split
  all_goals simp [h]

theorem execFaultRecordOffer_wf (x : RecSource) (s : State) (h : Memory.wf s.mem = true) : AnswersCanonical (execFaultRecordOffer x s) := by
  simp only [execFaultRecordOffer, answersCanonical_next]
  repeat' split
  all_goals simp [h]

@[simp] theorem State.reportRec_mem (s : State) (r : FaultRec) : (s.reportRec r).mem = s.mem := by simp [State.reportRec, mem_ite]
theorem execFbctlHeadWrite_wf (d : Fin 4) (v : W32) (s : State) (h : Memory.wf s.mem = true) : AnswersCanonical (execFbctlHeadWrite d v s) := by
  simp only [execFbctlHeadWrite, answersCanonical_next]
  split <;> simp [h]

@[simp] theorem State.creditSlot_mem (s : State) (d : Fin 4) (c : CpId) (uj : Word) : (s.creditSlot d c uj).mem = s.mem := rfl
@[simp] theorem State.divide_mem (s : State) (d : Fin 4) (l : List CpId) (x : Word) : (s.divide d l x).mem = s.mem := by
  induction l generalizing s x with
  | nil => rfl
  | cons c t ih => simp [State.divide, ih]

theorem execEnergySample_wf (d : Fin 4) (uj : Word) (s : State) (h : Memory.wf s.mem = true) : AnswersCanonical (execEnergySample d uj s) := by
  simp [execEnergySample, h]

/-! ### Machine/Registers -/

@[simp] theorem State.setTdi_mem (s : State) (fn : BitVec 8) (x : Tdi) : (s.setTdi fn x).mem = s.mem := by
  unfold State.setTdi
  split <;> rfl

theorem State.unbindPart_wf (s : State) (p : BitVec 5) (h : Memory.wf s.mem = true) : Memory.wf (s.unbindPart p).mem = true :=
  foldl_wf _ _ _ (fun t c => State.unbind_wf t c) h

@[simp] theorem State.installKey_mem (s : State) (p : BitVec 5) (key : BitVec 256) : (s.installKey p key).mem = s.mem := rfl
@[simp] theorem State.rekey_mem (s : State) (p : BitVec 5) : (s.rekey p).mem = s.mem := rfl
@[simp] theorem State.askEscrow_mem (s : State) (p : BitVec 5) (restore : Bool) : (s.askEscrow p restore).mem = s.mem := by
  simp [State.askEscrow]

@[simp] theorem State.escrowKey_mem (s : State) (p : BitVec 5) : (s.escrowKey p).mem = s.mem := by simp [State.escrowKey]
theorem State.tdiError_wf (s : State) (fn : BitVec 8) (h : Memory.wf s.mem = true) : Memory.wf (s.tdiError fn).mem = true := by
  unfold State.tdiError
  split
  · exact h
  · rw [State.setTdi_mem]
    refine foldl_wf _ _ _ (fun t p ht => ?_) h
    simpa using State.unbindPart_wf t p ht

@[simp] theorem State.mailboxDone_mem (s : State) (result detail : Nat) : (s.mailboxDone result detail).mem = s.mem := rfl
@[simp] theorem State.mailboxGo_mem (s : State) (v : Word) : (s.mailboxGo v).mem = s.mem := by
  simp only [State.mailboxGo]
  repeat' split
  all_goals simp

theorem State.setOwner_wf (s : State) (cl : Fin 32) (u : Fin 128) (o : Option (BitVec 5)) (h : Memory.wf s.mem = true) :
    Memory.wf (s.setOwner cl u o).mem = true := by
  unfold State.setOwner
  split <;> simp [h, State.zeroKeys_wf]

@[simp] theorem State.setGranule_mem (s : State) (d : Fin 4) (g : Fin 94) (o : Option (BitVec 5)) : (s.setGranule d g o).mem = s.mem := by
  unfold State.setGranule
  split <;> rfl

theorem State.writeReg_wf (s : State) (r : MReg) (v : Word) (h : Memory.wf s.mem = true) : Memory.wf (s.writeReg r v).mem = true := by
  cases r with
  | wqBase q | wqCfg q | wqErr q => exact (State.setWq_mem s q.val _).symm ▸ h
  | bindRec c w =>
    match w with
    | 0 | 1 | 2 => exact h
    | 3 =>
      change Memory.wf (if wbits v 39 36 = 0 then s.writeCfg c v else s.refuseCmd c v ((s.cmdBlocked c).getD 0x11)).mem = true
      split <;> exact h
  | owner cl u => exact State.setOwner_wf s cl u (ownerField v) h
  | granule d g => exact (State.setGranule_mem s d g (ownerField v)).symm ▸ h
  | mbcmd => exact (State.mailboxGo_mem s v).symm ▸ h
  | mbarg i =>
    change Memory.wf (if s.mailbox.busy then s else { s with mailbox := _ }).mem = true
    split <;> exact h
  | hsteer fn =>
    have e : s.writeReg (.hsteer fn) v =
      if h : fn.toNat < 253 then { s with hsteer := vmod s.hsteer ⟨fn.toNat, h⟩ fun _ => v.getLsbD 0 } else s := rfl
    rw [e]
    split <;> exact h
  | _ => exact h

theorem execRegisterWrite_wf (off : Nat) (v : Word) (s : State) (h : Memory.wf s.mem = true) : AnswersCanonical (execRegisterWrite off v s) := by
  simp only [execRegisterWrite, answersCanonical_next]
  repeat' split
  all_goals simp [h, State.writeReg_wf, State.tdiError_wf]

/-! ### Machine/Firmware -/

/-- The state that a mailbox command's effect leaves, if it leaves one, has the canonical form of memory. -/
@[simp] def MbOut.Canonical : MbOut → Prop
  | .ok t | .waits t => Memory.wf t.mem = true
  | .error _ => True

theorem State.command_wf {s : State} {code : Nat} {fns : List (BitVec 8)} {f : State → MbOut} (h : Memory.wf s.mem = true)
    (hf : (f s).Canonical) : AnswersCanonical (s.command code fns f) := by
  unfold State.command
  rw [answersCanonical_next]
  split
  · exact h
  · split
    · simpa using h
    · rw [State.mailboxDone_mem]; exact State.tdiError_wf s _ h
    · rename_i e _; rw [e] at hf; simpa using hf
    · rename_i e _; rw [e] at hf; exact hf

@[simp] theorem State.giveGranule_mem (s : State) (p : BitVec 5) (x : Fin 4 × Fin 94) : (s.giveGranule p x).mem = s.mem := by
  simp [State.giveGranule]

@[simp] theorem State.createPart_mem (s : State) (b : List Byte) (p : BitVec 5) (fn : BitVec 8) (grans : List (Fin 4 × Fin 94)) :
    (s.createPart b p fn grans).mem = s.mem := by
  unfold State.createPart
  extract_lets rk s1 salt s2 s3 m s4
  have h1 : s1.mem = s.mem := foldl_mem _ _ _ fun t g => State.giveGranule_mem t p g
  have h2 : s2.mem = s.mem := (foldl_mem _ _ _ fun t k => State.modChiplet_mem t k _).trans h1
  have h3 : s3.mem = s.mem := (foldl_mem _ _ _ fun t d => State.modDie_mem t d _).trans h2
  have h4 : s4.mem = s.mem := (State.modPart_mem _ _ _).trans h3
  exact (State.installKey_mem s4 p (Config.drawKey s.fresh)).trans h4

@[simp] theorem State.hostReads_mem (s : State) (code addr : Nat) : (s.hostReads code addr).mem = s.mem := by
  unfold State.hostReads
  split <;> rfl

theorem execCreate_wf (s : State) (h : Memory.wf s.mem = true) : AnswersCanonical (execCreate s) := by
  unfold execCreate
  have h : Memory.wf (s.hostReads 1 (s.mbarg 0).toNat).mem = true := by simpa using h
  refine State.command_wf h ?_
  generalize s.hostReads 1 (s.mbarg 0).toNat = s at h
  extract_lets b n free
  clear_value b n free
  repeat' split
  all_goals simp [h]

/-- Stated once about a variable: of a computed state the kernel would compare the launches first. -/
theorem State.keepLaunches_mem (s : State) (l : List Launch) (m : List (Nat × List Byte)) : ({ s with launches := l, meas := m } : State).mem = s.mem :=
  rfl

theorem State.disown_wf (s : State) (p : BitVec 5) (l : List (Fin 32)) (m : List (Fin 128)) (h : Memory.wf s.mem = true) :
    Memory.wf (l.foldl (fun t cl => m.foldl (fun t u => if (t.cluster cl).owners.get u == some p then t.setOwner cl u none else t) t) s).mem = true := by
  refine foldl_wf _ _ _ (fun t cl ht => foldl_wf _ _ _ (fun t u ht => ?_) ht) h
  split
  · exact State.setOwner_wf _ _ _ _ ht
  · exact ht

theorem State.destroyPart_wf (s : State) (p : BitVec 5) (h : Memory.wf s.mem = true) : Memory.wf (s.destroyPart p).mem = true := by
  unfold State.destroyPart
  extract_lets s1 s2 s3 s4 s5 r t
  have h1 : Memory.wf s1.mem = true := by simpa [s1] using State.unbindPart_wf s p h
  clear_value s1
  have h2 : Memory.wf s2.mem = true := State.zeroHeld_wf s1 p h1
  have h3 : Memory.wf s3.mem = true := State.disown_wf s2 p _ _ h2
  have h4 : s4.mem = s3.mem := foldl_mem _ _ _ fun t k => State.modChiplet_mem t k _
  have h5 : s5.mem = s3.mem := (foldl_mem _ _ _ fun t d => State.modDie_mem t d _).trans h4
  have h6 : t.mem = s3.mem := (State.modPart_mem s5 p _).trans h5
  rw [State.keepLaunches_mem t, h6]
  exact h3

theorem execDestroy_wf (s : State) (h : Memory.wf s.mem = true) : AnswersCanonical (execDestroy s) := by
  unfold execDestroy
  refine State.command_wf h ?_
  repeat' split
  · trivial
  · trivial
  · exact State.destroyPart_wf s _ h

theorem execCores_wf (s : State) (h : Memory.wf s.mem = true) : AnswersCanonical (execCores s) := by
  unfold execCores
  refine State.command_wf h ?_
  extract_lets d mask
  repeat' split
  all_goals simp [h]

theorem execQueue_wf (s : State) (h : Memory.wf s.mem = true) : AnswersCanonical (execQueue s) := by
  unfold execQueue
  refine State.command_wf h ?_
  repeat' split
  all_goals simp [h]

theorem execEscrow_wf (s : State) (h : Memory.wf s.mem = true) : AnswersCanonical (execEscrow s) := by
  unfold execEscrow
  refine State.command_wf h ?_
  repeat' split
  all_goals simp [h]

theorem State.writeTier_wf (s : State) (n : Nat) (l : List (Nat × BitVec 20 × Word × Word)) (n' left : Nat) (h : Memory.wf s.mem = true) :
    Memory.wf (s.writeTier n l n' left).1.mem = true := by
  induction l generalizing s n' left with
  | nil => exact h
  | cons x t ih =>
    obtain ⟨kind, ep, base, len⟩ := x
    unfold State.writeTier
    dsimp only
    split
    · exact h
    · split
      · exact ih _ _ _ (State.setBytes_wf s _ _ h)
      · exact ih _ _ _ (by simpa using h)

theorem State.pause_wf (s : State) (c : CpId) (h : Memory.wf s.mem = true) : Memory.wf (s.pause c).mem = true := by
  unfold State.pause
  split <;> simp [h, State.preempt_wf]

theorem execCheckpoint_wf (s : State) (h : Memory.wf s.mem = true) : AnswersCanonical (execCheckpoint s) := by
  unfold execCheckpoint
  have h : Memory.wf (s.hostReads 6 (s.mbarg 0).toNat).mem = true := by simpa using h
  refine State.command_wf h ?_
  generalize s.hostReads 6 (s.mbarg 0).toNat = s at h
  split
  · trivial
  · rename_i l _
    extract_lets s1 copies size
    have h1 : Memory.wf s1.mem = true := foldl_wf _ _ _ (fun t c => State.pause_wf t c) h
    split
    · trivial
    · have h2 := State.writeTier_wf s1.took s1.fresh l 0 size (by simpa using h1)
      split
      rename_i s2 w e
      rw [e] at h2
      extract_lets s3
      have h3 : Memory.wf s3.mem = true := h2
      exact foldl_wf _ _ _ (fun t p ht => by simpa using ht) h3

@[simp] theorem State.putGranule_mem (s : State) (p : BitVec 5) (g : Fin 4 × Nat) : (s.putGranule p g).mem = s.mem := by
  unfold State.putGranule
  split <;> rfl

@[simp] theorem State.putImage_mem (s : State) (x : CpId × Slot) : (s.putImage x).mem = s.mem := by simp [State.putImage, mem_ite]
@[simp] theorem State.putBlock_mem (s : State) (x : Fin 2 × KvBlock) : (s.putBlock x).mem = s.mem := by simp [State.putBlock, mem_ite]
@[simp] theorem State.putSeq_mem (s : State) (x : Fin 2 × KvSeq) : (s.putSeq x).mem = s.mem := by
  unfold State.putSeq
  split <;> rfl

theorem State.unseal_wf (s : State) (x : SafeCopy) (h : Memory.wf s.mem = true) : Memory.wf (s.unseal x).mem = true := by
  unfold State.unseal
  extract_lets s1 gone s2 s3 s4
  have h1 : s1.mem = s.mem := foldl_mem _ _ _ fun t g => State.putGranule_mem t x.part g
  have h2 : Memory.wf s2.mem = true := by
    refine List.foldlRecOn x.mem _ (motive := fun m => Memory.wf m = true) ?_ fun m hm c _ => memSet_wf _ _ _ hm
    exact filter_wf _ _ (h1.symm ▸ h)
  clear_value s2
  have h3 : s3.mem = s2.mem := by
    refine (foldl_mem _ _ _ fun t q => State.putSeq_mem t q).trans ?_
    exact foldl_mem _ _ _ fun t b => State.putBlock_mem t b
  have h4 : s4.mem = s3.mem := (foldl_mem _ _ _ fun t c => State.putImage_mem t c).trans (State.installKey_mem _ _ _)
  have h5 : Memory.wf s4.mem = true := by rw [h4, h3]; exact h2
  split
  · exact h5
  · simpa using h5

theorem execRestore_wf (s : State) (h : Memory.wf s.mem = true) : AnswersCanonical (execRestore s) := by
  unfold execRestore
  have h : Memory.wf (s.hostReads 7 (s.mbarg 0).toNat).mem = true := by simpa using h
  refine State.command_wf h ?_
  generalize s.hostReads 7 (s.mbarg 0).toNat = s at h
  split
  · trivial
  · rename_i l _
    split
    · trivial
    · extract_lets copies s1
      have h1 : s1.mem = s.mem := foldl_mem _ _ _ fun t x => by split <;> simp
      have h1 : Memory.wf s1.mem = true := h1.symm ▸ h
      repeat' split
      · trivial
      · trivial
      · exact foldl_wf _ _ _ (fun t q ht => by simpa using ht) h1
      · trivial
      · trivial
      · exact foldl_wf _ _ _ (fun t x => State.unseal_wf t x) h1

theorem execPower_wf (s : State) (h : Memory.wf s.mem = true) : AnswersCanonical (execPower s) := by
  unfold execPower
  refine State.command_wf h ?_
  split
  · trivial
  · exact h

theorem execPowerControlWindow_wf (d : Fin 4) (pmw : BitVec 24) (temp : BitVec 8) (skip : BitVec 16) (s : State) (h : Memory.wf s.mem = true) :
    AnswersCanonical (execPowerControlWindow d pmw temp skip s) := by
  unfold execPowerControlWindow
  rw [answersCanonical_next]
  exact h

/-! ### Machine/Host -/

theorem execTdispMessage_wf (fn : BitVec 8) (m : TdispMsg) (s : State) (h : Memory.wf s.mem = true) :
    AnswersCanonical (execTdispMessage fn m s) := by
  simp only [execTdispMessage, answersCanonical_next]
  repeat' split
  all_goals simp [h]

theorem execStopInterface_wf (fn : BitVec 8) (s : State) (h : Memory.wf s.mem = true) : AnswersCanonical (execStopInterface fn s) := by
  unfold execStopInterface
  rw [answersCanonical_next]
  split
  · simpa using h
  · extract_lets s1
    have h1 : Memory.wf s1.mem = true := by
      unfold s1
      split
      · exact foldl_wf _ _ _ (fun t p => State.destroyPart_wf t p) h
      · exact h
    clear_value s1
    rw [State.emit_mem]
    split
    · exact h1
    · simpa using h1

@[simp] theorem State.spdmAnswer_mem (s : State) (fn : BitVec 8) (code : Nat) (data : List Byte) : (s.spdmAnswer fn code data).mem = s.mem := rfl
@[simp] theorem State.setSessions_mem (s : State) (fn : BitVec 8) (n : Nat) : (s.setSessions fn n).mem = s.mem := by
  unfold State.setSessions
  split <;> rfl

theorem execGetVersion_wf (fn : BitVec 8) (_msg : List Byte) (s : State) (h : Memory.wf s.mem = true) :
    AnswersCanonical (execGetVersion fn _msg s) := by simp [execGetVersion, h]

theorem execGetCapabilities_wf (fn : BitVec 8) (_msg : List Byte) (s : State) (h : Memory.wf s.mem = true) :
    AnswersCanonical (execGetCapabilities fn _msg s) := by simp [execGetCapabilities, h]

theorem execNegotiateAlgorithms_wf (fn : BitVec 8) (_msg : List Byte) (s : State) (h : Memory.wf s.mem = true) :
    AnswersCanonical (execNegotiateAlgorithms fn _msg s) := by simp [execNegotiateAlgorithms, h]

theorem execGetDigests_wf (fn : BitVec 8) (_msg : List Byte) (s : State) (h : Memory.wf s.mem = true) :
    AnswersCanonical (execGetDigests fn _msg s) := by simp [execGetDigests, h]

theorem execGetCertificate_wf (fn : BitVec 8) (_msg : List Byte) (s : State) (h : Memory.wf s.mem = true) :
    AnswersCanonical (execGetCertificate fn _msg s) := by simp [execGetCertificate, h]

theorem execChallenge_wf (fn : BitVec 8) (msg : List Byte) (s : State) (h : Memory.wf s.mem = true) :
    AnswersCanonical (execChallenge fn msg s) := by simp [execChallenge, h]

theorem execGetMeasurements_wf (fn : BitVec 8) (msg : List Byte) (s : State) (h : Memory.wf s.mem = true) :
    AnswersCanonical (execGetMeasurements fn msg s) := by simp [execGetMeasurements, h]

theorem execKeyExchange_wf (fn : BitVec 8) (msg : List Byte) (s : State) (h : Memory.wf s.mem = true) :
    AnswersCanonical (execKeyExchange fn msg s) := by simp [execKeyExchange, h]

theorem execFinish_wf (fn : BitVec 8) (_msg : List Byte) (s : State) (h : Memory.wf s.mem = true) :
    AnswersCanonical (execFinish fn _msg s) := by simp [execFinish, h]

theorem execEndSession_wf (fn : BitVec 8) (_msg : List Byte) (s : State) (h : Memory.wf s.mem = true) :
    AnswersCanonical (execEndSession fn _msg s) := by simp [execEndSession, h]

theorem execIdeKm_wf (fn : BitVec 8) (hif : Fin 2) (stream : Option (BitVec 8)) (key : BitVec 256) (s : State) (h : Memory.wf s.mem = true) :
    AnswersCanonical (execIdeKm fn hif stream key s) := by
  simp only [execIdeKm, answersCanonical_next]
  repeat' split
  all_goals simp [h]

@[simp] theorem State.unsupported_mem (s : State) (fn : BitVec 8) (hif : Fin 2) (ide : Option (BitVec 8)) :
    (s.unsupported fn hif ide).mem = s.mem := by
  unfold State.unsupported
  split <;> rfl

theorem State.hostStore_wf (s : State) (fn : BitVec 8) (n off : Nat) (b : List Byte) (h : Memory.wf s.mem = true) :
    Memory.wf (s.hostStore fn n off b).mem = true := by
  induction n generalizing s off b with
  | zero => exact h
  | succ n ih => grind [State.hostStore, State.store_wf]

@[simp] theorem State.debugWrite_mem (s : State) (fn : BitVec 8) (o : Nat) (v : Word) : (s.debugWrite fn o v).mem = s.mem := by
  simp only [State.debugWrite]
  repeat' split
  all_goals simp

theorem execDebugStep_wf (fn : BitVec 8) (s : State) (h : Memory.wf s.mem = true) : AnswersCanonical (execDebugStep fn s) := by
  simp only [execDebugStep, answersCanonical_next]
  repeat' split
  all_goals simp [h]

theorem execDebugRun_wf (fn : BitVec 8) (s : State) (h : Memory.wf s.mem = true) : AnswersCanonical (execDebugRun fn s) := by
  simp only [execDebugRun, answersCanonical_next]
  split <;> simp [h]

@[simp] theorem State.debugWord_mem (s : State) (fn : BitVec 8) (o : Nat) (v : Word) : (s.debugWord fn o v).mem = s.mem := by
  unfold State.debugWord
  split <;> simp

@[simp] theorem State.queueWord_mem (s : State) (fn : BitVec 8) (o : Nat) (v : Word) : (s.queueWord fn o v).mem = s.mem := by
  simp only [State.queueWord]
  repeat' split
  all_goals simp

theorem execHostWrite_wf (fn : BitVec 8) (hif : Fin 2) (ide : Option (BitVec 8)) (bar : BitVec 3) (off : Nat) (data : List Byte) (s : State) (h : Memory.wf s.mem = true) :
    AnswersCanonical (execHostWrite fn hif ide bar off data s) := by
  simp only [execHostWrite]
  repeat' split
  all_goals simp [h, State.setBytes_wf, State.hostStore_wf]

@[simp] theorem State.hostLoad_mem (s : State) (fn : BitVec 8) (n off len : Nat) : (s.hostLoad fn n off len).1.mem = s.mem := by
  induction n generalizing s off len with
  | zero => rfl
  | succ n ih => grind [State.hostLoad, State.load_mem]

theorem execHostRead_wf (fn : BitVec 8) (hif : Fin 2) (ide : Option (BitVec 8)) (bar : BitVec 3) (off len : Nat) (s : State)
    (h : Memory.wf s.mem = true) : AnswersCanonical (execHostRead fn hif ide bar off len s) := by
  unfold execHostRead
  split
  · split
    · simp
    · simpa using h
  · split
    · simpa using h
    · split
      · simp
      · rw [answersCanonical_next]
        split
        · simpa using h
        · simpa using h
        · have hp := s.hostLoad_mem fn (len + 1) off len
          split <;> rename_i e <;> rw [e] at hp
          · simpa using hp.symm ▸ h
          · simpa using hp.symm ▸ h
        · simpa using h

theorem execHostAtomicop_wf (fn : BitVec 8) (hif : Fin 2) (ide : Option (BitVec 8)) (bar : BitVec 3) (off size : Nat) (op : HostAtomic) (s : State) (h : Memory.wf s.mem = true) :
    AnswersCanonical (execHostAtomicop fn hif ide bar off size op s) := by
  unfold execHostAtomicop
  split <;> grind [answersCanonical_next, answersCanonical_fault, State.unsupported_mem, State.load_mem, State.emit_mem, State.store_wf]

theorem execColdReset_wf (s : State) (h : Memory.wf s.mem = true) : AnswersCanonical (execColdReset s) := by
  unfold execColdReset
  rw [answersCanonical_next]
  exact filter_wf _ _ h

theorem execWarmReset_wf (s : State) (h : Memory.wf s.mem = true) : AnswersCanonical (execWarmReset s) := by simp [execWarmReset, h]

/-! ### Machine/Fabric -/

@[simp] theorem State.toMembers_mem (s : State) (g : Gang) (kind : Nat) (arg : Word) : (s.toMembers g kind arg).mem = s.mem := by
  simp [State.toMembers, mem_ite]

@[simp] theorem State.toInitiator_mem (s : State) (g : Gang) (kind : Nat) (arg : Word) : (s.toInitiator g kind arg).mem = s.mem := by
  unfold State.toInitiator
  split <;> simp

theorem State.collResultFault_wf (s : State) (c : CpId) (j : CollJob) (cause : BitVec 8) (h : Memory.wf s.mem = true) :
    Memory.wf (s.collResultFault c j cause).mem = true := by simp [State.collResultFault, h, State.storeOrPark_wf]

theorem State.stopSlot_wf (s : State) (gid : Word) (c : CpId) (detail : Word) (h : Memory.wf s.mem = true) :
    Memory.wf (s.stopSlot gid c detail).mem = true := by
  unfold State.stopSlot
  extract_lets s1 r s2 s3 s4
  have h1 : Memory.wf s1.mem = true := by
    unfold s1
    split
    · exact State.spill_wf _ c (State.preempt_wf s c h)
    · exact h
  have h2 : s2.mem = s1.mem := State.queueRec_mem _ _ _ _
  have h2 : Memory.wf s2.mem = true := h2.symm ▸ h1
  clear_value s2
  have h3 : Memory.wf s3.mem = true := by
    refine foldl_wf _ _ _ (fun t j ht => ?_) h2
    split
    · exact State.collResultFault_wf t c j _ ht
    · exact ht
  clear_value s3
  exact h3

@[simp] theorem State.standIn_mem (s : State) (c : CpId) : (s.standIn c).mem = s.mem := by simp [State.standIn, mem_ite]
theorem State.stopGang_wf (s : State) (g : Gang) (index : Nat) (byStop : Bool) (h : Memory.wf s.mem = true) :
    Memory.wf (s.stopGang g index byStop).mem = true := by
  unfold State.stopGang
  extract_lets detail live s1
  have h1 : Memory.wf s1.mem = true := by
    refine foldl_wf _ _ _ (fun t c ht => by simpa using ht) ?_
    exact foldl_wf _ _ _ (fun t c => State.stopSlot_wf t g.gid c detail) h
  clear_value s1
  exact State.enterState_wf _ _ _ (by simpa using h1)

theorem State.stopBeyond_wf (s : State) (beyond : List (BitVec 20)) (h : Memory.wf s.mem = true) :
    Memory.wf (s.stopBeyond beyond).mem = true := by
  refine foldl_wf _ _ _ (fun t g ht => ?_) h
  have hu : Memory.wf (t.toMembers g 7 (BitVec.ofNat 64 g.midx)).mem = true := by simpa using ht
  split
  · exact State.stopGang_wf _ g _ _ hu
  · exact hu

theorem State.linkLost_wf (s : State) (port : Fin 18) (beyond : List (BitVec 20)) (h : Memory.wf s.mem = true) :
    Memory.wf (s.linkLost port beyond).mem = true := by simp [State.linkLost, h, State.stopBeyond_wf]

theorem execLaneFail_wf (port : Fin 18) (s : State) (h : Memory.wf s.mem = true) : AnswersCanonical (execLaneFail port s) := by
  simp only [execLaneFail, answersCanonical_next]
  split <;> simp [h, State.linkLost_wf]

theorem execLinkDown_wf (port : Fin 18) (beyond : List (BitVec 20)) (s : State) (h : Memory.wf s.mem = true) :
    AnswersCanonical (execLinkDown port beyond s) := by simp [execLinkDown, h, State.linkLost_wf]

theorem execLinkRekey_wf (port : Fin 18) (s : State) (h : Memory.wf s.mem = true) : AnswersCanonical (execLinkRekey port s) := by
  simp [execLinkRekey, h]

theorem execHeartbeatLoss_wf (hb : Heartbeat) (s : State) (h : Memory.wf s.mem = true) : AnswersCanonical (execHeartbeatLoss hb s) := by
  simp only [execHeartbeatLoss, answersCanonical_next]
  repeat' split
  all_goals simp [h, State.stopBeyond_wf]

theorem State.replayFrom_wf (s : State) (port : Fin 18) (error : Bool) (h : Memory.wf s.mem = true) :
    Memory.wf (s.replayFrom port error).mem = true := by
  simp only [State.replayFrom]
  split <;> simp [h, State.linkLost_wf]

@[simp] theorem State.acked_mem (s : State) (port : Fin 18) (lack : BitVec 24) : (s.acked port lack).mem = s.mem := by
  unfold State.acked
  extract_lets l rest s1 s2
  have h2 : s2.mem = s.mem := by simp [s2, s1]
  clear_value s2 rest
  split
  · exact h2
  · split
    · exact (foldl_mem _ _ _ fun t x => State.emitFlit_mem t port _ _).trans h2
    · exact h2

theorem State.receive_wf (s : State) (port : Fin 18) (f : Flit) (h : Memory.wf s.mem = true) : Memory.wf (s.receive port f).1.mem = true := by
  simp only [State.receive]
  repeat' split
  all_goals simp [h, State.replayFrom_wf]

theorem State.arrived_wf {s : State} {port : Fin 18} {f : Flit} {k : State → State} (h : Memory.wf s.mem = true)
    (hk : ∀ t, Memory.wf t.mem = true → Memory.wf (k t).mem = true) : Memory.wf (s.arrived port f k).mem = true := by
  have hr := State.receive_wf s port f h
  unfold State.arrived
  split <;> rename_i e <;> rw [e] at hr
  · exact hr
  · split
    · exact hr
    · split
      · simpa using hr
      · exact hk _ hr

@[simp] theorem State.acceptedUpTo_mem (s : State) (c : CpId) (p : BitVec 5) (first n : Nat) : (s.acceptedUpTo c p first n).mem = s.mem := by
  induction n generalizing s with
  | zero => rfl
  | succ n ih => grind [State.acceptedUpTo, State.accepted_mem]

@[simp] theorem State.takeWindow_mem (s : State) (c : CpId) (p : BitVec 5) (first count : Nat) :
    (s.takeWindow c p first count).mem = s.mem := by simp [State.takeWindow]

@[simp] theorem State.resend_mem (s : State) (c : CpId) (p : BitVec 5) (d : Word) : (s.resend c p d).mem = s.mem := by simp [State.resend]
@[simp] theorem State.openSender_mem (s : State) (c : CpId) (p : BitVec 5) (d : Word) (route : Fin 18) :
    (s.openSender c p d route).mem = s.mem := by
  simp only [State.openSender]
  split <;> simp [mem_ite]

@[simp] theorem State.openReceiver_mem (s : State) (c : CpId) (p : BitVec 5) (w : BitVec 512) (d : Word) (route : Fin 18) :
    (s.openReceiver c p w d route).mem = s.mem := by simp [State.openReceiver]

theorem execFabricChannelOpen_wf (c : CpId) (p : BitVec 5) (s : State) (h : Memory.wf s.mem = true) :
    AnswersCanonical (execFabricChannelOpen c p s) := by
  simp only [execFabricChannelOpen, answersCanonical_next]
  repeat' split
  all_goals simp [h]

@[simp] theorem State.takeToken_mem (s : State) (c : CpId) (p : BitVec 5) (src : BitVec 20) (seq : Nat) (tok : Tok) :
    (s.takeToken c p src seq tok).mem = s.mem := by
  simp only [State.takeToken]
  split <;> simp [mem_ite]

theorem execDataFlit_wf (port : Fin 18) (f : Flit) (s : State) (h : Memory.wf s.mem = true) : AnswersCanonical (execDataFlit port f s) := by
  simp only [execDataFlit, answersCanonical_next]
  split <;> simp [h, State.arrived_wf]

theorem execCreditFlit_wf (port : Fin 18) (f : Flit) (s : State) (h : Memory.wf s.mem = true) : AnswersCanonical (execCreditFlit port f s) := by
  simp only [execCreditFlit, answersCanonical_next]
  grind [State.arrived_wf, State.takeWindow_mem]

theorem execPeerAccess_wf (r : PeerReq) (s : State) (h : Memory.wf s.mem = true) : AnswersCanonical (execPeerAccess r s) := by
  unfold execPeerAccess
  split <;> grind [answersCanonical_next, answersCanonical_fault, State.toFabric_mem, State.store_wf, State.load_mem]

theorem execPtpSync_wf (offset : ℤ) (grandmaster : Word) (s : State) (h : Memory.wf s.mem = true) :
    AnswersCanonical (execPtpSync offset grandmaster s) := by simp [execPtpSync, h]

@[simp] theorem State.substituteImage_mem (s : State) (part : BitVec 5) (c : CpId) (wid tag : Word) :
    (s.substituteImage part c wid tag).mem = s.mem := by
  unfold State.substituteImage
  split <;> rfl

@[simp] theorem State.substitute_mem (s : State) (part : BitVec 5) (ct : List Byte) (granules : List (Fin 4 × Nat)) (images : List (CpId × Word × Word)) :
    (s.substitute part ct granules images).mem = s.mem := by
  unfold State.substitute
  extract_lets s1 s2 s3
  have h1 : s1.mem = s.mem := by
    refine foldl_mem _ _ _ fun t g => ?_
    split
    · split <;> simp
    · rfl
  have h2 : s2.mem = s.mem :=
    (foldl_mem _ _ _ fun t x => State.substituteImage_mem t part _ _ _).trans ((State.installKey_mem s1 part _).trans h1)
  have h3 : s3.mem = s.mem := h2
  split
  · simpa using h3
  · exact h3

theorem execEscrowHandover_wf (ep : BitVec 20) (part : BitVec 5) (ciphertext : List Byte) (act : EscrowAct) (meas : List (List Byte)) (s : State) (h : Memory.wf s.mem = true) :
    AnswersCanonical (execEscrowHandover ep part ciphertext act meas s) := by
  simp only [execEscrowHandover, answersCanonical_next]
  repeat' split
  all_goals simp [h]

theorem State.abortGang_wf (s : State) (g : Gang) (reason : BitVec 8) (h : Memory.wf s.mem = true) :
    Memory.wf (s.abortGang g reason).mem = true := by simp [State.abortGang, h, State.enterState_wf]

@[simp] theorem State.prepareRefusal_mem (s : State) (q : Nat) (m : PrepareMsg) : (s.prepareRefusal q m).1.mem = s.mem := by
  grind [State.prepareRefusal, State.slateRefusal_mem]

theorem State.gangLaunch_wf (s : State) (g : Gang) (ts : Word) (h : Memory.wf s.mem = true) : Memory.wf (s.gangLaunch g ts).mem = true := by
  unfold State.gangLaunch
  split <;> simp [h, State.accept_wf, State.setBytes_wf]

theorem State.gangTask_wf (s : State) (slots : List CpId) (id : Nat) (h : Memory.wf s.mem = true) :
    Memory.wf (s.gangTask slots id).mem = true := by
  grind [State.gangTask, State.setStatus_mem, State.spill_wf, State.preempt_wf, State.modLaunch_mem, State.bindCmd_wf, State.modSlot_mem, State.took_mem]

theorem State.gangTasks_wf (s : State) (slots : List CpId) (id n : Nat) (h : Memory.wf s.mem = true) :
    Memory.wf (s.gangTasks slots id n).mem = true := by
  induction n generalizing s with
  | zero => exact h
  | succ n ih => exact ih _ (State.gangTask_wf s slots id h)

theorem State.resumeSlot_wf (s : State) (id : Nat) (c : CpId) (h : Memory.wf s.mem = true) : Memory.wf (s.resumeSlot id c).mem = true := by
  grind [State.resumeSlot, State.setStatus_mem, State.spill_wf, State.preempt_wf, State.bindNow_wf, State.unspill_mem, State.modSlot_mem]

theorem State.startGang_wf (s : State) (g : Gang) (h : Memory.wf s.mem = true) : Memory.wf (s.startGang g).mem = true := by
  unfold State.startGang
  split
  · exact h
  · rename_i id _
    extract_lets s1
    have h1 : Memory.wf s1.mem = true := by simpa [s1] using h
    split
    · exact foldl_wf _ _ _ (fun t c => State.resumeSlot_wf t id c) h1
    · exact State.gangTasks_wf s1 _ _ _ h1

theorem State.commit_wf (s : State) (g : Gang) (ts : Word) (h : Memory.wf s.mem = true) : Memory.wf (s.commit g ts).mem = true := by
  grind [State.commit, State.gangLaunch_wf, State.enterState_wf, State.modGang_mem, State.startGang_wf]

theorem State.addCommit_wf (s : State) (g : Gang) (member : Nat) (h : Memory.wf s.mem = true) : Memory.wf (s.addCommit g member).mem = true := by
  simp only [State.addCommit]
  repeat' split
  all_goals simp [h, State.gangRetire_wf, State.enterState_wf]

theorem State.takeClapper_wf (s : State) (g : Gang) (ts : Word) (h : Memory.wf s.mem = true) : Memory.wf (s.takeClapper g ts).mem = true := by
  simp only [State.takeClapper]
  repeat' split
  all_goals simp [h, State.commit_wf, State.addCommit_wf]

theorem State.addAck_wf (s : State) (g : Gang) (member : Nat) (h : Memory.wf s.mem = true) : Memory.wf (s.addAck g member).mem = true := by
  simp only [State.addAck]
  repeat' split
  all_goals simp [h, State.takeClapper_wf]

theorem State.abortAll_wf (s : State) (g : Gang) (reason : BitVec 8) (h : Memory.wf s.mem = true) :
    Memory.wf (s.abortAll g reason).mem = true := by simp [State.abortAll, h, State.abortGang_wf]

theorem State.takePrepare_wf (s0 : State) (g : Gang) (m : PrepareMsg) (h : Memory.wf s0.mem = true) :
    Memory.wf (s0.takePrepare g m).mem = true := by
  simp only [State.takePrepare]
  repeat' split
  all_goals simp [h, State.enterState_wf, State.addAck_wf, State.abortAll_wf, State.abortGang_wf]

theorem execPrepare_wf (m : PrepareMsg) (s : State) (h : Memory.wf s.mem = true) : AnswersCanonical (execPrepare m s) := by
  simp only [execPrepare, answersCanonical_next]
  split <;> simp [h, State.takePrepare_wf]

theorem State.withGang_wf {s : State} {gid : Word} {f : Gang → State} (h : Memory.wf s.mem = true) (hf : ∀ g, Memory.wf (f g).mem = true) :
    AnswersCanonical (s.withGang gid f) := by
  rw [State.withGang, answersCanonical_next]
  split
  · exact hf _
  · exact h

theorem execAck_wf (gid : Word) (member : Nat) (s : State) (h : Memory.wf s.mem = true) : AnswersCanonical (execAck gid member s) := by
  simp [execAck, h, State.withGang_wf, State.addAck_wf]

theorem execNak_wf (gid : Word) (_member : Nat) (reason : BitVec 8) (s : State) (h : Memory.wf s.mem = true) :
    AnswersCanonical (execNak gid _member reason s) := by
  simp only [execNak]
  grind [State.withGang_wf, State.abortAll_wf]

theorem execClapper_wf (gid ts : Word) (s : State) (h : Memory.wf s.mem = true) : AnswersCanonical (execClapper gid ts s) := by
  simp [execClapper, h, State.withGang_wf, State.takeClapper_wf]

theorem execCommitAck_wf (gid : Word) (member : Nat) (s : State) (h : Memory.wf s.mem = true) :
    AnswersCanonical (execCommitAck gid member s) := by simp [execCommitAck, h, State.withGang_wf, State.addCommit_wf]

theorem execConfirmed_wf (gid : Word) (s : State) (h : Memory.wf s.mem = true) : AnswersCanonical (execConfirmed gid s) := by
  simp only [execConfirmed]
  grind [State.withGang_wf, State.gangRetire_wf, State.enterState_wf]

theorem execAbort_wf (gid : Word) (reason : BitVec 8) (s : State) (h : Memory.wf s.mem = true) : AnswersCanonical (execAbort gid reason s) := by
  simp only [execAbort]
  grind [State.withGang_wf, State.abortGang_wf]

theorem execStop_wf (gid : Word) (sender : Nat) (s : State) (h : Memory.wf s.mem = true) : AnswersCanonical (execStop gid sender s) := by
  simp only [execStop]
  grind [State.withGang_wf, State.stopGang_wf]

theorem execClapperTime_wf (gid : Word) (s : State) (h : Memory.wf s.mem = true) : AnswersCanonical (execClapperTime gid s) := by
  simp only [execClapperTime]
  grind [State.withGang_wf, State.startGang_wf]

theorem execGangWatchdog_wf (gid : Word) (s : State) (h : Memory.wf s.mem = true) : AnswersCanonical (execGangWatchdog gid s) := by
  simp only [execGangWatchdog]
  grind [State.withGang_wf, State.toMembers_mem, State.stopGang_wf]

theorem execReadyTimeout_wf (gid : Word) (s : State) (h : Memory.wf s.mem = true) : AnswersCanonical (execReadyTimeout gid s) := by
  simp only [execReadyTimeout]
  grind [State.withGang_wf, State.abortGang_wf]

theorem execGangReplyTimeout_wf (gid : Word) (s : State) (h : Memory.wf s.mem = true) : AnswersCanonical (execGangReplyTimeout gid s) := by
  simp only [execGangReplyTimeout]
  grind [State.withGang_wf, State.abortAll_wf]

theorem execGangForget_wf (gid : Word) (s : State) (h : Memory.wf s.mem = true) : AnswersCanonical (execGangForget gid s) := by
  simp only [execGangForget]
  grind [State.withGang_wf]

theorem State.launchGang_wf (s : State) (g : Gang) (h : Memory.wf s.mem = true) : Memory.wf (s.launchGang g).mem = true := by
  unfold State.launchGang
  extract_lets old s1 put s2 s3
  have h1 : Memory.wf s1.mem = true := h
  have h2 : Memory.wf s2.mem = true := State.storeOrPark_wf _ _ _ _ _ _ (State.storeOrPark_wf _ _ _ _ _ _ h1)
  clear_value s2
  have h3 : s3.mem = s2.mem := by
    refine foldl_mem _ _ _ fun t m => ?_
    split <;> simp
  split
  · exact State.takePrepare_wf _ _ _ (h3.symm ▸ h2)
  · exact State.abortAll_wf _ _ _ h2

theorem State.optCounter_wf {s : State} {a : Word} {k : Option (Word × PAddr) → State} (h : Memory.wf s.mem = true)
    (hk : ∀ o, Memory.wf (k o).mem = true) : Memory.wf (s.optCounter a k).mem = true := by
  unfold State.optCounter
  split
  · exact hk _
  · split
    · simpa using h
    · exact hk _

theorem execGlaunch_wf (a b : Reg) (s : State) (h : Memory.wf s.mem = true) : AnswersCanonical (execGlaunch a b s) := by
  refine State.issue_wf h fun t ht => ?_
  extract_lets ga gb
  refine State.withRecord_wf ht fun ps => State.withRecord_wf ht fun qs => ?_
  split
  · exact ht
  · refine State.readRecord_wf ht fun u r hu => State.readRecord_wf hu fun v hd hv => ?_
    extract_lets n
    split
    · simpa using hv
    · refine State.withRecord_wf hv fun qs => State.readRecord_wf hv fun x m hx => ?_
      split
      · simpa using hx
      · extract_lets l
        split
        · simpa using hx
        · refine State.optCounter_wf hx fun ctr => State.asks_wf hx ?_
          rw [State.advance_mem]
          exact State.launchGang_wf _ _ hx

theorem execGstat_wf (d a : Reg) (s : State) (h : Memory.wf s.mem = true) : AnswersCanonical (execGstat d a s) := by
  simp [execGstat, h, State.issue_wf]

@[simp] theorem State.collBuffer_mem (s : State) (c : CpId) (recAddr : Word) (surf dst : Bool) (a : Word) (len : Nat) :
    (s.collBuffer c recAddr surf dst a len).1.mem = s.mem := by grind [State.collBuffer, State.readVirt_mem]

@[simp] theorem State.collStart_mem (s : State) (c : CpId) (j : CollJob) (n m : Nat) : (s.collStart c j n m).1.mem = s.mem := by
  grind [State.collStart, State.collBuffer_mem, State.readVirt_mem]

@[simp] theorem State.dropColl_mem (s : State) (c : CpId) (id : Nat) : (s.dropColl c id).mem = s.mem := rfl
@[simp] theorem State.modColl_mem (s : State) (c : CpId) (id : Nat) (f : CollJob → CollJob) : (s.modColl c id f).mem = s.mem := rfl
theorem State.settleColl_wf (s : State) (c : CpId) (j : CollJob) (h : Memory.wf s.mem = true) : Memory.wf (s.settleColl c j).mem = true := by
  simp only [State.settleColl]
  repeat' split
  all_goals simp [h, State.collResultFault_wf]

theorem State.collFail_wf (s : State) (c : CpId) (j : CollJob) (e : BitVec 8 × Word × Word × Word) (h : Memory.wf s.mem = true) :
    Memory.wf (s.collFail c j e).mem = true := by simp [State.collFail, h, State.settleColl_wf]

@[simp] theorem State.collTell_mem (s : State) (g : Gang) (m : FabMsg) : (s.collTell g m).mem = s.mem := by simp [State.collTell, mem_ite]
theorem execColl_wf (a : Reg) (s : State) (h : Memory.wf s.mem = true) : AnswersCanonical (execColl a s) := by
  refine State.issue_wf h fun t ht => ?_
  grind [State.withRecord_wf, State.readRecord_wf, State.trapAt_mem, State.trapFree_mem, State.optCounter_wf, State.collStart_mem, State.newId_mem, State.modSlot_mem, State.advance_mem, State.collTell_mem, State.collFail_wf]

theorem State.collDone_wf (s : State) (c : CpId) (j : CollJob) (h : Memory.wf s.mem = true) : Memory.wf (s.collDone c j).mem = true := by
  grind [State.collDone, State.storeOrPark_wf, State.dropColl_mem, State.engineSignal_wf, State.flipSel_wf, State.collFail_wf]

theorem State.collLeave_wf (s : State) (c : CpId) (j : CollJob) (new : List Byte) (len : Nat) (h : Memory.wf s.mem = true) :
    Memory.wf (s.collLeave c j new len).mem = true := by grind [State.collLeave, State.readVirt_mem, State.writeVirt_wf]

theorem execCollComplete_wf (c : CpId) (id : Nat) (shards : List (List Byte)) (v : CollVerdict) (s : State) (h : Memory.wf s.mem = true) :
    AnswersCanonical (execCollComplete c id shards v s) := by
  unfold execCollComplete
  split <;> grind [answersCanonical_next, answersCanonical_fault, State.collTell_mem, State.modColl_mem, State.collFail_wf, State.collLeave_wf, State.writeVirt_wf, State.collDone_wf]

/-! ### Machine/Round -/

@[simp] theorem State.clockDie_mem (s : State) (d : Fin 4) : (s.clockDie d).mem = s.mem := rfl
theorem State.clockCore_wf (s : State) (k : Fin 256) (h : Memory.wf s.mem = true) : Memory.wf (s.clockCore k).mem = true := by
  simp [State.clockCore, h, State.copyCycle_wf]

theorem State.clock_wf (s : State) (h : Memory.wf s.mem = true) : Memory.wf s.clock.mem = true := by
  unfold State.clock
  extract_lets s1
  have h1 : s1.mem = s.mem := foldl_mem _ _ _ fun t d => State.clockDie_mem t d
  clear_value s1
  exact foldl_wf _ _ _ (fun t k => State.clockCore_wf t k) (h1.symm ▸ h)

theorem State.settle_wf (s : State) (cs : List CpId) (h : Memory.wf s.mem = true) : Memory.wf (s.settle cs).mem = true := by
  unfold State.settle
  extract_lets s1
  have h1 : Memory.wf s1.mem = true :=
    foldl_wf _ _ _ (fun t c ht => foldl_wf _ _ _ (fun u j => State.settleColl_wf u c j) (by simpa using ht)) h
  clear_value s1
  exact (foldl_mem _ _ _ fun t x => State.settleCall_mem t x).symm ▸ h1

theorem State.round_wf (s : State) (h : Memory.wf s.mem = true) : Memory.wf (s.round).mem = true := by
  simp [State.round, h, State.clock_wf, State.settle_wf]

theorem State.after_wf {s : State} {f : State → Out State} (h : Memory.wf s.mem = true) (hf : AnswersCanonical (f s)) :
    Memory.wf (s.after f).mem = true := by
  unfold State.after
  split
  · exact hf _ ‹_›
  · exact h

/-- The state that a CP's turn leaves. -/
@[simp] def CpTurn.state : CpTurn → State
  | .idle s | .issue s _ => s

@[simp] theorem State.issueWord_mem (s : State) (c : CpId) (w : W32) : (s.issueWord c w).state.mem = s.mem := by
  unfold State.issueWord
  extract_lets i t l
  have ht : t.mem = s.mem := rfl
  split
  · exact ht
  · split
    · simpa using ht
    · simpa using ht

theorem State.cpRuns_wf (s : State) (c : CpId) (h : Memory.wf s.mem = true) : Memory.wf (s.cpRuns c).state.mem = true := by
  unfold State.cpRuns
  extract_lets p t s1 s2
  have hp := s.fetch_mem c
  split
  · simp [mem_ite, h, t]
  · split
    · exact h
    · split
      · simpa using State.after_wf h (execDeferredTrap_wf c s h)
      · split
        · simpa using h
        · split <;> rename_i e <;> rw [e] at hp <;> dsimp only at hp
          · rw [State.issueWord_mem, hp]; exact h
          · simp [hp, h]
          · simp [hp, h]
          · have h1 : Memory.wf s1.mem = true := h
            have h2 : Memory.wf s2.mem = true := State.after_wf h1 (execFetchMissFill_wf c s1 h1)
            rw [CpTurn.state]
            split
            · exact h1
            · split
              · exact h
              · exact h2
          · simp [hp, h]

theorem State.cpTurn_wf (s : State) (c : CpId) (h : Memory.wf s.mem = true) : Memory.wf (s.cpTurn c).state.mem = true := by
  unfold State.cpTurn
  extract_lets p
  split
  · exact h
  · split
    · simpa using h
    · split
      · exact s.cpRuns_wf c h
      · split
        · have hr := State.cpRuns_wf (s.modCp c fun p => { p with run := .running }) c h
          split <;> rename_i e <;> rw [e] at hr
          · simpa using hr
          · exact hr
        · exact h
      · simpa using h

@[simp] theorem State.endTurn_mem (s : State) (c : CpId) (before : Cp) : (s.endTurn c before).mem = s.mem := by
  unfold State.endTurn
  split <;> simp

/-! ### Machine/Scalar -/

theorem State.result1_wf {s : State} {reads : List Reg} {d : Reg} {v : State → Word} (h : Memory.wf s.mem = true) :
    AnswersCanonical (s.result1 reads d v) :=
  State.issue_wf h fun t ht => by simpa using ht

theorem State.resultL_wf {s : State} {reads : List Reg} {d : Reg} {n : Nat} {v : State → Word} (h : Memory.wf s.mem = true) :
    AnswersCanonical (s.resultL reads d n v) :=
  State.issue_wf h fun t ht => by simpa using ht

theorem State.branch_wf {s : State} {a b : Reg} {o : BitVec 15} {cond : Word → Word → Bool} (h : Memory.wf s.mem = true) :
    AnswersCanonical (s.branch a b o cond) :=
  State.issue_wf h fun t ht => by split <;> simpa using ht

theorem execJmp_wf (o : BitVec 25) (s : State) (h : Memory.wf s.mem = true) : AnswersCanonical (execJmp o s) := by
  simp [execJmp, h, State.issue_wf]

theorem execCall_wf (o : BitVec 25) (s : State) (h : Memory.wf s.mem = true) : AnswersCanonical (execCall o s) := by
  simp [execCall, h, State.issue_wf]

theorem State.jumpReg_wf {s : State} {a : Reg} {link : Bool} (h : Memory.wf s.mem = true) : AnswersCanonical (s.jumpReg a link) := by
  refine State.issue_wf h fun t ht => ?_
  dsimp only
  split
  · simpa using ht
  · split <;> simpa using ht

/-! ### Machine/Exec and Machine/Step -/

/-- Every instruction of the instruction set and every event of the machine keeps the canonical form of memory. -/
theorem exec_canonical (i : Instr) (s : State) (h : Memory.wf s.mem = true) : AnswersCanonical (exec i s) := by
  cases i with
  | add _ _ _ | sub _ _ _ | and _ _ _ | or _ _ _ | xor _ _ _ | andn _ _ _ | shl _ _ _ | shr _ _ _ | sar _ _ _ | slt _ _ _ | sltu _ _ _
  | min _ _ _ | max _ _ _ | clz _ _ | ctz _ _ | popc _ _ | addImm _ _ _ | andImm _ _ _ | orImm _ _ _ | xorImm _ _ _ | sltImm _ _ _
  | sltuImm _ _ _ | minImm _ _ _ | maxImm _ _ _ | shlImm _ _ _ | shrImm _ _ _ | sarImm _ _ _ | bfx _ _ _ _ | bfxu _ _ _ _ | bfi _ _ _ _
  | movi _ _ | movh _ _ _ => rw [exec]; exact State.result1_wf h
  | mul _ _ _ | mulh _ _ _ | mulhu _ _ _ | div _ _ _ | divu _ _ _ | rem _ _ _ | remu _ _ _ => rw [exec]; exact State.resultL_wf h
  | bEq _ _ _ | bNe _ _ _ | bLt _ _ _ | bGe _ _ _ | bLtu _ _ _ | bGeu _ _ _ => rw [exec]; exact State.branch_wf h
  | jmpReg _ | callReg _ | ret => rw [exec]; exact State.jumpReg_wf h
  | fenceLd | fenceSt | fenceAll | fenceEng => rw [exec]; exact State.fence_wf h
  | amoAdd _ _ _ | amoSwp _ _ _ | amoCas _ _ _ _ | amoMax _ _ _ | amoMin _ _ _ | amoAnd _ _ _ | amoOr _ _ _ => rw [exec]; exact State.amo_wf h
  | csrr _ _ | csrw _ _ | csrs _ _ _ | csrc _ _ _ => rw [exec]; exact State.csrOp_wf h
  | rload _ _ _ | rsave _ _ | rrest _ _ => rw [exec]; exact State.queuedBy_wf h
  | rgo _ | rstop _ | sbind _ _ | sbindt _ _ _ | sstop _ => rw [exec]; exact State.queuedPlain_wf h
  | rstatState _ _ | rstatLoadrep _ _ | rstatFlags _ _ | rstatTclap _ _ | rstatHeld _ _ | rstatCycles _ _ | rstatEnergy _ _
  | rstatFault _ _ | rstatOrigin _ _ => rw [exec]; exact State.queuedAnswer_wf h
  | cpy _ | cpyg _ | stgdef _ _ => rw [exec]; exact State.queued_wf h
  | mstatFull _ _ | mstatPart _ _ | mstatEmpty _ _ | mstatSkipb _ _ => rw [exec]; exact State.mstat_wf h
  | iadd _ _ | isub _ _ | imul _ _ | imad _ _ | imin _ _ | imax _ _ | iabs _ _ | elemAnd _ _ | elemOr _ _ | elemXor _ _ | elemShl _ _
  | elemShr _ _ | sra _ _ | icmp _ _ | sel _ _ => rw [exec]; exact State.intOp_wf h
  | fadd _ _ | fsub _ _ | fmul _ _ | fma _ _ => rw [exec]; exact State.floatOp_wf h
  | fmin _ _ | fmax _ _ | fabs _ _ | fneg _ _ | fcmp _ _ => rw [exec]; exact State.codeOp_wf h
  | rcps _ _ | rsqs _ _ => rw [exec]; exact State.unaryOp_wf h
  | lsum _ _ | lmax _ _ => rw [exec]; exact State.laneOp_wf h
  | jmp o => exact execJmp_wf o s h
  | call o => exact execCall_wf o s h
  | ld d a z im => exact execLd_wf d a z im s h
  | st d a z im => exact execSt_wf d a z im s h
  | ldf d a z im => exact execLdf_wf d a z im s h
  | stf d a z im => exact execStf_wf d a z im s h
  | pref a im => exact execPref_wf a im s h
  | trap c => exact execTrap_wf c s h
  | tret => exact execTret_wf s h
  | wait a m => exact execWait_wf a m s h
  | bkpt c => exact execBkpt_wf c s h
  | syscVerify d a => exact execSyscVerify_wf d a s h
  | syscFused d a => exact execSyscFused_wf d a s h
  | syscEnergy d a => exact execSyscEnergy_wf d a s h
  | illegalWord w => exact execIllegalWord_wf w s h
  | rarm a r => exact execRarm_wf a r s h
  | spat a k => exact execSpat_wf a k s h
  | stgrel a j => exact execStgrel_wf a j s h
  | sig a b z => exact execSig_wf a b z s h
  | waitge a b z => exact execWaitge_wf a b z s h
  | pub a b n z => exact execPub_wf a b n z s h
  | bind x a b => exact execBind_wf x a b s h
  | unbind a => exact execUnbind_wf a s h
  | trig => exact execTrig_wf s h
  | launch a b => exact execLaunch_wf a b s h
  | tinv a b => exact execTinv_wf a b s h
  | cbarArr n => exact execCbarArr_wf n s h
  | cbarWait n => exact execCbarWait_wf n s h
  | cpeer a p => exact execCpeer_wf a p s h
  | attn a => exact execAttn_wf a s h
  | kvapp x a b => exact execKvapp_wf x a b s h
  | kvlook x a b => exact execKvlook_wf x a b s h
  | kvfork x a b => exact execKvfork_wf x a b s h
  | kvrel a => exact execKvrel_wf a s h
  | mload a k => exact execMload_wf a k s h
  | ringset a r => exact execRingset_wf a r s h
  | kvpool a => exact execKvpool_wf a s h
  | glaunch a b => exact execGlaunch_wf a b s h
  | coll a => exact execColl_wf a s h
  | gstat x a => exact execGstat_wf x a s h
  | landing c id => exact execLanding_wf c id s h
  | fetchMissFill c => exact execFetchMissFill_wf c s h
  | commandQueueAdvance c => exact execCommandQueueAdvance_wf c s h
  | reelLoadComplete c r => exact execReelLoadComplete_wf c r s h
  | regionCycle c r => exact execRegionCycle_wf c r s h
  | takeLastLapEnd c r => exact execTakeLastLapEnd_wf c r s h
  | takeEnded c r => exact execTakeEnded_wf c r s h
  | resultLand c r => exact execResultLand_wf c r s h
  | cueRun x ctx => exact execCueRun_wf x ctx s h
  | cueStart x port => exact execCueStart_wf x port s h
  | cueStop x port => exact execCueStop_wf x port s h
  | cueDrain x acc port peer pb strm clr => exact execCueDrain_wf x acc port peer pb strm clr s h
  | cueSig x ctr scope inc => exact execCueSig_wf x ctr scope inc s h
  | cueWait x ctr scope step => exact execCueWait_wf x ctr scope step s h
  | cueBegin x => exact execCueBegin_wf x s h
  | cueEnd x => exact execCueEnd_wf x s h
  | cueEndtake x => exact execCueEndtake_wf x s h
  | elemNop x w => exact execElemNop_wf x w s h
  | exp2 x w => exact execExp2_wf x w s h
  | act x w => exact execAct_wf x w s h
  | dact x w => exact execDact_wf x w s h
  | cvt x w => exact execCvt_wf x w s h
  | sdenc x w => exact execSdenc_wf x w s h
  | sddec x w => exact execSddec_wf x w s h
  | qnt x w => exact execQnt_wf x w s h
  | mov x w => exact execMov_wf x w s h
  | rep x w => exact execRep_wf x w s h
  | perm x w => exact execPerm_wf x w s h
  | pack x w => exact execPack_wf x w s h
  | unpk x w => exact execUnpk_wf x w s h
  | tap x w => exact execTap_wf x w s h
  | put x w => exact execPut_wf x w s h
  | trix x w => exact execTrix_wf x w s h
  | trixb x w => exact execTrixb_wf x w s h
  | trixi x w => exact execTrixi_wf x w s h
  | trixg x w => exact execTrixg_wf x w s h
  | sptrix x w => exact execSptrix_wf x w s h
  | scac x w => exact execScac_wf x w s h
  | accz x w => exact execAccz_wf x w s h
  | drn x w => exact execDrn_wf x w s h
  | drna x w => exact execDrna_wf x w s h
  | cmpr x w => exact execCmpr_wf x w s h
  | spx x w => exact execSpx_wf x w s h
  | wld x w => exact execWld_wf x w s h
  | wldt x w => exact execWldt_wf x w s h
  | streamReadIssue c p => exact execStreamReadIssue_wf c p s h
  | tokenArriveTap c id => exact execTokenArriveTap_wf c id s h
  | streamWriteStore c id => exact execStreamWriteStore_wf c id s h
  | dispatchedStreamStart c p => exact execDispatchedStreamStart_wf c p s h
  | stampedStreamStart c p => exact execStampedStreamStart_wf c p s h
  | edgeTlbWalkReturn c p => exact execEdgeTlbWalkReturn_wf c p s h
  | copyStart c => exact execCopyStart_wf c s h
  | copyComplete c => exact execCopyComplete_wf c s h
  | tileArrive id => exact execTileArrive_wf id s h
  | counterAddArrive id => exact execCounterAddArrive_wf id s h
  | faultRecordOffer core => exact execFaultRecordOffer_wf core s h
  | fbctlHeadWrite d v => exact execFbctlHeadWrite_wf d v s h
  | slotSwapDone core => exact execSlotSwapDone_wf core s h
  | wqTailWrite fn q v => exact execWqTailWrite_wf fn q v s h
  | wqRingWrite fn q wid => exact execWqRingWrite_wf fn q wid s h
  | taskRetire c => exact execTaskRetire_wf c s h
  | cmdBind c cfg => exact execCmdBind_wf c cfg s h
  | cmdSwap c cfg => exact execCmdSwap_wf c cfg s h
  | cmdUnbind c cfg => exact execCmdUnbind_wf c cfg s h
  | cmdRing c cfg => exact execCmdRing_wf c cfg s h
  | spctlGo d k v => exact execSpctlGo_wf d k v s h
  | crossingChannelOpen a p b q => exact execCrossingChannelOpen_wf a p b q s h
  | windowGrant c p => exact execWindowGrant_wf c p s h
  | einjWrite core v => exact execEinjWrite_wf core v s h
  | cbinjWrite cl v => exact execCbinjWrite_wf cl v s h
  | hinjWrite d k v => exact execHinjWrite_wf d k v s h
  | kvinjWrite ch v => exact execKvinjWrite_wf ch v s h
  | cbarcfgWrite cl b v => exact execCbarcfgWrite_wf cl b v s h
  | kvpoolWrite ch p v => exact execKvpoolWrite_wf ch p v s h
  | registerWrite off v => exact execRegisterWrite_wf off v s h
  | attnCallStart c p => exact execAttnCallStart_wf c p s h
  | attnInputToken c p t => exact execAttnInputToken_wf c p t s h
  | attnCallComplete c p => exact execAttnCallComplete_wf c p s h
  | debugStep fn => exact execDebugStep_wf fn s h
  | debugRun fn => exact execDebugRun_wf fn s h
  | fabricChannelOpen c p => exact execFabricChannelOpen_wf c p s h
  | clapperTime gid => exact execClapperTime_wf gid s h
  | gangWatchdog gid => exact execGangWatchdog_wf gid s h
  | readyTimeout gid => exact execReadyTimeout_wf gid s h
  | gangReplyTimeout gid => exact execGangReplyTimeout_wf gid s h
  | gangForget gid => exact execGangForget_wf gid s h
  | collComplete c id shards v => exact execCollComplete_wf c id shards v s h
  | postedStorePerformed c id => exact execPostedStorePerformed_wf c id s h
  | tdispMessage fn m => exact execTdispMessage_wf fn m s h
  | stopInterface fn => exact execStopInterface_wf fn s h
  | getVersion fn msg => exact execGetVersion_wf fn msg s h
  | getCapabilities fn msg => exact execGetCapabilities_wf fn msg s h
  | negotiateAlgorithms fn msg => exact execNegotiateAlgorithms_wf fn msg s h
  | getDigests fn msg => exact execGetDigests_wf fn msg s h
  | getCertificate fn msg => exact execGetCertificate_wf fn msg s h
  | challenge fn msg => exact execChallenge_wf fn msg s h
  | getMeasurements fn msg => exact execGetMeasurements_wf fn msg s h
  | keyExchange fn msg => exact execKeyExchange_wf fn msg s h
  | finish fn msg => exact execFinish_wf fn msg s h
  | endSession fn msg => exact execEndSession_wf fn msg s h
  | ideKm fn hif stream key => exact execIdeKm_wf fn hif stream key s h
  | hostWrite fn hif ide bar off data => exact execHostWrite_wf fn hif ide bar off data s h
  | hostRead fn hif ide bar off len => exact execHostRead_wf fn hif ide bar off len s h
  | hostAtomicop fn hif ide bar off size op => exact execHostAtomicop_wf fn hif ide bar off size op s h
  | laneFail port => exact execLaneFail_wf port s h
  | dataFlit port f => exact execDataFlit_wf port f s h
  | creditFlit port f => exact execCreditFlit_wf port f s h
  | linkDown port beyond => exact execLinkDown_wf port beyond s h
  | linkRekey port => exact execLinkRekey_wf port s h
  | heartbeatLoss b => exact execHeartbeatLoss_wf b s h
  | ptpSync offset grandmaster => exact execPtpSync_wf offset grandmaster s h
  | peerAccess r => exact execPeerAccess_wf r s h
  | escrowHandover ep part ciphertext act meas => exact execEscrowHandover_wf ep part ciphertext act meas s h
  | prepare m => exact execPrepare_wf m s h
  | ack gid member => exact execAck_wf gid member s h
  | nak gid member reason => exact execNak_wf gid member reason s h
  | clapper gid ts => exact execClapper_wf gid ts s h
  | commitAck gid member => exact execCommitAck_wf gid member s h
  | confirmed gid => exact execConfirmed_wf gid s h
  | abort gid reason => exact execAbort_wf gid reason s h
  | stop gid sender => exact execStop_wf gid sender s h
  | ringMemberPartial c p member parts bad => exact execRingMemberPartial_wf c p member parts bad s h
  | ringMemberSilent c p => exact execRingMemberSilent_wf c p s h
  | energySample d uj => exact execEnergySample_wf d uj s h
  | powerControlWindow d pmw temp skip => exact execPowerControlWindow_wf d pmw temp skip s h
  | extentRewrite part base len pages => exact execExtentRewrite_wf part base len pages s h
  | schedulerQuantum core => exact execSchedulerQuantum_wf core s h
  | parkRelease d k => exact execParkRelease_wf d k s h
  | slateTake q => exact execSlateTake_wf q s h
  | taskStart launch wid c => exact execTaskStart_wf launch wid c s h
  | deferredTrap c => exact execDeferredTrap_wf c s h
  | waitTimeout c => exact execWaitTimeout_wf c s h
  | dependenceRead launch im => exact execDependenceRead_wf launch im s h
  | spareRowCopy d k => exact execSpareRowCopy_wf d k s h
  | create => exact execCreate_wf s h
  | destroy => exact execDestroy_wf s h
  | cores => exact execCores_wf s h
  | queue => exact execQueue_wf s h
  | escrow => exact execEscrow_wf s h
  | checkpoint => exact execCheckpoint_wf s h
  | restore => exact execRestore_wf s h
  | power => exact execPower_wf s h
  | coldReset => exact execColdReset_wf s h
  | warmReset => exact execWarmReset_wf s h

/-- A step answers states of canonical memory from one. -/
theorem step_canonical (s : State) (h : Memory.wf s.mem = true) : AnswersCanonical (step s) := by
  unfold step
  split
  · simpa using State.round_wf s h
  · exact exec_canonical _ _ h
  · rename_i c rest _
    have hc := State.cpTurn_wf { s with agenda := rest, cur := c } c h
    split
    · rename_i t e
      rw [e] at hc
      simpa using hc
    · rename_i t i e
      rw [e] at hc
      have hi := exec_canonical i t hc
      split
      · rename_i u e2
        rw [e2] at hi
        simpa using hi
      · simp
      · simp

/-- Settles O60: only stores, clears and resets write memory, and each keeps its entries ascending and free of what an unlisted byte reads as;
every other operation leaves memory as it is, so each event, each instruction and the round do. -/
theorem memoryInvariant : Obligations.MemoryInvariant := by
  unfold Obligations.MemoryInvariant
  intro s t h e
  exact step_canonical s h t e

end Sys2Proof.Machine
end

section
/-! The words written out (O57). -/
namespace Sys2Proof.Machine

/-- Settles O57: each word is closed, so the decoder computes its instruction. -/
theorem decodeWords : Obligations.DecodeWords := by
  unfold Obligations.DecodeWords
  decide

end Sys2Proof.Machine
end

section
/-! Power, rewritten tables and reset (O55). -/
namespace Sys2Proof.Machine

/-! ### Steps that change the cores alone -/

/-- Nothing changes but the cores. -/
def OnlyCores (s t : State) : Prop := t = { s with cores := t.cores }

theorem OnlyCores.refl (s : State) : OnlyCores s s := rfl

theorem OnlyCores.trans {s t u : State} (h : OnlyCores s t) (k : OnlyCores t u) : OnlyCores s u := by
  unfold OnlyCores at h k ⊢
  rw [k, h]

theorem OnlyCores.parts {s t : State} (h : OnlyCores s t) : t.parts = s.parts := by rw [h]

theorem OnlyCores.dies {s t : State} (h : OnlyCores s t) : t.dies = s.dies := by rw [h]

theorem OnlyCores.mem {s t : State} (h : OnlyCores s t) : t.mem = s.mem := by rw [h]

theorem onlyCores_modCore (s : State) (k : Fin 256) (f : Core → Core) : OnlyCores s (s.modCore k f) := rfl

theorem onlyCores_foldl {α : Type} (g : State → α → State) (l : List α) (s : State) (h : ∀ t x, OnlyCores t (g t x)) :
    OnlyCores s (l.foldl g s) :=
  List.foldlRecOn l g (motive := OnlyCores s) (OnlyCores.refl s) fun t ht x _ => ht.trans (h t x)

/-- A stream whose addresses were rewritten keeps its place or stops: both stand in its slot. -/
theorem onlyCores_rewritePort (s : State) (c : CpId) (p : BitVec 5) (base len : Nat) : OnlyCores s (s.rewritePort c p base len) := by
  have hp (u : State) (f : PortCtx → PortCtx) : OnlyCores u (u.modPort c p f) := onlyCores_modCore _ _ _
  have hs (u : State) (r : Fin 4) (p : BitVec 5) (e : BitVec 8) (a b d : Word) : OnlyCores u (u.streamStop c r p e a b d) :=
    onlyCores_modCore _ _ _
  unfold State.rewritePort
  extract_lets q part s1
  have h1 : OnlyCores s s1 := by
    unfold s1
    split
    · split
      · split
        · exact hp _ _
        · exact hp _ _
      · exact OnlyCores.refl s
    · exact OnlyCores.refl s
  clear_value s1
  split
  · split
    · split
      · exact h1.trans (hp _ _)
      · exact h1.trans ((hp _ _).trans (hs _ _ _ _ _ _ _))
    · exact h1
  · exact h1

/-! ### What a place reads as -/

/-- Of a memory some of whose places are dropped, the others read as before. -/
theorem memGet_filter (m : Memory) (q : Nat → Bool) (x : Nat) : memGet (m.filter fun c => q c.1) x = if q x then memGet m x else unlisted := by
  induction m with
  | nil => simp [memGet]
  | cons c t ih =>
    obtain ⟨k, b⟩ := c
    by_cases hk : k = x
    · subst hk
      by_cases hq : q k = true
      · simp [memGet, hq]
      · simp [hq, ih]
    · by_cases hq : q k = true
      · simp [memGet, hq, hk, ih]
      · simp [memGet, hq, hk, ih]

/-- The memories of the package lie below the host's. -/
theorem index_lt_of_package (x : Space) (h : x.package = true) : x.index < 806 := by
  cases x with
  | loc k | scene k | cb k | hbm k => simp only [Space.index]; omega
  | stat _ | kv _ | host | peer _ => cases h

/-- Outside HBM no key garbles what is read. -/
theorem pad_outside_hbm (s : State) (a : PAddr) (h : ∀ d, a.space ≠ .hbm d) : s.pad a = 0 := by
  unfold State.pad
  split
  · rename_i d e
    exact absurd e (h d)
  · rfl

theorem byteAt_outside_hbm (s : State) (a : PAddr) (h : ∀ d, a.space ≠ .hbm d) : s.byteAt a = memGet s.mem a.key := by
  rw [State.byteAt, pad_outside_hbm s a h]
  exact BitVec.xor_zero

/-- Under keys that nothing has written a place reads as its content. -/
theorem pad_of_keys_reset (s : State) (a : PAddr) (h : ∀ d k n, ((s.die d).ctl.get k).keys.get n = 0) : s.pad a = 0 := by
  unfold State.pad
  split
  · split
    · simp only [h]
      rfl
    · rfl
  · rfl

theorem State.die_modDie_ne (s : State) (d e : Fin 4) (f : Die → Die) (h : e ≠ d) : (s.modDie d f).die e = s.die e :=
  vmod_get_ne _ _ _ _ h

/-- What a change of a die leaves of every die that it leaves of that one. -/
theorem State.die_modDie_keeps {α : Type} (s : State) (d e : Fin 4) (f : Die → Die) (p : Die → α) (h : p (f (s.die d)) = p (s.die d)) :
    p ((s.modDie d f).die e) = p (s.die e) := by
  by_cases he : e = d
  · subst he; rw [State.die_modDie_same, h]
  · rw [State.die_modDie_ne s d e f he]

/-- Bytes read as before while memory, keys and owners of the granules stand. -/
theorem sameBytes_of_keys {s t : State} (hm : t.mem = s.mem) (hk : ∀ d k, ((t.die d).ctl.get k).keys = ((s.die d).ctl.get k).keys)
    (hg : ∀ d, (t.die d).granules = (s.die d).granules) : SameBytes s t := by
  intro a
  have hp : t.pad a = s.pad a := by simp only [State.pad, hk, hg]
  simp only [State.byteAt, hm, hp]

/-- A change of a die that leaves what it draws leaves what the package draws. -/
theorem State.power_modDie (s : State) (d : Fin 4) (f : Die → Die) (h : (f (s.die d)).pwrstat = (s.die d).pwrstat) :
    (s.modDie d f).power = s.power := by
  have e : (s.modDie d f).dies.toList.map (fun x => wbits x.pwrstat 63 40) = s.dies.toList.map fun x => wbits x.pwrstat 63 40 := by
    have hv : wbits (f (s.dies.get d)).pwrstat 63 40 = wbits (s.dies.get d).pwrstat 63 40 := congrArg (wbits · 63 40) h
    simp only [State.modDie, vmod, Vector.toList_set, List.map_set, hv]
    exact List.ext_getElem (by simp) fun i _ _ => by
      by_cases hi : d.val = i
      · subst hi; simp [Vector.get]
      · simp [List.getElem_set_ne hi]
  simp only [State.power, e]

/-- The fields of PWRSTAT (R419). -/
theorem pwrstat_fields (a : BitVec 24) (b : BitVec 8) (c : BitVec 16) : let w : Word := a ++ b ++ c ++ (0 : BitVec 16)
    w.extractLsb' 40 24 = a ∧ w.extractLsb' 32 8 = b ∧ w.extractLsb' 16 16 = c ∧ w.extractLsb' 0 16 = 0 := by
  intro w
  refine ⟨?_, ?_, ?_, ?_⟩ <;> ext i hi <;> simp [w] <;> grind

/-! ### The claims of O55 -/

theorem powerControlWindow_completes (s : State) (d : Fin 4) (pmw : BitVec 24) (temp : BitVec 8) (skip : BitVec 16) :
    Completes (.powerControlWindow d pmw temp skip) s fun t => let w := (t.die d).pwrstat
      w.extractLsb' 40 24 = pmw ∧ w.extractLsb' 32 8 = temp ∧ w.extractLsb' 0 16 = 0 ∧
      (w.extractLsb' 16 16).toNat = (if (s.die d).winCycles = 0 then 0 else Min.min 65535 ((s.die d).winSkipped * 65536 / (s.die d).winCycles)) ∧
      (t.die d).winCycles = 0 ∧ (t.die d).winSkipped = 0 ∧
      (if s.powerLimit.toNat * 1000 < t.power then (t.die d).toSkip ≠ 0 else (t.die d).toSkip = skip) ∧ t.cores = s.cores ∧ SameBytes s t := by
  refine ⟨_, rfl, ?_⟩
  extract_lets x skipped s1
  generalize ht : s1.modDie d _ = t
  intro w
  have hpower : t.power = s1.power := ht ▸ State.power_modDie _ _ _ rfl
  have hd : t.die d = { s.die d with
      pwrstat := pmw ++ temp ++ skipped ++ (0 : BitVec 16), winCycles := 0, winSkipped := 0
      toSkip := if s.powerLimit.toNat * 1000 < t.power then (if skip = 0 then 1 else skip) else skip } := by
    rw [hpower, ← ht, State.die_modDie_same, show s1.die d = _ from State.die_modDie_same s d _]
    rfl
  have hkeys (e : Fin 4) : ((t.die e).ctl, (t.die e).granules) = ((s.die e).ctl, (s.die e).granules) := by
    rw [← ht]
    exact (State.die_modDie_keeps s1 d e _ (fun x => (x.ctl, x.granules)) rfl).trans
      (State.die_modDie_keeps s d e _ (fun x => (x.ctl, x.granules)) rfl)
  have hbytes : SameBytes s t := sameBytes_of_keys (by rw [← ht]; rfl) (fun e k => by rw [(Prod.mk.inj (hkeys e)).1])
    fun e => (Prod.mk.inj (hkeys e)).2
  obtain ⟨h1, h2, h3, h4⟩ := pwrstat_fields pmw temp skipped
  have hw : w = pmw ++ temp ++ skipped ++ (0 : BitVec 16) := by simp only [w, hd]
  have hskipped : skipped.toNat = if x.winCycles = 0 then 0 else min 65535 (x.winSkipped * 65536 / x.winCycles) := by
    simp only [skipped, BitVec.toNat_ofNat]
    exact Nat.mod_eq_of_lt (by split <;> omega)
  rw [hw, h1, h2, h3, h4, hd]
  refine ⟨rfl, rfl, rfl, hskipped, rfl, rfl, ?_, by rw [← ht]; rfl, hbytes⟩
  by_cases hover : s.powerLimit.toNat * 1000 < t.power
  · simp only [hover, if_true]
    split
    · decide
    · assumption
  · simp only [hover, if_false]

/-- Every key register of a reset controller is clear. -/
theorem keys_reset (k : Fin 2) (n : Fin 33) : (Die.reset.ctl.get k).keys.get n = 0 := by
  have h : Die.reset.ctl.get k = HbmCtl.reset := Vector.getElem_replicate _
  rw [h]
  exact Vector.getElem_replicate _

/-- The pages that a rewritten table may bring (R183). -/
theorem pageMap_ok_eq (g : PageMap) :
    PageMap.ok g = decide ((g.size = 2 ^ 16 ∨ g.size = 2 ^ 21 ∨ g.size = 2 ^ 30) ∧ g.va % g.size = 0 ∧ g.dest.off % g.size = 0) := by
  rw [Bool.eq_iff_iff]
  simp [PageMap.ok, and_assoc, or_assoc]

theorem extentRewrite_completes (s : State) (part : BitVec 5) (base len : Word) (pages : List PageMap) :
    Completes (.extentRewrite part base len pages) s fun t => SameBytes s t ∧ (t.part part).pages =
      (pages.filter fun g => decide ((g.size = 2 ^ 16 ∨ g.size = 2 ^ 21 ∨ g.size = 2 ^ 30) ∧ g.va % g.size = 0 ∧ g.dest.off % g.size = 0)) ++ (s.part part).pages.filter fun g =>
      !overlapsRange base.toNat (Min.min len.toNat (2 ^ 64 - base.toNat)) g.va g.size := by
  refine ⟨_, rfl, ?_⟩
  extract_lets b n s1
  generalize ht : cores256.foldl _ s1 = t
  have hc : OnlyCores s1 t := by
    rw [← ht]
    refine onlyCores_foldl _ _ _ fun u k => ?_
    extract_lets x
    split
    · exact OnlyCores.refl u
    · refine (onlyCores_modCore u k _).trans (onlyCores_foldl _ _ _ fun v i => ?_)
      extract_lets c
      split
      · exact onlyCores_foldl _ _ _ fun w p => onlyCores_rewritePort w c p b n
      · exact OnlyCores.refl v
  refine ⟨sameBytes_of hc.mem hc.dies, ?_⟩
  have hp : t.part part = s1.part part := by unfold State.part; rw [hc.parts]
  rw [hp, State.part_modPart_same]
  rw [List.filter_congr fun g _ => pageMap_ok_eq g]

theorem coldReset_completes (s : State) :
    Completes .coldReset s fun t => (∀ d, t.die d = { Die.reset with recovery := !bootVerifies d.val }) ∧ t.ep = s.ep ∧ t.routes = s.routes ∧ t.chiplets = State.reset.chiplets ∧ t.clusters = State.reset.clusters ∧ t.parts = State.reset.parts ∧ t.launches = [] ∧
      t.agenda = [] ∧ t.gangs = [] ∧ t.safe = [] ∧ (∀ c, t.slot c = Slot.reset) ∧ (∀ k, t.core k = { Core.reset with fuse := (s.core k).fuse }) ∧
      (∀ a : PAddr, a.space.package = true → a.off < 2 ^ 64 → t.byteAt a = 0) ∧ ∀ a : PAddr, a.space = .host → t.byteAt a = s.byteAt a := by
  refine ⟨_, rfl, ?_⟩
  generalize ht : ({ State.reset with
    cores := _, dies := _, mem := _, ep := _, routes := _, inbox := _, outbox := _, fresh := _, ids := _ } : State) = t
  have hcore (k : Fin 256) : t.core k = { Core.reset with fuse := (s.core k).fuse } := by
    rw [← ht]
    exact Vector.getElem_ofFn _
  have hdie (d : Fin 4) : t.die d = { Die.reset with recovery := !bootVerifies d.val } := by
    rw [← ht]
    exact Vector.getElem_ofFn _
  have hmem (a : PAddr) : memGet t.mem a.key = if 806 * 2 ^ 64 ≤ a.key then memGet s.mem a.key else unlisted := by
    rw [← ht]
    exact (memGet_filter s.mem (fun x => decide (806 * 2 ^ 64 ≤ x)) a.key).trans (by simp only [decide_eq_true_eq])
  have hslot (c : CpId) : t.slot c = Slot.reset := by
    rw [State.slot, hcore]
    exact Vector.getElem_replicate _
  have hpackage (a : PAddr) (h : a.space.package = true) (ho : a.off < 2 ^ 64) : t.byteAt a = 0 := by
    have hi := index_lt_of_package a.space h
    have hk : ¬ 806 * 2 ^ 64 ≤ a.key := by unfold PAddr.key; omega
    rw [State.byteAt, hmem, if_neg hk, pad_of_keys_reset t a fun d k n => by rw [hdie]; exact keys_reset k n]
    rfl
  have hhost (a : PAddr) (h : a.space = .host) : t.byteAt a = s.byteAt a := by
    have hn (d : Fin 4) : a.space ≠ .hbm d := by rw [h]; exact Space.noConfusion
    have hk : 806 * 2 ^ 64 ≤ a.key := by simp only [PAddr.key, h, Space.index]; omega
    rw [byteAt_outside_hbm t a hn, byteAt_outside_hbm s a hn, hmem, if_pos hk]
  refine ⟨hdie, ?_, ?_, ?_, ?_, ?_, ?_, ?_, ?_, ?_, hslot, hcore, hpackage, hhost⟩ <;> exact ht ▸ rfl

theorem warmReset_completes (s : State) :
    Completes .warmReset s fun t => t.mem = s.mem ∧ t.ep = s.ep ∧ t.routes = s.routes ∧ t.ecc = s.ecc ∧ t.parts = State.reset.parts ∧ (∀ c, t.slot c = Slot.reset) ∧
      (∀ k, (t.core k).elog = (s.core k).elog ∧ (t.core k).einj = 0 ∧ (t.core k).fuse = (s.core k).fuse ∧ (t.core k).recq = []) ∧
      (∀ k, (t.cluster k).cblog = (s.cluster k).cblog ∧ (t.cluster k).cdlog = (s.cluster k).cdlog ∧ (t.cluster k).cbinj = 0) ∧
      (∀ d k, ((t.die d).ctl.get k).hlog = ((s.die d).ctl.get k).hlog ∧ ((t.die d).ctl.get k).hinj = 0 ∧ (t.die d).gcyc = (s.die d).gcyc ∧ (t.die d).recovery = (s.die d).recovery) ∧ (∀ k, (t.chiplet k).kvlog = (s.chiplet k).kvlog ∧ (t.chiplet k).kvinj = 0) ∧
      ∀ a : PAddr, (∀ d, a.space ≠ .hbm d) → t.byteAt a = s.byteAt a := by
  refine ⟨_, rfl, ?_⟩
  generalize ht : ({ State.reset with
    cores := _, clusters := _, dies := _, chiplets := _, mem := _, ecc := _, ep := _, routes := _, inbox := _, outbox := _, fresh := _, ids := _
    safe := _ } : State) = t
  have hmem : t.mem = s.mem := by rw [← ht]
  have hcore (k : Fin 256) : t.core k = (s.core k).warm := by
    rw [← ht]
    exact Vector.getElem_map _ _
  have hslot (c : CpId) : t.slot c = Slot.reset := by
    rw [State.slot, hcore]
    exact Vector.getElem_replicate _
  have hcluster (k : Fin 32) : t.cluster k = { Cluster.reset with cblog := (s.cluster k).cblog, cdlog := (s.cluster k).cdlog } := by
    rw [← ht]
    exact Vector.getElem_ofFn _
  have hdie (d : Fin 4) : t.die d =
      { Die.reset with gcyc := (s.die d).gcyc, recovery := (s.die d).recovery, ctl := (s.die d).ctl.map HbmCtl.warm } := by
    rw [← ht]
    exact Vector.getElem_ofFn _
  have hctl (d : Fin 4) (k : Fin 2) : (t.die d).ctl.get k = ((s.die d).ctl.get k).warm := by
    rw [hdie]
    exact Vector.getElem_map _ _
  have hchiplet (k : Fin 2) : t.chiplet k = { Chiplet.reset with kvlog := (s.chiplet k).kvlog } := by
    rw [← ht]
    exact Vector.getElem_ofFn _
  refine ⟨hmem, ?_, ?_, ?_, ?_, hslot, fun k => ?_, fun k => ?_, fun d k => ?_, fun k => ?_, fun a h => ?_⟩
  · rw [← ht]
  · rw [← ht]
  · rw [← ht]
  · rw [← ht]
  · rw [hcore]
    exact ⟨rfl, rfl, rfl, rfl⟩
  · rw [hcluster]
    exact ⟨rfl, rfl, rfl⟩
  · rw [hctl, hdie]
    exact ⟨rfl, rfl, rfl, rfl⟩
  · rw [hchiplet]
    exact ⟨rfl, rfl⟩
  · rw [byteAt_outside_hbm t a h, byteAt_outside_hbm s a h, hmem]

/-- Settles O55: each event's next state is written out, so its parts are read off; the bytes follow from the keys and from what is kept. -/
theorem powerAndReset : Obligations.PowerAndReset := by
  unfold Obligations.PowerAndReset
  intro s d pmw temp skip part base len pages
  exact ⟨powerControlWindow_completes s d pmw temp skip, extentRewrite_completes s part base len pages, coldReset_completes s,
    warmReset_completes s, reset_mem_wf⟩

end Sys2Proof.Machine
end

section
/-! Writes of the management registers (O52). -/
namespace Sys2Proof.Machine

/-! ### HBM controllers -/

@[simp] theorem State.ctl_modCtl_same (s : State) (d : Fin 4) (k : Fin 2) (f : HbmCtl → HbmCtl) :
    ((s.modDie d fun x => x.modCtl k f).die d).ctl.get k = f ((s.die d).ctl.get k) := by
  simp [Die.modCtl]

/-- What a change of a controller leaves of every controller that it leaves of that one. -/
theorem State.ctl_modCtl_keeps {α : Type} (s : State) (d e : Fin 4) (k j : Fin 2) (f : HbmCtl → HbmCtl) (p : HbmCtl → α) (h : ∀ l, p (f l) = p l) :
    p (((s.modDie d fun x => x.modCtl k f).die e).ctl.get j) = p (((s.die e).ctl.get j)) := by
  refine State.die_modDie_keeps s d e _ (fun x => p (x.ctl.get j)) ?_
  by_cases hj : j = k
  · subst hj; simp [Die.modCtl, h]
  · simp [Die.modCtl, vmod_get_ne _ _ _ _ hj]

theorem State.granules_modCtl (s : State) (d e : Fin 4) (k : Fin 2) (f : HbmCtl → HbmCtl) :
    ((s.modDie d fun x => x.modCtl k f).die e).granules = (s.die e).granules :=
  State.die_modDie_keeps s d e _ (fun x => x.granules) rfl

/-- A change of a controller that leaves its keys leaves every byte. -/
theorem sameBytes_modCtl (s : State) (d : Fin 4) (k : Fin 2) (f : HbmCtl → HbmCtl) (h : ∀ l, (f l).keys = l.keys) :
    SameBytes s (s.modDie d fun x => x.modCtl k f) :=
  sameBytes_of_keys rfl (fun e j => State.ctl_modCtl_keeps s d e k j f HbmCtl.keys h) fun e => State.granules_modCtl s d e k f

/-- A logged error enters a log: of a controller the log alone changes (R306). -/
theorem State.ctl_logAt_keeps {α : Type} (s : State) (who : CpId) (part : BitVec 5) (a : PAddr) (m : EccMark) (e : Fin 4) (j : Fin 2) (p : HbmCtl → α)
    (h : ∀ l x, p { l with hlog := x } = p l) : p (((s.logAt who part a m).die e).ctl.get j) = p ((s.die e).ctl.get j) := by
  unfold State.logAt
  extract_lets w enter stat
  split
  case h_5 => exact State.ctl_modCtl_keeps s _ e _ j _ p fun l => h l _
  all_goals rfl

theorem State.granules_logAt (s : State) (who : CpId) (part : BitVec 5) (a : PAddr) (m : EccMark) (e : Fin 4) :
    ((s.logAt who part a m).die e).granules = (s.die e).granules := by
  unfold State.logAt
  extract_lets w enter stat
  split
  case h_5 => exact State.granules_modCtl s _ e _ _
  all_goals rfl

/-- The copy of a row corrects what it reads and logs it (R354). -/
theorem State.ctl_copyRow_keeps {α : Type} (s : State) (d e : Fin 4) (k j : Fin 2) (p : HbmCtl → α) (h : ∀ l x, p { l with hlog := x } = p l) :
    p (((s.copyRow d k).die e).ctl.get j) = p ((s.die e).ctl.get j) := by
  refine List.foldlRecOn _ _ (motive := fun t : State => p ((t.die e).ctl.get j) = p ((s.die e).ctl.get j)) rfl fun t ht m _ => ?_
  exact (State.ctl_logAt_keeps t _ _ _ m e j p h).trans ht

theorem sameBytes_copyRow (s : State) (d : Fin 4) (k : Fin 2) : SameBytes s (s.copyRow d k) := by
  refine sameBytes_of_keys ?_ (fun e j => State.ctl_copyRow_keeps s d e k j HbmCtl.keys fun _ _ => rfl) fun e => ?_
  · exact List.foldlRecOn _ _ (motive := fun t : State => t.mem = s.mem) rfl fun t ht m _ => (State.logAt_mem t _ _ _ m).trans ht
  · exact List.foldlRecOn _ _ (motive := fun t : State => (t.die e).granules = (s.die e).granules) rfl fun t ht m _ =>
      (State.granules_logAt t _ _ _ m e).trans ht

theorem sameBytes_trans {s t u : State} (h : SameBytes s t) (k : SameBytes t u) : SameBytes s u := fun a => (k a).trans (h a)

/-! ### Places and rows of registers -/

/-- The place of a word of a bind record (R334, R346). -/
theorem mreg_bindRec (core : Fin 256) (k : Fin 2) (w : Fin 4) :
    mreg (core.val / 64 * 0x1000000 + 0x010000 + core.val % 64 * 64 + k.val * 32 + w.val * 8) = .bindRec ⟨core, k⟩ w := by
  obtain ⟨core, hc⟩ := core
  obtain ⟨k, hk⟩ := k
  obtain ⟨w, hw⟩ := w
  dsimp only
  rw [mreg, if_neg (by omega), if_pos (by omega), dieReg, if_neg (by omega), if_pos (by omega)]
  simp only [MReg.bindRec.injEq, CpId.mk.injEq, Fin.mk.injEq]
  omega

/-- The command field of a bind record is bits [39:36] of its last word (R346). -/
theorem wbits_of_extractLsb' (v : Word) (n : Nat) (hn : n < 16) (h : v.extractLsb' 36 4 = BitVec.ofNat 4 n) : wbits v 39 36 = n := by
  have e := congrArg BitVec.toNat h
  simp only [BitVec.extractLsb'_toNat, BitVec.toNat_ofNat, Nat.shiftRight_eq_div_pow] at e
  simp only [wbits, bits]
  omega

/-! ### Trust interfaces -/

/-- A function that is locked is one of the interface's (R407). -/
theorem lt_of_locked (s : State) (fn : BitVec 8) (h : s.locked fn = true) : fn.toNat < 253 := by
  by_contra hn
  simp [State.locked, State.tdiOf, hn] at h

theorem locked_of_boundFn (s : State) (r : MReg) (v : Word) (fn : BitVec 8) (h : s.boundFn r v = some fn) : s.locked fn = true :=
  List.find?_some h

theorem State.tdiOf_setTdi (s : State) (fn : BitVec 8) (x : Tdi) (h : fn.toNat < 253) : (s.setTdi fn x).tdiOf fn = x := by
  simp [State.setTdi, State.tdiOf, h, State.msix, State.emit]

theorem State.outbox_setTdi (s : State) (fn : BitVec 8) (x : Tdi) (h : fn.toNat < 253) :
    (s.setTdi fn x).outbox = s.outbox ++ [.msix fn (s.steers fn) 2] := by
  rw [State.setTdi, dif_pos h]
  rfl

theorem tdiError_of_error (s : State) (fn : BitVec 8) (h : s.tdiOf fn = .error) : s.tdiError fn = s := by
  simp [State.tdiError, h]

/-- A TDI that is put into ERROR signals vector 2 (R407). -/
theorem tdiError_of_ne (s : State) (fn : BitVec 8) (h : s.tdiOf fn ≠ .error) (hf : fn.toNat < 253) :
    (s.tdiError fn).tdiOf fn = .error ∧ ∃ o hs, (s.tdiError fn).outbox = o ++ [.msix fn hs 2] := by
  rw [State.tdiError, if_neg (by simpa using h)]
  exact ⟨State.tdiOf_setTdi _ fn _ hf, _, _, State.outbox_setTdi _ fn _ hf⟩

theorem tdiOf_tdiError (s : State) (fn : BitVec 8) (hf : fn.toNat < 253) : (s.tdiError fn).tdiOf fn = .error := by
  by_cases h : s.tdiOf fn = .error
  · rw [tdiError_of_error s fn h, h]
  · exact (tdiError_of_ne s fn h hf).1

/-! ### Keys -/

/-- A word of a key that is written, and the others that are kept (R354). -/
theorem extractLsb'_setKeyWord (x : BitVec 256) (w j : Fin 4) (v : Word) :
    (setKeyWord x w.val v).extractLsb' (64 * j.val) 64 = if j = w then v else x.extractLsb' (64 * j.val) 64 := by
  have hmask (q : Nat) : Nat.testBit 0xFFFFFFFFFFFFFFFF q = decide (q < 64) := Nat.testBit_two_pow_sub_one 64 q
  ext i hi
  have hlt : 64 * j.val + i < 256 := by omega
  simp only [setKeyWord, BitVec.getElem_extractLsb', BitVec.getLsbD_or, BitVec.getLsbD_and, BitVec.getLsbD_not, BitVec.getLsbD_ofNat,
    Nat.testBit_mul_two_pow, hmask, hlt]
  by_cases h : j = w
  · subst h
    have hv : v.toNat.testBit i = v[i] := by rw [← BitVec.getLsbD_eq_getElem hi]; rfl
    simp [hi, hv]
  · have hn : j.val ≠ w.val := fun e => h (Fin.ext e)
    rw [if_neg h]
    by_cases hle : 64 * w.val ≤ 64 * j.val + i
    · have hge : ¬ 64 * j.val + i - 64 * w.val < 64 := by omega
      have hv : v.toNat.testBit (64 * j.val + i - 64 * w.val) = false :=
        Nat.testBit_lt_two_pow (v.isLt.trans_le (Nat.pow_le_pow_right (by omega) (by omega)))
      simp [hge, hv]
    · simp [hle]

/-! ### A register write -/

theorem registerWrite_row (s : State) (off : Nat) (v : Word) (i : Instr) (h : rowOf (mreg off) v = some i) :
    exec (.registerWrite off v) s = .next { s with agenda := .ev i :: s.agenda } := by
  change execRegisterWrite off v s = _
  unfold execRegisterWrite
  generalize mreg off = r at h ⊢
  simp only [h]
  rfl

theorem registerWrite_free (s : State) (off : Nat) (v : Word) (h : rowOf (mreg off) v = none) (hb : s.boundFn (mreg off) v = none) :
    exec (.registerWrite off v) s = .next (s.writeReg (mreg off) v) := by
  change execRegisterWrite off v s = _
  unfold execRegisterWrite
  generalize mreg off = r at h hb ⊢
  simp only [h, hb]

/-- A write that a locked TDI has bound: neither a PTAB register nor a key register, whose writes are told apart by the value itself (R407). -/
theorem registerWrite_bound (s : State) (off : Nat) (v : Word) (fn : BitVec 8) (h : rowOf (mreg off) v = none) (hb : s.boundFn (mreg off) v = some fn)
    (hp : ∀ d p o, mreg off ≠ .ptab d p o) (hk : ∀ d k n j, mreg off ≠ .key d k n j) :
    exec (.registerWrite off v) s =
      .next (if (s.writeReg (mreg off) v).readReg (mreg off) = s.readReg (mreg off) then s else s.tdiError fn) := by
  change execRegisterWrite off v s = _
  unfold execRegisterWrite
  generalize mreg off = r at h hb hp hk ⊢
  simp only [h, hb]
  by_cases he : (s.writeReg r v).readReg r = s.readReg r
  · simp [he]
  · simp [he]

theorem registerWrite_boundKey (s : State) (off : Nat) (v : Word) (fn : BitVec 8) (d : Fin 4) (k : Fin 2) (id : Fin 33) (w : Fin 4)
    (hr : mreg off = .key d k id w) (hb : s.boundFn (mreg off) v = some fn) :
    exec (.registerWrite off v) s =
      .next (if (((s.die d).ctl.get k).keys.get id).extractLsb' (64 * w.val) 64 = v then s else s.tdiError fn) := by
  change execRegisterWrite off v s = _
  unfold execRegisterWrite
  rw [hr] at hb ⊢
  simp only [rowOf, hb]
  by_cases he : (((s.die d).ctl.get k).keys.get id).extractLsb' (64 * w.val) 64 = v
  · simp [he]
  · simp [he]

/-! ### The claims of O52 -/

/-- A write of a key register (R351, R407). -/
theorem registerWrite_key (s : State) (off : Nat) (v : Word) (fn : BitVec 8) (d : Fin 4) (k : Fin 2) (id : Fin 33) (w : Fin 4)
    (hr : mreg off = .key d k id w) :
    let word (t : State) (j : Fin 4) : Word := (((t.die d).ctl.get k).keys.get id).extractLsb' (64 * j.val) 64
    (s.boundFn (mreg off) v = none → Completes (.registerWrite off v) s fun t => word t w = v ∧ ∀ j, j ≠ w → word t j = word s j) ∧
    (s.boundFn (mreg off) v = some fn → word s w ≠ v → Completes (.registerWrite off v) s fun t => t.tdiOf fn = .error) ∧
    (s.boundFn (mreg off) v = some fn → word s w = v → Completes (.registerWrite off v) s fun t => t = s) := by
  intro word
  refine ⟨fun hb => ?_, fun hb hv => ?_, fun hb hv => ?_⟩
  · refine ⟨_, registerWrite_free s off v (by rw [hr]; rfl) hb, ?_⟩
    have hw (j : Fin 4) : word (s.writeReg (mreg off) v) j = if j = w then v else word s j := by
      have hc : ((s.writeReg (mreg off) v).die d).ctl.get k =
          { (s.die d).ctl.get k with keys := vmod ((s.die d).ctl.get k).keys id fun y => setKeyWord y w.val v } := by
        rw [hr]
        exact State.ctl_modCtl_same s d k _
      simp only [word, hc, vmod_get_same, extractLsb'_setKeyWord]
    exact ⟨by rw [hw, if_pos rfl], fun j hj => by rw [hw, if_neg hj]⟩
  · exact ⟨_, registerWrite_boundKey s off v fn d k id w hr hb,
      by rw [if_neg hv]; exact tdiOf_tdiError s fn (lt_of_locked s fn (locked_of_boundFn s _ v fn hb))⟩
  · exact ⟨_, registerWrite_boundKey s off v fn d k id w hr hb, if_pos hv⟩

theorem registerWrite_slate (s : State) (v : Word) (core : Fin 256) (k : Fin 2) :
    Completes (.registerWrite (core.val / 64 * 0x1000000 + 0x010000 + core.val % 64 * 64 + k.val * 32) v) s fun t =>
      t = s.modSlot ⟨core, k⟩ fun x => { x with slate := v &&& ~~~63 } := by
  have hr : mreg (core.val / 64 * 0x1000000 + 0x010000 + core.val % 64 * 64 + k.val * 32) = .bindRec ⟨core, k⟩ 0 := by
    simpa using mreg_bindRec core k 0
  generalize hoff : core.val / 64 * 0x1000000 + 0x010000 + core.val % 64 * 64 + k.val * 32 = off at hr ⊢
  exact ⟨_, registerWrite_free s off v (by rw [hr]; rfl) (by rw [hr]; rfl), congrArg (fun r => s.writeReg r v) hr⟩

theorem registerWrite_bind (s : State) (v : Word) (core : Fin 256) (k : Fin 2) (h : v.extractLsb' 36 4 = 1) :
    Completes (.registerWrite (core.val / 64 * 0x1000000 + 0x010000 + core.val % 64 * 64 + k.val * 32 + 24) v) s fun t =>
      t = { s with agenda := .ev (.cmdBind ⟨core, k⟩ v) :: s.agenda } := by
  have hr : mreg (core.val / 64 * 0x1000000 + 0x010000 + core.val % 64 * 64 + k.val * 32 + 24) = .bindRec ⟨core, k⟩ 3 := mreg_bindRec core k 3
  refine ⟨_, registerWrite_row s _ v _ ?_, rfl⟩
  rw [hr]
  simp [rowOf, wbits_of_extractLsb' v 1 (by omega) h]

theorem registerWrite_locked (s : State) (off : Nat) (v : Word) (fn : BitVec 8) (h : rowOf (mreg off) v = none)
    (hb : s.boundFn (mreg off) v = some fn) (hp : ∀ d p o, mreg off ≠ .ptab d p o) (hk : ∀ d k n j, mreg off ≠ .key d k n j) :
    (s.tdiOf fn = .error → Completes (.registerWrite off v) s fun t => t = s) ∧
    (s.tdiOf fn ≠ .error → (s.writeReg (mreg off) v).readReg (mreg off) ≠ s.readReg (mreg off) → Completes (.registerWrite off v) s fun t => t.tdiOf fn = .error ∧ ∃ o h, t.outbox = o ++ [.msix fn h 2]) ∧
    ((s.writeReg (mreg off) v).readReg (mreg off) = s.readReg (mreg off) → Completes (.registerWrite off v) s fun t => t = s) := by
  have hx := registerWrite_bound s off v fn h hb hp hk
  refine ⟨fun he => ⟨_, hx, ?_⟩, fun he hn => ⟨_, hx, ?_⟩, fun hn => ⟨_, hx, if_pos hn⟩⟩
  · rw [tdiError_of_error s fn he, ite_self]
  · rw [if_neg hn]
    exact tdiError_of_ne s fn he (lt_of_locked s fn (locked_of_boundFn s _ v fn hb))

theorem spctlGo_completes (s : State) (v : Word) (d : Fin 4) (k : Fin 2) :
    let l := (s.die d).ctl.get k
    let pch : BitVec 6 := v.extractLsb' 12 6
    v.getLsbD 63 = true → l.spBusy = false → pch ∉ l.spUsed → Completes (.spctlGo d k v) s fun t => let m := (t.die d).ctl.get k
      m.spBusy = true ∧ m.spB = 0 ∧ m.spPch = pch ∧ m.spBank = v.extractLsb' 0 6 ∧ pch ∈ m.spUsed ∧ SameBytes s t := by
  intro l pch hgo hbusy hused
  refine ⟨_, rfl, ?_⟩
  have hu : l.spUsed.contains pch = false := by simpa using hused
  dsimp only
  rw [State.ctl_modCtl_same, hgo, hbusy, hu]
  exact ⟨rfl, rfl, rfl, rfl, by simp [pch], sameBytes_modCtl s d k _ fun _ => rfl⟩

/-- How a copy of a bank's rows goes on by one row (R354). -/
def HbmCtl.nextRow (l : HbmCtl) : HbmCtl :=
  if !l.spBusy then l
  else if l.spB.toNat + 1 = 16384 then { l with spB := l.spB + 1, spBusy := false, spDone := true }
  else { l with spB := l.spB + 1 }

theorem spareRowCopy_exec (s : State) (d : Fin 4) (k : Fin 2) : exec (.spareRowCopy d k) s =
    .next ((if ((s.die d).ctl.get k).spBusy && !s.ecc.isEmpty then s.copyRow d k else s).modDie d fun x => x.modCtl k HbmCtl.nextRow) := rfl

theorem HbmCtl.nextRow_keys (l : HbmCtl) : l.nextRow.keys = l.keys := by
  unfold HbmCtl.nextRow
  split
  · rfl
  · split <;> rfl

theorem HbmCtl.nextRow_idle (l : HbmCtl) (h : l.spBusy = false) : l.nextRow = l := by simp [HbmCtl.nextRow, h]

theorem HbmCtl.nextRow_busy (l : HbmCtl) (h : l.spBusy = true) : l.nextRow =
    { l with spB := l.spB + 1, spBusy := decide (l.spB ≠ 16383), spDone := l.spDone || decide (l.spB = 16383) } := by
  by_cases he : l.spB = 16383#15
  · simp [HbmCtl.nextRow, h, he]
  · have hn : l.spB.toNat + 1 ≠ 16384 := fun e => he (BitVec.eq_of_toNat_eq (by simp; omega))
    simp [HbmCtl.nextRow, h, he, hn]

theorem vmod_eq_self {α : Type} {n : Nat} (v : Vector α n) (i : Fin n) (f : α → α) (h : f (v.get i) = v.get i) : vmod v i f = v := by
  have e : vmod v i f = vmod v i fun _ => f (v.get i) := rfl
  rw [e, h, vmod_self]

/-- A controller that a change leaves as it is leaves the state as it is. -/
theorem State.modCtl_eq_self (s : State) (d : Fin 4) (k : Fin 2) (f : HbmCtl → HbmCtl) (h : f ((s.die d).ctl.get k) = (s.die d).ctl.get k) :
    (s.modDie d fun x => x.modCtl k f) = s := by
  rw [State.modDie, vmod_eq_self]
  change { s.die d with ctl := vmod (s.die d).ctl k f } = s.die d
  rw [vmod_eq_self _ _ _ h]

theorem spareRowCopy_completes (s : State) (d : Fin 4) (k : Fin 2) :
    let l := (s.die d).ctl.get k
    (l.spBusy = true → Completes (.spareRowCopy d k) s fun t => let m := (t.die d).ctl.get k
      m.spB = l.spB + 1 ∧ m.spBusy = decide (l.spB ≠ 16383) ∧ m.spDone = (l.spDone || decide (l.spB = 16383)) ∧ SameBytes s t) ∧
    (l.spBusy = false → Completes (.spareRowCopy d k) s fun t => t = s) := by
  intro l
  refine ⟨fun hb => ⟨_, spareRowCopy_exec s d k, ?_⟩, fun hb => ⟨_, spareRowCopy_exec s d k, ?_⟩⟩
  · generalize hu : (if ((s.die d).ctl.get k).spBusy && !s.ecc.isEmpty then s.copyRow d k else s) = u
    have hl : (((u.die d).ctl.get k).spBusy, ((u.die d).ctl.get k).spB, ((u.die d).ctl.get k).spDone) = (l.spBusy, l.spB, l.spDone) := by
      rw [← hu]
      split
      · exact State.ctl_copyRow_keeps s d d k k (fun l => (l.spBusy, l.spB, l.spDone)) fun _ _ => rfl
      · rfl
    have hs : SameBytes s u := by
      rw [← hu]
      split
      · exact sameBytes_copyRow s d k
      · exact fun _ => rfl
    simp only [Prod.mk.injEq] at hl
    obtain ⟨hbusy, hrow, hdone⟩ := hl
    dsimp only
    rw [State.ctl_modCtl_same, HbmCtl.nextRow_busy _ (hbusy.trans hb), ← hrow, ← hdone]
    exact ⟨rfl, rfl, rfl, sameBytes_trans hs (sameBytes_modCtl u d k _ HbmCtl.nextRow_keys)⟩
  · have hn : (((s.die d).ctl.get k).spBusy && !s.ecc.isEmpty) = false := by rw [hb, Bool.false_and]
    rw [if_neg (by simp [hn])]
    exact State.modCtl_eq_self s d k _ (HbmCtl.nextRow_idle _ hb)

theorem debug_completes (s : State) (fn : BitVec 8) (c : CpId) :
    (s.goTarget fn = none → Completes (.debugStep fn) s (fun t => t = s) ∧ Completes (.debugRun fn) s fun t => t = s) ∧
    (s.goTarget fn = some c → Completes (.debugRun fn) s (fun t => t = s.modCp c fun p => { p with run := .running, stepOne := false }) ∧
      Completes (.debugStep fn) s fun t => t = if (s.cp c).dbgctl.getLsbD 1 then s.modCp c fun p => { p with stepOne := true } else s) := by
  refine ⟨fun h => ⟨⟨_, rfl, ?_⟩, ⟨_, rfl, ?_⟩⟩, fun h => ⟨⟨_, rfl, ?_⟩, ⟨_, rfl, ?_⟩⟩⟩ <;> rw [h]

theorem cbarcfgWrite_completes (s : State) (cl : Fin 32) (b : BitVec 4) (v : Word) : Completes (.cbarcfgWrite cl b v) s fun t =>
    (t.cluster cl).barPart.get (ix16 b) = BitVec.ofNat 5 (v.toNat / 65536) ∧ (t.cluster cl).barN.get (ix16 b) = BitVec.ofNat 5 v.toNat ∧
    (t.cluster cl).barArr.get (ix16 b) = 0 ∧ (t.cluster cl).barGen.get (ix16 b) = (s.cluster cl).barGen.get (ix16 b) + 1 := by
  refine ⟨_, rfl, ?_⟩
  dsimp only
  rw [State.cluster_modCluster_same]
  refine ⟨(vmod_get_same _ _ _).trans ?_, (vmod_get_same _ _ _).trans ?_, vmod_get_same _ _ _, vmod_get_same _ _ _⟩
  · simp [BitVec.extractLsb', Nat.shiftRight_eq_div_pow]
  · simp [BitVec.extractLsb']

/-- Settles O52: a write goes to the row of its register, to the TDI that has bound it or to the register; the lemmas above say what each does. -/
theorem managementWrites : Obligations.ManagementWrites := by
  unfold Obligations.ManagementWrites
  refine ⟨fun s off v i fn d k c core => ?_, fun s core cl d k ch b v => ?_⟩
  · refine ⟨fun h => ⟨_, registerWrite_row s off v i h, rfl⟩, ?_, ?_, registerWrite_locked s off v fn, registerWrite_key s off v fn d k,
      spctlGo_completes s v d k, (spareRowCopy_completes s d k).1, (spareRowCopy_completes s d k).2, debug_completes s fn c⟩
    · rintro rfl
      exact registerWrite_slate s v core k
    · rintro rfl h
      exact registerWrite_bind s v core k h
  · exact ⟨⟨_, rfl, rfl⟩, ⟨_, rfl, rfl⟩, ⟨_, rfl, rfl⟩, ⟨_, rfl, rfl⟩, cbarcfgWrite_completes s cl b v⟩

end Sys2Proof.Machine
end

section
/-! Reads and writes of the CSRs (O11). -/
namespace Sys2Proof.Machine

/-! ### Landing entries -/

theorem onlyCp_newId (c : CpId) (s : State) : OnlyCp c s s.newId := ⟨⟨rfl, fun _ _ => rfl⟩, rfl, rfl, rfl⟩

/-- The entry that a late result takes in the queue of the present mode (R164). -/
def State.lateEntry (s : State) (r : Reg) (v : Word) (L : Nat) : LandEntry :=
  { id := s.ids, place := freePlace (s.cp s.cur).queue, reg := r, kind := .fixed, rem := some L, value := v, far := none, ask := none
    vaddr := 0, fpc := s.pc, since := s.ftime }

theorem putLate_cp (s : State) (r : Reg) (v : Word) (L : Nat) :
    (s.putLate r v L).cp s.cur = (s.cp s.cur).setQueue ((s.cp s.cur).queue ++ [s.lateEntry r v L]) :=
  (writeArr_cp _ _ _ _ _ _ _ _).trans (State.cp_modCp_same _ _ _)

theorem putLate_cur (s : State) (r : Reg) (v : Word) (L : Nat) : (s.putLate r v L).cur = s.cur := writeArr_cur _ _ _ _ _ _ _
theorem putLate_mem (s : State) (r : Reg) (v : Word) (L : Nat) : (s.putLate r v L).mem = s.mem := State.writeArr_mem _ _ _ _ _ _ _
theorem putLate_dies (s : State) (r : Reg) (v : Word) (L : Nat) : (s.putLate r v L).dies = s.dies := writeArr_dies _ _ _ _ _ _ _

theorem onlyCp_putLate (s : State) (r : Reg) (v : Word) (L : Nat) : OnlyCp s.cur s (s.putLate r v L) :=
  onlyCp_trans (onlyCp_trans (onlyCp_newId s.cur s) (onlyCp_modCp _ _ _)) (onlyCp_writeArr _ _ _ _ _ _ _)

@[simp] theorem setQueue_queue (p : Cp) (q : List LandEntry) : (p.setQueue q).queue = q := by
  unfold Cp.queue Cp.setQueue
  cases p.handler <;> simp

@[simp] theorem setQueue_reg (p : Cp) (q : List LandEntry) (r : Reg) : (p.setQueue q).reg r = p.reg r := by
  unfold Cp.reg Cp.bank Cp.setQueue
  cases p.handler <;> simp

theorem setQueue_pc (p : Cp) (q : List LandEntry) : (p.setQueue q).pc = p.pc := by
  unfold Cp.setQueue
  split <;> rfl

theorem onlyRegs_setQueue (p : Cp) (q : List LandEntry) : OnlyRegs p (p.setQueue q) := by
  unfold OnlyRegs Cp.setQueue
  cases p.handler <;> simp

/-! ### CSR writes -/

theorem writeCsr_cp (s : State) (n : Nat) (v : Word) : (s.writeCsr s.cur n v).cp s.cur = (s.cp s.cur).setCsr n v := by
  unfold State.writeCsr
  extract_lets s1
  have h1 : s1.cp s.cur = (s.cp s.cur).setCsr n v := State.cp_modCp_same _ _ _
  split
  · exact (writeArr_cp _ _ _ _ _ _ _ _).trans h1
  · exact h1

theorem writeCsr_cur (s : State) (c : CpId) (n : Nat) (v : Word) : (s.writeCsr c n v).cur = s.cur := by
  unfold State.writeCsr
  split
  · exact writeArr_cur _ _ _ _ _ _ _
  · rfl

theorem writeCsr_mem (s : State) (c : CpId) (n : Nat) (v : Word) : (s.writeCsr c n v).mem = s.mem := by
  unfold State.writeCsr
  split
  · exact State.writeArr_mem _ _ _ _ _ _ _
  · rfl

theorem writeCsr_dies (s : State) (c : CpId) (n : Nat) (v : Word) : (s.writeCsr c n v).dies = s.dies := by
  unfold State.writeCsr
  split
  · exact writeArr_dies _ _ _ _ _ _ _
  · rfl

theorem onlyCp_writeCsr (c : CpId) (s : State) (n : Nat) (v : Word) : OnlyCp c s (s.writeCsr c n v) := by
  unfold State.writeCsr
  split
  · exact onlyCp_trans (onlyCp_modCp _ _ _) (onlyCp_writeArr _ _ _ _ _ _ _)
  · exact onlyCp_modCp _ _ _

/-! ### The csr group -/

/-- A CSR that the policy of the partition does not guard can be read, a thread register in handler mode only (R208, R235). -/
theorem csrDenied_read (s : State) (n : Nat) (h : csrThreadReg n = true → (s.cp s.cur).handler = true) : s.csrDenied n false = false := by
  unfold State.csrDenied
  cases ht : csrThreadReg n
  · simp
  · simp [h ht]

/-- In handler mode it can be written. -/
theorem csrDenied_write (s : State) (n : Nat) (h : (s.cp s.cur).handler = true) (hd : csrDebug n = false) (hp : csrProfile n = false) (w : Bool) :
    s.csrDenied n w = false := by
  simp [State.csrDenied, h, hd, hp]

/-- csrr of any CSR but FTIME, which draws a free value before the lock. -/
theorem csrr_lands (s : State) (d : Reg) (n : BitVec 12) (hd : s.csrDenied n.toNat false = false) (hn : n.toNat ≠ 0x006) :
    Lands (.csrr d n) s [] d 2 (s.csr s.cur n.toNat) := by
  intro hc
  let v := s.csr s.cur n.toNat
  let u := s.putLate d v 2
  refine ⟨u.advance, ?_, ?_⟩
  · change s.csrOp n.toNat [] (some d) false (fun _ v => v) = _
    rw [State.csrOp, if_neg (by simp [hd])]
    have hi := issue_ok s [] [d] true (fun t => (t.putLate d (t.csr t.cur n.toNat) 2).advance) hc
    simpa [hn] using hi
  · have hcur : u.cur = s.cur := putLate_cur s d v 2
    have hcp : u.advance.cp s.cur = { (u.cp s.cur).asIssued with pc := (u.cp s.cur).pc + 4 } := hcur ▸ advance_cp u
    have hu : u.cp s.cur = (s.cp s.cur).setQueue ((s.cp s.cur).queue ++ [s.lateEntry d v 2]) := putLate_cp s d v 2
    have hq : (u.advance.cp s.cur).queue = (s.cp s.cur).queue ++ [s.lateEntry d v 2] := by
      rw [hcp, hu]
      exact setQueue_queue _ _
    refine ⟨⟨?_, ?_, ?_⟩, ?_, ?_, s.lateEntry d v 2, hq, rfl, rfl, rfl, rfl⟩
    · exact onlyCp_trans (onlyCp_putLate s d v 2) (hcur ▸ onlyCp_advance u)
    · exact sameBytes_of ((advance_mem u).trans (putLate_mem s d v 2)) ((advance_dies u).trans (putLate_dies s d v 2))
    · rw [hcp]
      exact onlyRegs_next _ _ (hu ▸ onlyRegs_setQueue _ _)
    · rw [State.pc, advance_cur, hcur, hcp, hu, setQueue_pc]
      rfl
    · intro r
      rw [State.reg, advance_cur, hcur, hcp, hu]
      exact setQueue_reg _ _ _

/-- What a csr instruction that writes leaves of the CP. -/
theorem csrWrite_cp (s : State) (n : Nat) (v : Word) :
    (s.writeCsr s.cur n v).advance.cp s.cur =
      { ((s.cp s.cur).setCsr n v).asIssued with pc := ((s.cp s.cur).setCsr n v).pc + 4 } := by
  have h := advance_cp (s.writeCsr s.cur n v)
  rwa [writeCsr_cur, writeCsr_cp] at h

theorem csrw_completes (s : State) (a : Reg) (n : BitVec 12) (q : Cp) (hh : (s.cp s.cur).handler = true) (hc : CanIssue s [a] false)
    (hd : csrDebug n.toNat = false) (hp : csrProfile n.toNat = false) (hn : n.toNat ≠ 0x006) (hq : (s.cp s.cur).setCsr n.toNat (s.reg a) = q)
    (hpc : q.pc = (s.cp s.cur).pc) :
    Completes (.csrw a n) s fun t => OnlyCp s.cur s t ∧ SameBytes s t ∧
      t.cp s.cur = { q with pc := (s.cp s.cur).pc + 4, pmc := (t.cp s.cur).pmc, stepOne := false } := by
  let u := s.writeCsr s.cur n.toNat (s.reg a)
  refine ⟨u.advance, ?_, ?_, ?_, ?_⟩
  · change s.csrOp n.toNat [a] none true (fun t _ => t.reg a) = _
    rw [State.csrOp, if_neg (by simp [csrDenied_write s n.toNat hh hd hp])]
    have hi := issue_ok s [a] [] false (fun t => (t.writeCsr t.cur n.toNat (t.reg a)).advance) hc
    simpa [hn] using hi
  · have hcur : u.cur = s.cur := writeCsr_cur s _ _ _
    exact onlyCp_trans (onlyCp_writeCsr _ _ _ _) (hcur ▸ onlyCp_advance u)
  · exact sameBytes_of ((advance_mem u).trans (writeCsr_mem _ _ _ _)) ((advance_dies u).trans (writeCsr_dies _ _ _ _))
  · have hcp := csrWrite_cp s n.toNat (s.reg a)
    rw [hq, hpc] at hcp
    rw [hcp]
    rfl

theorem setCsr_queue (p : Cp) (n : Nat) (v : Word) : (p.setCsr n v).queue = p.queue := by
  simp only [Cp.setCsr]
  repeat' split
  all_goals rfl

theorem setCsr_pc (p : Cp) (n : Nat) (v : Word) : (p.setCsr n v).pc = p.pc := by
  simp only [Cp.setCsr]
  repeat' split
  all_goals rfl

/-- The CP of a csr instruction that answers in `d`, before it goes on: its queue has the answer, and the CSR is written unless the mask is g0 (R233). -/
def State.csrAnswered (s : State) (n : Nat) (d a : Reg) (v : Word) : Cp :=
  let p := (s.cp s.cur).setQueue ((s.cp s.cur).queue ++ [s.lateEntry d (s.csr s.cur n) 2])
  if a = 0 then p else p.setCsr n v

theorem csrAnswered_queue (s : State) (n : Nat) (d a : Reg) (v : Word) :
    (s.csrAnswered n d a v).queue = (s.cp s.cur).queue ++ [s.lateEntry d (s.csr s.cur n) 2] := by
  unfold State.csrAnswered
  extract_lets p
  split
  · exact setQueue_queue _ _
  · rw [setCsr_queue]
    exact setQueue_queue _ _

/-- csrs and csrc in handler mode (R233). -/
theorem csrOp_answers (i : Instr) (s : State) (d a : Reg) (n : Nat) (new : State → Word → Word) (hx : exec i s = s.csrOp n [a] (some d) (a != 0) new)
    (hh : (s.cp s.cur).handler = true) (hc : CanIssue s [a, d] true) (hd : csrDebug n = false) (hp : csrProfile n = false) (hn : n ≠ 0x006) :
    Completes i s fun t => OnlyCp s.cur s t ∧ SameBytes s t ∧ Queued d .fixed (some 2) (s.csr s.cur n) s t ∧
      t.cp s.cur = { (s.csrAnswered n d a (new s (s.csr s.cur n))).asIssued with pc := (s.cp s.cur).pc + 4 } := by
  let u := s.putLate d (s.csr s.cur n) 2
  let w := if a = 0 then u else u.writeCsr s.cur n (new s (s.csr s.cur n))
  have hcur : u.cur = s.cur := putLate_cur _ _ _ _
  have hu : u.cp s.cur = (s.cp s.cur).setQueue ((s.cp s.cur).queue ++ [s.lateEntry d (s.csr s.cur n) 2]) := putLate_cp _ _ _ _
  have hw : w.cp s.cur = s.csrAnswered n d a (new s (s.csr s.cur n)) ∧ w.cur = s.cur ∧ w.mem = s.mem ∧ w.dies = s.dies ∧ OnlyCp s.cur s w := by
    by_cases ha : a = 0
    · simp only [w, State.csrAnswered, if_pos ha]
      exact ⟨hu, hcur, putLate_mem _ _ _ _, putLate_dies _ _ _ _, onlyCp_putLate _ _ _ _⟩
    · simp only [w, State.csrAnswered, if_neg ha]
      refine ⟨?_, (writeCsr_cur _ _ _ _).trans hcur, (writeCsr_mem _ _ _ _).trans (putLate_mem _ _ _ _),
        (writeCsr_dies _ _ _ _).trans (putLate_dies _ _ _ _), onlyCp_trans (onlyCp_putLate _ _ _ _) (onlyCp_writeCsr _ _ _ _)⟩
      have h := writeCsr_cp u n (new s (s.csr s.cur n))
      rw [hcur, hu] at h
      exact h
  obtain ⟨hcp, hwcur, hmem, hdies, honly⟩ := hw
  have hpc : (s.csrAnswered n d a (new s (s.csr s.cur n))).pc = (s.cp s.cur).pc := by
    unfold State.csrAnswered
    split
    · exact setQueue_pc _ _
    · exact (setCsr_pc _ _ _).trans (setQueue_pc _ _)
  have hnext : w.advance.cp s.cur = { (s.csrAnswered n d a (new s (s.csr s.cur n))).asIssued with pc := (s.cp s.cur).pc + 4 } := by
    have h := advance_cp w
    rwa [hwcur, hcp, hpc] at h
  refine ⟨w.advance, ?_, onlyCp_trans honly (hwcur ▸ onlyCp_advance w), sameBytes_of ((advance_mem w).trans hmem) ((advance_dies w).trans hdies),
    ⟨s.lateEntry d (s.csr s.cur n) 2, ?_, rfl, rfl, rfl, rfl⟩, hnext⟩
  · rw [hx, State.csrOp, if_neg (by simp [csrDenied_write s n hh hd hp])]
    refine (issue_ok s [a] [d] true _ hc).trans ?_
    simp [hn, w, u, ite_not]
  · rw [hnext]
    exact csrAnswered_queue s n d a _

/-! ### Values -/

theorem and_not_add_and (x m : Word) : (x &&& ~~~m) + (x &&& m) = x := by
  rw [BitVec.add_eq_or_of_and_eq_zero]
  · ext i hi
    simp only [BitVec.getElem_or, BitVec.getElem_and, BitVec.getElem_not]
    cases x[i] <;> cases m[i] <;> rfl
  · ext i hi
    simp only [BitVec.getElem_and, BitVec.getElem_not, BitVec.getElem_zero]
    cases x[i] <;> cases m[i] <;> rfl

/-- Bits [1:0] of TVEC stay 0 (R234). -/
theorem and_not_three (x : Word) : x &&& ~~~(3 : Word) = x - BitVec.ofNat 64 (x.toNat % 4) := by
  have h3 : x &&& 3 = BitVec.ofNat 64 (x.toNat % 4) := by
    apply BitVec.eq_of_toNat_eq
    have h : x.toNat &&& 3 = x.toNat % 4 := Nat.and_two_pow_sub_one_eq_mod x.toNat 2
    rw [BitVec.toNat_and, BitVec.toNat_ofNat, Nat.mod_eq_of_lt (by omega)]
    exact h
  rw [← h3]
  exact eq_sub_of_add_eq (and_not_add_and x 3)

theorem locOf_word (k : Fin 256) : (locOf k).setWidth 64 = BitVec.ofNat 64 k.val := by
  apply BitVec.eq_of_toNat_eq
  simp [locOf]

/-- The number of a thread register's CSR (R235). -/
theorem threadCsr_toNat (n : BitVec 5) : (BitVec.ofNat 12 (0x040 + n.toNat)).toNat = 0x040 + n.toNat := by
  simp only [BitVec.toNat_ofNat]
  omega

/-- The number of a thread register's CSR is that of no other. -/
theorem threadCsr_ne (n : BitVec 5) (m : Nat) (h : m < 0x040) : (0x040 + n.toNat == m) = false := by
  simp only [beq_eq_false_iff_ne]
  omega

theorem csrThreadReg_threadCsr (n : BitVec 5) : csrThreadReg (0x040 + n.toNat) = true := by
  simp only [csrThreadReg, Bool.and_eq_true, decide_eq_true_eq]
  omega

theorem csrProfile_threadCsr (n : BitVec 5) : csrProfile (0x040 + n.toNat) = false := by
  simp only [csrProfile, Bool.and_eq_false_iff, decide_eq_false_iff_not]
  omega

theorem csrDebug_threadCsr (n : BitVec 5) : csrDebug (0x040 + n.toNat) = false := threadCsr_ne n 0x030 (by omega)

theorem csr_threadCsr (s : State) (c : CpId) (n : BitVec 5) : s.csr c (0x040 + n.toNat) = bankReg (s.cp c).bankT n := by
  simp [State.csr, threadCsr_ne, csrDebug_threadCsr, csrProfile_threadCsr, csrThreadReg_threadCsr]

theorem setCsr_threadCsr (p : Cp) (n : BitVec 5) (v : Word) : p.setCsr (0x040 + n.toNat) v = { p with bankT := bankSet p.bankT n v } := by
  simp [Cp.setCsr, threadCsr_ne, csrDebug_threadCsr, csrProfile_threadCsr, csrThreadReg_threadCsr]

theorem csrr_values (s : State) (d : Reg) :
    let p := s.cp s.cur
    let k := s.cur.core.val
    let gets (n : BitVec 12) (v : Word) : Prop := Lands (.csrr d n) s [] d 2 v
    gets 0x000 (BitVec.ofNat 64 k) ∧
    gets 0x001 (BitVec.ofNat 64 (64 * p.phase.toNat + (if p.check then 1 else 0))) ∧
    gets 0x004 p.tcyc ∧
    gets 0x005 (s.die (dieOf s.cur.core)).gcyc ∧
    gets 0x008 (BitVec.ofNat 64 p.cpevt.toNat) ∧
    gets 0x010 (BitVec.ofNat 64 ((s.core s.cur.core).ssb.toNat * 65536 + (s.core s.cur.core).smb.toNat * 256 + (s.core s.cur.core).lsb.toNat)) ∧
    gets 0x011 (BitVec.ofNat 64 s.cur.slot.val) ∧
    gets 0x012 (BitVec.ofNat 64 (s.slot s.cur).part.toNat) ∧
    gets 0x013 (BitVec.ofNat 64 (s.slot s.cur).prio.toNat) ∧
    gets 0x020 p.tvec ∧ gets 0x021 p.tpc ∧ gets 0x022 (BitVec.ofNat 64 p.tcause.toNat) ∧ gets 0x023 p.tval ∧ gets 0x024 p.tfpc ∧ gets 0x025 p.tscr ∧
    (∀ n : BitVec 5, p.handler = true → gets (BitVec.ofNat 12 (0x040 + n.toNat)) (if n = 0 then 0 else p.bankT.get (ix32 n))) := by
  intro p k gets
  have plain (n : BitVec 12) (v : Word) (hn : n.toNat ≠ 6) (ht : csrThreadReg n.toNat = false) (hv : s.csr s.cur n.toNat = v) : gets n v :=
    hv ▸ csrr_lands s d n (csrDenied_read s _ fun h => absurd h (by simp [ht])) hn
  refine ⟨plain _ _ (by decide) (by decide) (locOf_word _), plain _ _ (by decide) (by decide) ?_, plain _ _ (by decide) (by decide) rfl,
    plain _ _ (by decide) (by decide) rfl, plain _ _ (by decide) (by decide) ?_, plain _ _ (by decide) (by decide) rfl,
    plain _ _ (by decide) (by decide) rfl, plain _ _ (by decide) (by decide) ?_, plain _ _ (by decide) (by decide) ?_,
    plain _ _ (by decide) (by decide) rfl, plain _ _ (by decide) (by decide) rfl, plain _ _ (by decide) (by decide) ?_,
    plain _ _ (by decide) (by decide) rfl, plain _ _ (by decide) (by decide) rfl, plain _ _ (by decide) (by decide) rfl, fun n hh => ?_⟩
  · change BitVec.ofNat 64 (p.phase.toNat * 64 + p.check.toNat) = _
    rw [Nat.mul_comm]
    cases p.check <;> rfl
  · exact (BitVec.ofNat_toNat 64 p.cpevt).symm
  · exact (BitVec.ofNat_toNat 64 (s.slot s.cur).part).symm
  · exact (BitVec.ofNat_toNat 64 (s.slot s.cur).prio).symm
  · exact (BitVec.ofNat_toNat 64 p.tcause).symm
  · have hl := csrr_lands s d (BitVec.ofNat 12 (0x040 + n.toNat))
    rw [threadCsr_toNat, csr_threadCsr] at hl
    exact hl (csrDenied_read s _ fun _ => hh) (by omega)

theorem csrw_values (s : State) (a : Reg) (n : BitVec 5) (hh : (s.cp s.cur).handler = true) (hc : CanIssue s [a] false) :
    let p := s.cp s.cur
    let x := s.reg a
    let sets (k : BitVec 12) (q : Cp) : Prop := Completes (.csrw a k) s fun t => OnlyCp s.cur s t ∧ SameBytes s t ∧
      t.cp s.cur = { q with pc := p.pc + 4, pmc := (t.cp s.cur).pmc, stepOne := false }
    sets 0x001 { p with check := x.getLsbD 0 } ∧
    sets 0x008 { p with cpevt := p.cpevt &&& ~~~(x.extractLsb' 0 5) } ∧
    sets 0x020 { p with tvec := x - BitVec.ofNat 64 (x.toNat % 4) } ∧
    sets 0x021 { p with tpc := x } ∧
    sets 0x025 { p with tscr := x } ∧
    sets (BitVec.ofNat 12 (0x040 + n.toNat)) { p with bankT := if n = 0 then p.bankT else vmod p.bankT (ix32 n) fun _ => x } ∧
    sets 0x000 p ∧ sets 0x004 p ∧ sets 0x005 p ∧ sets 0x022 p ∧ sets 0x023 p ∧ sets 0x024 p := by
  intro p x sets
  have plain (k : BitVec 12) (q : Cp) (hd : csrDebug k.toNat = false) (hp : csrProfile k.toNat = false) (hn : k.toNat ≠ 0x006)
      (hq : p.setCsr k.toNat x = q) : sets k q :=
    csrw_completes s a k q hh hc hd hp hn hq (hq ▸ setCsr_pc p _ x)
  refine ⟨plain _ _ rfl (by decide) (by decide) rfl, plain _ _ rfl (by decide) (by decide) ?_, plain _ _ rfl (by decide) (by decide) ?_,
    plain _ _ rfl (by decide) (by decide) rfl, plain _ _ rfl (by decide) (by decide) rfl, ?_,
    plain _ _ rfl (by decide) (by decide) rfl, plain _ _ rfl (by decide) (by decide) rfl, plain _ _ rfl (by decide) (by decide) rfl,
    plain _ _ rfl (by decide) (by decide) rfl, plain _ _ rfl (by decide) (by decide) rfl, plain _ _ rfl (by decide) (by decide) rfl⟩
  · change { p with cpevt := p.cpevt &&& ~~~(x.setWidth 5) } = _
    rw [BitVec.setWidth_eq_extractLsb' (by omega)]
  · change { p with tvec := x &&& ~~~(3 : Word) } = _
    rw [and_not_three]
  · refine plain _ _ ?_ ?_ ?_ ?_ <;> rw [threadCsr_toNat]
    · exact csrDebug_threadCsr n
    · exact csrProfile_threadCsr n
    · omega
    · exact setCsr_threadCsr p n x

theorem csrs_exec (s : State) (d a : Reg) (n : BitVec 12) :
    exec (.csrs d a n) s = s.csrOp n.toNat [a] (some d) (a != 0) fun t old => old ||| t.reg a := rfl

theorem csrc_exec (s : State) (d a : Reg) (n : BitVec 12) :
    exec (.csrc d a n) s = s.csrOp n.toNat [a] (some d) (a != 0) fun t old => old &&& ~~~(t.reg a) := rfl

theorem csrOp_masks (s : State) (d a : Reg) (hh : (s.cp s.cur).handler = true) (hc : CanIssue s [a, d] true) :
    let p := s.cp s.cur
    let m := s.reg a
    let does (i : Instr) (old : Word) (q : Cp) : Prop := Completes i s fun t => OnlyCp s.cur s t ∧ SameBytes s t ∧ Queued d .fixed (some 2) old s t ∧
      t.cp s.cur = { q with pc := p.pc + 4, lqH := (t.cp s.cur).lqH, pmc := (t.cp s.cur).pmc, stepOne := false }
    does (.csrs d a 0x025) p.tscr { p with tscr := if a = 0 then p.tscr else p.tscr ||| m } ∧
    does (.csrc d a 0x025) p.tscr { p with tscr := if a = 0 then p.tscr else p.tscr &&& ~~~m } ∧
    does (.csrs d a 0x021) p.tpc { p with tpc := if a = 0 then p.tpc else p.tpc ||| m } ∧
    does (.csrc d a 0x021) p.tpc { p with tpc := if a = 0 then p.tpc else p.tpc &&& ~~~m } := by
  intro p m does
  have masks (i : Instr) (n : BitVec 12) (new : State → Word → Word) (old : Word) (q : Cp)
      (hx : exec i s = s.csrOp n.toNat [a] (some d) (a != 0) new) (hd : csrDebug n.toNat = false)
      (hp : csrProfile n.toNat = false) (hn : n.toNat ≠ 0x006) (hold : s.csr s.cur n.toNat = old)
      (hq : ∀ l, (if a = 0 then { p with lqH := l } else ({ p with lqH := l } : Cp).setCsr n.toNat (new s old)) = { q with lqH := l }) :
      does i old q := by
    obtain ⟨t, ht, honly, hbytes, hqueued, hcp⟩ := csrOp_answers i s d a n.toNat new hx hh hc hd hp hn
    rw [State.csrAnswered, Cp.setQueue, if_pos hh, hold, hq] at hcp
    rw [hold] at hqueued
    refine ⟨t, ht, honly, hbytes, hqueued, ?_⟩
    rw [hcp]
    rfl
  refine ⟨masks _ 0x025 _ _ _ (csrs_exec s d a 0x025) rfl (by decide) (by decide) rfl fun l => ?_,
    masks _ 0x025 _ _ _ (csrc_exec s d a 0x025) rfl (by decide) (by decide) rfl fun l => ?_,
    masks _ 0x021 _ _ _ (csrs_exec s d a 0x021) rfl (by decide) (by decide) rfl fun l => ?_,
    masks _ 0x021 _ _ _ (csrc_exec s d a 0x021) rfl (by decide) (by decide) rfl fun l => ?_⟩ <;>
  · by_cases ha : a = 0
    · simp only [if_pos ha]
    · simp only [if_neg ha]
      rfl

/-- Settles O11: the csr group puts the old value into the landing queue and the new one into the CSR; each claim is that with its CSR read off. -/
theorem csrAccess : Obligations.CsrAccess := by
  unfold Obligations.CsrAccess
  exact ⟨csrr_values, fun s a n hh hc => csrw_values s a n hh hc, fun s d a hh hc => csrOp_masks s d a hh hc⟩

end Sys2Proof.Machine
end

section
/-! Contexts that issue: what the frame of a context leaves alone (R69, R70, R73, R77). -/
namespace Sys2Proof.Machine

/-! ### Parts of a state that an update of another part keeps -/

/-- Records that enter the queue leave the slots of their core. -/
theorem Core.enterRecs_slots (k : Core) : k.enterRecs.slots = k.slots := by
  have go (n : Nat) (k : Core) : (Core.enterRecs.go k n).slots = k.slots := by
    induction n generalizing k with
    | zero => rfl
    | succ n ih =>
      unfold Core.enterRecs.go
      split
      · split
        · exact ih _
        · rfl
      · rfl
  exact go _ k

/-- An update of a core that leaves its slots leaves every slot. -/
theorem State.slot_modCore_keeps (s : State) (k : Fin 256) (f : Core → Core) (c : CpId) (h : (f (s.core k)).slots = (s.core k).slots) :
    (s.modCore k f).slot c = s.slot c := by
  by_cases hk : c.core = k
  · subst hk
    simp [State.slot, h]
  · simp [State.slot, State.core_modCore_ne, hk]

theorem State.slot_pushRec (s : State) (k : Fin 256) (key : RecKey) (f : RecFields) (c : CpId) : (s.pushRec k key f).slot c = s.slot c :=
  State.slot_modCore_keeps _ _ _ _ (Core.enterRecs_slots _)

/-- An update of a slot that leaves its elements leaves every element of it. -/
theorem State.elem_modSlot_keeps (s : State) (c : CpId) (f : Slot → Slot) (e : Fin 256) (h : (f (s.slot c)).elems = (s.slot c).elems) :
    (s.modSlot c f).elem c e = s.elem c e := by
  simp [State.elem, h]

theorem Slot.modPort_elems (t : Slot) (p : BitVec 5) (f : PortCtx → PortCtx) : (t.modPort p f).elems = t.elems := by
  unfold Slot.modPort
  split <;> rfl

theorem State.elem_modPort (s : State) (c : CpId) (p : BitVec 5) (f : PortCtx → PortCtx) (e : Fin 256) : (s.modPort c p f).elem c e = s.elem c e :=
  State.elem_modSlot_keeps s c _ e (Slot.modPort_elems _ _ _)

theorem State.elem_modRegion (s : State) (c : CpId) (r : Fin 4) (f : Region → Region) (e : Fin 256) : (s.modRegion c r f).elem c e = s.elem c e :=
  State.elem_modSlot_keeps s c _ e rfl

/-! ### The frame of a context -/

/-- A read across a guard enters a counter and the record queue: the elements stay. -/
theorem State.elem_noteGuard (s : State) (x : ElemSite) (n : Nat) (e : Fin 256) : (s.noteGuard x n).elem x.cp e = s.elem x.cp e := by
  unfold State.noteGuard
  extract_lets s1
  have h1 : s1.elem x.cp e = s.elem x.cp e := congrArg (·.elems.get e) (State.slot_modCore_keeps s _ _ x.cp rfl)
  repeat' split
  · rfl
  · exact h1
  · rw [State.elem_modRegion]
    exact (congrArg (·.elems.get e) (State.slot_pushRec s1 _ _ _ x.cp)).trans h1

theorem State.dies_noteGuard (s : State) (x : ElemSite) (n : Nat) : (s.noteGuard x n).dies = s.dies := by
  unfold State.noteGuard
  extract_lets s1
  repeat' split
  all_goals rfl

/-- Tokens that leave their tap queues leave what is in flight. -/
theorem State.flight_consumeTaps (s : State) (x : ElemSite) (ts : List (Fin 4)) :
    ((s.consumeTaps x ts).elem x.cp x.elem).flight = (s.elem x.cp x.elem).flight :=
  List.foldlRecOn ts _ (motive := fun t : State => (t.elem x.cp x.elem).flight = (s.elem x.cp x.elem).flight) rfl fun t ht i _ => by
    rw [State.elem_modPort, State.elem_modElem_same]
    exact ht

theorem State.dies_consumeTaps (s : State) (x : ElemSite) (ts : List (Fin 4)) : (s.consumeTaps x ts).dies = s.dies :=
  List.foldlRecOn ts _ (motive := fun t : State => t.dies = s.dies) rfl fun _ ht _ _ => ht

/-- A context that issues has its effect, and the tap tokens it names leave their queues (R70, R77). -/
theorem State.issueCtx_issues {s : State} {x : ElemSite} {op : Nat} {w : CtxFields} (k : State → State) (h : Issues s x op w) :
    s.issueCtx x op w k = .next ((k (s.noteGuard x (s.guardReads x w))).consumeTaps x (s.namedTaps x w)) := by
  obtain ⟨hcan, hpred, hecc⟩ := h
  have hlog (t : State) (ht : t.ecc = []) : t.logReads x op w = t := by simp [State.logReads, State.logOf, ht]
  have hnote : (s.noteGuard x (s.guardReads x w)).ecc = [] := by
    unfold State.noteGuard
    extract_lets s1
    repeat' split
    all_goals exact hecc
  simp [State.issueCtx, hcan, hpred, hlog _ hnote]

/-! ### Operands that are no bubbles (R76) -/

/-- None of these tokens is a bubble. -/
def NoBubbles (l : List Tok) : Prop := ∀ t ∈ l, t.k = false

theorem NoBubbles.one {a : Tok} (h : NoBubbles [a]) : a.k = false := h a (by simp)
theorem NoBubbles.two {a b : Tok} (h : NoBubbles [a, b]) : (a.k || b.k) = false := by
  rw [h a (by simp), h b (by simp), Bool.or_self]
theorem NoBubbles.three {a b c : Tok} (h : NoBubbles [a, b, c]) : (a.k || b.k || c.k) = false := by
  rw [h a (by simp), h b (by simp), h c (by simp), Bool.or_self, Bool.or_self]

/-! ### What a context launches -/

/-- One act of a latency more is on an element's flight, and no byte of memory changes. -/
def Launches (x : ElemSite) (lat : Nat) (a : Act) (t u : State) : Prop :=
  u.mem = t.mem ∧ u.dies = t.dies ∧ (u.elem x.cp x.elem).flight = (t.elem x.cp x.elem).flight ++ [⟨lat, a, x.idx.setWidth 8⟩]

theorem launches_launchResult (t : State) (x : ElemSite) (lat : Nat) (a : Act) : Launches x lat a t (t.launchResult x lat a) :=
  ⟨rfl, rfl, by rw [State.launchResult, State.elem_modElem_same]⟩

theorem launches_setLfsr {x : ElemSite} {lat : Nat} {a : Act} {t u : State} (l : W32) (h : Launches x lat a t u) : Launches x lat a t (u.setLfsr x l) := by
  obtain ⟨hmem, hdies, hfl⟩ := h
  exact ⟨hmem, hdies, by rw [State.setLfsr, State.elem_modElem_same]; exact hfl⟩

theorem launches_takeTileCredit {x : ElemSite} {lat : Nat} {a : Act} {t u : State} (k : BitVec 2) (h : Launches x lat a t u) :
    Launches x lat a t (u.takeTileCredit x.cp k) := by
  obtain ⟨hmem, hdies, hfl⟩ := h
  exact ⟨hmem, hdies, by rw [State.takeTileCredit, State.elem_modSlot_keeps]; exacts [hfl, rfl]⟩

/-- An instruction whose effect launches one act starts that act when it issues. -/
theorem actFlies_of_launches {i : Instr} {s : State} {x : ElemSite} {w : CtxFields} {op lat : Nat} {p : Act → Prop} {k : State → State} (a : Act)
    (hx : exec i s = s.issueCtx x op w k) (hk : ∀ t, Launches x lat a t (k t)) (hp : p a) : ActFlies i s x w op lat p := by
  intro h
  obtain ⟨hmem, hdies, hfl⟩ := hk (s.noteGuard x (s.guardReads x w))
  refine ⟨_, hx.trans (State.issueCtx_issues k h), sameBytes_of ?_ ?_, a, hp, ?_⟩
  · rw [State.consumeTaps_mem, hmem, State.noteGuard_mem]
  · rw [State.dies_consumeTaps, hdies, State.dies_noteGuard]
  · rw [State.flight_consumeTaps, hfl, State.elem_noteGuard]

/-- The same of an instruction that does nothing when an operand is a bubble (R76). -/
theorem actFlies_of_launch {i : Instr} {s : State} {x : ElemSite} {w : CtxFields} {op lat : Nat} {p : Act → Prop} {bubble : Bool} {a : Act}
    (hx : exec i s = s.issueCtx x op w fun t => if bubble then t else t.launchResult x lat a) (hb : bubble = false) (hp : p a) :
    ActFlies i s x w op lat p := by
  subst hb
  exact actFlies_of_launches a hx (fun t => launches_launchResult t x lat a) hp

/-- A lane instruction whose operands are no bubbles starts its result. -/
theorem actFlies_of_laneOp {i : Instr} {s : State} {x : ElemSite} {w : CtxFields} {op lat : Nat} {p : Act → Prop} {ones : W256 × W256 × W256}
    {f : Tok → Tok → Tok → W32 → LaneRes} (hx : exec i s = s.laneOp x op w lat ones f)
    (h : NoBubbles [s.source x w ones.1 w.srcA, s.source x w ones.2.1 w.srcB, s.source x w ones.2.2 w.srcC])
    (hp : ∀ l, let r := f (s.source x w ones.1 w.srcA) (s.source x w ones.2.1 w.srcB) (s.source x w ones.2.2 w.srcC) l
      p (.write (s.dest x w) ⟨r.out.bits, r.lr, r.ls, false⟩ r.out.fl)) : ActFlies i s x w op lat p := by
  refine actFlies_of_launches _ hx (fun t => ?_) (hp (s.siteElem x).lfsr)
  simp only [h.three, Bool.false_eq_true, if_false]
  exact launches_setLfsr _ (launches_launchResult t x lat _)

end Sys2Proof.Machine
end

section
/-! Packed lanes, and the two highest ranks of a group (R37, R151, R152). -/
namespace Sys2Proof.Machine

/-! ### Lanes of packed words -/

/-- A lane of a packed number is its item, narrowed; beyond the list it is zero. -/
theorem packNat_lane (w : Nat) (l : List Nat) (j : Nat) : packNat w l / 2 ^ (w * j) % 2 ^ w = l[j]?.getD 0 % 2 ^ w := by
  induction l generalizing j with
  | nil => simp [packNat]
  | cons v t ih =>
    cases j with
    | zero => simp [packNat]
    | succ j =>
      have hdrop : (v % 2 ^ w + 2 ^ w * packNat w t) / 2 ^ w = packNat w t := by
        rw [Nat.add_mul_div_left _ _ (by positivity), Nat.div_eq_of_lt (Nat.mod_lt _ (by positivity)), Nat.zero_add]
      rw [packNat, Nat.mul_succ, Nat.add_comm (w * j), Nat.pow_add, ← Nat.div_div_eq_div_mul, hdrop, ih]
      rfl

theorem packNat_lt (w : Nat) (l : List Nat) : packNat w l < 2 ^ (w * l.length) := by
  induction l with
  | nil => simp [packNat]
  | cons v t ih =>
    have hv : v % 2 ^ w < 2 ^ w := Nat.mod_lt _ (by positivity)
    calc packNat w (v :: t) < 2 ^ w * (packNat w t + 1) := by rw [packNat, Nat.mul_add]; omega
      _ ≤ 2 ^ w * 2 ^ (w * t.length) := Nat.mul_le_mul_left _ ih
      _ = 2 ^ (w * (v :: t).length) := by rw [← Nat.pow_add, List.length_cons, Nat.mul_succ, Nat.add_comm]

theorem packNat_lt_of_le {w n : Nat} (l : List Nat) (h : w * l.length ≤ n) : packNat w l < 2 ^ n :=
  (packNat_lt w l).trans_le (Nat.pow_le_pow_right (by omega) h)

/-- A part of a number below bit n does not see what stands from bit n on. -/
theorem add_mul_two_pow_part (a b : Nat) {n i w : Nat} (h : i + w ≤ n) : (a + 2 ^ n * b) / 2 ^ i % 2 ^ w = a / 2 ^ i % 2 ^ w := by
  obtain ⟨k, rfl⟩ := Nat.exists_eq_add_of_le h
  have hsplit : 2 ^ (i + w + k) * b = 2 ^ i * (2 ^ w * (2 ^ k * b)) := by rw [Nat.pow_add, Nat.pow_add]; ring
  rw [hsplit, Nat.add_mul_div_left _ _ (by positivity), Nat.add_mul_mod_self_left]

theorem lane_packLanes (w : Nat) (l : List Nat) (j : Nat) (h : w * l.length ≤ 256) : lane w (packLanes w l) j = l[j]?.getD 0 % 2 ^ w := by
  rw [lane, packLanes, BitVec.toNat_ofNat, Nat.mod_eq_of_lt (packNat_lt_of_le l h), packNat_lane]

theorem lanesFrom_plain (f : Nat → Nat × BitVec 8) (n j : Nat) (l : W32) :
    (lanesFrom (fun j l => ⟨(f j).1, (f j).2, l⟩) n j l).1 = (List.range' j n).map fun i => (f i).1 := by
  induction n generalizing j with
  | zero => rfl
  | succ n ih => exact congrArg (List.cons (f j).1) (ih (j + 1))

/-- A lane of a word whose lanes draw no bits. -/
theorem lane_plainWord (w n : Nat) (l : W32) (f : Nat → Nat × BitVec 8) (j : Nat) (hn : w * n ≤ 256) (hj : j < n) :
    lane w (plainWord w n l f).bits j = (f j).1 % 2 ^ w := by
  have hbits : (plainWord w n l f).bits = packLanes w ((List.range' 0 n).map fun i => (f i).1) := congrArg (packLanes w) (lanesFrom_plain f n 0 l)
  rw [hbits, lane_packLanes _ _ _ (by simpa using hn)]
  simp [hj]

/-- Pairs one after another: the first of pair i stands at place 2i, the second behind it. -/
theorem getElem?_flatMap_pair {α β : Type} (f g : α → β) (l : List α) (i : Nat) :
    (l.flatMap fun x => [f x, g x])[2 * i]? = l[i]?.map f ∧ (l.flatMap fun x => [f x, g x])[2 * i + 1]? = l[i]?.map g := by
  induction l generalizing i with
  | nil => simp
  | cons x t ih =>
    cases i with
    | zero => simp
    | succ i => simpa [Nat.mul_succ] using ih i

/-! ### Ranks (R152) -/

/-- The place of a value among the ranks of cmpr: a NaN above an infinity above a magnitude. -/
def rankKey : XVal → ℕ ×ₗ ℚ
  | .nan => toLex (2, 0)
  | .inf _ => toLex (1, 0)
  | .fin _ m e => toLex (0, m * 2 ^ e)

theorem scaled_eq (m : Nat) {e g : Int} (h : g ≤ e) : (XVal.scaled false m e g : ℚ) * 2 ^ g = m * 2 ^ e := by
  have hpow : (2 : ℚ) ^ e = 2 ^ (e - g).toNat * 2 ^ g := by
    rw [← zpow_natCast, ← zpow_add₀ (by norm_num), Int.toNat_of_nonneg (by omega), Int.sub_add_cancel]
  rw [hpow]
  simp [XVal.scaled, mul_assoc]

theorem cmp_magnitude_pos (m n : Nat) (e f : Int) : 0 < XVal.cmp (.fin false m e) (.fin false n f) ↔ (n : ℚ) * 2 ^ f < m * 2 ^ e := by
  have hpos : (0 : ℚ) < 2 ^ min e f := by positivity
  rw [← scaled_eq m (min_le_left e f), ← scaled_eq n (min_le_right e f), mul_lt_mul_iff_left₀ hpos, Int.cast_lt]
  simp only [XVal.cmp]
  split_ifs <;> omega

theorem ranksAbove_iff (a b : XVal) : ranksAbove a b = true ↔ rankKey b < rankKey a := by
  cases a <;> cases b <;> simp [ranksAbove, rankKey, XVal.isNan, XVal.abs, Prod.Lex.toLex_lt_toLex, cmp_magnitude_pos]
  all_goals simp [XVal.cmp]

/-- Position k ranks above position i: by its value, or as the lower of two equal ranks. -/
def Outranks (v : Nat → XVal) (k i : Nat) : Prop := ranksAbove (v i) (v k) = false ∧ (ranksAbove (v k) (v i) = true ∨ k < i)

theorem outranks_iff (v : Nat → XVal) (k i : Nat) : Outranks v k i ↔ rankKey (v i) < rankKey (v k) ∨ rankKey (v i) = rankKey (v k) ∧ k < i := by
  rw [Outranks, ranksAbove_iff, Bool.eq_false_iff, Ne, ranksAbove_iff, not_lt]
  constructor
  · rintro ⟨hle, h | h⟩
    · exact .inl h
    · exact hle.lt_or_eq.imp id fun e => ⟨e, h⟩
  · rintro (h | ⟨h, hk⟩)
    · exact ⟨h.le, .inl h⟩
    · exact ⟨h.le, .inr hk⟩

theorem Outranks.trans {v : Nat → XVal} {a b c : Nat} (h : Outranks v a b) (k : Outranks v b c) : Outranks v a c := by
  rw [outranks_iff] at *
  rcases h with h | ⟨h, hab⟩ <;> rcases k with k | ⟨k, hbc⟩
  · exact .inl (k.trans h)
  · exact .inl (k ▸ h)
  · exact .inl (h ▸ k)
  · exact .inr ⟨k.trans h, hab.trans hbc⟩

/-- The highest rank among the first n positions, one position left out: where the search of `topTwo` stands after n positions. -/
def bestOf (v : Nat → XVal) (no : Option Nat) (n : Nat) : Nat :=
  (List.range n).foldl (fun m i => if no == some i then m else if no == some m || ranksAbove (v i) (v m) then i else m) (if no == some 0 then 1 else 0)

theorem topTwo_eq (v : Nat → XVal) :
    topTwo v = (min (bestOf v none 4) (bestOf v (some (bestOf v none 4)) 4), max (bestOf v none 4) (bestOf v (some (bestOf v none 4)) 4)) := rfl

theorem bestOf_succ (v : Nat → XVal) (no : Option Nat) (n : Nat) : bestOf v no (n + 1) =
    if no = some n then bestOf v no n else if no = some (bestOf v no n) ∨ ranksAbove (v n) (v (bestOf v no n)) = true then n else bestOf v no n := by
  simp only [bestOf, List.range_succ, List.foldl_append, List.foldl_cons, List.foldl_nil, beq_iff_eq, Bool.or_eq_true]

theorem bestOf_outranks (v : Nat → XVal) (no : Option Nat) (n : Nat) :
    no ≠ some (bestOf v no n) ∧ (bestOf v no n < n ∨ bestOf v no n = if no = some 0 then 1 else 0) ∧
    ∀ i, i < n → no ≠ some i → i ≠ bestOf v no n → Outranks v (bestOf v no n) i := by
  induction n with
  | zero =>
    simp only [bestOf, List.range_zero, List.foldl_nil, beq_iff_eq]
    split <;> simp_all
  | succ n ih =>
    obtain ⟨hno, hlt, hbeats⟩ := ih
    rw [bestOf_succ]
    generalize bestOf v no n = m at *
    by_cases hn : no = some n
    · rw [if_pos hn]
      exact ⟨hno, hlt.imp_left (·.trans n.lt_succ_self), fun i hi hi' hne => hbeats i (by grind) hi' hne⟩
    rw [if_neg hn]
    simp only [hno, false_or]
    split
    next hab =>
      have hnm : Outranks v n m := by rw [outranks_iff, ← ranksAbove_iff]; exact .inl hab
      refine ⟨hn, .inl n.lt_succ_self, fun i hi hi' hne => ?_⟩
      by_cases him : i = m
      · exact him ▸ hnm
      · exact hnm.trans (hbeats i (by omega) hi' him)
    next hab =>
      refine ⟨hno, hlt.imp_left (·.trans n.lt_succ_self), fun i hi hi' hne => ?_⟩
      rcases Nat.lt_succ_iff_lt_or_eq.mp hi with hi | rfl
      · exact hbeats i hi hi' hne
      · have hm : m < i := by
          rcases hlt with h | h
          · exact h
          · split at h <;> grind
        exact ⟨Bool.eq_false_iff.mpr hab, .inr hm⟩

/-- The two positions of `topTwo` outrank the two others (R152). -/
theorem topTwo_outranks (v : Nat → XVal) : (topTwo v).1 < (topTwo v).2 ∧ (topTwo v).2 < 4 ∧
    ∀ i k, i < 4 → i ≠ (topTwo v).1 → i ≠ (topTwo v).2 → k = (topTwo v).1 ∨ k = (topTwo v).2 → Outranks v k i := by
  rw [topTwo_eq]
  obtain ⟨-, hp4, hp⟩ := bestOf_outranks v none 4
  generalize bestOf v none 4 = p at *
  obtain ⟨hqp, hq4, hq⟩ := bestOf_outranks v (some p) 4
  generalize bestOf v (some p) 4 = q at *
  have hpq : p ≠ q := fun e => hqp (congrArg some e)
  have hp4 : p < 4 := by simp at hp4; omega
  have hq4 : q < 4 := by split at hq4 <;> omega
  refine ⟨by simp only; omega, by simp only; omega, fun i k hi h1 h2 hk => ?_⟩
  have hip : i ≠ p := by simp only at h1 h2; omega
  have hiq : i ≠ q := by simp only at h1 h2; omega
  have hkpq : k = p ∨ k = q := by simp only at hk; omega
  rcases hkpq with rfl | rfl
  · exact hp i hi (by simp) hip
  · exact hq i hi (fun e => hip (Option.some.inj e).symm) hiq

end Sys2Proof.Machine
end

section
/-! The contraction group (O37). -/
namespace Sys2Proof.Machine

/-! ### Fields of a context word -/

theorem CtxOps.xa_eq (w : CtxFields) : CtxOps.xa w = w.aux.toNat % 32 := by simp [CtxOps.xa, bits]

theorem CtxOps.ix_eq (w : CtxFields) : CtxOps.ix w = w.aux.toNat / 2 ^ 17 := by
  have h := w.aux.isLt
  simp only [CtxOps.ix, bits]
  omega

/-! ### Formats (R33, R91) -/

theorem fmtF_nanCode_lt (c : BitVec 3) : (fmtF c).nanCode < 2 ^ (fmtF c).width := by
  unfold fmtF
  split <;> decide

theorem lane_lt (w : Nat) (b : W256) (j : Nat) : lane w b j < 2 ^ w := Nat.mod_lt _ (by positivity)

/-! ### Chunks (R54, R142, R148) -/

/-- The code of a chunk of triple products: their exact sum, rounded once (R54, R55). -/
def chunkCode (ps : List (XVal × XVal × XVal)) : W32 := BitVec.ofNat 32 (fp32.rne (tripleSum ps).1)

theorem chunkOf_code (ps : List (XVal × XVal × XVal)) : (chunkOf (tripleSum ps).1 (tripleSum ps).2).code = chunkCode ps := rfl

/-- A chunk contraction whose operands are no bubbles starts its sums towards its accumulator. -/
theorem accumulate_flies {i : Instr} {s : State} {x : ElemSite} {w : CtxFields} {op : Nat} {bubble : Bool} {cs : List Chunk} {fl : BitVec 8} {vs : List W32}
    (hx : exec i s = s.issueCtx x op w fun t => t.accumulate x w bubble cs fl) (hb : bubble = false) (hv : cs.map (·.code) = vs) :
    ActFlies i s x w op 4 fun a => ∃ (fresh : List Bool) (fl : BitVec 8), a = .accumF (accOf w) (CtxOps.za w) vs fresh fl := by
  subst hv
  refine actFlies_of_launches (.accumF (accOf w) (CtxOps.za w) (cs.map (·.code)) (cs.map (·.fresh)) (fl ||| chunkFlags cs)) hx (fun t => ?_) ⟨_, _, rfl⟩
  rw [State.accumulate, if_neg (by simp [hb])]
  exact launches_launchResult t x 4 _

/-- A chunk of trixi is the shifted sum of its 128 digit products (R148). -/
theorem trixiChunk_eq (s : State) (x : ElemSite) (w : CtxFields) (grp : Nat) (a z : W256) (n : Nat) :
    let sg (b : Bool) (v : Int) : Int := if b then -v else v
    s.trixiChunk x w grp a z n = 2 ^ (w.aux.toNat % 32 % 8 + w.aux.toNat / 2 ^ 17) * ((List.range 128).map fun k =>
      sg (CtxOps.nx w) (digitVal (lane 2 a k)) * sg (CtxOps.ny w) (s.groupByte x grp k n) * sg (CtxOps.nz w) (digitVal (lane 2 z k))).sum := by
  intro sg
  rw [State.trixiChunk, List.sum_eq_foldl, List.foldl_map, Int.mul_comm, CtxOps.xa_eq, CtxOps.ix_eq, Nat.cast_pow]
  rfl

/-! ### Compressed words (R151, R152) -/

/-- The word that cmpr makes of a dense word: kept lanes below bit 128, masks of four bits from there on. -/
def cmprWord (g : Fmt) (a : W256) : W256 :=
  let gs := (List.range (256 / g.width / 4)).map (cmprGroup g a)
  BitVec.ofNat 256 (packNat g.width (gs.flatMap Prod.fst) + 2 ^ 128 * packNat 4 (gs.map Prod.snd))

theorem cmpr_exec (s : State) (x : ElemSite) (w : CtxFields) : exec (.cmpr x w) s =
    s.laneOp x 0x59 w 2 (ones3 (oneF (fmtF w.fmt))) fun a _ _ l => (WordOut.mk (cmprWord (fmtF w.fmt) a.bits) 0 l).with a := rfl

/-- The positions that group grp of a dense word keeps. -/
def keptPair (g : Fmt) (a : W256) (grp : Nat) : Nat × Nat := topTwo fun i => g.exact (lane g.width a (4 * grp + i))

/-- The code of a dense lane in a compressed word: a NaN becomes the canonical one. -/
def keptCode (g : Fmt) (a : W256) (grp i : Nat) : Nat :=
  if (g.exact (lane g.width a (4 * grp + i))).isNan then g.nanCode else lane g.width a (4 * grp + i)

theorem cmprGroup_eq (g : Fmt) (a : W256) (grp : Nat) : cmprGroup g a grp =
    ([keptCode g a grp (keptPair g a grp).1, keptCode g a grp (keptPair g a grp).2], 2 ^ (keptPair g a grp).1 + 2 ^ (keptPair g a grp).2) := rfl

/-- The codes that a dense word keeps, two of each group of four lanes. -/
def keptCodes (g : Fmt) (a : W256) : List Nat :=
  (List.range (256 / g.width / 4)).flatMap fun i => [keptCode g a i (keptPair g a i).1, keptCode g a i (keptPair g a i).2]

/-- The mask of a group: the bits of its two kept positions. -/
def keptMask (g : Fmt) (a : W256) (grp : Nat) : Nat := 2 ^ (keptPair g a grp).1 + 2 ^ (keptPair g a grp).2

theorem keptMask_lt (g : Fmt) (a : W256) (grp : Nat) : keptMask g a grp < 2 ^ 4 := by
  obtain ⟨hpq, hq, -⟩ := topTwo_outranks fun i => g.exact (lane g.width a (4 * grp + i))
  have h1 : 2 ^ (keptPair g a grp).1 ≤ 2 ^ 2 := Nat.pow_le_pow_right (by omega) (by unfold keptPair; omega)
  have h2 : 2 ^ (keptPair g a grp).2 ≤ 2 ^ 3 := Nat.pow_le_pow_right (by omega) (by unfold keptPair; omega)
  unfold keptMask
  omega

theorem keptCode_lt (c : BitVec 3) (a : W256) (grp i : Nat) : keptCode (fmtF c) a grp i < 2 ^ (fmtF c).width := by
  unfold keptCode
  split
  · exact fmtF_nanCode_lt c
  · exact lane_lt _ _ _

/-- The kept codes end below bit 128. -/
theorem keptCodes_lt (g : Fmt) (a : W256) (h : g.width = 16 ∨ g.width = 8 ∨ g.width = 4) : packNat g.width (keptCodes g a) < 2 ^ 128 :=
  packNat_lt_of_le _ (by rcases h with h | h | h <;> simp [keptCodes, List.length_flatMap, h])

theorem cmprWord_toNat (g : Fmt) (a : W256) (h : g.width = 16 ∨ g.width = 8 ∨ g.width = 4) :
    (cmprWord g a).toNat = packNat g.width (keptCodes g a) + 2 ^ 128 * packNat 4 ((List.range (256 / g.width / 4)).map (keptMask g a)) := by
  have hlow := keptCodes_lt g a h
  have hhigh : packNat 4 ((List.range (256 / g.width / 4)).map (keptMask g a)) < 2 ^ 128 :=
    packNat_lt_of_le _ (by rcases h with h | h | h <;> simp [h])
  have hword : cmprWord g a = BitVec.ofNat 256 (packNat g.width (keptCodes g a) + 2 ^ 128 * packNat 4 ((List.range (256 / g.width / 4)).map (keptMask g a))) := by
    simp only [cmprWord, keptCodes, List.flatMap_map, List.map_map, Function.comp_def, cmprGroup_eq]
    rfl
  rw [hword, BitVec.toNat_ofNat]
  exact Nat.mod_eq_of_lt (by omega)

/-- A lane of the lower half of a compressed word is a kept code. -/
theorem lane_cmprWord (g : Fmt) (a : W256) (j : Nat) (h : g.width = 16 ∨ g.width = 8 ∨ g.width = 4) (hj : j < 2 * (256 / g.width / 4)) :
    lane g.width (cmprWord g a) j = (keptCodes g a)[j]?.getD 0 % 2 ^ g.width := by
  have hlow : g.width * j + g.width ≤ 128 := by rcases h with h | h | h <;> simp only [h] at hj ⊢ <;> omega
  rw [lane, cmprWord_toNat g a h, add_mul_two_pow_part _ _ hlow, packNat_lane]

/-- Group grp of a compressed word holds its kept codes in order, and its mask their positions (R151, R152). -/
theorem cmprWord_group (c : BitVec 3) (a : W256) (grp : Nat) (h : (fmtF c).width = 16 ∨ (fmtF c).width = 8 ∨ (fmtF c).width = 4)
    (hg : grp < 256 / (fmtF c).width / 4) :
    lane (fmtF c).width (cmprWord (fmtF c) a) (2 * grp) = keptCode (fmtF c) a grp (keptPair (fmtF c) a grp).1 ∧
    lane (fmtF c).width (cmprWord (fmtF c) a) (2 * grp + 1) = keptCode (fmtF c) a grp (keptPair (fmtF c) a grp).2 ∧
    (cmprWord (fmtF c) a).toNat / 2 ^ (128 + 4 * grp) % 16 = keptMask (fmtF c) a grp := by
  have hpair := getElem?_flatMap_pair (fun i => keptCode (fmtF c) a i (keptPair (fmtF c) a i).1) (fun i => keptCode (fmtF c) a i (keptPair (fmtF c) a i).2)
    (List.range (256 / (fmtF c).width / 4)) grp
  rw [List.getElem?_range hg] at hpair
  obtain ⟨heven, hodd⟩ := hpair
  refine ⟨?_, ?_, ?_⟩
  · rw [lane_cmprWord _ a _ h (by omega), keptCodes, heven]
    exact Nat.mod_eq_of_lt (keptCode_lt c a grp _)
  · rw [lane_cmprWord _ a _ h (by omega), keptCodes, hodd]
    exact Nat.mod_eq_of_lt (keptCode_lt c a grp _)
  · have hmask : packNat 4 ((List.range (256 / (fmtF c).width / 4)).map (keptMask (fmtF c) a)) / 2 ^ (4 * grp) % 2 ^ 4 = keptMask (fmtF c) a grp := by
      rw [packNat_lane, List.getElem?_map, List.getElem?_range hg]
      exact Nat.mod_eq_of_lt (keptMask_lt _ a grp)
    rw [cmprWord_toNat _ a h, Nat.pow_add, ← Nat.div_div_eq_div_mul, Nat.add_mul_div_left _ _ (by positivity), Nat.div_eq_of_lt (keptCodes_lt _ a h), Nat.zero_add]
    exact hmask

/-- Lane j of the dense word that spx makes of a compressed one: what a kept position holds, else zero (R153). -/
def denseLane (wd : Nat) (a : W256) (j : Nat) : Nat :=
  match (keptAll wd a).find? fun k => k.1 == j with
  | some k => lane wd a k.2
  | none => 0

theorem denseLane_lt (wd : Nat) (a : W256) (j : Nat) : denseLane wd a j < 2 ^ wd := by
  unfold denseLane
  split
  · exact lane_lt _ _ _
  · positivity

theorem lane_denseWord (g : Fmt) (a : W256) (l : W32) (j : Nat) (hj : j < 256 / g.width) :
    lane g.width (plainWord g.width (256 / g.width) l fun j => (denseLane g.width a j, 0)).bits j = denseLane g.width a j := by
  rw [lane_plainWord _ _ _ _ _ (Nat.mul_div_le 256 g.width) hj]
  exact Nat.mod_eq_of_lt (denseLane_lt _ _ _)

/-! ### What each instruction starts -/

section
variable (s : State) (x : ElemSite) (w : CtxFields)

theorem trix_flies :
    let g := fmtF w.fmt
    let a := s.source x w (oneF g) w.srcA
    let z := s.source x w (oneF g) w.srcC
    NoBubbles [a, z] → ActFlies (.trix x w) s x w 0x50 4 fun f => ∃ (fresh : List Bool) (fl : BitVec 8), f = .accumF (accOf w) (CtxOps.za w)
      ((List.range 8).map fun n => chunkCode (trixTerms w g a.bits (s.blockWord x ((s.siteRegion x).block w) n) z.bits (List.range (256 / g.width)))) fresh fl := by
  intro g a z h
  exact accumulate_flies rfl h.two (by rw [List.map_map]; exact List.map_congr_left fun _ _ => chunkOf_code _)

/-- The block partials of trixb (R56): number i is that of block i / 8 and output lane i % 8. -/
def blockPartials (a z : W256) : Vector W32 64 := Vector.ofFn fun i : Fin 64 =>
  chunkCode (trixTerms w e2m1 a (s.blockWord x ((s.siteRegion x).block w) (i.val % 8)) z ((List.range 8).map (8 * (i.val / 8) + ·)))

theorem blockPartials_get (a z : W256) (b n : Nat) (hb : b < 8) (hn : n < 8) : (blockPartials s x w a z).get ⟨8 * b + n, by omega⟩ =
    chunkCode ((List.range 8).map fun k => (laneX e2m1 (CtxOps.nx w) a (8 * b + k),
      laneX e2m1 (CtxOps.ny w) (s.blockWord x ((s.siteRegion x).block w) n) (8 * b + k), laneX e2m1 (CtxOps.nz w) z (8 * b + k))) := by
  have hdiv : (8 * b + n) / 8 = b := by omega
  have hmod : (8 * b + n) % 8 = n := by omega
  simp only [blockPartials, Vector.get_eq_getElem, Vector.getElem_ofFn, hdiv, hmod, trixTerms, List.map_map]
  rfl

theorem trixb_exec : exec (.trixb x w) s = s.issueCtx x 0x51 w fun t =>
    if (s.source x w (oneF e2m1) w.srcA).k || (s.source x w (oneF e2m1) w.srcC).k then t
    else t.launchResult x 4 (.overBp (blockPartials s x w (s.source x w (oneF e2m1) w.srcA).bits (s.source x w (oneF e2m1) w.srcC).bits)) := rfl

theorem trixb_flies :
    let a := s.source x w (oneF e2m1) w.srcA
    let z := s.source x w (oneF e2m1) w.srcC
    NoBubbles [a, z] → ActFlies (.trixb x w) s x w 0x51 4 fun f => ∃ v : Vector W32 64, f = .overBp v ∧ ∀ b n : Nat, (hb : b < 8) → (hn : n < 8) →
      v.get ⟨8 * b + n, by omega⟩ = chunkCode ((List.range 8).map fun k => (laneX e2m1 (CtxOps.nx w) a.bits (8 * b + k),
        laneX e2m1 (CtxOps.ny w) (s.blockWord x ((s.siteRegion x).block w) n) (8 * b + k), laneX e2m1 (CtxOps.nz w) z.bits (8 * b + k))) := by
  intro a z h
  exact actFlies_of_launch (trixb_exec s x w) h.two ⟨_, rfl, blockPartials_get s x w _ _⟩

theorem trixi_exec : exec (.trixi x w) s = s.issueCtx x 0x52 w fun t =>
    if (s.source x w (oneI 2) w.srcA).k || (s.source x w (oneI 2) w.srcC).k then t
    else t.launchResult x 4 (.accumI (accOf w) (CtxOps.za w)
      ((List.range 16).map fun n => s.trixiChunk x w ((s.siteRegion x).block w / 8) (s.source x w (oneI 2) w.srcA).bits (s.source x w (oneI 2) w.srcC).bits n)
      (flagIf (digitBad (s.source x w (oneI 2) w.srcA).bits || digitBad (s.source x w (oneI 2) w.srcC).bits) fDIG)) := rfl

theorem trixi_flies :
    let a := s.source x w (oneI 2) w.srcA
    let z := s.source x w (oneI 2) w.srcC
    let sg (b : Bool) (v : Int) : Int := if b then -v else v
    NoBubbles [a, z] → ActFlies (.trixi x w) s x w 0x52 4 fun f => ∃ fl : BitVec 8, f = .accumI (accOf w) (CtxOps.za w) ((List.range 16).map fun n =>
      2 ^ (w.aux.toNat % 32 % 8 + w.aux.toNat / 2 ^ 17) * ((List.range 128).map fun k => sg (CtxOps.nx w) (digitVal (lane 2 a.bits k)) *
        sg (CtxOps.ny w) (s.groupByte x ((s.siteRegion x).block w / 8) k n) * sg (CtxOps.nz w) (digitVal (lane 2 z.bits k))).sum) fl := by
  intro a z sg h
  exact actFlies_of_launch (trixi_exec s x w) h.two ⟨_, by simp only [trixiChunk_eq]; rfl⟩

/-- The chunks of trixg (R150): number i is that of row i / 8 of the first operand and row i % 8 of the second. -/
def gramChunks (a b z : W256) : List Chunk :=
  (List.range 64).map fun i =>
    let p := tripleSum ((List.range (32 / (fmtF w.fmt).width)).map fun k =>
      (laneX (fmtF w.fmt) (CtxOps.nx w) a (8 * k + i / 8), laneX (fmtF w.fmt) (CtxOps.ny w) b (8 * k + i % 8), laneX (fmtF w.fmt) (CtxOps.nz w) z (8 * k + i / 8)))
    chunkOf p.1 p.2

theorem trixg_exec : exec (.trixg x w) s = s.issueCtx x 0x53 w fun t =>
    let a := s.source x w (oneF (fmtF w.fmt)) w.srcA
    let b := s.source x w (oneF (fmtF w.fmt)) w.srcB
    let z := s.source x w (oneF (fmtF w.fmt)) w.srcC
    let cs := gramChunks w a.bits b.bits z.bits
    if a.k || b.k || z.k then t
    else t.launchResult x 4 (.accumG ((s.siteRegion x).block w) (CtxOps.za w) (cs.map (·.code)) (cs.map (·.fresh)) (chunkFlags cs)) := rfl

theorem trixg_flies :
    let g := fmtF w.fmt
    let a := s.source x w (oneF g) w.srcA
    let b := s.source x w (oneF g) w.srcB
    let z := s.source x w (oneF g) w.srcC
    NoBubbles [a, b, z] → ActFlies (.trixg x w) s x w 0x53 4 fun f => ∃ (fresh : List Bool) (fl : BitVec 8), f = .accumG ((s.siteRegion x).block w) (CtxOps.za w)
      ((List.range 64).map fun i => chunkCode ((List.range (32 / g.width)).map fun k => (laneX g (CtxOps.nx w) a.bits (8 * k + i / 8),
        laneX g (CtxOps.ny w) b.bits (8 * k + i % 8), laneX g (CtxOps.nz w) z.bits (8 * k + i / 8)))) fresh fl := by
  intro g a b z h
  exact actFlies_of_launch (trixg_exec s x w) h.three ⟨_, _, by rw [gramChunks, List.map_map]; rfl⟩

theorem sptrix_flies :
    let g := fmtF w.fmt
    let a := s.source x w 0 w.srcA
    let z := s.source x w (oneF g) w.srcC
    NoBubbles [a, z] → ActFlies (.sptrix x w) s x w 0x54 4 fun f => ∃ (fresh : List Bool) (fl : BitVec 8), f = .accumF (accOf w) (CtxOps.za w)
      ((List.range 8).map fun n => chunkCode ((keptAll g.width a.bits).map fun k => (laneX g (CtxOps.nx w) a.bits k.2,
        laneX g (CtxOps.ny w) (s.blockWord x ((s.siteRegion x).block w) n) k.1, laneX g (CtxOps.nz w) z.bits k.1))) fresh fl := by
  intro g a z h
  exact accumulate_flies rfl h.two (by rw [List.map_map]; exact List.map_congr_left fun _ _ => chunkOf_code _)

/-- The chunk of output lane n of scac: the band times the exact sum of the scaled block partials, rounded once (R57). -/
theorem scacLane_code (sx : Nat → Nat) (sy : Nat → Nat → Nat) (bp : Vector W32 64) (band n : Nat) :
    (chunkOf (scacLane sx sy bp band n).1 (scacLane sx sy bp band n).2.1).code = BitVec.ofNat 32 (fp32.rne ((bf16.exact band).mul
      (XVal.sumExact false (XVal.pzero :: (List.range 8).map fun b =>
        ((e3m5.exact (sx b)).mul (e3m5.exact (sy b n))).mul (fp32.exact ((bp[8 * b + n]?).getD 0).toNat))))) := by
  simp only [scacLane, chunkOf, Fmt.rne, List.map_map]
  rfl

theorem scac_flies :
    let a := s.source x w (oneF e3m5) w.srcA
    let z := s.source x w (oneF bf16) w.srcC
    NoBubbles [a, z] → ActFlies (.scac x w) s x w 0x55 4 fun f => ∃ (fresh : List Bool) (fl : BitVec 8), f = .accumF (accOf w) (CtxOps.za w)
      ((List.range 8).map fun n => BitVec.ofNat 32 (fp32.rne ((bf16.exact (lane 16 z.bits n)).mul (XVal.sumExact false (XVal.pzero :: (List.range 8).map fun b =>
        ((e3m5.exact (lane 8 a.bits (8 * (w.aux.toNat / 2 ^ 17 % 4) + b))).mul
          (e3m5.exact (s.byteAt ((s.blockPlace x ((s.siteRegion x).block w)).plus (64 * (w.aux.toNat % 32 % 4) + 8 * b + n))).toNat)).mul
          (fp32.exact (((s.siteElem x).bp[8 * b + n]?).getD 0).toNat)))))) fresh fl := by
  intro a z h
  refine accumulate_flies rfl h.two ?_
  rw [List.map_map, List.map_map]
  refine List.map_congr_left fun n _ => ?_
  rw [← CtxOps.xa_eq, ← CtxOps.ix_eq]
  exact scacLane_code _ _ _ _ n

theorem accz_exec : exec (.accz x w) s = s.issueCtx x 0x56 w fun t =>
    t.launchResult x 4 (if w.dw == 27 then .clearBp else .clearAcc (accOf w)) := rfl

theorem accz_flies : ActFlies (.accz x w) s x w 0x56 4 fun f => f = if w.dw = 27 then .clearBp else .clearAcc (accOf w) :=
  actFlies_of_launches _ (accz_exec s x w) (fun t => launches_launchResult t x 4 _) (by simp only [beq_iff_eq])

theorem drn_exec : exec (.drn x w) s = s.issueCtx x 0x57 w fun t =>
    t.launchResult x 2 (.drain (ix4 (CtxOps.ai w)) w.fmt (CtxOps.sat w) ((CtxOps.xa w).testBit 0) ((CtxOps.xa w).testBit 1) ((CtxOps.xa w).testBit 2) (s.dest x w)) := rfl

theorem drn_flies : ActFlies (.drn x w) s x w 0x57 2 fun f => f = .drain (ix4 (CtxOps.ai w)) w.fmt (CtxOps.sat w) ((w.aux.toNat % 32).testBit 0)
    ((w.aux.toNat % 32).testBit 1) ((w.aux.toNat % 32).testBit 2) (s.dest x w) := by
  rw [← CtxOps.xa_eq]
  exact actFlies_of_launches _ (drn_exec s x w) (fun t => launches_launchResult t x 2 _) rfl

theorem drna_exec (b : PeerBind) (h : s.peerAt x.cp (BitVec.ofNat 3 (CtxOps.xa w)) = some b) : exec (.drna x w) s = s.issueCtx x 0x58 w fun t =>
    (t.launchResult x 2 (.drainPeer (ix4 (CtxOps.ai w)) (w.fmt != 0) (decide (CtxOps.ix w % 2 = 1)) (BitVec.ofNat 3 (CtxOps.xa w))
      (BitVec.ofNat 2 (CtxOps.xa w / 8)) b.desc b.seq false x.idx)).takeTileCredit x.cp (BitVec.ofNat 2 (CtxOps.xa w / 8)) := by
  change execDrna x w s = _
  simp only [execDrna, h]

theorem drna_flies (b : PeerBind) (h : s.peerAt x.cp (BitVec.ofNat 3 (w.aux.toNat % 32)) = some b) : ActFlies (.drna x w) s x w 0x58 2 fun f =>
    f = .drainPeer (ix4 (CtxOps.ai w)) (w.fmt != 0) (decide (w.aux.toNat / 2 ^ 17 % 2 = 1)) (BitVec.ofNat 3 (w.aux.toNat % 32))
      (BitVec.ofNat 2 (w.aux.toNat % 32 / 8)) b.desc b.seq false x.idx := by
  rw [← CtxOps.xa_eq] at h ⊢
  rw [← CtxOps.ix_eq]
  exact actFlies_of_launches _ (drna_exec s x w b h) (fun t => launches_takeTileCredit _ (launches_launchResult t x 2 _)) rfl

/-- cmpr keeps of each group the two positions that rank highest, in order, with their mask (R152). -/
theorem cmpr_flies :
    let g := fmtF w.fmt
    let a := s.source x w (oneF g) w.srcA
    NoBubbles [a, s.source x w (oneF g) w.srcB, s.source x w (oneF g) w.srcC] → ActFlies (.cmpr x w) s x w 0x59 2 fun f =>
      ∃ (tok : Tok) (fl : BitVec 8), f = .write (s.dest x w) tok fl ∧ ∀ grp, grp < 256 / g.width / 4 → g.width = 16 ∨ g.width = 8 ∨ g.width = 4 → ∃ p q, p < q ∧ q < 4 ∧
        lane g.width tok.bits (2 * grp) = keptCode g a.bits grp p ∧ lane g.width tok.bits (2 * grp + 1) = keptCode g a.bits grp q ∧
        tok.bits.toNat / 2 ^ (128 + 4 * grp) % 16 = 2 ^ p + 2 ^ q ∧
        ∀ i k, i < 4 → i ≠ p → i ≠ q → k = p ∨ k = q → Outranks (fun i => g.exact (lane g.width a.bits (4 * grp + i))) k i := by
  intro g a h
  refine actFlies_of_laneOp (cmpr_exec s x w) h fun _ => ⟨_, _, rfl, fun grp hg hw => ?_⟩
  obtain ⟨hpq, hq, hrank⟩ := topTwo_outranks fun i => g.exact (lane g.width a.bits (4 * grp + i))
  obtain ⟨heven, hodd, hmask⟩ := cmprWord_group w.fmt a.bits grp hw hg
  exact ⟨_, _, hpq, hq, heven, hodd, hmask, hrank⟩

theorem spx_exec : exec (.spx x w) s = s.laneOp x 0x5A w 1 (ones3 0) fun a _ _ l =>
    (plainWord (fmtF w.fmt).width (256 / (fmtF w.fmt).width) l fun j => (denseLane (fmtF w.fmt).width a.bits j, 0)).with a := rfl

theorem spx_flies :
    let g := fmtF w.fmt
    let a := s.source x w 0 w.srcA
    NoBubbles [a, s.source x w 0 w.srcB, s.source x w 0 w.srcC] → ActFlies (.spx x w) s x w 0x5A 1 fun f =>
      ∃ (tok : Tok) (fl : BitVec 8), f = .write (s.dest x w) tok fl ∧ ∀ j, j < 256 / g.width → lane g.width tok.bits j = denseLane g.width a.bits j := by
  intro g a h
  exact actFlies_of_laneOp (spx_exec s x w) h fun l => ⟨_, _, rfl, fun j hj => lane_denseWord g a.bits l j hj⟩

theorem wld_exec : exec (.wld x w) s = s.issueCtx x 0x5B w fun t =>
    if (s.source x w (oneI 32) w.srcA).k then t
    else t.launchResult x 1 (.statWord ((s.siteRegion x).block w) (CtxOps.xa w % 8) (s.source x w (oneI 32) w.srcA).bits) := rfl

theorem wld_flies (h : NoBubbles [s.source x w (oneI 32) w.srcA]) : ActFlies (.wld x w) s x w 0x5B 1 fun f =>
    f = .statWord ((s.siteRegion x).block w) (w.aux.toNat % 32 % 8) (s.source x w (oneI 32) w.srcA).bits := by
  rw [← CtxOps.xa_eq]
  exact actFlies_of_launch (wld_exec s x w) h.one rfl

theorem wldt_exec : exec (.wldt x w) s = s.issueCtx x 0x5C w fun t =>
    if (s.source x w (oneI (widthT w.fmt)) w.srcA).k then t
    else t.launchResult x 1 (.statLanes ((s.siteRegion x).block w) (widthT w.fmt) (CtxOps.xa w % 8) (s.source x w (oneI (widthT w.fmt)) w.srcA).bits) := rfl

theorem wldt_flies (h : NoBubbles [s.source x w (oneI (widthT w.fmt)) w.srcA]) : ActFlies (.wldt x w) s x w 0x5C 1 fun f =>
    f = .statLanes ((s.siteRegion x).block w) (widthT w.fmt) (w.aux.toNat % 32 % 8) (s.source x w (oneI (widthT w.fmt)) w.srcA).bits := by
  rw [← CtxOps.xa_eq]
  exact actFlies_of_launch (wldt_exec s x w) h.one rfl

end

/-- Settles O37: each instruction of the group launches the act that its lemma above names. -/
theorem contraction : Obligations.Contraction := by
  unfold Obligations.Contraction
  intro s x w
  exact ⟨trix_flies s x w, trixb_flies s x w, trixi_flies s x w, trixg_flies s x w, sptrix_flies s x w, scac_flies s x w, accz_flies s x w, drn_flies s x w,
    drna_flies s x w, cmpr_flies s x w, spx_flies s x w, wld_flies s x w, wldt_flies s x w⟩

end Sys2Proof.Machine
end

section
/-! A cycle of a region (O38): what errors that are logged leave alone, stops, the agenda of an advancing cycle, and the end of a take. -/
namespace Sys2Proof.Machine

/-! ### Logged errors (R307) -/

/-- Two states hold the same slots and the same agenda: error logs may differ. -/
def SameSlots (s t : State) : Prop := (∀ c, t.slot c = s.slot c) ∧ t.agenda = s.agenda

theorem SameSlots.refl (s : State) : SameSlots s s := ⟨fun _ => rfl, rfl⟩

theorem SameSlots.trans {s t u : State} (h : SameSlots s t) (k : SameSlots t u) : SameSlots s u :=
  ⟨fun c => (k.1 c).trans (h.1 c), k.2.trans h.2⟩

theorem SameSlots.region {s t : State} (h : SameSlots s t) (c : CpId) (r : Fin 4) : t.region c r = s.region c r :=
  congrArg (fun x : Slot => x.regions.get r) (h.1 c)

theorem sameSlots_foldl {α : Type} (g : State → α → State) (l : List α) (s : State) (h : ∀ t x, SameSlots t (g t x)) : SameSlots s (l.foldl g s) :=
  List.foldlRecOn l g (motive := SameSlots s) (SameSlots.refl s) fun t ht x _ => ht.trans (h t x)

theorem sameSlots_modLog (s : State) (k : Fin 256) (a : Fin 8) (f : ErrLog → ErrLog) : SameSlots s (s.modCore k fun c => c.modLog a f) :=
  ⟨fun c => State.slot_modCore_keeps s k _ c rfl, rfl⟩

theorem sameSlots_logAt (s : State) (who : CpId) (part : BitVec 5) (a : PAddr) (m : EccMark) : SameSlots s (s.logAt who part a m) := by
  unfold State.logAt
  extract_lets w enter stat
  split
  case h_1 | h_2 | h_3 => exact sameSlots_modLog s _ _ _
  all_goals exact ⟨fun _ => rfl, rfl⟩

theorem sameSlots_load (s : State) (who : CpId) (part : BitVec 5) (a : PAddr) (n : Nat) : SameSlots s (s.load who part a n).1 := by
  have hlog : SameSlots s (s.logMarks who part a (s.marksAt a n)) := sameSlots_foldl _ _ s fun t m => sameSlots_logAt t who part _ m
  unfold State.load
  extract_lets ms s'
  split <;> exact hlog

theorem sameSlots_readArr (s : State) (who : CpId) (part : BitVec 5) (arr unit word n : Nat) : SameSlots s (s.readArr who part arr unit word n).1 := by
  unfold State.readArr
  split
  · exact SameSlots.refl s
  · exact sameSlots_foldl _ _ s fun t m => sameSlots_modLog t _ _ _

theorem sameSlots_logOf (s : State) (c : CpId) (l : Reads) : SameSlots s (s.logOf c l) := by
  unfold State.logOf
  extract_lets part s1
  have hs1 : SameSlots s s1 := sameSlots_foldl _ _ s fun t x => sameSlots_readArr t c part _ _ _ _
  split
  · exact SameSlots.refl s
  · split
    · exact hs1
    · exact hs1.trans (sameSlots_load s1 c part _ _)

theorem sameSlots_ite {s t u : State} {p : Prop} [Decidable p] (h : SameSlots s t) (k : SameSlots s u) : SameSlots s (if p then t else u) := by
  split
  · exact h
  · exact k

theorem sameSlots_logStops (s : State) (c : CpId) (r : Fin 4) (xs : List DueCtx) (qs : List DueCue) : SameSlots s (s.logStops c r xs qs) := by
  unfold State.logStops
  extract_lets bad s1 s2
  refine sameSlots_ite (SameSlots.refl s) ?_
  have hs1 : SameSlots s s1 := sameSlots_foldl _ _ s fun t d => sameSlots_ite (sameSlots_logOf t _ _) (SameSlots.refl t)
  have hs2 : SameSlots s1 s2 := sameSlots_foldl _ _ s1 fun t q => by
    extract_lets t1
    have ht1 : SameSlots t t1 := sameSlots_ite (sameSlots_logOf t _ _) (SameSlots.refl t)
    split
    · split
      · exact ht1.trans (sameSlots_load t1 _ _ _ _)
      · exact ht1
    · exact ht1
  exact (hs1.trans hs2).trans (sameSlots_foldl _ _ s2 fun t x => sameSlots_ite (sameSlots_logOf t _ _) (SameSlots.refl t))

/-! ### Stops (R81, R301) -/

/-- Causes that join a region whose take counts change its due stop alone; one is due when one was, or when there is a cause (R301). -/
theorem foldl_addStop (l : List StopInfo) (g : Region) (hc : g.counts = true) (hr : g.stopRec = false) :
    ∃ d, l.foldl Region.addStop g = { g with stopDue := d } ∧ (g.stopDue.isSome = true ∨ l ≠ [] → d.isSome = true) := by
  induction l generalizing g with
  | nil => exact ⟨g.stopDue, rfl, fun h => h.elim id fun h => absurd rfl h⟩
  | cons i l ih =>
    obtain ⟨d, hd⟩ : ∃ d : StopInfo, g.addStop i = { g with stopDue := some d } := by
      cases hs : g.stopDue <;> exact ⟨_, by rw [Region.addStop, hc, hr, hs]; rfl⟩
    obtain ⟨e, he, hsome⟩ := ih { g with stopDue := some d } hc hr
    rw [List.foldl_cons, hd]
    exact ⟨e, he, fun _ => hsome (.inl rfl)⟩

/-- A region takes the causes of a cycle, whose errors are logged, and comes to its end of cycle. -/
def State.stopCycle (s : State) (c : CpId) (r : Fin 4) (xs : List DueCtx) (qs : List DueCue) (stops : List StopInfo) (l : List Instr) : State :=
  ((s.logStops c r xs qs).modRegion c r fun g => stops.foldl Region.addStop g).dueLast l

theorem stopCycle_stops (s : State) (c : CpId) (r : Fin 4) (xs : List DueCtx) (qs : List DueCue) (stops : List StopInfo) (l : List Instr)
    (hc : (s.region c r).counts = true) (hr : (s.region c r).stopRec = false) (hs : stops ≠ []) :
    let t := s.stopCycle c r xs qs stops l
    (t.region c r).stopDue.isSome = true ∧ t.agenda = s.agenda ++ l.map Task.ev ∧ (t.region c r).going = (s.region c r).going := by
  have hlog := sameSlots_logStops s c r xs qs
  have hregion : (s.stopCycle c r xs qs stops l).region c r = stops.foldl Region.addStop (s.region c r) := by
    rw [← hlog.region]
    exact State.region_modRegion_same _ _ _ _
  obtain ⟨d, hd, hsome⟩ := foldl_addStop stops (s.region c r) hc hr
  intro t
  refine ⟨?_, congrArg (· ++ l.map Task.ev) hlog.2, ?_⟩
  · rw [hregion, hd]
    exact hsome (.inr hs)
  · rw [hregion, hd]

/-! ### What a region's cycle does, case by case (R80) -/

/-- A bound slot's takes run unless a breakpoint has halted its CP (R229). -/
theorem takesRun_of_running (s : State) (c : CpId) (hb : (s.slot c).status = 0x01) (hr : (s.cp c).run = .running) : s.takesRun c = true := by
  simp [State.takesRun, State.onGrid, Slot.bound, hb, Cp.isHalted, hr]

theorem regionCycle_halted (s : State) (c : CpId) (r : Fin 4) (code : BitVec 15) (h : (s.cp c).run = .halted code) :
    exec (.regionCycle c r) s = .next s := by
  have hrun : s.takesRun c = false := by simp [State.takesRun, Cp.isHalted, h]
  change execRegionCycle c r s = _
  simp [execRegionCycle, hrun]

theorem regionCycle_idle (s : State) (c : CpId) (r : Fin 4) (h : (s.region c r).on ≠ .running) (hd : (s.region c r).on ≠ .draining) :
    exec (.regionCycle c r) s = .next s := by
  change execRegionCycle c r s = _
  unfold execRegionCycle
  extract_lets g stopped
  split
  · rfl
  · split
    · exact absurd ‹_› hd
    · exact absurd ‹_› h
    · rfl

theorem regionCycle_draining (s : State) (c : CpId) (r : Fin 4) (hrun : s.takesRun c = true) (hd : (s.region c r).on = .draining)
    (hr : (s.region c r).stopRec = false) : exec (.regionCycle c r) s = .next
      (if s.landStops c r = [] then s.dueLast [.resultLand c r, .takeEnded c r]
      else s.stopCycle c r [] [] (s.landStops c r) [.resultLand c r, .takeEnded c r]) := by
  change execRegionCycle c r s = _
  simp only [execRegionCycle, hrun, hd, hr, Bool.not_true, Bool.false_eq_true, if_false, List.isEmpty_iff, State.stopCycle]
  split <;> rfl

/-- The causes that a cycle meets (R301). -/
def State.cycleStops (s : State) (c : CpId) (r : Fin 4) : List StopInfo :=
  (s.dueContexts c r).flatMap (s.ctxStops c r) ++ (s.dueCues c r).flatMap (s.cueStops c r) ++ s.landStops c r

theorem cycleStops_eq_nil (s : State) (c : CpId) (r : Fin 4) : s.cycleStops c r = [] ↔
    (∀ d ∈ s.dueContexts c r, s.ctxStops c r d = []) ∧ (∀ q ∈ s.dueCues c r, s.cueStops c r q = []) ∧ s.landStops c r = [] := by
  simp only [State.cycleStops, List.append_eq_nil_iff, List.flatMap_eq_nil_iff, and_assoc]

section
variable {s : State} {c : CpId} {r : Fin 4} (hrun : s.takesRun c = true) (hg : (s.region c r).on = .running) (hstart : (s.region c r).startIn = 0)
  (hdue : (s.region c r).stopDue = none) (hrec : (s.region c r).stopRec = false)
include hrun hg hstart hdue hrec

theorem regionCycle_holds (h : s.holds c r (s.dueContexts c r) (s.dueCues c r) = true) : exec (.regionCycle c r) s = .next (s.held c r) := by
  change execRegionCycle c r s = _
  simp [execRegionCycle, hrun, hg, hstart, hdue, hrec, h]

theorem regionCycle_stops (h : s.holds c r (s.dueContexts c r) (s.dueCues c r) = false) (hs : s.cycleStops c r ≠ []) :
    exec (.regionCycle c r) s = .next (s.stopCycle c r (s.dueContexts c r) (s.dueCues c r) (s.cycleStops c r) [.resultLand c r]) := by
  have hs' : (s.cycleStops c r).isEmpty = false := by rwa [List.isEmpty_eq_false_iff]
  change execRegionCycle c r s = _
  rw [State.cycleStops] at hs' ⊢
  simp only [execRegionCycle, hrun, hg, hstart, hdue, hrec, h, hs', State.stopCycle, bne_self_eq_false, Bool.not_true, Bool.not_false, Bool.true_or,
    Bool.false_eq_true, if_false, if_true]

theorem regionCycle_goes (h : s.holds c r (s.dueContexts c r) (s.dueCues c r) = false) (hs : s.cycleStops c r = []) (hecc : s.ecc = [])
    (hguard : s.guardWaits c r (s.dueContexts c r) = false) (hwalk : s.landWalk c r = none) :
    exec (.regionCycle c r) s = .next (s.goes c r (s.dueContexts c r) (s.dueCues c r)) := by
  have hread : s.ssCorrected (s.dueContexts c r) = false := by simp [State.ssCorrected, State.readMarks, State.marksOf, hecc]
  have hland : s.landCorrected c r = false := by simp [State.landCorrected, hecc]
  change execRegionCycle c r s = _
  rw [State.cycleStops] at hs
  simp only [execRegionCycle, hrun, hg, hstart, hdue, hrec, h, hs, hread, hland, hguard, hwalk, bne_self_eq_false, Bool.not_true, Bool.false_eq_true,
    if_false, List.isEmpty_nil, Option.isSome_none, Bool.or_self, Bool.false_and]

end

/-! ### An advancing cycle (R139) -/

theorem mem_agenda_dueMid (s : State) (l : List Instr) (i : Instr) (h : i ∈ l ∨ .ev i ∈ s.agenda) : .ev i ∈ (s.dueMid l).agenda := by
  have hsplit : .ev i ∈ s.agenda → .ev i ∈ s.agenda.takeWhile (fun t => !t.late) ∨ .ev i ∈ s.agenda.dropWhile (fun t => !t.late) := fun h => by
    rwa [← List.mem_append, List.takeWhile_append_dropWhile]
  simp only [State.dueMid, State.dueBefore, List.mem_append, List.mem_map, Task.ev.injEq, exists_eq_right]
  grind

theorem region_goes (s : State) (c : CpId) (r : Fin 4) (xs : List DueCtx) (qs : List DueCue) :
    (s.goes c r xs qs).region c r = { s.region c r with going := true, started := true } := by
  have hclaim (l : List (BitVec 2)) : (if l.isEmpty then s else s.claimTiles c l).region c r = s.region c r := by
    split
    · rfl
    · simp [State.region, State.claimTiles]
  rw [← hclaim]
  exact State.region_modRegion_same _ _ _ _

/-- The agenda of an advancing cycle ends with what is left of the cycle, and holds the events of its contexts before. -/
theorem agenda_goes (s : State) (c : CpId) (r : Fin 4) (xs : List DueCtx) (qs : List DueCue) :
    ∃ l, (s.goes c r xs qs).agenda = l ++ (cycleEvents c r qs).map Task.ev ∧ ∀ i ∈ issueEvents c r xs qs, .ev i ∈ l :=
  ⟨_, rfl, fun i hi => mem_agenda_dueMid _ _ i (.inl hi)⟩

theorem context_mem_agenda_goes (s : State) (c : CpId) (r : Fin 4) (xs : List DueCtx) (qs : List DueCue) (d : DueCtx) (hd : d ∈ xs) (hc : d.cue = none) :
    .ev d.i ∈ (s.goes c r xs qs).agenda := by
  obtain ⟨l, hl, hissue⟩ := agenda_goes s c r xs qs
  rw [hl]
  refine List.mem_append_left _ (hissue _ (List.mem_append_left _ (List.mem_map.mpr ⟨d, hd, ?_⟩)))
  rw [hc]

/-- A due cue that is no run and no start is an event of the cycle. -/
theorem cue_mem_agenda_goes (s : State) (c : CpId) (r : Fin 4) (xs : List DueCtx) (qs : List DueCue) (q : DueCue) (hq : q ∈ qs)
    (hrun : ∀ x n, q.i ≠ .cueRun x n) (hstart : ∀ x p, q.i ≠ .cueStart x p) : .ev q.i ∈ (s.goes c r xs qs).agenda := by
  obtain ⟨l, hl, hissue⟩ := agenda_goes s c r xs qs
  rw [hl]
  by_cases hdrain : ∃ x a p b e k z, q.i = .cueDrain x a p b e k z
  · obtain ⟨x, a, p, b, e, k, z, hi⟩ := hdrain
    refine List.mem_append_left _ (hissue _ (List.mem_append_right _ (List.mem_filterMap.mpr ⟨q, hq, ?_⟩)))
    rw [hi]
  · refine List.mem_append_right _ (List.mem_map_of_mem (List.mem_append_left _ (List.mem_filterMap.mpr ⟨q, hq, ?_⟩)))
    split
    · exact absurd ‹_› (hrun _ _)
    · exact absurd ‹_› (hstart _ _)
    · exact absurd ⟨_, _, _, _, _, _, _, ‹_›⟩ hdrain
    · rfl

/-! ### A wait cue (R83, R84) -/

theorem leNat_lt (l : List Byte) : leNat l < 256 ^ l.length := by
  induction l with
  | nil => exact Nat.one_pos
  | cons b t ih =>
    have hb := b.isLt
    rw [leNat, List.length_cons, Nat.pow_succ]
    omega

theorem State.wordAt_toNat (s : State) (a : PAddr) : (s.wordAt a).toNat = leNat (s.bytesAt a 8) := by
  have h := leNat_lt (s.bytesAt a 8)
  rw [State.bytesAt_length] at h
  rw [State.wordAt, State.leAt, BitVec.toNat_ofNat]
  exact Nat.mod_eq_of_lt h

theorem waitFound_below (s : State) (c : CpId) (r : Fin 4) (k : BitVec 4) (step : BitVec 32) (e : CtrEntry) (hk : (s.region c r).ctr k = some e)
    (hecc : s.ecc = []) (hown : s.ownerOk (s.slot c).part e.pa false = true)
    (hmax : e.base.toNat + (s.region c r).lap * step.toNat < 2 ^ 64) (hlt : (s.wordAt e.pa).toNat < e.base.toNat + (s.region c r).lap * step.toNat) :
    s.waitFound c r k step = .below := by
  rw [State.wordAt_toNat] at hlt
  simp only [State.waitFound, hk, if_neg (Nat.not_le.mpr hmax), hown, State.load_clean s c _ _ _ hecc, Bool.not_true, Bool.false_eq_true, if_false, if_pos hlt]
  split <;> rfl

theorem holds_of_wait_below (s : State) (c : CpId) (r : Fin 4) (xs : List DueCtx) (qs : List DueCue) (q : DueCue) (x : ElemSite) (k : BitVec 4)
    (z : BitVec 3) (step : BitVec 32) (hq : q ∈ qs) (hi : q.i = .cueWait x k z step) (hw : s.waitFound c r k step = .below) : s.holds c r xs qs = true := by
  simp only [State.holds, Bool.or_eq_true]
  refine .inl (.inl (.inl (.inr (List.any_eq_true.mpr ⟨q, hq, ?_⟩))))
  simp [hi, hw]

/-! ### The end of a take (R62, R85, R192, R255) -/

/-- A port whose region's take is over: so many tokens less are on their way in and out, a stream of the region has ended, and a binding
stamped for the take is gone (R253, R255). -/
def PortCtx.ended (q : PortCtx) (r : Fin 4) (seq : W32) (lostIn lostOut : Nat) : PortCtx :=
  let q1 : PortCtx := { q with unconsumed := q.unconsumed - lostIn, unstored := q.unstored - lostOut }
  let q2 : PortCtx := match q1.run with
    | some st => if st.region == r then { q1 with run := none } else q1
    | none => q1
  match q2.pending with
  | some b => if b.take == some (r, seq) then { q2 with pending := none } else q2
  | none => q2

theorem PortCtx.run_ended (q : PortCtx) (r : Fin 4) (seq : W32) (lostIn lostOut : Nat) (st : Stream) (h : (q.ended r seq lostIn lostOut).run = some st) :
    st.region ≠ r := by
  have hpending (q : PortCtx) : (match q.pending with | some b => if b.take == some (r, seq) then { q with pending := none } else q | none => q).run = q.run := by
    split
    · split <;> rfl
    · rfl
  rw [PortCtx.ended, hpending] at h
  dsimp only at h
  split at h
  next st' hrun =>
    split at h
    · exact nomatch h
    next hne =>
      obtain rfl : st' = st := Option.some.inj (hrun.symm.trans h)
      exact fun e => hne (beq_iff_eq.mpr e)
  next hnone => exact nomatch hnone.symm.trans h

/-- The tokens of a region's streams that a port has on the ring, by direction: none of them will have a place. -/
def State.lostTokens (s : State) (c : CpId) (r : Fin 4) (p : Nat) (out : Bool) : Nat :=
  (((s.core c.core).ring.filter fun t => t.feeds c r || t.stranded c r).filter fun x => x.port.toNat == p && x.inbound != out).length

/-- Where the streams of a region end, the ports of its slot alone change (R255). -/
theorem slot_endStreams (s : State) (c : CpId) (r : Fin 4) :
    let ended (i : Nat) (q : PortCtx) (_ : i < 24) : PortCtx := q.ended r (s.region c r).takeSeq (s.lostTokens c r i false) (s.lostTokens c r i true)
    (s.endStreams c r).slot c = { s.slot c with ports := (s.slot c).ports.mapFinIdx ended } := by
  intro ended
  unfold State.endStreams
  extract_lets gone seq s1
  have hs1 : s1.slot c = s.slot c := State.slot_modCore_keeps s c.core _ c rfl
  rw [State.slot_modSlot_same, hs1]
  rfl

theorem takeLastLapEnd_exec (s : State) (c : CpId) (r : Fin 4) : exec (.takeLastLapEnd c r) s = .next
    (if (s.region c r).on = .running ∧ (s.region c r).onHdr.laps ≤ (s.region c r).lap then s.modRegion c r fun g => { g with on := .draining } else s) := by
  change execTakeLastLapEnd c r s = _
  simp only [execTakeLastLapEnd, Bool.and_eq_true, beq_iff_eq, decide_eq_true_eq]

theorem takeEnded_exec (s : State) (c : CpId) (r : Fin 4) : exec (.takeEnded c r) s = .next
    (if (s.region c r).on = .draining ∧ s.drained c r = true then
      ((s.endStreams c r).modRegion c r fun g => { g with on := .ended, flags := s.flagSummary c r }).modCp c fun p => p.event evRGN
    else s) := by
  change execTakeEnded c r s = _
  simp only [execTakeEnded, Bool.and_eq_true, beq_iff_eq]

theorem takeEnded_ends (s : State) (c : CpId) (r : Fin 4) (h : (s.region c r).on = .draining) (hd : s.drained c r = true) :
    Completes (.takeEnded c r) s fun t => t.region c r = { s.region c r with on := .ended, flags := s.flagSummary c r } ∧
      (t.cp c).cpevt = (s.cp c).cpevt ||| 1 ∧ SameBytes s t ∧ ∀ (p : BitVec 5) (st : Stream), p.toNat < 24 → ((t.slot c).port p).run = some st → st.region ≠ r := by
  refine ⟨_, (takeEnded_exec s c r).trans (congrArg _ (if_pos ⟨h, hd⟩)), ?_, ?_, sameBytes_of rfl rfl, fun p st hp hrun => ?_⟩
  · simp only [State.modCp, State.modRegion, State.region, State.slot_modSlot_same, vmod_get_same, slot_endStreams]
  · simp only [State.modCp, State.modRegion, State.cp, State.slot_modSlot_same, slot_endStreams]
    rfl
  · simp only [State.modCp, State.modRegion, State.slot_modSlot_same, slot_endStreams, Slot.port, hp, dif_pos, Vector.get_eq_getElem, Vector.getElem_mapFinIdx] at hrun
    exact PortCtx.run_ended _ _ _ _ _ _ hrun

/-! ### The parts of O38 -/

/-- A running region holds, advances or stops (R66, R80, R81, R84, R416). -/
theorem regionCycle_running (s : State) (c : CpId) (r : Fin 4) (hrun : s.takesRun c = true) (hg : (s.region c r).on = .running)
    (hstart : (s.region c r).startIn = 0) (hdue : (s.region c r).stopDue = none) (hrec : (s.region c r).stopRec = false) :
    let g := s.region c r
    let xs := s.dueContexts c r
    let qs := s.dueCues c r
    let clear : Prop := (∀ d ∈ xs, s.ctxStops c r d = []) ∧ (∀ q ∈ qs, s.cueStops c r q = []) ∧ s.landStops c r = []
    (s.holds c r xs qs = true → Completes (.regionCycle c r) s fun t => t = s.held c r) ∧
    (s.holds c r xs qs = false → clear → s.ecc = [] → s.guardWaits c r xs = false → s.landWalk c r = none → Completes (.regionCycle c r) s fun t =>
      t.region c r = { g with going := true, started := true } ∧ (∃ l, t.agenda = l ++ [.ev (.resultLand c r)]) ∧
      (∀ d ∈ xs, d.cue = none → .ev d.i ∈ t.agenda) ∧ ∀ q ∈ qs, (∀ x n, q.i ≠ .cueRun x n) → (∀ x p, q.i ≠ .cueStart x p) → .ev q.i ∈ t.agenda) ∧
    (s.holds c r xs qs = false → ¬ clear → Completes (.regionCycle c r) s fun t => (t.region c r).stopDue.isSome = true ∧
      t.agenda = s.agenda ++ [.ev (.resultLand c r)] ∧ (t.region c r).going = g.going) := by
  intro g xs qs clear
  have hclear : s.cycleStops c r = [] ↔ clear := cycleStops_eq_nil s c r
  have hcounts : (s.region c r).counts = true := by rw [Region.counts, hg]; rfl
  refine ⟨fun h => ⟨_, regionCycle_holds hrun hg hstart hdue hrec h, rfl⟩, fun h hc hecc hguard hwalk => ?_, fun h hc => ?_⟩
  · refine ⟨_, regionCycle_goes hrun hg hstart hdue hrec h (hclear.mpr hc) hecc hguard hwalk, region_goes s c r xs qs, ?_,
      context_mem_agenda_goes s c r xs qs, cue_mem_agenda_goes s c r xs qs⟩
    obtain ⟨l, hl, -⟩ := agenda_goes s c r xs qs
    exact ⟨_, hl.trans (by rw [cycleEvents, List.map_append, ← List.append_assoc]; rfl)⟩
  · have hs : s.cycleStops c r ≠ [] := fun e => hc (hclear.mp e)
    exact ⟨_, regionCycle_stops hrun hg hstart hdue hrec h hs, stopCycle_stops s c r xs qs _ [.resultLand c r] hcounts hrec hs⟩

/-- A draining region lands its results and may end, or stops (R81, R85). -/
theorem regionCycle_drains (s : State) (c : CpId) (r : Fin 4) (hrun : s.takesRun c = true) (hg : (s.region c r).on = .draining)
    (hrec : (s.region c r).stopRec = false) :
    (s.landStops c r = [] → Completes (.regionCycle c r) s fun t => t = { s with agenda := s.agenda ++ [.ev (.resultLand c r), .ev (.takeEnded c r)] }) ∧
    (s.landStops c r ≠ [] → Completes (.regionCycle c r) s fun t => (t.region c r).stopDue.isSome = true ∧
      t.agenda = s.agenda ++ [.ev (.resultLand c r), .ev (.takeEnded c r)]) := by
  have hcounts : (s.region c r).counts = true := by rw [Region.counts, hg]; rfl
  have hx := regionCycle_draining s c r hrun hg hrec
  refine ⟨fun h => ⟨_, hx.trans (congrArg _ (if_pos h)), rfl⟩, fun h => ⟨_, hx.trans (congrArg _ (if_neg h)), ?_⟩⟩
  obtain ⟨hdue, hagenda, -⟩ := stopCycle_stops s c r [] [] (s.landStops c r) [.resultLand c r, .takeEnded c r] hcounts hrec h
  exact ⟨hdue, hagenda⟩

/-- Settles O38: a region's cycle by the region's state, and the two events with which a take ends. -/
theorem regionCycle : Obligations.RegionCycle := by
  unfold Obligations.RegionCycle
  refine ⟨fun s c r hb => ?_, fun s c r => ?_⟩
  · intro g i xs qs clear
    refine ⟨fun code h => ⟨_, regionCycle_halted s c r code h, rfl⟩, fun hr hg hstart hdue hrec => ?_, fun hr => regionCycle_drains s c r (takesRun_of_running s c hb hr),
      fun hg hd => ⟨_, regionCycle_idle s c r hg hd, rfl⟩⟩
    obtain ⟨hholds, hgoes, hstops⟩ := regionCycle_running s c r (takesRun_of_running s c hb hr) hg hstart hdue hrec
    refine ⟨hholds, hgoes, hstops, fun x k z step n e hq hk hecc hown hmax hlt => ?_⟩
    exact holds_of_wait_below s c r xs qs _ _ k z step hq rfl (waitFound_below s c r k step e hk hecc hown hmax hlt)
  · intro g
    have hlast := takeLastLapEnd_exec s c r
    refine ⟨fun hg hl => ⟨_, hlast.trans (congrArg _ (if_pos ⟨hg, hl⟩)), rfl⟩, fun hl => ⟨_, hlast.trans (congrArg _ (if_neg fun h => ?_)), rfl⟩,
      takeEnded_ends s c r, fun hd => ⟨_, (takeEnded_exec s c r).trans (congrArg _ (if_neg fun h => ?_)), rfl⟩⟩
    · exact Nat.not_le.mpr hl h.2
    · exact Bool.false_ne_true (hd.symm.trans h.2)

end Sys2Proof.Machine
end

section
/-! Encoding and decoding (O58): what the fields of a packed word read as, and that decoding gives back what was encoded. -/
namespace Sys2Proof
open BitVec

/-! ### CP words (R199) -/

@[simp] theorem opOf_packWord (op : BitVec 7) (rd ra : Reg) (lo : BitVec 15) : opOf (packWord op rd ra lo) = op := by
  ext j hj; grind [opOf, packWord]
@[simp] theorem rdOf_packWord (op : BitVec 7) (rd ra : Reg) (lo : BitVec 15) : rdOf (packWord op rd ra lo) = rd := by
  ext j hj; grind [rdOf, packWord]
@[simp] theorem raOf_packWord (op : BitVec 7) (rd ra : Reg) (lo : BitVec 15) : raOf (packWord op rd ra lo) = ra := by
  ext j hj; grind [raOf, packWord]
@[simp] theorem loOf_packWord (op : BitVec 7) (rd ra : Reg) (lo : BitVec 15) : loOf (packWord op rd ra lo) = lo := by
  ext j hj; grind [loOf, packWord]

theorem decodeWord_packWord (op : BitVec 7) (rd ra : Reg) (lo : BitVec 15) : decodeWord (packWord op rd ra lo) = decodeFields op rd ra lo := by
  simp [decodeWord]

/-! ### Bits [14:0] by format (R199) -/

section
variable (b c f : BitVec 5) (q : BitVec 2) (m : BitVec 6) (p w : BitVec 6) (k : BitVec 3) (z : BitVec 3) (i : BitVec 12) (j : BitVec 10)
@[simp] theorem loR_rb : (loR b c f).extractLsb' 10 5 = b := by ext t ht; grind [loR]
@[simp] theorem loR_rc : (loR b c f).extractLsb' 5 5 = c := by ext t ht; grind [loR]
@[simp] theorem loR_fn : (loR b c f).extractLsb' 0 5 = f := by ext t ht; grind [loR]
@[simp] theorem loN_zero : (loN q m).extractLsb' 8 7 = 0 := by ext t ht; grind [loN]
@[simp] theorem loN_fn : (loN q m).extractLsb' 6 2 = q := by ext t ht; grind [loN]
@[simp] theorem loN_sh : (loN q m).extractLsb' 0 6 = m := by ext t ht; grind [loN]
@[simp] theorem loK_pos : (loK p w k).extractLsb' 9 6 = p := by ext t ht; grind [loK]
@[simp] theorem loK_wm : (loK p w k).extractLsb' 3 6 = w := by ext t ht; grind [loK]
@[simp] theorem loK_fn : (loK p w k).extractLsb' 0 3 = k := by ext t ht; grind [loK]
@[simp] theorem loM_size : (loM z i).extractLsb' 12 3 = z := by ext t ht; grind [loM]
@[simp] theorem loM_imm : (loM z i).extractLsb' 0 12 = i := by ext t ht; grind [loM]
@[simp] theorem loE_rb : (loE b j).extractLsb' 10 5 = b := by ext t ht; grind [loE]
@[simp] theorem loE_imm : (loE b j).extractLsb' 0 10 = j := by ext t ht; grind [loE]
end

/-! ### Immediates of the commands (R206) and of the system group -/

section
variable (r : BitVec 2) (p : BitVec 5) (k : BitVec 4) (n : BitVec 7) (z : BitVec 3) (q : BitVec 8) (c : BitVec 12)
@[simp] theorem immRegion_r : extractLsb' (n := 10) 0 2 (q ++ r) = r := by ext t ht; grind
@[simp] theorem immRegion_high : extractLsb' (n := 10) 2 8 (q ++ r) = q := by ext t ht; grind
@[simp] theorem immRegion_fn : extractLsb' (n := 10) 2 5 (q ++ r) = q.extractLsb' 0 5 := by ext t ht; grind
@[simp] theorem immRegion_top : extractLsb' (n := 10) 7 3 (q ++ r) = q.extractLsb' 5 3 := by ext t ht; grind
@[simp] theorem immSlot_k (v : BitVec 6) : extractLsb' (n := 10) 0 4 (v ++ k) = k := by ext t ht; grind
@[simp] theorem immSlot_high (v : BitVec 6) : extractLsb' (n := 10) 4 6 (v ++ k) = v := by ext t ht; grind
@[simp] theorem immPort_k (v : BitVec 1) : extractLsb' (n := 10) 0 4 (v ++ p ++ k) = k := by ext t ht; grind
@[simp] theorem immPort_p (v : BitVec 1) : extractLsb' (n := 10) 4 5 (v ++ p ++ k) = p := by ext t ht; grind
@[simp] theorem immPort_high (v : BitVec 1) : extractLsb' (n := 10) 9 1 (v ++ p ++ k) = v := by ext t ht; grind
@[simp] theorem immScope_s : extractLsb' (n := 10) 0 3 (n ++ z) = z := by ext t ht; grind
@[simp] theorem immScope_n : extractLsb' (n := 10) 3 7 (n ++ z) = n := by ext t ht; grind
@[simp] theorem immRing_q (v : BitVec 2) : extractLsb' (n := 10) 0 8 (v ++ q) = q := by ext t ht; grind
@[simp] theorem immRing_low (v : BitVec 2) : extractLsb' (n := 10) 8 1 (v ++ q) = v.extractLsb' 0 1 := by ext t ht; grind
@[simp] theorem immRing_high (v : BitVec 2) : extractLsb' (n := 10) 9 1 (v ++ q) = v.extractLsb' 1 1 := by ext t ht; grind
@[simp] theorem immWait_m (v : BitVec 10) : extractLsb' (n := 15) 0 5 (v ++ p) = p := by ext t ht; grind
@[simp] theorem immWait_high (v : BitVec 10) : extractLsb' (n := 15) 5 10 (v ++ p) = v := by ext t ht; grind
@[simp] theorem immCsr_c : extractLsb' (n := 15) 0 12 (z ++ c) = c := by ext t ht; grind
@[simp] theorem immCsr_fn : extractLsb' (n := 15) 12 3 (z ++ c) = z := by ext t ht; grind
end

@[simp] theorem append_extractLsb'_twenty (i : BitVec 20) : (i.extractLsb' 15 5 ++ i.extractLsb' 0 15 : BitVec 20) = i := by ext t ht; grind
@[simp] theorem append_extractLsb'_twentyFive (i : BitVec 25) : (i.extractLsb' 20 5 ++ i.extractLsb' 15 5 ++ i.extractLsb' 0 15 : BitVec 25) = i := by ext t ht; grind
section
variable (q v : BitVec 2) (i : BitVec 16)
@[simp] theorem movhRa_q : extractLsb' (n := 5) 3 2 (q ++ v ++ (i.extractLsb' 15 1 : BitVec 1)) = q := by ext t ht; grind
@[simp] theorem movhRa_mid : extractLsb' (n := 5) 1 2 (q ++ v ++ (i.extractLsb' 15 1 : BitVec 1)) = v := by ext t ht; grind
@[simp] theorem movhRa_imm : (extractLsb' (n := 5) 0 1 (q ++ v ++ (i.extractLsb' 15 1 : BitVec 1)) ++ i.extractLsb' 0 15 : BitVec 16) = i := by
  ext t ht; grind
end

/-- Each group's decoder reads back the fields that its format packs (R201 to R206). -/
theorem decodeWord_of_encode (i : Instr) (h : i.wf = true) (w : W32) (he : encode i = some w) : decodeWord w = .ok i := by
  cases i
  case add | sub | and | or | xor | andn | shl | shr | sar | slt | sltu | min | max | clz | ctz | popc =>
    cases he; simp [decodeWord_packWord, decodeFields, decodeScalar, decodeAlu, given]
  case addImm | andImm | orImm | xorImm | sltImm | sltuImm | minImm | maxImm | bEq | bNe | bLt | bGe | bLtu | bGeu =>
    cases he; simp [decodeWord_packWord, decodeFields, decodeScalar]
  case shlImm | shrImm | sarImm =>
    cases he; simp [decodeWord_packWord, decodeFields, decodeScalar, decodeShift, given]
  case mul | mulh | mulhu | div | divu | rem | remu => 
    cases he; simp [decodeWord_packWord, decodeFields, decodeScalar, decodeMuldiv, given]
  case bfx | bfxu | bfi =>
    cases he; simp_all [decodeWord_packWord, decodeFields, decodeScalar, decodeBitfield, given, Instr.wf]

  case jmpReg | callReg | ret =>
    cases he; simp [decodeWord_packWord, decodeFields, decodeScalar, decodeJump, given]
  case movi | movh | jmp | call =>
    cases he; simp [decodeWord_packWord, decodeFields, decodeScalar, given]
  case ld | st | ldf | stf | pref | trap | tret | wait | bkpt =>
    cases he; simp_all [decodeWord_packWord, decodeFields, decodeMemSys, given, Instr.wf]
  case fenceLd | fenceSt | fenceAll | fenceEng =>
    cases he; simp [decodeWord_packWord, decodeFields, decodeMemSys, decodeFence, given]
  case amoAdd | amoSwp | amoCas | amoMax | amoMin | amoAnd | amoOr =>
    cases he; simp [decodeWord_packWord, decodeFields, decodeMemSys, decodeAmo, given]
  case syscVerify | syscFused | syscEnergy =>
    cases he; simp [decodeWord_packWord, decodeFields, decodeMemSys, decodeSysc]
  case csrr | csrw | csrs | csrc =>
    cases he; simp_all [decodeWord_packWord, decodeFields, decodeMemSys, decodeCsr, given, Instr.wf]
  case rload | rarm | rgo | rstop | rsave | rrest =>
    cases he; simp [decodeWord_packWord, decodeFields, decodeE, given]
  case rstatState | rstatLoadrep | rstatFlags | rstatTclap | rstatHeld | rstatCycles | rstatEnergy | rstatFault | rstatOrigin =>
    cases he; simp [decodeWord_packWord, decodeFields, decodeE]
  case spat | stgdef | stgrel | cbarArr | cbarWait | mload =>
    cases he; simp [decodeWord_packWord, decodeFields, decodeE, given]
  case sbind | sbindt | sstop =>
    cases he; simp_all [decodeWord_packWord, decodeFields, decodeE, given, Instr.wf]
  case sig | waitge | pub | cpeer =>
    cases he; simp_all [decodeWord_packWord, decodeFields, decodeE, given, Instr.wf]
  case cpy | cpyg | bind | unbind | trig | launch | tinv | attn | kvapp | kvlook | kvfork | kvrel | glaunch | coll | gstat =>
    cases he; simp [decodeWord_packWord, decodeFields, decodeE, given]
  case mstatFull | mstatPart | mstatEmpty | mstatSkipb | ringset | kvpool =>
    cases he; simp [decodeWord_packWord, decodeFields, decodeE, given]
  all_goals exact nomatch he

/-! ### Context words (R86) -/

@[simp] theorem bit1_beq (b : Bool) : (bit1 b == 1#1) = b := by cases b <;> rfl
@[simp] theorem bit1_eq (b : Bool) : bit1 b = 1#1 ↔ b = true := by cases b <;> decide

/-- A context word as a concatenation whose width is the sum of its fields' widths. -/
theorem packCtx_eq_cast (op : BitVec 8) (f : CtxFields) : packCtx op f =
    BitVec.cast rfl (op ++ bit1 f.h ++ bit1 f.pn ++ f.ps ++ f.srcA ++ f.srcB ++ f.srcC ++ f.dw ++ f.fmt ++ f.mod ++ f.aux) := rfl

theorem opcode_packCtx (op : BitVec 8) (f : CtxFields) : (packCtx op f).extractLsb' 56 8 = op := by
  simp only [packCtx_eq_cast, extractLsb'_cast, extractLsb'_append_eq_of_le, extractLsb'_eq_self, Nat.reduceLeDiff, Nat.reduceSub]

theorem ctxFieldsOf_packCtx (op : BitVec 8) (f : CtxFields) : ctxFieldsOf (packCtx op f) = f := by
  simp only [packCtx_eq_cast, ctxFieldsOf, extractLsb'_cast, extractLsb'_append_eq_of_le, extractLsb'_append_eq_of_add_le, extractLsb'_eq_self,
    bit1_beq, Nat.reduceLeDiff, Nat.reduceSub]

/-- The opcodes of R93 name their instructions, whose limits are those of the fields. -/
theorem elemOfOp_of_elemParts (i : Instr) (op : Nat) (x : ElemSite) (f : CtxFields) (h : elemParts i = some (op, x, f)) :
    op < 256 ∧ elemOfOp op x f = some i ∧ i.wf = f.ok := by
  unfold elemParts at h
  split at h
  case h_57 => exact nomatch h
  all_goals
    cases h
    exact ⟨by decide, rfl, rfl⟩

theorem decodeCtx_of_encodeCtx (i : Instr) (hi : i.wf = true) (op : Nat) (x : ElemSite) (f : CtxFields) (w : BitVec 64) (h : elemParts i = some (op, x, f))
    (hw : encodeCtx i = some w) : decodeCtx x w = .ok i := by
  obtain ⟨hop, helem, hwf⟩ := elemOfOp_of_elemParts i op x f h
  have hpack : w = packCtx (BitVec.ofNat 8 op) f := by
    rw [encodeCtx, h] at hw
    exact (Option.some.inj hw).symm
  have hnat : (BitVec.ofNat 8 op).toNat = op := Nat.mod_eq_of_lt hop
  simp only [decodeCtx, hpack, ctxFieldsOf_packCtx, opcode_packCtx, hnat, helem, given, hwf ▸ hi, if_true]

/-! ### Cues (R82, R83) -/

section
variable (t : CueTime) (k : BitVec 4) (pay : BitVec 46)
@[simp] theorem packCue_kind : (packCue t k pay).extractLsb' 48 4 = k := by ext j hj; grind [packCue]
@[simp] theorem packCue_lap : (packCue t k pay).extractLsb' 46 2 = t.lap := by ext j hj; grind [packCue]
@[simp] theorem packCue_pay : (packCue t k pay).extractLsb' 0 46 = pay := by ext j hj; grind [packCue]
@[simp] theorem packCue_stamp : (packCue t k pay).extractLsb' 52 12 = t.stamp := by ext j hj; grind [packCue]
@[simp] theorem cueTimeOf_packCue : cueTimeOf (packCue t k pay) = t := by simp [cueTimeOf]
end

section
variable (p : BitVec 5) (acc strm : BitVec 2) (peer clr : BitVec 1) (pb s : BitVec 3) (n : BitVec 32) (k : BitVec 4)
@[simp] theorem cuePort_p (v : BitVec 41) : extractLsb' (n := 46) 0 5 (v ++ p) = p := by ext t ht; grind
@[simp] theorem cuePort_lt : BitVec.toNat (w := 46) (0#41 ++ p) < 32 := by
  change (0#41 ++ p).toNat < 32
  simpa only [toNat_append, toNat_ofNat, Nat.zero_mod, Nat.zero_shiftLeft, Nat.zero_or] using p.isLt
@[simp] theorem cueCounter_lt : BitVec.toNat (w := 46) (0#7 ++ n ++ s ++ k) < 549755813888 := by
  have h : 0#7 ++ n ++ s ++ k = BitVec.cast rfl (0#7 ++ (n ++ s ++ k)) := by ext t ht; grind
  change (0#7 ++ n ++ s ++ k).toNat < 2 ^ 39
  rw [h]
  simpa only [toNat_cast, toNat_append 0#7, toNat_ofNat, Nat.zero_mod, Nat.zero_shiftLeft, Nat.zero_or] using (n ++ s ++ k).isLt
@[simp] theorem cueDrain_lt : BitVec.toNat (w := 46) (0#32 ++ clr ++ strm ++ pb ++ peer ++ p ++ acc) < 16384 := by
  have h : 0#32 ++ clr ++ strm ++ pb ++ peer ++ p ++ acc = BitVec.cast rfl (0#32 ++ (clr ++ strm ++ pb ++ peer ++ p ++ acc)) := by ext t ht; grind
  change (0#32 ++ clr ++ strm ++ pb ++ peer ++ p ++ acc).toNat < 2 ^ 14
  rw [h]
  simpa only [toNat_cast, toNat_append 0#32, toNat_ofNat, Nat.zero_mod, Nat.zero_shiftLeft, Nat.zero_or] using (clr ++ strm ++ pb ++ peer ++ p ++ acc).isLt
@[simp] theorem cueDrain_acc (v : BitVec 32) : extractLsb' (n := 46) 0 2 (v ++ clr ++ strm ++ pb ++ peer ++ p ++ acc) = acc := by ext t ht; grind
@[simp] theorem cueDrain_p (v : BitVec 32) : extractLsb' (n := 46) 2 5 (v ++ clr ++ strm ++ pb ++ peer ++ p ++ acc) = p := by ext t ht; grind
@[simp] theorem cueDrain_peer (v : BitVec 32) : extractLsb' (n := 46) 7 1 (v ++ clr ++ strm ++ pb ++ peer ++ p ++ acc) = peer := by ext t ht; grind
@[simp] theorem cueDrain_pb (v : BitVec 32) : extractLsb' (n := 46) 8 3 (v ++ clr ++ strm ++ pb ++ peer ++ p ++ acc) = pb := by ext t ht; grind
@[simp] theorem cueDrain_strm (v : BitVec 32) : extractLsb' (n := 46) 11 2 (v ++ clr ++ strm ++ pb ++ peer ++ p ++ acc) = strm := by
  change BitVec.extractLsb' 11 2 (v ++ clr ++ strm ++ pb ++ peer ++ p ++ acc) = strm
  simp only [extractLsb'_append_eq_of_le, extractLsb'_append_eq_of_add_le, extractLsb'_eq_self, Nat.reduceLeDiff, Nat.reduceSub]
@[simp] theorem cueDrain_clr (v : BitVec 32) : extractLsb' (n := 46) 13 1 (v ++ clr ++ strm ++ pb ++ peer ++ p ++ acc) = clr := by
  change BitVec.extractLsb' 13 1 (v ++ clr ++ strm ++ pb ++ peer ++ p ++ acc) = clr
  simp only [extractLsb'_append_eq_of_le, extractLsb'_append_eq_of_add_le, extractLsb'_eq_self, Nat.reduceLeDiff, Nat.reduceSub]
@[simp] theorem cueCounter_k (v : BitVec 7) : extractLsb' (n := 46) 0 4 (v ++ n ++ s ++ k) = k := by ext t ht; grind
@[simp] theorem cueCounter_s (v : BitVec 7) : extractLsb' (n := 46) 4 3 (v ++ n ++ s ++ k) = s := by ext t ht; grind
@[simp] theorem cueCounter_n (v : BitVec 7) : extractLsb' (n := 46) 7 32 (v ++ n ++ s ++ k) = n := by ext t ht; grind
end

/-- A cue of a site. -/
def IsCueAt (x : ElemSite) (i : Instr) : Prop :=
  (∃ a b c d e f, i = .cueRun x a ∨ i = .cueStart x a ∨ i = .cueStop x a ∨ i = .cueDrain x b a c d e f ∨ i = .cueBegin x ∨ i = .cueEnd x ∨ i = .cueEndtake x) ∨
    ∃ a b c, i = .cueSig x a b c ∨ i = .cueWait x a b c

theorem decodeCue_of_encodeCue (t : CueTime) (ht : t.lap ≠ 3) (x : ElemSite) (i : Instr) (hi : i.wf = true) (hx : IsCueAt x i) (w : BitVec 64)
    (hw : encodeCue t i = some w) : decodeCue x w = .ok i ∧ cueTimeOf w = t := by
  have hlap : ¬ t.lap = 3#2 := ht
  obtain ⟨a, b, c, d, e, f, rfl | rfl | rfl | rfl | rfl | rfl | rfl⟩ | ⟨a, b, c, rfl | rfl⟩ := hx
  case inl.inl | inl.inr.inr.inr.inr.inl | inl.inr.inr.inr.inr.inr.inl | inl.inr.inr.inr.inr.inr.inr =>
    cases hw
    simp [decodeCue, given, hlap]
  all_goals
    cases hw
    simp_all [decodeCue, given, Instr.wf]

/-- Settles O58: a CP word, a context word and a cue are packed from their fields, which the decoder reads back. -/
theorem encodeDecode : Obligations.EncodeDecode := by
  unfold Obligations.EncodeDecode
  intro i hi
  exact ⟨decodeWord_of_encode i hi, decodeCtx_of_encodeCtx i hi, fun t x w ht hx => decodeCue_of_encodeCue t ht x i hi hx w⟩

end Sys2Proof
end

section
/-! Lane instructions: how a lane or control result starts, lanes that draw, and the integer group (O34). -/
namespace Sys2Proof.Machine

/-! ### What a lane instruction starts (R73, R107, R108) -/

section
variable {i : Instr} {s : State} {x : ElemSite} {w : CtxFields} {op lat : Nat}

/-- A lane instruction starts what its lane function gives for its operands and the element's generator. -/
theorem laneFlies_of_laneOp {ones : W256 × W256 × W256} {p : Tok → Tok → Tok → Tok → BitVec 8 → Prop} {f : Tok → Tok → Tok → W32 → LaneRes}
    (hx : exec i s = s.laneOp x op w lat ones f)
    (hp : let a := s.source x w ones.1 w.srcA
      let b := s.source x w ones.2.1 w.srcB
      let c := s.source x w ones.2.2 w.srcC
      let r := f a b c (s.elem x.cp x.elem).lfsr
      p a b c ⟨r.out.bits, r.lr, r.ls, false⟩ r.out.fl) : LaneFlies i s x w op lat ones p := by
  intro hissues ha hb hc
  have hflies : ActFlies i s x w op lat (· = _) := actFlies_of_launches _ hx (fun t => by
    simp only [ha, hb, hc, Bool.or_self, Bool.false_eq_true, if_false]
    exact launches_setLfsr _ (launches_launchResult t x lat _)) rfl
  obtain ⟨t, ht, hbytes, act, rfl, hflight⟩ := hflies hissues
  exact ⟨t, ht, hbytes, _, _, hflight, rfl, hp⟩

/-- A context on the control plane starts what its function gives for its three words. -/
theorem controlFlies_of_ctlOp {p : Word → Word → Word → Word → BitVec 8 → Prop} {f : Word → Word → Word → Word × BitVec 8}
    (hx : exec i s = s.ctlOp x op w lat f)
    (hp : let a := s.ctlSource x w w.srcA
      let b := s.ctlSource x w w.srcB
      let c := s.ctlSource x w w.srcC
      p a b c (f a b c).1 (f a b c).2) : ControlFlies i s x w op lat p := by
  intro hissues
  have hflies : ActFlies i s x w op lat (· = _) := actFlies_of_launches _ hx (fun t => launches_launchResult t x lat _) rfl
  obtain ⟨t, ht, hbytes, act, rfl, hflight⟩ := hflies hissues
  exact ⟨t, ht, hbytes, _, _, hflight, hp⟩

end

/-! ### Narrowing (R42, R114) -/

theorem clampInt_fst (w : Nat) (v : Int) : (clampInt w v).1 = max (-(2 ^ (w - 1))) (min (2 ^ (w - 1) - 1) v) := by
  have h : (0 : Int) < 2 ^ (w - 1) := by positivity
  unfold clampInt
  extract_lets hi lo
  split_ifs <;> simp only [hi, lo] at * <;> omega

theorem clampInt_snd (w : Nat) (v : Int) : (clampInt w v).2 = true ↔ v < -(2 ^ (w - 1)) ∨ 2 ^ (w - 1) - 1 < v := by
  unfold clampInt
  extract_lets hi lo
  split_ifs <;> simp only [hi, lo] at * <;> simp <;> omega

theorem wrapInt_cast (w : Nat) (v : Int) : (wrapInt w v : Int) = v % 2 ^ w := by
  rw [wrapInt, Nat.cast_pow, Nat.cast_ofNat, Int.toNat_of_nonneg (Int.emod_nonneg _ (by positivity))]

theorem wrapInt_lt (w : Nat) (v : Int) : wrapInt w v < 2 ^ w := by
  have h := Int.emod_lt_of_pos v (b := 2 ^ w) (by positivity)
  rw [← wrapInt_cast] at h
  exact_mod_cast h

theorem endInt_fst (sat : Bool) (w : Nat) (v : Int) : ((endInt sat w v).1 : Int) = narrowed sat w v := by
  cases sat
  · exact wrapInt_cast w v
  · exact (wrapInt_cast w _).trans (congrArg (· % (2 ^ w : Int)) (clampInt_fst w v))

theorem endInt_fst_lt (sat : Bool) (w : Nat) (v : Int) : (endInt sat w v).1 < 2 ^ w := by
  cases sat <;> exact wrapInt_lt w _

theorem flagIf_eq_self {b : Bool} {f : BitVec 8} (hf : f ≠ 0) : flagIf b f = f ↔ b = true := by
  cases b
  · exact ⟨fun h => absurd h.symm hf, nofun⟩
  · exact ⟨fun _ => rfl, fun _ => rfl⟩

theorem flagIf_cases (b : Bool) (f : BitVec 8) : flagIf b f = 0 ∨ flagIf b f = f := by
  cases b
  · exact .inl rfl
  · exact .inr rfl

theorem endInt_snd (sat : Bool) (w : Nat) (v : Int) : ((endInt sat w v).2 = 0 ∨ (endInt sat w v).2 = fSAT) ∧ ((endInt sat w v).2 = fSAT ↔ clips sat w v) := by
  cases sat
  · simp [endInt, clips, fSAT]
  · simp only [endInt, if_true, clips, true_and]
    exact ⟨flagIf_cases _ _, (flagIf_eq_self (by decide)).trans (clampInt_snd w v)⟩

/-- The flags of a word whose lanes each set one flag or none. -/
theorem plainWord_fl (w n : Nat) (l : W32) (f : Nat → Nat × BitVec 8) (F : BitVec 8) (hF : F ≠ 0) (h : ∀ j, (f j).2 = 0 ∨ (f j).2 = F) :
    ((plainWord w n l f).fl = 0 ∨ (plainWord w n l f).fl = F) ∧ ((plainWord w n l f).fl = F ↔ ∃ j, j < n ∧ (f j).2 = F) := by
  have hfrom (n j : Nat) : let fl := (lanesFrom (fun j l => ⟨(f j).1, (f j).2, l⟩) n j l).2.1
      (fl = 0 ∨ fl = F) ∧ (fl = F ↔ ∃ k, j ≤ k ∧ k < j + n ∧ (f k).2 = F) := by
    induction n generalizing j with
    | zero => exact ⟨.inl rfl, fun e => absurd e.symm hF, fun ⟨k, h1, h2, _⟩ => absurd h1 (by omega)⟩
    | succ n ih =>
      obtain ⟨hor, hex⟩ := ih (j + 1)
      have hstep : (∃ k, j ≤ k ∧ k < j + (n + 1) ∧ (f k).2 = F) ↔ (f j).2 = F ∨ ∃ k, j + 1 ≤ k ∧ k < j + 1 + n ∧ (f k).2 = F := by
        constructor
        · rintro ⟨k, h1, h2, h3⟩
          rcases h1.eq_or_lt with rfl | h1
          · exact .inl h3
          · exact .inr ⟨k, h1, by omega, h3⟩
        · rintro (h3 | ⟨k, h1, h2, h3⟩)
          · exact ⟨j, le_rfl, by omega, h3⟩
          · exact ⟨k, by omega, by omega, h3⟩
      intro fl
      rw [hstep, ← hex]
      have hfl : fl = (f j).2 ||| (lanesFrom (fun j l => ⟨(f j).1, (f j).2, l⟩) n (j + 1) l).2.1 := rfl
      rw [hfl]
      rcases h j with h0 | h0 <;> rcases hor with h1 | h1 <;> rw [h0, h1] <;> simp
  obtain ⟨hor, hex⟩ := hfrom n 0
  exact ⟨hor, hex.trans ⟨fun ⟨k, _, h2, h3⟩ => ⟨k, by omega, h3⟩, fun ⟨k, h2, h3⟩ => ⟨k, by omega, by omega, h3⟩⟩⟩

/-! ### Integer instructions -/

theorem signedOf_eq_bmod {n : Nat} (hn : 1 ≤ n) (c : Nat) : signedOf n c = Int.bmod c (2 ^ n) := by
  obtain ⟨m, rfl⟩ := Nat.exists_eq_add_of_le' hn
  have hp : (2 ^ (m + 1) : Nat) = 2 * 2 ^ m := by ring
  unfold signedOf Int.bmod
  rw [hp]
  generalize (2 ^ m : Nat) = M
  dsimp only
  split_ifs <;> omega

/-- On operands of n bits two functions narrow to the same lane, and clamp together. -/
def NarrowAlike (sat : Bool) (n : Nat) (f v : Nat → Nat → Nat → Int) : Prop :=
  ∀ a b c, a < 2 ^ n → b < 2 ^ n → c < 2 ^ n → narrowed sat n (f a b c) = narrowed sat n (v a b c) ∧ (clips sat n (f a b c) ↔ clips sat n (v a b c))

theorem narrowAlike_of_eq {sat : Bool} {n : Nat} {f v : Nat → Nat → Nat → Int} (h : ∀ a b c, f a b c = v a b c) : NarrowAlike sat n f v :=
  fun a b c _ _ _ => by rw [h]; exact ⟨rfl, Iff.rfl⟩

/-- Without the saturate modifier only the value modulo 2^n counts. -/
theorem narrowAlike_of_wraps {sat : Bool} {n : Nat} {f v : Nat → Nat → Nat → Int} (hsat : sat = false)
    (h : ∀ a b c, a < 2 ^ n → b < 2 ^ n → c < 2 ^ n → f a b c % 2 ^ n = v a b c % 2 ^ n) : NarrowAlike sat n f v := by
  subst hsat
  exact fun a b c ha hb hc => ⟨h a b c ha hb hc, by simp [clips]⟩

theorem widthI_of_le {c : BitVec 3} (h : c.toNat ≤ 2) : widthI c = 32 / 2 ^ c.toNat := by
  unfold widthI
  have hc : c.toNat = 0 ∨ c.toNat = 1 ∨ c.toNat = 2 := by omega
  rcases hc with h | h | h <;> rw [h] <;> rfl

/-- What an integer instruction on lanes of n bits makes of its operands. -/
def integerRes (sat : Bool) (n : Nat) (f : Nat → Nat → Nat → Nat → Int) (a b c : Tok) (l : W32) : LaneRes :=
  (plainWord n (256 / n) l fun j => endInt sat n (f n (lane n a.bits j) (lane n b.bits j) (lane n c.bits j))).with a

theorem integerLanes_of_narrowAlike {sat : Bool} {n : Nat} {f v : Nat → Nat → Nat → Nat → Int} (hn : n * (256 / n) ≤ 256) (h : NarrowAlike sat n (f n) (v n)) (a b c : Tok)
    (l : W32) : let r := integerRes sat n f a b c l
    IntegerLanes sat n (v n) a b c ⟨r.out.bits, r.lr, r.ls, false⟩ r.out.fl := by
  have hj (j : Nat) := h (lane n a.bits j) (lane n b.bits j) (lane n c.bits j) (lane_lt _ _ _) (lane_lt _ _ _) (lane_lt _ _ _)
  obtain ⟨hor, hex⟩ := plainWord_fl n (256 / n) l (fun j => endInt sat n (f n (lane n a.bits j) (lane n b.bits j) (lane n c.bits j))) fSAT (by decide)
    fun j => (endInt_snd sat n _).1
  refine ⟨rfl, rfl, fun j hlt => ?_, hor, hex.trans (exists_congr fun j => and_congr_right fun _ => (endInt_snd sat n _).2.trans (hj j).2)⟩
  rw [integerRes, WordOut.with, lane_plainWord _ _ _ _ _ hn hlt, Nat.mod_eq_of_lt (endInt_fst_lt _ _ _), endInt_fst]
  exact (hj j).1

/-- An integer instruction on the data plane is a lane instruction. -/
theorem State.intOp_data (s : State) (x : ElemSite) (op : Nat) {w : CtxFields} (f : Nat → Nat → Nat → Nat → Int) (hd : w.dw ≠ 17) :
    s.intOp x op w f = s.laneOp x op w 1 (ones3 (oneI (widthI w.fmt))) (integerRes (w.mod.getLsbD 0) (widthI w.fmt) f) := by
  have hctl : CtxOps.ctl w = false := beq_eq_false_iff_ne.mpr hd
  simp only [State.intOp, hctl, Bool.false_eq_true, if_false]
  rfl

theorem integerFlies_of_intOp {i : Instr} {s : State} {x : ElemSite} {w : CtxFields} {op : Nat} {f v : Nat → Nat → Nat → Nat → Int}
    (hx : exec i s = s.intOp x op w f) (hw : w.fmt.toNat ≤ 2) (h : ∀ n, 1 ≤ n → NarrowAlike (w.mod.getLsbD 0) n (f n) (v n)) : IntegerFlies i s x w op v := by
  have hone : 1 ≤ 32 / 2 ^ w.fmt.toNat := (Nat.le_div_iff_mul_le (by positivity)).mpr (by
    calc 1 * 2 ^ w.fmt.toNat ≤ 1 * 2 ^ 2 := Nat.mul_le_mul_left 1 (Nat.pow_le_pow_right (by decide) hw)
      _ ≤ 32 := by decide)
  refine ⟨fun hd => ?_, fun hd => ?_⟩
  · have hlane := hx.trans (s.intOp_data x op f hd)
    rw [widthI_of_le hw] at hlane
    exact laneFlies_of_laneOp hlane (integerLanes_of_narrowAlike (Nat.mul_div_le 256 _) (h _ hone) _ _ _ _)
  · have hctl : CtxOps.ctl w = true := beq_iff_eq.mpr hd
    refine controlFlies_of_ctlOp (hx.trans (by rw [State.intOp]; exact if_pos hctl)) ?_
    intro a b c
    rw [BitVec.toNat_ofNat, Nat.mod_eq_of_lt (endInt_fst_lt _ _ _), endInt_fst]
    exact (h 64 (by decide) _ _ _ a.isLt b.isLt c.isLt).1

/-! ### Shifts and compares without the saturate modifier -/

theorem shl_wraps (n a k : Nat) : (if n ≤ k then 0 else ((a * 2 ^ k : Nat) : Int)) % 2 ^ n = ((a * 2 ^ k : Nat) : Int) % 2 ^ n := by
  split_ifs with h
  · obtain ⟨m, rfl⟩ := Nat.exists_eq_add_of_le h
    rw [Int.zero_emod, Nat.pow_add, Nat.mul_left_comm]
    push_cast
    exact (Int.mul_emod_right _ _).symm
  · rfl

theorem shr_of_lt {n a : Nat} (k : Nat) (ha : a < 2 ^ n) : (if n ≤ k then 0 else ((a / 2 ^ k : Nat) : Int)) = ((a / 2 ^ k : Nat) : Int) := by
  split_ifs with h
  · rw [Nat.div_eq_of_lt (ha.trans_le (Nat.pow_le_pow_right (by decide) h))]
    rfl
  · rfl

/-- A shift right by n − 1 or more leaves the sign alone. -/
theorem sra_min {n : Nat} (hn : 1 ≤ n) (a k : Nat) : signedOf n a / ((2 ^ min k (n - 1) : Nat) : Int) = signedOf n a / ((2 ^ k : Nat) : Int) := by
  rcases le_total k (n - 1) with h | h
  · rw [min_eq_left h]
  · obtain ⟨m, rfl⟩ := Nat.exists_eq_add_of_le' hn
    have ha : a % 2 ^ (m + 1) < 2 ^ (m + 1) := Nat.mod_lt _ (by positivity)
    have hlow : (2 ^ m : Nat) ≤ 2 ^ k := Nat.pow_le_pow_right (by decide) h
    have hp : (2 ^ (m + 1) : Nat) = 2 * 2 ^ m := by ring
    have hs : -((2 ^ m : Nat) : Int) ≤ signedOf (m + 1) a ∧ signedOf (m + 1) a < ((2 ^ m : Nat) : Int) := by
      unfold signedOf
      extract_lets r
      change r < _ at ha
      rw [hp] at *
      split_ifs <;> omega
    rw [min_eq_right h, Nat.add_sub_cancel]
    generalize signedOf (m + 1) a = v at hs
    generalize (2 ^ k : Nat) = K at hlow
    have hM : 0 < (2 ^ m : Nat) := by positivity
    generalize (2 ^ m : Nat) = M at *
    rcases lt_or_ge v 0 with hv | hv
    · rw [Int.ediv_eq_neg_one_of_neg_of_le hv (by omega), Int.ediv_eq_neg_one_of_neg_of_le hv (by omega)]
    · rw [Int.ediv_eq_zero_of_lt hv (by omega), Int.ediv_eq_zero_of_lt hv (by omega)]

theorem signedOf_inj {n a b : Nat} (ha : a < 2 ^ n) (hb : b < 2 ^ n) : signedOf n a = signedOf n b ↔ a = b := by
  refine ⟨fun h => ?_, congrArg _⟩
  unfold signedOf at h
  rw [Nat.mod_eq_of_lt ha, Nat.mod_eq_of_lt hb] at h
  dsimp only at h
  split_ifs at h <;> omega

theorem allOnes_wraps (n : Nat) (b : Bool) : (if b = true then ((2 ^ n - 1 : Nat) : Int) else 0) % 2 ^ n = (if b = true then -1 else 0) % 2 ^ n := by
  cases b
  · rfl
  · have h : (((2 ^ n - 1 : Nat) : Int)) = -1 + 2 ^ n := by
      rw [Nat.cast_sub Nat.one_le_two_pow]
      push_cast
      ring
    rw [if_pos rfl, if_pos rfl, h, Int.add_emod_right]

theorem natAbs_signed (v : Int) : (v.natAbs : Int) = if v < 0 then -v else v := by
  split_ifs <;> omega

/-! ### The group -/

section
variable (s : State) (x : ElemSite) (w : CtxFields)
theorem iadd_exec : exec (.iadd x w) s = s.intOp x 0x01 w fun n a b _ => signedOf n a + signedOf n b := rfl
theorem isub_exec : exec (.isub x w) s = s.intOp x 0x02 w fun n a b _ => signedOf n a - signedOf n b := rfl
theorem imul_exec : exec (.imul x w) s = s.intOp x 0x03 w fun n a b _ => signedOf n a * signedOf n b := rfl
theorem imad_exec : exec (.imad x w) s = s.intOp x 0x04 w fun n a b c => signedOf n a * signedOf n b + signedOf n c := rfl
theorem iabs_exec : exec (.iabs x w) s = s.intOp x 0x07 w fun n a _ _ => ((signedOf n a).natAbs : Int) := rfl
theorem imin_exec : exec (.imin x w) s = s.intOp x 0x05 w fun n a b _ => min (signedOf n a) (signedOf n b) := rfl
theorem imax_exec : exec (.imax x w) s = s.intOp x 0x06 w fun n a b _ => max (signedOf n a) (signedOf n b) := rfl
theorem elemAnd_exec : exec (.elemAnd x w) s = s.intOp x 0x08 w fun _ a b _ => ((a &&& b : Nat) : Int) := rfl
theorem elemOr_exec : exec (.elemOr x w) s = s.intOp x 0x09 w fun _ a b _ => ((a ||| b : Nat) : Int) := rfl
theorem elemXor_exec : exec (.elemXor x w) s = s.intOp x 0x0A w fun _ a b _ => ((a ^^^ b : Nat) : Int) := rfl
theorem elemShl_exec : exec (.elemShl x w) s = s.intOp x 0x0B w fun n a b _ => if n ≤ b % 256 then 0 else ((a * 2 ^ (b % 256) : Nat) : Int) := rfl
theorem elemShr_exec : exec (.elemShr x w) s = s.intOp x 0x0C w fun n a b _ => if n ≤ b % 256 then 0 else ((a / 2 ^ (b % 256) : Nat) : Int) := rfl
theorem sra_exec : exec (.sra x w) s = s.intOp x 0x0D w fun n a b _ => signedOf n a / ((2 ^ min (b % 256) (n - 1) : Nat) : Int) := rfl
theorem icmp_exec : exec (.icmp x w) s = s.intOp x 0x0E w fun n a b _ => if intCond (CtxOps.xa w) n a b then ((2 ^ n - 1 : Nat) : Int) else 0 := rfl
theorem sel_exec : exec (.sel x w) s = s.intOp x 0x0F w fun _ a b c => if c ≠ 0 then (a : Int) else (b : Int) := rfl
end

/-- Settles O34: each instruction of the group is `intOp` of a function that narrows as the exact value does. -/
theorem laneInteger : Obligations.LaneInteger := by
  unfold Obligations.LaneInteger
  intro s x w hw sg
  have hsg (n : Nat) (hn : 1 ≤ n) (v : Nat) : signedOf n v = sg n v := signedOf_eq_bmod hn v
  have flies {i : Instr} {op : Nat} {f v : Nat → Nat → Nat → Nat → Int} (hx : exec i s = s.intOp x op w f) (h : ∀ n, 1 ≤ n → ∀ a b c, f n a b c = v n a b c) :
      IntegerFlies i s x w op v := integerFlies_of_intOp hx hw fun n hn => narrowAlike_of_eq (h n hn)
  have wraps {i : Instr} {op : Nat} {f v : Nat → Nat → Nat → Nat → Int} (hsat : w.mod.getLsbD 0 = false) (hx : exec i s = s.intOp x op w f)
      (h : ∀ n, 1 ≤ n → ∀ a b c, a < 2 ^ n → b < 2 ^ n → c < 2 ^ n → f n a b c % 2 ^ n = v n a b c % 2 ^ n) : IntegerFlies i s x w op v :=
    integerFlies_of_intOp hx hw fun n hn => narrowAlike_of_wraps hsat (h n hn)
  refine ⟨flies (iadd_exec s x w) fun n hn a b _ => ?_, flies (isub_exec s x w) fun n hn a b _ => ?_, flies (imul_exec s x w) fun n hn a b _ => ?_,
    flies (imad_exec s x w) fun n hn a b c => ?_, flies (iabs_exec s x w) fun n hn a _ _ => ?_, fun hsat => ⟨flies (imin_exec s x w) fun n hn a b _ => ?_,
    flies (imax_exec s x w) fun n hn a b _ => ?_, flies (elemAnd_exec s x w) fun _ _ _ _ _ => rfl, flies (elemOr_exec s x w) fun _ _ _ _ _ => rfl,
    flies (elemXor_exec s x w) fun _ _ _ _ _ => rfl, wraps hsat (elemShl_exec s x w) fun n _ a b _ _ _ _ => shl_wraps n a _,
    wraps hsat (elemShr_exec s x w) fun n _ a b _ ha _ _ => congrArg (· % (2 ^ n : Int)) (shr_of_lt _ ha),
    flies (sra_exec s x w) fun n hn a b _ => (sra_min hn a _).trans (by rw [hsg n hn]),
    wraps hsat (icmp_exec s x w) fun n hn a b _ ha hb _ => (allOnes_wraps n _).trans ?_, flies (sel_exec s x w) fun _ _ _ _ _ => rfl⟩⟩
  · rw [hsg n hn, hsg n hn]
  · rw [hsg n hn, hsg n hn]
  · rw [hsg n hn, hsg n hn]
  · rw [hsg n hn, hsg n hn, hsg n hn]
  · rw [natAbs_signed, hsg n hn]
  · rw [hsg n hn, hsg n hn]
  · rw [hsg n hn, hsg n hn]
  · simp only [intCond, signedOf_inj ha hb, ne_eq]
    simp only [hsg n hn, CtxOps.xa_eq] <;> rfl

end Sys2Proof.Machine
end

section
/-! Conversions, routes and reductions (O36): lanes, and the order of lmax. -/
namespace Sys2Proof.Machine

/-! ### Lanes -/

theorem lane_splat (w v j : Nat) (hj : j < 256 / w) : lane w (splat w v) j = v % 2 ^ w := by
  rw [splat, lane_packLanes _ _ _ (by rw [List.length_replicate]; exact Nat.mul_div_le 256 w), List.getElem?_replicate, if_pos hj]
  rfl

/-- The generator before lane j, when it was l before lane 0 (R45, R47). -/
def generatorAt (f : Nat → W32 → LaneOut) (l : W32) : Nat → W32
  | 0 => l
  | j + 1 => (f j (generatorAt f l j)).lfsr

theorem lanesFrom_eq (f : Nat → W32 → LaneOut) (l : W32) (n j : Nat) :
    (lanesFrom f n j (generatorAt f l j)).1 = (List.range' j n).map fun i => (f i (generatorAt f l i)).v := by
  induction n generalizing j with
  | zero => rfl
  | succ n ih => exact congrArg (List.cons _) (ih (j + 1))

/-- The lanes of a word are drawn in order (R47, R108). -/
theorem drawsLanes_lanesWord {w n : Nat} (l : W32) (f : Nat → W32 → LaneOut) (hn : w * n ≤ 256) : DrawsLanes l w n (lanesWord w n l f).bits f := by
  refine ⟨generatorAt f l, rfl, fun j hj => ⟨?_, rfl⟩⟩
  have hbits : (lanesWord w n l f).bits = packLanes w ((List.range' 0 n).map fun i => (f i (generatorAt f l i)).v) := congrArg (packLanes w) (lanesFrom_eq f l n 0)
  rw [hbits, lane_packLanes _ _ _ (by simpa using hn)]
  simp [hj]

/-! ### The order of lmax (R118, R134) -/

/-- The place of a value that is no NaN: infinities outside, then by value, −0 below +0. -/
def orderKey : XVal → ℤ ×ₗ ℚ ×ₗ ℕ
  | .nan => toLex (0, toLex (0, 0))
  | .inf s => toLex (if s then -1 else 1, toLex (0, 0))
  | .fin s m e => toLex (0, toLex ((if s then -1 else 1) * m * 2 ^ e, if s = true ∧ m = 0 then 0 else 1))

theorem scaled_signed (s : Bool) (m : Nat) {e g : Int} (h : g ≤ e) : (XVal.scaled s m e g : ℚ) * 2 ^ g = (if s then -1 else 1) * m * 2 ^ e := by
  have hpos := scaled_eq m h
  have hneg : XVal.scaled true m e g = -XVal.scaled false m e g := rfl
  cases s
  · simpa using hpos
  · rw [hneg]
    push_cast
    simp [← hpos]

theorem cmp_fin_neg (s t : Bool) (m n : Nat) (e f : Int) :
    XVal.cmp (.fin s m e) (.fin t n f) < 0 ↔ ((if s then -1 else 1) * m * 2 ^ e : ℚ) < (if t then -1 else 1) * n * 2 ^ f := by
  have hpos : (0 : ℚ) < 2 ^ min e f := by positivity
  rw [← scaled_signed s m (min_le_left e f), ← scaled_signed t n (min_le_right e f), mul_lt_mul_iff_left₀ hpos, Int.cast_lt]
  simp only [XVal.cmp]
  split_ifs <;> omega

theorem isZero_fin (s : Bool) (m : Nat) (e : Int) : (XVal.fin s m e).isZero = true ↔ m = 0 := by
  cases m <;> simp [XVal.isZero]

theorem isZero_iff (a : XVal) : a.isZero = true ↔ ∃ s e, a = .fin s 0 e := by
  cases a with
  | nan | inf => exact ⟨nofun, nofun⟩
  | fin s m e => simp [isZero_fin]

theorem ranksBelow_iff {a b : XVal} (ha : a.isNan = false) (hb : b.isNan = false) : RanksBelow a b ↔ orderKey a < orderKey b := by
  cases a with
  | nan => exact nomatch ha
  | inf s => cases b with
    | nan => exact nomatch hb
    | inf t => cases s <;> cases t <;> simp [RanksBelow, orderKey, XVal.cmp, XVal.isZero, Prod.Lex.toLex_lt_toLex]
    | fin t n f => cases s <;> simp [RanksBelow, orderKey, XVal.cmp, XVal.isZero, Prod.Lex.toLex_lt_toLex]
  | fin s m e => cases b with
    | nan => exact nomatch hb
    | inf t => cases t <;> simp [RanksBelow, orderKey, XVal.cmp, XVal.isZero, Prod.Lex.toLex_lt_toLex]
    | fin t n f =>
      rw [RanksBelow, cmp_fin_neg, isZero_fin, isZero_fin]
      simp only [orderKey, Prod.Lex.toLex_lt_toLex, lt_irrefl, false_or, true_and, XVal.sign]
      refine or_congr Iff.rfl ?_
      by_cases h0 : m = 0
      · by_cases h1 : n = 0
        · cases s <;> cases t <;> simp [h0, h1]
        · cases s <;> cases t <;> simp [h0, h1, zpow_ne_zero]
      · cases s <;> cases t <;> simp [h0] <;> split_ifs <;> simp

theorem rankCmp_neg (a b : XVal) : rankCmp a b < 0 ↔ RanksBelow a b := by
  have hzero : a.isZero = true → b.isZero = true → XVal.cmp a b = 0 := by
    intro ha hb
    obtain ⟨t, e, rfl⟩ := (isZero_iff a).mp ha
    obtain ⟨u, f, rfl⟩ := (isZero_iff b).mp hb
    simp [XVal.cmp, XVal.scaled]
  unfold rankCmp RanksBelow
  extract_lets c
  by_cases hz : a.isZero = true ∧ b.isZero = true
  · have hc : c = 0 := hzero hz.1 hz.2
    have hc' : XVal.cmp a b = 0 := hc
    rw [hc, hc', hz.1, hz.2]
    cases a.sign <;> cases b.sign <;> decide
  · have hne : ¬ (decide (c = 0) && a.isZero && b.isZero) = true := fun h => hz (by simp only [Bool.and_eq_true] at h; exact ⟨h.1.2, h.2⟩)
    rw [if_neg hne]
    exact ⟨.inl, fun h => h.elim id fun h => absurd ⟨h.1, h.2.1⟩ hz⟩

/-! ### Folds of lmax -/

/-- A search that keeps the larger of two codes ends with the largest of v 0 to v n. -/
theorem foldl_largest {κ : Type} [LinearOrder κ] (key : Nat → κ) (P : Nat → Prop) (step : Nat → Nat → Nat) (v : Nat → Nat) (n : Nat)
    (hstep : ∀ m c, P m → P c → step m c = if key m < key c then c else m) (hv : ∀ j, j < n + 1 → P (v j)) :
    let r := (List.range n).foldl (fun m j => step m (v (j + 1))) (v 0)
    (∃ j, j < n + 1 ∧ r = v j) ∧ ∀ j, j < n + 1 → key (v j) ≤ key r := by
  induction n with
  | zero =>
    refine ⟨⟨0, by omega, rfl⟩, fun j hj => ?_⟩
    obtain rfl : j = 0 := by omega
    exact le_rfl
  | succ n ih =>
    obtain ⟨⟨i, hi, hr⟩, hmax⟩ := ih fun j hj => hv j (by omega)
    rw [List.range_succ, List.foldl_append, List.foldl_cons, List.foldl_nil]
    generalize (List.range n).foldl (fun m j => step m (v (j + 1))) (v 0) = r at *
    rw [hstep r (v (n + 1)) (hr ▸ hv i (by omega)) (hv (n + 1) (by omega))]
    dsimp only
    split_ifs with hlt
    · refine ⟨⟨n + 1, by omega, rfl⟩, fun j hj => ?_⟩
      rcases Nat.lt_succ_iff_lt_or_eq.mp hj with h | rfl
      · exact (hmax j h).trans hlt.le
      · exact le_rfl
    · refine ⟨⟨i, by omega, hr⟩, fun j hj => ?_⟩
      rcases Nat.lt_succ_iff_lt_or_eq.mp hj with h | rfl
      · exact hmax j h
      · exact not_lt.mp hlt

theorem maxCodeOf_of_not_nan {m c : Nat} (hm : (fp32.exact m).isNan = false) (hc : (fp32.exact c).isNan = false) :
    maxCodeOf fp32 m c = if orderKey (fp32.exact m) < orderKey (fp32.exact c) then c else m := by
  simp only [maxCodeOf, hm, hc, Bool.or_self, Bool.false_eq_true, if_false, rankCmp_neg, ranksBelow_iff hm hc]

theorem maxCodeOf_of_nan {m c : Nat} (h : (fp32.exact m).isNan = true ∨ (fp32.exact c).isNan = true) : maxCodeOf fp32 m c = 0x7FC00000 := by
  have hor : ((fp32.exact m).isNan || (fp32.exact c).isNan) = true := by simpa using h
  simp only [maxCodeOf, hor, if_true]
  rfl

/-- A NaN among the codes makes the search end with one. -/
theorem foldl_maxCodeOf_nan (v : Nat → Nat) (n : Nat) (h : ∃ j, j < n + 1 ∧ (fp32.exact (v j)).isNan = true) :
    (fp32.exact ((List.range n).foldl (fun m j => maxCodeOf fp32 m (v (j + 1))) (v 0))).isNan = true := by
  induction n with
  | zero =>
    obtain ⟨j, hj, hn⟩ := h
    obtain rfl : j = 0 := by omega
    exact hn
  | succ n ih =>
    obtain ⟨j, hj, hn⟩ := h
    rw [List.range_succ, List.foldl_append, List.foldl_cons, List.foldl_nil]
    have hor : (fp32.exact ((List.range n).foldl (fun m j => maxCodeOf fp32 m (v (j + 1))) (v 0))).isNan = true ∨ (fp32.exact (v (n + 1))).isNan = true := by
      rcases Nat.lt_succ_iff_lt_or_eq.mp hj with h | rfl
      · exact .inl (ih ⟨j, h, hn⟩)
      · exact .inr hn
    rw [maxCodeOf_of_nan hor]
    decide

end Sys2Proof.Machine
end

section
/-! Conversions, routes and reductions (O36): the instructions. -/
namespace Sys2Proof.Machine

/-! ### Integer lanes -/

theorem signedOf_wrapInt {n : Nat} (hn : 1 ≤ n) {v : Int} (hlo : -(2 ^ (n - 1)) ≤ v) (hhi : v ≤ 2 ^ (n - 1) - 1) : signedOf n (wrapInt n v) = v := by
  obtain ⟨m, rfl⟩ := Nat.exists_eq_add_of_le' hn
  have hp : ((2 ^ (m + 1) : Nat) : Int) = 2 * 2 ^ m := by push_cast; ring
  rw [Nat.add_sub_cancel] at hlo hhi
  rw [signedOf_eq_bmod hn, wrapInt_cast, show ((2 : Int) ^ (m + 1)) = ((2 ^ (m + 1) : Nat) : Int) by push_cast; rfl, Int.emod_bmod]
  exact Int.bmod_eq_of_le (by omega) (by omega)

/-- A value clamped to the range of INT32 (R42). -/
def clamp32 (v : Int) : Int := max (-(2 ^ 31)) (min (2 ^ 31 - 1) v)

theorem sumStepInt_fst (p q : Nat × BitVec 8) : (sumStepInt p q).1 = wrapInt 32 (clamp32 (signedOf 32 p.1 + signedOf 32 q.1)) :=
  congrArg (wrapInt 32) (clampInt_fst 32 _)

theorem signedOf_sumStepInt (p q : Nat × BitVec 8) : signedOf 32 (sumStepInt p q).1 = clamp32 (signedOf 32 p.1 + signedOf 32 q.1) := by
  rw [sumStepInt_fst]
  refine signedOf_wrapInt (by decide) ?_ ?_ <;> unfold clamp32 <;> omega

theorem clamp4_fst (v : Int) : (clampInt 4 v).1 = max (-8) (min 7 v) := clampInt_fst 4 v
theorem clamp16_fst (v : Int) : (clampInt 16 v).1 = max (-32768) (min 32767 v) := clampInt_fst 16 v
theorem signedOf_byte (c : Nat) : signedOf 8 c = Int.bmod c 256 := signedOf_eq_bmod (by decide) c

theorem digitCode_lt (d : Int) : digitCode d < 2 ^ 2 := by
  unfold digitCode
  split_ifs <;> decide

theorem toNat_ofNat_lane {w : Nat} (hw : w ≤ 256) {v : Nat} (hv : v < 2 ^ w) : (BitVec.ofNat 256 v).toNat = v := by
  rw [BitVec.toNat_ofNat, Nat.mod_eq_of_lt (hv.trans_le (Nat.pow_le_pow_right (by decide) hw))]

theorem width_mul_le (w : Nat) : w * (256 / w) ≤ 256 := Nat.mul_div_le 256 w

section
variable {i : Instr} {s : State} {x : ElemSite} {w : CtxFields} {op lat wd n : Nat} {ones : W256 × W256 × W256} {p : Tok → Tok → Tok → Tok → BitVec 8 → Prop}
  {lr ls : Tok → Tok → Tok → Bool}

/-- An instruction whose lanes draw no bits starts a word of those lanes. -/
theorem laneFlies_of_plainWord {g : Tok → Tok → Tok → Nat → Nat × BitVec 8}
    (hx : exec i s = s.laneOp x op w lat ones fun a b c l => ⟨plainWord wd n l (g a b c), lr a b c, ls a b c⟩) (hn : wd * n ≤ 256)
    (hp : ∀ r fl, let a := s.source x w ones.1 w.srcA
      let b := s.source x w ones.2.1 w.srcB
      let c := s.source x w ones.2.2 w.srcC
      r.lr = lr a b c → r.ls = ls a b c → (∀ j, j < n → lane wd r.bits j = (g a b c j).1 % 2 ^ wd) → p a b c r fl) : LaneFlies i s x w op lat ones p :=
  laneFlies_of_laneOp hx (hp _ _ rfl rfl fun j hj => lane_plainWord wd n _ _ j hn hj)

/-- An instruction whose lanes draw bits starts a word of those lanes, drawn from the element's generator. -/
theorem laneFlies_of_lanesWord {g : Tok → Tok → Tok → Nat → W32 → LaneOut}
    (hx : exec i s = s.laneOp x op w lat ones fun a b c l => ⟨lanesWord wd n l (g a b c), lr a b c, ls a b c⟩) (hn : wd * n ≤ 256)
    (hp : ∀ r fl, let a := s.source x w ones.1 w.srcA
      let b := s.source x w ones.2.1 w.srcB
      let c := s.source x w ones.2.2 w.srcC
      r.lr = lr a b c → r.ls = ls a b c → DrawsLanes (s.elem x.cp x.elem).lfsr wd n r.bits (g a b c) → p a b c r fl) : LaneFlies i s x w op lat ones p :=
  laneFlies_of_laneOp hx (hp _ _ rfl rfl (drawsLanes_lanesWord _ _ hn))

end

section
variable (s : State) (x : ElemSite) (w : CtxFields)

/-! ### Routes (R128 to R132) -/

theorem elemNop_issues (h : Issues s x 0x00 w) : Completes (.elemNop x w) s fun t => SameBytes s t ∧ (t.elem x.cp x.elem).flight = (s.elem x.cp x.elem).flight := by
  refine ⟨_, State.issueCtx_issues (s := s) (x := x) (w := w) id h, sameBytes_of ?_ ?_, ?_⟩
  · rw [State.consumeTaps_mem, id, State.noteGuard_mem]
  · rw [State.dies_consumeTaps, id, State.dies_noteGuard]
  · rw [State.flight_consumeTaps, id, State.elem_noteGuard]

theorem mov_exec_data (h : w.dw ≠ 17) : exec (.mov x w) s = s.laneOp x 0x40 w 1 (ones3 (oneI 32)) fun a _ _ l => (WordOut.mk a.bits 0 l).with a :=
  if_neg (by rw [CtxOps.ctl, beq_iff_eq]; exact h)

theorem mov_exec_control (h : w.dw = 17) : exec (.mov x w) s = s.ctlOp x 0x40 w 1 fun a _ _ => (a, 0) :=
  if_pos (by rw [CtxOps.ctl, beq_iff_eq]; exact h)

theorem rep_exec : exec (.rep x w) s = s.laneOp x 0x41 w 1 (ones3 0) fun a _ _ l =>
    ⟨⟨splat (widthLf (CtxOps.xa w % 16)) (a.bits.toNat % 2 ^ widthLf (CtxOps.xa w % 16)), 0, l⟩, false, false⟩ := rfl

theorem rep_flies : LaneFlies (.rep x w) s x w 0x41 1 (0, 0, 0) fun a _ _ r _ => r.lr = false ∧ r.ls = false ∧
    ∀ j, j < 256 / widthLf (CtxOps.xa w % 16) → lane (widthLf (CtxOps.xa w % 16)) r.bits j = a.bits.toNat % 2 ^ widthLf (CtxOps.xa w % 16) :=
  laneFlies_of_laneOp (rep_exec s x w) ⟨rfl, rfl, fun _ hj => (lane_splat _ _ _ hj).trans (Nat.mod_mod _ _)⟩

/-- The byte that perm routes to a place by its index byte (R131). -/
def permByte (a b : W256) (k : Nat) : Nat := if 128 ≤ k then 0 else if k % 64 < 32 then lane 8 a (k % 64) else lane 8 b (k % 64 - 32)

theorem permByte_lt (a b : W256) (k : Nat) : permByte a b k < 2 ^ 8 := by
  unfold permByte
  split_ifs
  · decide
  · exact lane_lt _ _ _
  · exact lane_lt _ _ _

theorem perm_exec : exec (.perm x w) s = s.laneOp x 0x42 w 1 (ones3 (oneI 32)) fun a b _ l =>
    ⟨plainWord 8 32 l fun i => (permByte a.bits b.bits (lane 8 (((s.siteElem x).on.imt[CtxOps.ix w]?).getD 0) i), 0), a.lr, a.ls⟩ := rfl

theorem perm_flies : LaneFlies (.perm x w) s x w 0x42 1 (oneI 32, oneI 32, oneI 32) fun a b _ r _ => r.lr = a.lr ∧ r.ls = a.ls ∧
    ∀ i, i < 32 → lane 8 r.bits i = permByte a.bits b.bits (lane 8 (((s.elem x.cp x.elem).on.imt[CtxOps.ix w]?).getD 0) i) :=
  laneFlies_of_plainWord (perm_exec s x w) (by decide) fun _ _ hlr hls hl => ⟨hlr, hls, fun i hi => (hl i hi).trans (Nat.mod_eq_of_lt (permByte_lt _ _ _))⟩

theorem pack_exec : exec (.pack x w) s = s.laneOp x 0x43 w 1 (ones3 (oneI (widthP w.fmt))) fun a b _ l =>
    ⟨plainWord (widthP w.fmt) (256 / widthP w.fmt) l fun i =>
      (if i < 256 / widthP w.fmt / 2 then lane (widthP w.fmt) a.bits (2 * i + CtxOps.xa w % 2)
        else lane (widthP w.fmt) b.bits (2 * (i - 256 / widthP w.fmt / 2) + CtxOps.xa w % 2), 0), a.lr, a.ls⟩ := rfl

theorem pack_flies : let wp := widthP w.fmt
    LaneFlies (.pack x w) s x w 0x43 1 (oneI wp, oneI wp, oneI wp) fun a b _ r _ => r.lr = a.lr ∧ r.ls = a.ls ∧ ∀ i, i < 256 / wp →
      lane wp r.bits i = if i < 256 / wp / 2 then lane wp a.bits (2 * i + CtxOps.xa w % 2) else lane wp b.bits (2 * (i - 256 / wp / 2) + CtxOps.xa w % 2) := by
  intro wp
  refine laneFlies_of_plainWord (pack_exec s x w) (width_mul_le _) fun _ _ hlr hls hl => ⟨hlr, hls, fun j hj => (hl j hj).trans (Nat.mod_eq_of_lt ?_)⟩
  dsimp only
  split_ifs <;> exact lane_lt _ _ _

theorem unpk_exec : exec (.unpk x w) s = s.laneOp x 0x44 w 1 (ones3 (oneI (widthP w.fmt))) fun a b _ l =>
    ⟨plainWord (widthP w.fmt) (256 / widthP w.fmt) l fun i =>
      (if i % 2 = 0 then lane (widthP w.fmt) a.bits (CtxOps.xa w % 2 * (256 / widthP w.fmt / 2) + i / 2)
        else lane (widthP w.fmt) b.bits (CtxOps.xa w % 2 * (256 / widthP w.fmt / 2) + i / 2), 0), a.lr, a.ls⟩ := rfl

theorem unpk_flies : let wp := widthP w.fmt
    LaneFlies (.unpk x w) s x w 0x44 1 (oneI wp, oneI wp, oneI wp) fun a b _ r _ => r.lr = a.lr ∧ r.ls = a.ls ∧ ∀ i, i < 256 / wp →
      lane wp r.bits i = lane wp (if i % 2 = 0 then a.bits else b.bits) (CtxOps.xa w % 2 * (256 / wp / 2) + i / 2) := by
  intro wp
  refine laneFlies_of_plainWord (unpk_exec s x w) (width_mul_le _) fun _ _ hlr hls hl => ⟨hlr, hls, fun i hi => ?_⟩
  rw [hl i hi, apply_ite (fun b => lane wp b _)]
  refine Nat.mod_eq_of_lt ?_
  dsimp only
  split_ifs <;> exact lane_lt _ _ _

/-! ### Reductions (R133, R134) -/

theorem lsum_exec_int (h : w.fmt ≠ 0) : exec (.lsum x w) s = s.laneOp x 0x45 w 2 (ones3 (oneI 32)) fun a _ _ l =>
    (WordOut.mk (BitVec.ofNat 256 (sumTree sumStepInt (lane 32 a.bits)).1) (sumTree sumStepInt (lane 32 a.bits)).2 l).with a := by
  change execLsum x w s = _
  simp only [execLsum, oneE, if_neg h]

theorem lsum_exec_float (h : w.fmt = 0) : exec (.lsum x w) s = s.laneOp x 0x45 w 5 (ones3 (oneF fp32)) fun a _ _ l =>
    (WordOut.mk (BitVec.ofNat 256 (sumTree sumStep (lane 32 a.bits)).1) (sumTree sumStep (lane 32 a.bits)).2 l).with a := by
  change execLsum x w s = _
  simp only [execLsum, oneE, if_pos h]

/-- The fixed tree of lsum on INT32 lanes (R133). -/
def intTree (v : Nat → Int) : Int := clamp32 (clamp32 (clamp32 (v 0 + v 1) + clamp32 (v 2 + v 3)) + clamp32 (clamp32 (v 4 + v 5) + clamp32 (v 6 + v 7)))

theorem lsum_flies_int (h : w.fmt ≠ 0) : LaneFlies (.lsum x w) s x w 0x45 2 (oneI 32, oneI 32, oneI 32) fun a _ _ r _ => r.lr = a.lr ∧ r.ls = a.ls ∧
    r.bits.toNat < 2 ^ 32 ∧ (r.bits.toNat : Int) = intTree (fun i => Int.bmod (lane 32 a.bits i) (2 ^ 32)) % 2 ^ 32 := by
  refine laneFlies_of_laneOp (lsum_exec_int s x w h) ?_
  intro a _ _ r
  have htree : (sumTree sumStepInt (lane 32 a.bits)).1 = wrapInt 32 (intTree fun i => Int.bmod (lane 32 a.bits i) (2 ^ 32)) := by
    rw [sumTree, sumStepInt_fst]
    simp only [signedOf_sumStepInt]
    simp only [signedOf_eq_bmod (show 1 ≤ 32 by decide), intTree]
  have hr : r.out.bits.toNat = wrapInt 32 (intTree fun i => Int.bmod (lane 32 a.bits i) (2 ^ 32)) :=
    (congrArg (fun v => (BitVec.ofNat 256 v).toNat) htree).trans (toNat_ofNat_lane (w := 32) (by decide) (wrapInt_lt 32 _))
  refine ⟨rfl, rfl, ?_, ?_⟩
  · rw [hr]
    exact wrapInt_lt 32 _
  · rw [hr, wrapInt_cast]

/-- A node of the tree of lsum on FP32 codes: the sum, rounded once (R117, R133). -/
def floatSum (p q : Nat) : Nat := (fp32.deliver .rne false 0 (XVal.sumExact false [fp32.exact p, fp32.exact q]) false).v

theorem lsum_flies_float (h : w.fmt = 0) : LaneFlies (.lsum x w) s x w 0x45 5 (oneF fp32, oneF fp32, oneF fp32) fun a _ _ r _ => r.lr = a.lr ∧ r.ls = a.ls ∧
    let v (i : Nat) : Nat := lane 32 a.bits i
    r.bits.toNat = floatSum (floatSum (floatSum (v 0) (v 1)) (floatSum (v 2) (v 3))) (floatSum (floatSum (v 4) (v 5)) (floatSum (v 6) (v 7))) % 2 ^ 256 :=
  laneFlies_of_laneOp (lsum_exec_float s x w h) ⟨rfl, rfl, BitVec.toNat_ofNat _ _⟩

/-- The search of lmax over the eight lanes of a word. -/
def lmaxFold (step : Nat → Nat → Nat) (a : W256) : Nat := (List.range 7).foldl (fun m j => step m (lane 32 a (j + 1))) (lane 32 a 0)

/-- The step of lmax on INT32 lanes. -/
def maxInt32 (m c : Nat) : Nat := if signedOf 32 m < signedOf 32 c then c else m

theorem lmax_exec_int (h : w.fmt ≠ 0) : exec (.lmax x w) s = s.laneOp x 0x46 w 2 (ones3 (oneI 32)) fun a _ _ l =>
    (WordOut.mk (BitVec.ofNat 256 (lmaxFold maxInt32 a.bits)) 0 l).with a := by
  change execLmax x w s = _
  simp only [execLmax, oneE, if_neg h]
  rfl

theorem lmax_exec_float (h : w.fmt = 0) : exec (.lmax x w) s = s.laneOp x 0x46 w 2 (ones3 (oneF fp32)) fun a _ _ l =>
    (WordOut.mk (BitVec.ofNat 256 (maxCodeOf fp32 (lmaxFold (maxCodeOf fp32) a.bits) (lmaxFold (maxCodeOf fp32) a.bits))) 0 l).with a := by
  change execLmax x w s = _
  simp only [execLmax, oneE, if_pos h]
  rfl

theorem lmax_flies_int (h : w.fmt ≠ 0) : LaneFlies (.lmax x w) s x w 0x46 2 (oneI 32, oneI 32, oneI 32) fun a _ _ r _ => r.lr = a.lr ∧ r.ls = a.ls ∧
    (∃ j, j < 8 ∧ r.bits.toNat = lane 32 a.bits j) ∧ ∀ j, j < 8 → Int.bmod (lane 32 a.bits j) (2 ^ 32) ≤ Int.bmod r.bits.toNat (2 ^ 32) := by
  refine laneFlies_of_laneOp (lmax_exec_int s x w h) ?_
  intro a _ _ r
  obtain ⟨⟨i, hi, heq⟩, hmax⟩ := foldl_largest (signedOf 32) (fun _ => True) maxInt32 (lane 32 a.bits) 7 (fun _ _ _ _ => rfl) fun _ _ => trivial
  have hr : r.out.bits.toNat = lmaxFold maxInt32 a.bits := toNat_ofNat_lane (w := 32) (by decide) (heq.trans_lt (lane_lt _ _ _))
  refine ⟨rfl, rfl, ⟨i, hi, hr.trans heq⟩, fun j hj => ?_⟩
  have hm := hmax j hj
  rw [signedOf_eq_bmod (by decide), signedOf_eq_bmod (by decide)] at hm
  rw [hr]
  exact hm

theorem lmax_flies_float (h : w.fmt = 0) (hnan : ∀ j, j < 8 → (fp32.exact (lane 32 (s.source x w (oneF fp32) w.srcA).bits j)).isNan = false) :
    LaneFlies (.lmax x w) s x w 0x46 2 (oneF fp32, oneF fp32, oneF fp32) fun a _ _ r _ => r.lr = a.lr ∧ r.ls = a.ls ∧
      (∃ j, j < 8 ∧ r.bits.toNat = lane 32 a.bits j) ∧ ∀ j, j < 8 → ¬ RanksBelow (fp32.exact r.bits.toNat) (fp32.exact (lane 32 a.bits j)) := by
  refine laneFlies_of_laneOp (lmax_exec_float s x w h) ?_
  intro a _ _ r
  obtain ⟨⟨i, hi, heq⟩, hmax⟩ := foldl_largest (fun c => orderKey (fp32.exact c)) (fun c => (fp32.exact c).isNan = false) (maxCodeOf fp32) (lane 32 a.bits) 7
    (fun _ _ => maxCodeOf_of_not_nan) hnan
  change lmaxFold (maxCodeOf fp32) a.bits = _ at heq
  have hself : maxCodeOf fp32 (lmaxFold (maxCodeOf fp32) a.bits) (lmaxFold (maxCodeOf fp32) a.bits) = lmaxFold (maxCodeOf fp32) a.bits := by
    rw [heq, maxCodeOf_of_not_nan (hnan i hi) (hnan i hi), if_neg (lt_irrefl _)]
  have hr : r.out.bits.toNat = lmaxFold (maxCodeOf fp32) a.bits :=
    (congrArg (fun v => (BitVec.ofNat 256 v).toNat) hself).trans (toNat_ofNat_lane (w := 32) (by decide) (heq.trans_lt (lane_lt _ _ _)))
  refine ⟨rfl, rfl, ⟨i, hi, hr.trans heq⟩, fun j hj => ?_⟩
  rw [hr, heq, ranksBelow_iff (hnan i hi) (hnan j hj), not_lt, ← heq]
  exact hmax j hj

theorem lmax_flies_nan (h : w.fmt = 0) (hnan : ∃ j, j < 8 ∧ (fp32.exact (lane 32 (s.source x w (oneF fp32) w.srcA).bits j)).isNan = true) :
    LaneFlies (.lmax x w) s x w 0x46 2 (oneF fp32, oneF fp32, oneF fp32) fun a _ _ r _ => r.lr = a.lr ∧ r.ls = a.ls ∧ r.bits = 0x7FC00000 :=
  laneFlies_of_laneOp (lmax_exec_float s x w h)
    ⟨rfl, rfl, congrArg (BitVec.ofNat 256) (maxCodeOf_of_nan (.inl (foldl_maxCodeOf_nan (lane 32 (s.source x w (oneF fp32) w.srcA).bits) 7 hnan)))⟩

/-! ### tap and put (R135) -/

theorem tap_exec : exec (.tap x w) s = s.laneOp x 0x47 w 1 (ones3 (oneI (widthI w.fmt))) fun a _ _ l =>
    (WordOut.mk (splat (widthI w.fmt) (lane (widthI w.fmt) a.bits (CtxOps.xa w))) 0 l).with a := rfl

theorem tap_flies : let wi := widthI w.fmt
    LaneFlies (.tap x w) s x w 0x47 1 (oneI wi, oneI wi, oneI wi) fun a _ _ r _ => r.lr = a.lr ∧ r.ls = a.ls ∧
      ∀ j, j < 256 / wi → lane wi r.bits j = lane wi a.bits (CtxOps.xa w) :=
  laneFlies_of_laneOp (tap_exec s x w) ⟨rfl, rfl, fun j hj => (lane_splat _ _ j hj).trans (Nat.mod_eq_of_lt (lane_lt _ _ _))⟩

theorem put_exec : exec (.put x w) s = s.laneOp x 0x48 w 1 (ones3 (oneI (widthI w.fmt))) fun a b _ l =>
    ⟨plainWord (widthI w.fmt) (256 / widthI w.fmt) l fun j =>
      (if j = CtxOps.xa w then lane (widthI w.fmt) a.bits 0 else lane (widthI w.fmt) b.bits j, 0), b.lr, b.ls⟩ := rfl

theorem put_flies : let wi := widthI w.fmt
    LaneFlies (.put x w) s x w 0x48 1 (oneI wi, oneI wi, oneI wi) fun a b _ r _ => r.lr = b.lr ∧ r.ls = b.ls ∧
      ∀ j, j < 256 / wi → lane wi r.bits j = if j = CtxOps.xa w then lane wi a.bits 0 else lane wi b.bits j := by
  intro wi
  refine laneFlies_of_plainWord (put_exec s x w) (width_mul_le _) fun _ _ hlr hls hl => ⟨hlr, hls, fun j hj => (hl j hj).trans (Nat.mod_eq_of_lt ?_)⟩
  dsimp only
  split_ifs <;> exact lane_lt _ _ _

/-! ### Conversions (R124 to R127) -/

/-- A lane of cvt: converted from A, or taken from B (R124). -/
def cvtResLane (w : CtxFields) (a b : W256) (o : Nat) (l : W32) : LaneOut :=
  let ws := widthLf (CtxOps.xa w % 16)
  let wd := cvtWidth w.fmt
  let k := min (256 / ws) (256 / wd)
  if k < 256 / wd then (if k * CtxOps.ix w ≤ o ∧ o < k * CtxOps.ix w + k then cvtLane w l (lane ws a (o - k * CtxOps.ix w)) else ⟨lane wd b o, 0, l⟩)
  else cvtLane w l (lane ws a (if k < 256 / ws then o + k * CtxOps.ix w else o))

theorem cvt_exec : exec (.cvt x w) s = s.laneOp x 0x30 w 2 (oneLf (CtxOps.xa w % 16), oneCvt w.fmt, 0) fun a b _ l =>
    ⟨lanesWord (cvtWidth w.fmt) (256 / cvtWidth w.fmt) l (cvtResLane w a.bits b.bits), a.lr, a.ls⟩ := rfl

theorem cvt_flies : LaneFlies (.cvt x w) s x w 0x30 2 (oneLf (CtxOps.xa w % 16), oneCvt w.fmt, 0) fun a b _ r _ => r.lr = a.lr ∧ r.ls = a.ls ∧
    DrawsLanes (s.elem x.cp x.elem).lfsr (cvtWidth w.fmt) (256 / cvtWidth w.fmt) r.bits (cvtResLane w a.bits b.bits) :=
  laneFlies_of_lanesWord (cvt_exec s x w) (width_mul_le _) fun _ _ hlr hls hl => ⟨hlr, hls, hl⟩

theorem roundUp_sto (neg : Bool) (k r d : Nat) (l : W32) : roundUp .sto neg k r d l =
    (decide (if neg then (d - r) * 65536 / d ≤ (lfsrTake16 l).1 else (lfsrTake16 l).1 < r * 65536 / d), (lfsrTake16 l).2) := by
  cases neg
  · rfl
  · simp only [roundUp, if_true, ← decide_not, gt_iff_lt, not_lt]

/-- The digit that sdenc writes for a value: its fmt chooses 8 bits or 4, which it clamps to, and XA the digit and the form (R125). -/
def sdencDigit (w : CtxFields) (v : Int) : Nat × BitVec 8 :=
  let n := if w.fmt = 0 then 8 else 4
  let r := if n = 4 then clampInt 4 v else (v, false)
  (digitCode (if decide (CtxOps.xa w / 8 = 1) then nafDigit (CtxOps.xa w % 8) r.1 else directDigit n (CtxOps.xa w % 8) r.1), flagIf r.2 fSAT)

theorem sdencDigit_lt (w : CtxFields) (v : Int) : (sdencDigit w v).1 < 2 ^ 2 := digitCode_lt _

theorem sdencDigit_fst (w : CtxFields) (v : Int) : (sdencDigit w v).1 =
    let bits := if w.fmt = 0 then 8 else 4
    let u := if bits = 4 then max (-8) (min 7 v) else v
    digitCode (if CtxOps.xa w / 8 = 1 then nafDigit (CtxOps.xa w % 8) u else directDigit bits (CtxOps.xa w % 8) u) := by
  unfold sdencDigit
  by_cases h : w.fmt = 0
  · simp only [h, if_true, decide_eq_true_eq, if_neg (show ¬ 8 = 4 by decide)]
  · simp only [h, if_false, if_true, decide_eq_true_eq, clamp4_fst]

theorem sdenc_exec : exec (.sdenc x w) s = s.laneOp x 0x31 w 2 (ones3 (oneI 8)) fun a b _ l =>
    ⟨plainWord 2 128 l fun j => if 32 * (CtxOps.ix w % 4) ≤ j ∧ j < 32 * (CtxOps.ix w % 4) + 32 then
        sdencDigit w (signedOf 8 (lane 8 a.bits (j - 32 * (CtxOps.ix w % 4)))) else (lane 2 b.bits j, 0),
      decide (CtxOps.xa w % 8 + CtxOps.sb w % 16 = if w.fmt = 0 then 8 else 4) && a.lr,
      decide (CtxOps.xa w % 8 + CtxOps.sb w % 16 = if w.fmt = 0 then 8 else 4) && a.ls⟩ := rfl

theorem sdenc_flies : LaneFlies (.sdenc x w) s x w 0x31 2 (oneI 8, oneI 8, oneI 8) fun a b _ r _ => ∀ j, j < 128 → lane 2 r.bits j =
    if 32 * (CtxOps.ix w % 4) ≤ j ∧ j < 32 * (CtxOps.ix w % 4) + 32 then
      let bits := if w.fmt = 0 then 8 else 4
      let v := if bits = 4 then max (-8) (min 7 (Int.bmod (lane 8 a.bits (j - 32 * (CtxOps.ix w % 4))) 256))
        else Int.bmod (lane 8 a.bits (j - 32 * (CtxOps.ix w % 4))) 256
      digitCode (if CtxOps.xa w / 8 = 1 then nafDigit (CtxOps.xa w % 8) v else directDigit bits (CtxOps.xa w % 8) v)
    else lane 2 b.bits j := by
  refine laneFlies_of_plainWord (sdenc_exec s x w) (by decide) fun _ _ _ _ hl j hj => (hl j hj).trans ?_
  split
  · refine (Nat.mod_eq_of_lt (sdencDigit_lt _ _)).trans ?_
    rw [sdencDigit_fst, signedOf_byte]
  · exact Nat.mod_eq_of_lt (lane_lt _ _ _)

/-- The sum that sddec narrows in lane j (R126). -/
def sddecSum (w : CtxFields) (a b : W256) (j : Nat) : Int :=
  signedOf 16 (lane 16 b j) + digitVal (lane 2 a (16 * CtxOps.ix w + j)) * (2 ^ (CtxOps.xa w % 8) : Nat)

theorem sddec_exec : exec (.sddec x w) s = s.laneOp x 0x32 w 2 (ones3 (oneI 16)) fun a b _ l =>
    ⟨plainWord 16 16 l fun j => (wrapInt 16 (clampInt 16 (sddecSum w a.bits b.bits j)).1,
      flagIf (lane 2 a.bits (16 * CtxOps.ix w + j) == 2) fDIG ||| flagIf (clampInt 16 (sddecSum w a.bits b.bits j)).2 fSAT), a.lr, a.ls⟩ := rfl

theorem digitVal_eq (c : Nat) : digitVal c = match c with | 1 => (1 : Int) | 3 => -1 | _ => 0 := by
  unfold digitVal
  split
  · subst ‹c = 1›
    rfl
  · split
    · subst ‹c = 3›
      rfl
    · grind

theorem sddec_flies : LaneFlies (.sddec x w) s x w 0x32 2 (oneI 16, oneI 16, oneI 16) fun a b _ r _ => r.lr = a.lr ∧ r.ls = a.ls ∧ ∀ j, j < 16 →
    (lane 16 r.bits j : Int) = max (-32768) (min 32767 (Int.bmod (lane 16 b.bits j) 65536 +
      2 ^ (CtxOps.xa w % 8) * digitVal (lane 2 a.bits (16 * CtxOps.ix w + j)))) % 65536 := by
  refine laneFlies_of_plainWord (sddec_exec s x w) (by decide) fun _ _ hlr hls hl => ⟨hlr, hls, fun j hj => ?_⟩
  rw [hl j hj, Nat.mod_eq_of_lt (wrapInt_lt 16 _), wrapInt_cast, clamp16_fst, sddecSum, signedOf_eq_bmod (by decide), Int.mul_comm, Nat.cast_pow]
  rfl

theorem qnt_exec_scale (h : CtxOps.xa w % 2 = 0) : exec (.qnt x w) s = s.laneOp x 0x33 w 2 (oneF fp32, oneF e3m5, oneF e3m5) fun a b _ l =>
    ⟨plainWord 8 32 l fun j => if j = CtxOps.ix w then ((qntScale a.bits).code, flagIf (qntScale a.bits).of fOF) else (lane 8 b.bits j, 0), a.lr, a.ls⟩ := if_pos h

theorem qnt_flies_scale (h : CtxOps.xa w % 2 = 0) : LaneFlies (.qnt x w) s x w 0x33 2 (oneF fp32, oneF e3m5, oneF e3m5) fun a b _ r _ =>
    r.lr = a.lr ∧ r.ls = a.ls ∧ ∀ j, j < 32 → lane 8 r.bits j = if j = CtxOps.ix w then (qntScale a.bits).code % 256 else lane 8 b.bits j := by
  refine laneFlies_of_plainWord (qnt_exec_scale s x w h) (by decide) fun _ _ hlr hls hl => ⟨hlr, hls, fun j hj => (hl j hj).trans ?_⟩
  split
  · rfl
  · exact Nat.mod_eq_of_lt (lane_lt _ _ _)

/-- A lane of qnt's codes, with the flags of its scale (R127). -/
def qntResLane (w : CtxFields) (a b c : W256) (j : Nat) (l : W32) : LaneOut :=
  if 8 * CtxOps.ix w ≤ j ∧ j < 8 * CtxOps.ix w + 8 then
    let r := qntLane (CtxOps.rm w) l (e3m5.exact (lane 8 c (CtxOps.ix w))) (fp32.exact (lane 32 a (j - 8 * CtxOps.ix w)))
    { r with fl := r.fl ||| flagIf (e3m5.exact (lane 8 c (CtxOps.ix w))).isNan fSCL }
  else ⟨lane 4 b j, 0, l⟩

theorem qnt_exec_codes (h : CtxOps.xa w % 2 = 1) : exec (.qnt x w) s = s.laneOp x 0x33 w 2 (oneF fp32, oneF e2m1, oneF e3m5) fun a b c l =>
    ⟨lanesWord 4 64 l (qntResLane w a.bits b.bits c.bits), a.lr, a.ls⟩ := if_neg (by omega)

/-- Flags of a lane are no part of what is drawn. -/
theorem DrawsLanes.congr {l : W32} {wd n : Nat} {bits : W256} {f g : Nat → W32 → LaneOut} (h : DrawsLanes l wd n bits f)
    (hfg : ∀ j l, (f j l).v = (g j l).v ∧ (f j l).lfsr = (g j l).lfsr) : DrawsLanes l wd n bits g := by
  obtain ⟨L, h0, hL⟩ := h
  exact ⟨L, h0, fun j hj => by rw [← (hfg j (L j)).1, ← (hfg j (L j)).2]; exact hL j hj⟩

theorem qnt_flies_codes (h : CtxOps.xa w % 2 = 1) : LaneFlies (.qnt x w) s x w 0x33 2 (oneF fp32, oneF e2m1, oneF e3m5) fun a b c r _ =>
    r.lr = a.lr ∧ r.ls = a.ls ∧ DrawsLanes (s.elem x.cp x.elem).lfsr 4 64 r.bits fun j l => if 8 * CtxOps.ix w ≤ j ∧ j < 8 * CtxOps.ix w + 8 then
      qntLane (CtxOps.rm w) l (e3m5.exact (lane 8 c.bits (CtxOps.ix w))) (fp32.exact (lane 32 a.bits (j - 8 * CtxOps.ix w))) else ⟨lane 4 b.bits j, 0, l⟩ := by
  refine laneFlies_of_lanesWord (qnt_exec_codes s x w h) (by decide) fun _ _ hlr hls hl => ⟨hlr, hls, hl.congr fun j l => ?_⟩
  unfold qntResLane
  split <;> exact ⟨rfl, rfl⟩

/-! ### Bubbles and predicates (R70, R76) -/

/-- A lane instruction with a bubble for its first operand starts a bubble. -/
theorem laneOp_bubble {i : Instr} {op lat : Nat} {ones : W256 × W256 × W256} {f : Tok → Tok → Tok → W32 → LaneRes} (hx : exec i s = s.laneOp x op w lat ones f)
    (h : Issues s x op w) (hk : (s.source x w ones.1 w.srcA).k = true) : Completes i s fun t => ∃ tok : Tok, tok.k = true ∧ tok.lr = true ∧ tok.bits = 0 ∧
      (t.elem x.cp x.elem).flight = (s.elem x.cp x.elem).flight ++ [⟨lat, .write (s.dest x w) tok 0, x.idx.setWidth 8⟩] := by
  have hflies : ActFlies i s x w op lat (· = _) := actFlies_of_launches _ hx (fun t => by
    simp only [hk, Bool.true_or, if_true]
    exact launches_launchResult t x lat _) rfl
  obtain ⟨t, ht, -, act, rfl, hflight⟩ := hflies h
  exact ⟨t, ht, _, rfl, rfl, rfl, hflight⟩

theorem fadd_exec : exec (.fadd x w) s = s.floatOp x 0x10 w false fun a b _ => XVal.sumExact (isRdn w) [a, b] := rfl

/-- A float instruction is a context's instruction. -/
theorem floatOp_eq_issueCtx (op : Nat) (third : Bool) (f : XVal → XVal → XVal → XVal) : ∃ k, s.floatOp x op w third f = s.issueCtx x op w k := by
  unfold State.floatOp State.laneOp
  exact ⟨_, rfl⟩

/-- A context that is predicated off has no effect but on the tap queues (R70). -/
theorem issueCtx_predicated_off {i : Instr} {op : Nat} {k : State → State} (hx : exec i s = s.issueCtx x op w k) (hcan : s.canIssue x op w = true)
    (hpred : s.predicate x w = false) (hecc : s.ecc = []) : Completes i s fun t => (t.elem x.cp x.elem).flight = (s.elem x.cp x.elem).flight ∧ SameBytes s t := by
  have hnote : ((s.noteGuard x (s.guardReads x w)).logReads x op w) = s.noteGuard x (s.guardReads x w) := by
    have hnil : (s.noteGuard x (s.guardReads x w)).ecc = [] := by
      unfold State.noteGuard
      extract_lets s1
      repeat' split
      all_goals exact hecc
    simp [State.logReads, State.logOf, hnil]
  have hexec : exec i s = .next ((s.noteGuard x (s.guardReads x w)).consumeTaps x (s.namedTaps x w)) := by
    rw [hx]
    simp only [State.issueCtx, hcan, hpred, hnote, if_true, Bool.false_eq_true, if_false]
  refine ⟨_, hexec, ?_, sameBytes_of ?_ ?_⟩
  · rw [State.flight_consumeTaps, State.elem_noteGuard]
  · rw [State.consumeTaps_mem, State.noteGuard_mem]
  · rw [State.dies_consumeTaps, State.dies_noteGuard]

end

/-- Settles O36: each instruction starts what its lemma above says; a bubble operand and a predicate that is off are cases of the frame. -/
theorem laneRoute : Obligations.LaneRoute := by
  unfold Obligations.LaneRoute
  intro s x w src old xa ix flies same wp wi n
  have hxa : xa = CtxOps.xa w := (CtxOps.xa_eq w).symm
  have hix : ix = CtxOps.ix w := (CtxOps.ix_eq w).symm
  clear_value xa ix
  subst hxa hix
  refine ⟨elemNop_issues s x w, fun h => laneFlies_of_laneOp (mov_exec_data s x w h) ⟨rfl, rfl, rfl⟩, fun h => controlFlies_of_ctlOp (mov_exec_control s x w h) ⟨rfl, rfl⟩,
    rep_flies s x w, perm_flies s x w, pack_flies s x w, unpk_flies s x w, lsum_flies_int s x w, lsum_flies_float s x w, lmax_flies_int s x w, lmax_flies_float s x w,
    lmax_flies_nan s x w, tap_flies s x w, put_flies s x w, cvt_flies s x w, fun neg k r d l _ _ => roundUp_sto neg k r d l, sdenc_flies s x w, ?_,
    qnt_flies_scale s x w, qnt_flies_codes s x w, fun h hd hk => ?_, fun hcan hpred hecc => ?_⟩
  · have h := sddec_flies s x w
    simp only [digitVal_eq] at h
    exact h
  · exact laneOp_bubble s x w ((iadd_exec s x w).trans (s.intOp_data x 0x01 _ hd)) h hk
  · obtain ⟨k, hk⟩ := floatOp_eq_issueCtx s x w 0x10 false fun a b _ => XVal.sumExact (isRdn w) [a, b]
    exact issueCtx_predicated_off s x w ((fadd_exec s x w).trans hk) hcan hpred hecc

end Sys2Proof.Machine
end

section
/-! Tokens at taps (O42): a token that crosses its port's station, and why O42 does not hold of every state. -/
namespace Sys2Proof.Machine

theorem tokenArriveTap_exec (s : State) (c : CpId) (id : Nat) : exec (.tokenArriveTap c id) s = execTokenArriveTap c id s := rfl

/-- A token from the cluster buffer takes a lane at its port's station: its station and hops are set anew (R172, R174). -/
theorem tokenArriveTap_crosses (s : State) (c : CpId) (w : RingTok) (hw : (s.core c.core).token c.slot w.id = some w) (hin : w.inbound = true)
    (hb : (s.slot c).status = 0x01) (holder : (s.core c.core).olderToken w = false) (hfar : w.pos = .far) (hport : w.port = 16) :
    exec (.tokenArriveTap c w.id) s = .next (s.enterLane c w w.elem) := by
  have hgrid : s.onGrid c = true := by simp [State.onGrid, Slot.bound, hb]
  rw [tokenArriveTap_exec]
  simp [execTokenArriveTap, hw, hin, hgrid, holder, hfar, hport, RingTok.ready]

/-- A token of port 16 that has a hop to go. -/
def hoppingToken : RingTok :=
  { id := 0, slot := 0, port := 16, inbound := true, tok := Tok.zero, addr := ⟨.host, 0⟩, va := 0, pos := .far, timed := false, order := 0
    lane := 0, cw := true, station := 0, hops := 1, region := 0, elem := 0, tap := 0, takeSeq := 0 }

/-- The reset state with that token on the ring of core 0, whose slot 0 is bound. -/
def hoppingState : State :=
  (State.reset.modCore 0 fun k => { k with ring := [hoppingToken] }).modSlot ⟨0, 0⟩ fun t => { t with status := 0x01 }

theorem hoppingState_ring : (hoppingState.core 0).ring = [hoppingToken] := by
  simp [hoppingState, State.core_modSlot_same (c := ⟨0, 0⟩)]

theorem hoppingState_status : (hoppingState.slot ⟨0, 0⟩).status = 0x01 := by
  simp [hoppingState]

/-- Refutes O42: its clause for a token that crosses keeps everything of the token but its place on the way, while the model also sets the
token's station and hops anew (R172, R174). A token of port 16 with a hop to go has none after it. -/
theorem not_streamTokens : ¬ Obligations.StreamTokens := by
  unfold Obligations.StreamTokens
  intro h
  have htoken : (hoppingState.core 0).token 0 hoppingToken.id = some hoppingToken := by
    rw [Core.token, hoppingState_ring]
    rfl
  have holder : (hoppingState.core 0).olderToken hoppingToken = false := by
    rw [Core.olderToken, hoppingState_ring]
    rfl
  obtain ⟨-, -, -, hcrosses, -⟩ := h hoppingState ⟨0, 0⟩ hoppingToken htoken
  obtain ⟨t, ht, hmoves, -⟩ := hcrosses ⟨rfl, hoppingState_status, holder, .inl (Nat.le_refl 16)⟩ ⟨rfl, .inl rfl⟩
  have hnext := tokenArriveTap_crosses hoppingState ⟨0, 0⟩ hoppingToken htoken rfl hoppingState_status holder rfl rfl
  obtain rfl : t = hoppingState.enterLane ⟨0, 0⟩ hoppingToken hoppingToken.elem := by
    injection ht.symm.trans hnext
  have hring : ((hoppingState.enterLane ⟨0, 0⟩ hoppingToken hoppingToken.elem).core 0).ring.map RingTok.hops = [0] := by
    rw [State.enterLane, State.core_modCore_same, hoppingState_ring]
    rfl
  have hkept := congrArg (List.map RingTok.hops) hmoves
  rw [hring, hoppingState_ring] at hkept
  exact absurd hkept (by decide)

end Sys2Proof.Machine
end

section
/-! What a store and a counter's add leave alone, and the parts of a slot that updates of other parts keep. -/
namespace Sys2Proof.Machine

/-! ### Stores and counters (R22, R267, R309) -/

theorem State.byteAt_setBytes_ne (s : State) (a b : PAddr) (l : List Byte) (h : ¬ Covers a l.length b) : (s.setBytes a l).byteAt b = s.byteAt b := by
  induction l generalizing s a with
  | nil => rfl
  | cons x t ih =>
    have hfirst : b.key ≠ a.key := fun e => h ⟨0, Nat.succ_pos _, e⟩
    have hrest : ¬ Covers (a.plus 1) t.length b := fun ⟨j, hj, e⟩ => h ⟨j + 1, Nat.succ_lt_succ hj, by
      rw [e]
      simp only [PAddr.key, PAddr.plus]
      omega⟩
    exact (ih (s.setByte a x) (a.plus 1) hrest).trans (State.byteAt_setByte_ne _ _ _ _ hfirst)

/-- An injection register that a store disarms is no key. -/
theorem State.pad_setInjOf (s : State) (a b : PAddr) (v : Word) : (s.setInjOf a v).pad b = s.pad b := by
  have hctl (d e : Fin 4) (k j : Fin 2) : (((s.modDie d fun x => x.modCtl k fun l => { l with hinj := v }).die e).ctl.get j).keys = ((s.die e).ctl.get j).keys := by
    by_cases hd : e = d
    · subst hd
      by_cases hk : j = k
      · subst hk
        simp [Die.modCtl]
      · simp [Die.modCtl, vmod_get_ne _ _ _ _ hk]
    · simp [State.die, State.modDie, vmod_get_ne _ _ _ _ hd]
  have hgranules (d e : Fin 4) (k : Fin 2) : ((s.modDie d fun x => x.modCtl k fun l => { l with hinj := v }).die e).granules = (s.die e).granules := by
    by_cases hd : e = d
    · subst hd
      simp [Die.modCtl]
    · simp [State.die, State.modDie, vmod_get_ne _ _ _ _ hd]
  unfold State.setInjOf
  split
  case h_5 => simp only [State.pad, hctl, hgranules]
  all_goals rfl

/-- A store reads as its bytes; what an armed injection marks is no byte. -/
theorem State.byteAt_store (s : State) (part : BitVec 5) (a b : PAddr) (l : List Byte) : (s.store part a l).byteAt b = (s.setBytes a l).byteAt b := by
  have hpad : (s.store part a l).pad b = (s.setBytes a l).pad b := by
    unfold State.store
    extract_lets s1 whole s2
    have hs2 : s2.pad b = s1.pad b := by
      unfold s2
      split <;> rfl
    split
    · exact hs2
    · extract_lets s3
      have hs3 : s3.pad b = s1.pad b := (State.pad_setInjOf _ _ _ _).trans hs2
      split <;> exact hs3
  rw [State.byteAt, State.byteAt, State.store_mem, hpad]

theorem State.bytesAt_store_eq (s : State) (part : BitVec 5) (a b : PAddr) (l : List Byte) (n : Nat) :
    (s.store part a l).bytesAt b n = (s.setBytes a l).bytesAt b n := by
  induction n generalizing b with
  | zero => rfl
  | succ n ih => rw [State.bytesAt, State.bytesAt, State.byteAt_store, ih]

theorem State.onlyBytes_store (s : State) (part : BitVec 5) (a : PAddr) (l : List Byte) : OnlyBytes a l.length s (s.store part a l) := fun b hb => by
  rw [State.byteAt_store]
  exact State.byteAt_setBytes_ne s a b l hb

theorem State.slot_setInjOf (s : State) (a : PAddr) (v : Word) (c : CpId) : (s.setInjOf a v).slot c = s.slot c := by
  unfold State.setInjOf
  split
  case h_1 | h_2 | h_3 => exact State.slot_modCore_keeps s _ _ c rfl
  all_goals rfl

theorem State.setBytes_cores (s : State) (a : PAddr) (l : List Byte) : (s.setBytes a l).cores = s.cores := by
  induction l generalizing s a with
  | nil => rfl
  | cons x t ih => exact ih (s.setByte a x) (a.plus 1)

theorem State.slot_store (s : State) (part : BitVec 5) (a : PAddr) (l : List Byte) (c : CpId) : (s.store part a l).slot c = s.slot c := by
  have hbytes : (s.setBytes a l).slot c = s.slot c := by rw [State.slot, State.core, State.setBytes_cores]; rfl
  unfold State.store
  extract_lets s1 whole s2
  have hs2 : s2.slot c = s.slot c := by
    unfold s2
    split <;> exact hbytes
  split
  · exact hs2
  · extract_lets s3
    have hs3 : s3.slot c = s.slot c := (State.slot_setInjOf _ _ _ _).trans hs2
    split <;> exact hs3

/-- An add at a counter without errors: the word has grown, and nothing else of memory and no slot has changed (R22, R267). -/
theorem State.addCounter_adds (s : State) (who : CpId) (part : BitVec 5) (pa : PAddr) (k : Word) (hmem : MemoryCanonical s) (hecc : s.ecc = []) :
    (s.addCounter who part pa k).wordAt pa = s.wordAt pa + k ∧ OnlyBytes pa 8 s (s.addCounter who part pa k) ∧
      ∀ c, (s.addCounter who part pa k).slot c = s.slot c := by
  have hadd : s.addCounter who part pa k = s.store part pa (leBytes 8 (s.wordAt pa + k).toNat) := by
    rw [State.addCounter, State.updateWord, State.load_clean s who part pa 8 hecc]
    rfl
  have hbytes : (s.store part pa (leBytes 8 (s.wordAt pa + k).toNat)).bytesAt pa 8 = leBytes 8 (s.wordAt pa + k).toNat := by
    rw [State.bytesAt_store_eq]
    exact State.bytesAt_setBytes s pa (leBytes 8 _) hmem
  rw [hadd]
  refine ⟨BitVec.eq_of_toNat_eq ?_, State.onlyBytes_store s part pa (leBytes 8 (s.wordAt pa + k).toNat), State.slot_store s part pa _⟩
  rw [State.wordAt_toNat, hbytes, leNat_leBytes 8 _ (s.wordAt pa + k).isLt]

/-! ### Ports and regions of a slot -/

section
variable (s : State) (c : CpId)

theorem State.region_modSlot_keeps (f : Slot → Slot) (r : Fin 4) (h : (f (s.slot c)).regions = (s.slot c).regions) :
    (s.modSlot c f).region c r = s.region c r := by
  rw [State.region, State.region, State.slot_modSlot_same, h]

theorem Slot.modPort_regions (t : Slot) (p : BitVec 5) (f : PortCtx → PortCtx) : (t.modPort p f).regions = t.regions := by
  unfold Slot.modPort
  split <;> rfl

@[simp] theorem State.region_modPort (p : BitVec 5) (f : PortCtx → PortCtx) (r : Fin 4) : (s.modPort c p f).region c r = s.region c r :=
  State.region_modSlot_keeps s c _ r (Slot.modPort_regions _ _ _)

@[simp] theorem State.region_modElem (e : Fin 256) (f : Elem → Elem) (r : Fin 4) : (s.modElem c e f).region c r = s.region c r :=
  State.region_modSlot_keeps s c _ r rfl

theorem State.port_modPort_same (p : BitVec 5) (f : PortCtx → PortCtx) (hp : p.toNat < 24) :
    ((s.modPort c p f).slot c).port p = f ((s.slot c).port p) := by
  simp [State.modPort, Slot.modPort, Slot.port, hp]

theorem State.port_modRegion (r : Fin 4) (f : Region → Region) (p : BitVec 5) : ((s.modRegion c r f).slot c).port p = (s.slot c).port p := by
  simp [State.modRegion, Slot.port]

end

end Sys2Proof.Machine
end

section
/-! Cues (O40): what fires, stops of a cycle, starts of streams by start cues, and signals. -/
namespace Sys2Proof.Machine

/-! ### The cue instructions -/

theorem cueRun_exec (x : ElemSite) (n : BitVec 5) (s : State) : exec (.cueRun x n) s = execCueRun x n s := rfl
theorem cueStart_exec (x : ElemSite) (p : BitVec 5) (s : State) : exec (.cueStart x p) s = execCueStart x p s := rfl
theorem cueStop_exec (x : ElemSite) (p : BitVec 5) (s : State) : exec (.cueStop x p) s = execCueStop x p s := rfl
theorem cueDrain_exec (x : ElemSite) (q : BitVec 2) (p : BitVec 5) (peer : Bool) (pb : BitVec 3) (strm : BitVec 2) (clr : Bool) (s : State) :
    exec (.cueDrain x q p peer pb strm clr) s = execCueDrain x q p peer pb strm clr s := rfl
theorem cueSig_exec (x : ElemSite) (k : BitVec 4) (z : BitVec 3) (inc : BitVec 32) (s : State) : exec (.cueSig x k z inc) s = execCueSig x k z inc s := rfl
theorem cueWait_exec (x : ElemSite) (k : BitVec 4) (z : BitVec 3) (inc : BitVec 32) (s : State) : exec (.cueWait x k z inc) s = execCueWait x k z inc s := rfl
theorem cueBegin_exec (x : ElemSite) (s : State) : exec (.cueBegin x) s = execCueBegin x s := rfl
theorem cueEnd_exec (x : ElemSite) (s : State) : exec (.cueEnd x) s = execCueEnd x s := rfl
theorem cueEndtake_exec (x : ElemSite) (s : State) : exec (.cueEndtake x) s = execCueEndtake x s := rfl

/-! ### The first stop of a cycle (R301) -/

/-- The first cause that a region of a running take meets becomes its due stop. -/
theorem addStop_first (g : Region) (i : StopInfo) (hon : g.on = .running ∨ g.on = .draining) (hdue : g.stopDue = none) (hrec : g.stopRec = false) :
    (g.addStop i).stopDue = some i := by
  have hcounts : g.counts = true := by rcases hon with h | h <;> simp [Region.counts, h]
  simp [Region.addStop, hcounts, hrec, hdue]

theorem stopDue_streamStop (s : State) (c : CpId) (r : Fin 4) (p : BitVec 5) (cause : BitVec 8) (detail va synd : Word)
    (hon : (s.region c r).on = .running ∨ (s.region c r).on = .draining) (hdue : (s.region c r).stopDue = none) (hrec : (s.region c r).stopRec = false) :
    ((s.streamStop c r p cause detail va synd).region c r).stopDue = some (s.streamStopInfo c r p cause detail va synd) := by
  rw [State.streamStop, State.region_modRegion_same]
  exact addStop_first _ _ hon hdue hrec

/-! ### Reads that join a cycle (R312) -/

theorem mem_agenda_dueBefore (s : State) (f : Task → Bool) (l : List Instr) (i : Instr) (h : i ∈ l) : .ev i ∈ (s.dueBefore f l).agenda :=
  List.mem_append_left _ (List.mem_append_right _ (List.mem_map_of_mem h))

theorem mem_agenda_dueRead (s : State) (c : CpId) (p : BitVec 5) : .ev (.streamReadIssue c p) ∈ (s.dueRead c p).agenda := by
  unfold State.dueRead
  extract_lets after
  split
  · exact mem_agenda_dueBefore s after _ _ List.mem_cons_self
  · exact mem_agenda_dueBefore s Task.late _ _ List.mem_cons_self

theorem slot_dueRead (s : State) (c : CpId) (p : BitVec 5) (d : CpId) : (s.dueRead c p).slot d = s.slot d := by
  unfold State.dueRead
  extract_lets after
  split <;> rfl

/-! ### Starts (R174, R178, R252) -/

/-- The stream that a binding of no ring port starts as, with its extents. -/
def Binding.started (b : Binding) (ext : Except (Nat × Nat) (List Extent)) (r : Fin 4) (engine : Nat) (dispatched : Bool) : Stream :=
  { pat := b.pat, patSlot := b.patSlot, order := b.order, extents := (match ext with | .ok l => l | .error _ => []), ipat := b.ipat, region := r
    engine := engine, timed := false, lane := 0, dispatched := dispatched, pos := 0, ipos := 0, stored := 0, ahead := false, paused := false
    walkVa := none }

/-- A binding of a far port starts its stream; where the tables do not translate it, its region meets a stop besides (R182, R300). -/
theorem startStream_far (s : State) (c : CpId) (p : BitVec 5) (b : Binding) (r : Fin 4) (e : Nat) (d : Bool) (hp : p.toNat < 24) (hspace : patSpace b.pat ≠ 0) :
    let q := ((s.startStream c p b r e d).slot c).port p
    q.pending = none ∧ q.run = some (b.started (s.startExtents c b) r e d) := by
  have hring : (patSpace b.pat == 0) = false := beq_false_of_ne hspace
  unfold State.startStream
  simp only [hring, Bool.and_false, Bool.false_eq_true, if_false]
  split
  next l hext =>
    rw [State.port_modPort_same _ _ _ _ hp, State.port_modPort_same _ _ _ _ hp]
    exact ⟨rfl, by rw [hext]; rfl⟩
  next x hext =>
    rw [State.extentStop, State.streamStop, State.port_modRegion, State.port_modPort_same _ _ _ _ hp, State.port_modPort_same _ _ _ _ hp]
    exact ⟨rfl, by rw [hext]; rfl⟩

/-! ### Ends (R83, R254) -/

theorem port_endStream (s : State) (c : CpId) (p : BitVec 5) (hp : p.toNat < 24) :
    (((s.endStream c p).slot c).port p).run = none ∧ (((s.endStream c p).slot c).port p).pending = ((s.slot c).port p).pending := by
  unfold State.endStream
  extract_lets gone s0 shut s1
  have hs1 : (s1.slot c).port p = { (s.slot c).port p with run := none, chan := shut ((s.slot c).port p).chan } := by
    rw [State.port_modPort_same _ _ _ _ hp]
    simp only [s0, State.slot_modSlot_same]
    rfl
  split
  · split
    · rw [State.rewalk, State.port_modRegion, hs1]
      exact ⟨rfl, rfl⟩
    · rw [hs1]
      exact ⟨rfl, rfl⟩
  · rw [hs1]
    exact ⟨rfl, rfl⟩

/-! ### Signals (R22, R267, R282) -/

theorem PAddr.near_iff (a : PAddr) : a.near = true ↔ ∃ k, a.space = .loc k ∨ a.space = .scene k := by
  unfold PAddr.near
  cases a.space <;> simp

/-- A near counter takes an agent's add at once when none of its adds is under way. -/
theorem signalBy_near (s : State) (c : CpId) (agent : Agent) (pa : PAddr) (a k : Word) (hnear : ∃ o, pa.space = .loc o ∨ pa.space = .scene o)
    (hadds : s.addsOf c agent s.ids = false) : s.signalBy c agent pa a k = s.addCounter c (s.slot c).part pa k := by
  simp [State.signalBy, (PAddr.near_iff pa).mpr hnear, hadds]

/-- Any other add is posted. -/
theorem signalBy_posts (s : State) (c : CpId) (agent : Agent) (pa : PAddr) (a k : Word)
    (h : ¬ ((∃ o, pa.space = .loc o ∨ pa.space = .scene o) ∧ s.addsOf c agent s.ids = false)) : s.signalBy c agent pa a k = s.postAdd c agent pa a k := by
  rw [← PAddr.near_iff] at h
  rw [State.signalBy, if_neg]
  simpa using h

/-! ### Cues that fire -/

section
variable {s : State} {x : ElemSite} (hon : (s.siteRegion x).on = .running) (hgo : (s.siteRegion x).going = true) (hdue : (s.siteRegion x).stopDue = none)
  (hrec : (s.siteRegion x).stopRec = false) (hecc : s.ecc = [])

include hon hgo hdue hecc in
/-- A cue of an advancing region that is not about to stop has its effect. -/
theorem fire_fires (k : State → State) : s.fire x k = .next (k s) := by
  simp [State.fire, State.fires, hon, hgo, hdue, State.logOf, hecc]

include hon hdue hrec in
/-- A cue's own stop is due. -/
theorem stopDue_cueStop (detail : Nat) (port : BitVec 8) :
    let t := s.modRegion x.cp x.region fun g => g.addStop (cueStopInfo g x.elem x.idx.toNat cTIMING detail port)
    ∃ j : StopInfo, (t.siteRegion x).stopDue = some j ∧ j.cause = 0x08 ∧ j.detail = BitVec.ofNat 64 detail := by
  intro t
  refine ⟨cueStopInfo (s.siteRegion x) x.elem x.idx.toNat cTIMING detail port, ?_, rfl, rfl⟩
  rw [State.siteRegion, State.region_modRegion_same]
  exact addStop_first _ _ (.inl hon) hdue hrec

include hon hgo hdue hecc

include hrec in
theorem cueStart_unbound (p : BitVec 5) (h : ((s.slot x.cp).port p).pending = none) : Completes (.cueStart x p) s fun t =>
    ∃ j : StopInfo, (t.siteRegion x).stopDue = some j ∧ j.cause = 0x08 ∧ j.detail = 1 := by
  refine ⟨_, (cueStart_exec x p s).trans (fire_fires hon hgo hdue hecc _), ?_⟩
  simp only [h]
  exact stopDue_cueStop hon hdue hrec 1 (p.setWidth 8)

/-- The start of a binding, with the read that joins the cycle (R312). -/
theorem cueStart_bound (p : BitVec 5) (b : Binding) (h : ((s.slot x.cp).port p).pending = some b) : exec (.cueStart x p) s = .next
    (let u := s.fixedStart x.cp p b x.region
    if patWrite b.pat || u.agenda.contains (.ev (.streamReadIssue x.cp p)) then u else u.dueRead x.cp p) := by
  refine (cueStart_exec x p s).trans ((fire_fires hon hgo hdue hecc _).trans ?_)
  simp only [h]

theorem cueStart_starts (p : BitVec 5) (b : Binding) (hp : p.toNat < 24) (h : ((s.slot x.cp).port p).pending = some b) (hidle : (s.slot x.cp).portIdle p = true)
    (e : Nat) (he : s.freeEngine x.cp = some e) (hspace : patSpace b.pat ≠ 0) : Completes (.cueStart x p) s fun t =>
      ((t.slot x.cp).port p).pending = none ∧ (patWrite b.pat = false → .ev (.streamReadIssue x.cp p) ∈ t.agenda) ∧
      ∃ st : Stream, ((t.slot x.cp).port p).run = some st ∧ st.pat = b.pat ∧ st.region = x.region ∧ st.engine = e ∧ st.pos = 0 ∧ st.timed = false := by
  refine ⟨_, cueStart_bound hon hgo hdue hecc p b h, ?_⟩
  have hfixed : s.fixedStart x.cp p b x.region = s.startStream x.cp p b x.region e false := by simp [State.fixedStart, he, hidle]
  obtain ⟨hpending, hrun⟩ := startStream_far s x.cp p b x.region e false hp hspace
  simp only [hfixed]
  split
  next hcase =>
    refine ⟨hpending, fun hread => ?_, _, hrun, rfl, rfl, rfl, rfl, rfl⟩
    simpa [hread] using hcase
  next =>
    rw [slot_dueRead]
    exact ⟨hpending, fun _ => mem_agenda_dueRead _ _ _, _, hrun, rfl, rfl, rfl, rfl, rfl⟩

include hrec in
theorem cueStart_noEngine (p : BitVec 5) (b : Binding) (h : ((s.slot x.cp).port p).pending = some b) (he : s.freeEngine x.cp = none) :
    Completes (.cueStart x p) s fun t => ∃ j : StopInfo, (t.siteRegion x).stopDue = some j ∧ j.cause = 0x08 ∧ j.detail = 5 := by
  refine ⟨_, cueStart_bound hon hgo hdue hecc p b h, ?_⟩
  have hregion : (s.modPort x.cp p fun q => { q with pending := none }).region x.cp x.region = s.siteRegion x := State.region_modPort _ _ _ _ _
  have hstop := stopDue_streamStop (s.modPort x.cp p fun q => { q with pending := none }) x.cp x.region p cTIMING 5 0 0
    (by rw [hregion]; exact .inl hon) (by rw [hregion]; exact hdue) (by rw [hregion]; exact hrec)
  simp only [State.fixedStart, he]
  split
  · exact ⟨_, hstop, rfl, rfl⟩
  · rw [State.siteRegion, State.region, slot_dueRead]
    exact ⟨_, hstop, rfl, rfl⟩

theorem cueDrain_tap (q : BitVec 2) (p : BitVec 5) (pb : BitVec 3) (strm : BitVec 2) (clr : Bool) (i : Fin 4) (h : (s.siteElem x).on.drainTap p = some i) :
    Completes (.cueDrain x q p false pb strm clr) s fun t =>
      (t.siteElem x).flight = (s.siteElem x).flight ++ [⟨2, .drain (ix4 q) 0 false clr false false (.tapOut i), 0x80 ||| x.idx.setWidth 8⟩] := by
  refine ⟨_, (cueDrain_exec x q p false pb strm clr s).trans (fire_fires hon hgo hdue hecc _), ?_⟩
  simp only [h, Bool.false_eq_true, if_false]
  rw [State.siteElem, State.launchCue, State.elem_modElem_same]
  rfl

theorem cueDrain_peer (q : BitVec 2) (p : BitVec 5) (pb : BitVec 3) (strm : BitVec 2) (clr : Bool) (b : PeerBind) (h : s.peerAt x.cp pb = some b) :
    Completes (.cueDrain x q p true pb strm clr) s fun t =>
      (t.siteElem x).flight = (s.siteElem x).flight ++ [⟨2, .drainPeer (ix4 q) false clr pb strm b.desc b.seq true x.idx, 0x80 ||| x.idx.setWidth 8⟩] ∧
      (t.slot x.cp).tilesOut.get (ix4 strm) = (s.slot x.cp).tilesOut.get (ix4 strm) + 1 := by
  refine ⟨_, (cueDrain_exec x q p true pb strm clr s).trans (fire_fires hon hgo hdue hecc _), ?_⟩
  simp only [h, if_true]
  rw [State.takeTileCredit, State.siteElem, State.elem_modSlot_keeps _ _ _ _ rfl, State.slot_modSlot_same, vmod_get_same, State.launchCue,
    State.elem_modElem_same]
  refine ⟨rfl, ?_⟩
  rw [State.modElem, State.slot_modSlot_same]

include hrec in
theorem cueDrain_unbound (q : BitVec 2) (p : BitVec 5) (pb : BitVec 3) (strm : BitVec 2) (clr : Bool) (h : s.peerAt x.cp pb = none) :
    Completes (.cueDrain x q p true pb strm clr) s fun t => ∃ j : StopInfo, (t.siteRegion x).stopDue = some j ∧ j.cause = 0x08 ∧ j.detail = 7 := by
  refine ⟨_, (cueDrain_exec x q p true pb strm clr s).trans (fire_fires hon hgo hdue hecc _), ?_⟩
  simp only [h, if_true]
  exact stopDue_cueStop hon hdue hrec 7 0xFF

theorem cueSig_signals (k : BitVec 4) (z : BitVec 3) (inc : BitVec 32) (e : CtrEntry) (hk : (s.siteRegion x).ctr k = some e) :
    exec (.cueSig x k z inc) s = .next (s.signalBy x.cp (.take x.region) e.pa e.addr (inc.setWidth 64)) := by
  refine (cueSig_exec x k z inc s).trans ((fire_fires hon hgo hdue hecc _).trans ?_)
  simp only [hk]
  rfl

theorem cueWait_waits (k : BitVec 4) (z : BitVec 3) (inc : BitVec 32) (e : CtrEntry) (hk : (s.siteRegion x).ctr k = some e) :
    exec (.cueWait x k z inc) s = .next s := by
  refine (cueWait_exec x k z inc s).trans ((fire_fires hon hgo hdue hecc _).trans ?_)
  simp only [hk, State.load_clean s _ _ _ _ hecc]

end

/-- Settles O40: each cue that fires has its one effect. -/
theorem cues : Obligations.Cues := by
  unfold Obligations.Cues
  intro s x n p q pb z strm clr k inc hon hgo hdue hrec hecc flies stops
  have hfire (f : State → State) : s.fire x f = .next (f s) := fire_fires hon hgo hdue hecc f
  refine ⟨fun d hd => ⟨_, (cueRun_exec x n s).trans (hfire _), ?_⟩, cueStart_unbound hon hgo hdue hrec hecc p,
    fun b hp hb hidle e he hspace => cueStart_starts hon hgo hdue hecc p b hp hb hidle e he hspace,
    fun b hb he => cueStart_noEngine hon hgo hdue hrec hecc p b hb he, fun hp => ⟨_, (cueStop_exec x p s).trans (hfire _), port_endStream s x.cp p hp⟩,
    fun i hi => cueDrain_tap hon hgo hdue hecc q p pb strm clr i hi, fun b hb => cueDrain_peer hon hgo hdue hecc q p pb strm clr b hb,
    cueDrain_unbound hon hgo hdue hrec hecc q p pb strm clr, fun e hmem hk => ?_, ⟨_, (cueBegin_exec x s).trans (hfire _), rfl⟩,
    ⟨_, (cueEnd_exec x s).trans (hfire _), rfl⟩, ⟨_, (cueEndtake_exec x s).trans (hfire _), rfl⟩⟩
  · simp only [hd]
    rfl
  · intro near
    have hsig := cueSig_signals hon hgo hdue hecc k z inc e hk
    refine ⟨fun hnear => ⟨_, hsig.trans (congrArg _ (signalBy_near s x.cp _ e.pa e.addr _ hnear.1 hnear.2)), ?_⟩,
      fun hfar => ⟨_, hsig.trans (congrArg _ (signalBy_posts s x.cp _ e.pa e.addr _ hfar)), sameBytes_of rfl rfl, _, rfl, rfl, rfl⟩,
      ⟨_, cueWait_waits hon hgo hdue hecc k z inc e hk, rfl⟩⟩
    obtain ⟨hword, hbytes, hslot⟩ := State.addCounter_adds s x.cp (s.slot x.cp).part e.pa (inc.setWidth 64) hmem hecc
    exact ⟨hword, hbytes, hslot x.cp⟩

end Sys2Proof.Machine
end

section
/-! Reads of streams (O41): the token that a read sends to its tap, and when a stream reads. -/
namespace Sys2Proof.Machine

theorem streamReadIssue_exec (c : CpId) (p : BitVec 5) (s : State) : exec (.streamReadIssue c p) s = execStreamReadIssue c p s := rfl

/-- A running stream has a token to read in this cycle (R79, R312). -/
def State.streamReads (s : State) (c : CpId) (p : BitVec 5) (st : Stream) : Prop :=
  ((s.slot c).port p).run = some st ∧ patWrite st.pat = false ∧ st.paused = false ∧ st.walkVa = none ∧ st.ahead = false ∧ st.pos < patTotal st.pat ∧
    patSpace st.pat ≠ 2 ∧ (s.region c st.region).on = .running ∧ (s.region c st.region).startIn = 0

/-! ### What a stream's turn does -/

section
variable {s : State} {c : CpId} {p : BitVec 5} {st : Stream}

/-- The turn of a stream that has a token to read, by its kind and its tokens under way. -/
theorem streamRead_turn (h : s.streamReads c p st) : exec (.streamReadIssue c p) s = .next
    (if st.timed then
      if !(s.region c st.region).going then s
      else if 16 ≤ ((s.slot c).port p).unconsumed then s.streamStop c st.region p cTIMING 8 0 0
      else s.issueRead c p st
    else if 16 ≤ ((s.slot c).port p).unconsumed then s
    else s.issueRead c p st) := by
  obtain ⟨hrun, hread, hpaused, hwalk, hahead, hpos, hspace, hon, hstart⟩ := h
  have hlive : (s.region c st.region).live = true := by simp [Region.live, hon, hstart]
  rw [streamReadIssue_exec, execStreamReadIssue]
  simp [hrun, hread, hpaused, hwalk, hahead, hpos, hspace, hlive]

theorem streamRead_issues (h : s.streamReads c p st) (hgo : st.timed = true → (s.region c st.region).going = true)
    (hroom : ((s.slot c).port p).unconsumed < 16) : exec (.streamReadIssue c p) s = .next (s.issueRead c p st) := by
  have hfull : ¬ 16 ≤ ((s.slot c).port p).unconsumed := Nat.not_le.mpr hroom
  rw [streamRead_turn h]
  by_cases ht : st.timed = true
  · rw [if_pos ht, if_neg (by simp [hgo ht]), if_neg hfull]
  · rw [if_neg ht, if_neg hfull]

theorem streamRead_full (h : s.streamReads c p st) (ht : st.timed = true) (hgo : (s.region c st.region).going = true)
    (hfull : 16 ≤ ((s.slot c).port p).unconsumed) : exec (.streamReadIssue c p) s = .next (s.streamStop c st.region p cTIMING 8 0 0) := by
  rw [streamRead_turn h, if_pos ht, if_neg (by simp [hgo]), if_pos hfull]

/-- A stream that has read in this take cycle, a timed one of a region that does not advance, one of no fixed cycle with 16 tokens under way,
and one that writes read nothing (R79, R312). -/
theorem streamRead_idle (hrun : ((s.slot c).port p).run = some st)
    (h : st.ahead = true ∨ (st.timed = true ∧ (s.region c st.region).going = false) ∨ (st.timed = false ∧ 16 ≤ ((s.slot c).port p).unconsumed) ∨
      patWrite st.pat = true) : exec (.streamReadIssue c p) s = .next s := by
  rw [streamReadIssue_exec, execStreamReadIssue]
  simp only [hrun]
  split
  · rfl
  next hturn =>
    obtain ⟨hread, hahead⟩ : patWrite st.pat = false ∧ st.ahead = false := by
      simp only [Bool.or_eq_true, not_or, Bool.not_eq_true] at hturn
      exact ⟨hturn.1.1.1.1.1, hturn.1.1.2⟩
    split
    · rfl
    · rcases h with h | ⟨ht, hgo⟩ | ⟨ht, hfull⟩ | h
      · exact absurd (hahead.symm.trans h) Bool.false_ne_true
      · rw [if_pos ht, if_pos (by simp [hgo])]
      · rw [if_neg (by simp [ht]), if_pos hfull]
      · exact absurd (hread.symm.trans h) Bool.false_ne_true

end

/-! ### The token of a read (R180, R447) -/

/-- An inbound token of a port is on the ring of its core, for a tap, and its stream counts it. -/
def SendsToken (s : State) (c : CpId) (p : BitVec 5) (st : Stream) (e : Fin 256) (i : Fin 4) (tok : Tok) (pos : RingPos) (t : State) : Prop :=
  SameBytes s t ∧ ((t.slot c).port p).unconsumed = ((s.slot c).port p).unconsumed + 1 ∧ (∃ u, ((t.slot c).port p).run = some u ∧ u.pos = st.pos + 1) ∧
    ∃ w : RingTok, (t.core c.core).ring = (s.core c.core).ring ++ [w] ∧ w.inbound = true ∧ w.port = p ∧ w.elem = e ∧ w.tap = i ∧ w.timed = st.timed ∧
      w.takeSeq = (s.region c st.region).takeSeq ∧ w.tok = tok ∧ w.pos = pos

section
variable (s : State) (c : CpId) (p : BitVec 5) (st : Stream) (hp : p.toNat < 24) (hrun : ((s.slot c).port p).run = some st)

include hp hrun in
theorem pushInbound_sends (e : Fin 256) (i : Fin 4) (htap : (s.slot c).tapOfPort st.region false p (fun b => !tapOut b) = some (e, i)) (tok : Tok)
    (pos : RingPos) (src : Option PAddr) : SendsToken s c p st e i tok pos (s.pushInbound c p st tok pos src) := by
  unfold State.pushInbound
  simp only [htap]
  have hslot (w : RingTok) : (s.newId.modCore c.core fun k => { k with ring := k.ring ++ [w] }).slot c = s.slot c := State.slot_modCore_keeps _ _ _ _ rfl
  have hring (w : RingTok) (f : PortCtx → PortCtx) :
      (((s.newId.modCore c.core fun k => { k with ring := k.ring ++ [w] }).modPort c p f).core c.core).ring = (s.core c.core).ring ++ [w] := by
    simp only [State.modPort, State.core_modSlot_same, State.core_modCore_same]
    rfl
  refine ⟨sameBytes_of rfl rfl, ?_, ⟨{ st with pos := st.pos + 1, ipos := if patInd st.pat then st.ipos + 1 else st.ipos, ahead := st.timed }, ?_, rfl⟩,
    _, hring _ _, rfl, rfl, rfl, rfl, rfl, rfl, rfl, rfl⟩
  · rw [State.port_modPort_same _ _ _ _ hp, hslot]
  · rw [State.port_modPort_same _ _ _ _ hp, hslot, hrun]
    rfl

/-- A block's claim leaves what a token is sent by. -/
theorem sendsToken_claimRead {e : Fin 256} {i : Fin 4} {tok : Tok} {pos : RingPos} {t : State} (blk order : Nat) (timed : Bool)
    (h : SendsToken (s.claimRead c.core blk order timed) c p st e i tok pos t) : SendsToken s c p st e i tok pos t := by
  have hslot : (s.claimRead c.core blk order timed).slot c = s.slot c := State.slot_modCore_keeps _ _ _ _ rfl
  have hregion : (s.claimRead c.core blk order timed).region c st.region = s.region c st.region := by rw [State.region, hslot]; rfl
  have hring : ((s.claimRead c.core blk order timed).core c.core).ring = (s.core c.core).ring := by rw [State.claimRead, State.core_modCore_same]
  rw [SendsToken, hslot, hregion, hring] at h
  exact h

include hp hrun

/-- A read at a place whose block is free sends the 32 bytes there, with the LR and LS of its position (R180). -/
theorem issueRead_place (e : Fin 256) (i : Fin 4) (htap : (s.slot c).tapOfPort st.region false p (fun b => !tapOut b) = some (e, i)) (pa : PAddr) (va : Word)
    (hform : s.formToken c st = .place pa va) (hecc : s.ecc = []) (hparked : s.parkedBlock pa = false)
    (hfree : patSpace st.pat = 0 → s.blockTaken c.core (blockOf pa) = false) :
    SendsToken s c p st e i ⟨BitVec.ofNat 256 (leNat (s.bytesAt pa 32)), patLr st.pat st.pos, patLs st.pat st.pos, false⟩
      (if patSpace st.pat = 0 then .enter 1 else .far) (s.issueRead c p st) := by
  have hindex : s.logIndex c st = s := by simp [State.logIndex, hecc]
  unfold State.issueRead
  simp only [hform, hindex, hparked, State.load_clean s c _ _ _ hecc, Bool.false_eq_true, if_false]
  by_cases hring : patSpace st.pat = 0
  · have hslot : (s.claimRead c.core (blockOf pa) st.order st.timed).slot c = s.slot c := State.slot_modCore_keeps _ _ _ _ rfl
    simp only [hring, hfree hring, beq_self_eq_true, Bool.and_false, Bool.false_eq_true, if_false, if_true]
    exact sendsToken_claimRead s c p st _ _ _ (pushInbound_sends _ c p st hp (by rw [hslot]; exact hrun) e i (by rw [hslot]; exact htap) _ _ _)
  · simp only [beq_false_of_ne hring, if_neg hring, Bool.false_and, Bool.false_eq_true, if_false]
    exact pushInbound_sends s c p st hp hrun e i htap _ _ _

/-- The null index sends a bubble, which comes from no block (R180). -/
theorem issueRead_bubble (e : Fin 256) (i : Fin 4) (htap : (s.slot c).tapOfPort st.region false p (fun b => !tapOut b) = some (e, i))
    (hform : s.formToken c st = .bubble) (hecc : s.ecc = []) : SendsToken s c p st e i Tok.bubble (.post 4) (s.issueRead c p st) := by
  have hindex : s.logIndex c st = s := by simp [State.logIndex, hecc]
  unfold State.issueRead
  simp only [hform, hindex]
  exact pushInbound_sends s c p st hp hrun e i htap _ _ _

end

/-- Settles O41: a stream's turn reads, stops its region or does nothing, and what a read sends is the token at its place. -/
theorem streamRead : Obligations.StreamRead := by
  unfold Obligations.StreamRead
  intro s c p st hp q g reads i
  refine ⟨fun pa va e t0 hreads hgo hroom hform hecc hparked hfree htap => ?_, fun e t0 hreads hgo hroom hform hecc htap => ?_,
    fun hreads ht hgo hdue hrec hfull => ⟨_, streamRead_full hreads ht hgo hfull, ?_⟩, fun hrun h => ⟨_, streamRead_idle hrun h, rfl⟩⟩
  · obtain ⟨hbytes, hcount, hpos, w, hring, hin, hport, helem, htap', htimed, hseq, htok, hat⟩ :=
      issueRead_place s c p st hp hreads.1 e t0 htap pa va hform hecc hparked hfree
    exact ⟨_, streamRead_issues hreads hgo hroom, hbytes, hcount, hpos, w, hring, hin, hport, helem, htap', htimed, hseq, htok, hat⟩
  · obtain ⟨hbytes, hcount, hpos, w, hring, -, hport, helem, htap', -, -, htok, hat⟩ := issueRead_bubble s c p st hp hreads.1 e t0 htap hform hecc
    exact ⟨_, streamRead_issues hreads hgo hroom, hbytes, hcount, hpos, w, hring, hport, helem, htap', htok, hat⟩
  · obtain ⟨-, -, -, -, -, -, -, hon, -⟩ := hreads
    refine ⟨s.streamStopInfo c st.region p cTIMING 8 0 0, stopDue_streamStop s c st.region p cTIMING 8 0 0 (.inl hon) hdue hrec, rfl, rfl, rfl⟩

end Sys2Proof.Machine
end

section
/-! Reel loads, stages and copies (O20): what reads of records leave alone, faults of commands, the head of the command queue, and the
copy engine. -/
namespace Sys2Proof.Machine

/-! ### Reads of records: of the cores, the error logs alone may change (R307) -/

/-- Of every core the error logs alone may differ. -/
def LogsOnly (s t : State) : Prop := ∀ k, t.core k = { s.core k with elog := (t.core k).elog }

theorem LogsOnly.refl (s : State) : LogsOnly s s := fun _ => rfl

theorem LogsOnly.trans {s t u : State} (h : LogsOnly s t) (k : LogsOnly t u) : LogsOnly s u := fun j => by rw [k j, h j]

theorem LogsOnly.slot {s t : State} (h : LogsOnly s t) (c : CpId) : t.slot c = s.slot c := by
  rw [State.slot, h c.core]
  rfl

theorem LogsOnly.region {s t : State} (h : LogsOnly s t) (c : CpId) (r : Fin 4) : t.region c r = s.region c r := by
  rw [State.region, h.slot]
  rfl

theorem LogsOnly.recRoom {s t : State} (h : LogsOnly s t) (k : Fin 256) (hs : RecRoom s k) : RecRoom t k := by
  rw [RecRoom, h k]
  exact hs

theorem logsOnly_modLog (s : State) (k : Fin 256) (a : Fin 8) (f : ErrLog → ErrLog) : LogsOnly s (s.modCore k fun c => c.modLog a f) := fun j => by
  by_cases hj : j = k
  · subst hj
    simp [Core.modLog]
  · rw [State.core_modCore_ne _ _ _ _ hj]

theorem logsOnly_logAt (s : State) (who : CpId) (part : BitVec 5) (a : PAddr) (m : EccMark) : LogsOnly s (s.logAt who part a m) := by
  unfold State.logAt
  extract_lets w enter stat
  split
  case h_1 | h_2 | h_3 => exact logsOnly_modLog s _ _ _
  all_goals exact fun _ => rfl

theorem logsOnly_load (s : State) (who : CpId) (part : BitVec 5) (a : PAddr) (n : Nat) : LogsOnly s (s.load who part a n).1 := by
  have hlog : LogsOnly s (s.logMarks who part a (s.marksAt a n)) :=
    List.foldlRecOn _ _ (motive := LogsOnly s) (LogsOnly.refl s) fun t ht m _ => ht.trans (logsOnly_logAt t who part _ m)
  unfold State.load
  extract_lets ms s'
  split <;> exact hlog

theorem logsOnly_loadPieces (s : State) (who : CpId) (n : Nat) (ps : List PAddr) : LogsOnly s (s.loadPieces who n ps).1 := by
  induction ps generalizing s with
  | nil => exact LogsOnly.refl s
  | cons a t ih =>
    have hload := logsOnly_load s who (s.slot who).part a n
    unfold State.loadPieces
    split
    next s1 h1 => rwa [h1] at hload
    next s1 b h1 =>
      rw [h1] at hload
      have hrest := hload.trans (ih s1)
      split
      next h2 => rwa [h2] at hrest
      next h2 => rwa [h2] at hrest

theorem logsOnly_readVirt (s : State) (c : CpId) (a : Word) (n : Nat) : LogsOnly s (s.readVirt c a n).1 := by
  unfold State.readVirt
  split
  · exact LogsOnly.refl s
  next ps _ =>
    have hload := logsOnly_loadPieces s c 8 ps
    split
    next h => rwa [h] at hload
    next h => rwa [h] at hload

theorem logsOnly_of_readVirt {s u : State} {c : CpId} {a : Word} {n : Nat} {x : Except (BitVec 8 × Word × Word × Word) (List Byte)}
    (h : s.readVirt c a n = (u, x)) : LogsOnly s u := by
  have hread := logsOnly_readVirt s c a n
  rwa [h] at hread

theorem logsOnly_of_readImage {s u : State} {c : CpId} {r : Fin 4} {a place : Word} {x : Except (BitVec 8 × Word × Word × Word) (Except W32 Image)}
    (h : s.readImage c r a place = (u, x)) : LogsOnly s u := by
  have hread : LogsOnly s (s.readImage c r a place).1 := by
    unfold State.readImage
    split
    next h1 => exact logsOnly_of_readVirt h1
    next h1 =>
      have hhead := logsOnly_of_readVirt h1
      extract_lets env
      split
      · exact hhead
      · split
        next h2 => exact hhead.trans (logsOnly_of_readVirt h2)
        next h2 => exact hhead.trans (logsOnly_of_readVirt h2)
  rwa [h] at hread

/-! ### Records that find room (R299, R302) -/

/-- With room, and nobody waiting, a record enters the queue at once. -/
theorem core_queueRec (s : State) (k : Fin 256) (key : RecKey) (f : RecFields) (h : RecRoom s k) : (s.queueRec k key f).core k =
    { s.core k with recq := (s.core k).recq ++ [f.bits], offerIn := if (s.core k).recq.isEmpty then 0 else (s.core k).offerIn } := by
  obtain ⟨hroom, hwait⟩ := h
  rw [State.queueRec, State.core_modCore_same, hwait]
  simp only [List.nil_append, Core.enterRecs, List.length_singleton, Core.enterRecs.go, hroom, if_true]
  rw [hwait]

theorem slot_queueRec (s : State) (k : Fin 256) (key : RecKey) (f : RecFields) (c : CpId) : (s.queueRec k key f).slot c = s.slot c :=
  State.slot_modCore_keeps s k _ c (Core.enterRecs_slots _)

/-- A command's fault adds a deferred trap to its slot's, and its record waits for no room (R241). -/
theorem commandFault_faults (s : State) (c : CpId) (order : Nat) (fpc : Word) (cause : BitVec 8) (val vaddr synd detail : Word) (hroom : RecRoom s c.core)
    (hrun : (s.cp c).run = .running) :
    let t := s.commandFault c order fpc cause val vaddr synd detail
    t.slot c = { s.slot c with cp := { s.cp c with dtraps := (s.cp c).dtraps ++ [⟨order, cause, val, fpc⟩] } } ∧ (t.core c.core).recWait = [] := by
  intro t
  have hrun' (key : RecKey) (f : RecFields) : ((s.queueRec c.core key f).cp c).run = .running := by rw [State.cp, slot_queueRec]; exact hrun
  simp only [t, State.commandFault, State.deferTrap, hrun']
  rw [State.modCp, State.slot_modSlot_same, State.core_modSlot_same, slot_queueRec, core_queueRec _ _ _ _ hroom]
  exact ⟨rfl, hroom.2⟩

/-! ### The head of the command queue (R193, R240) -/

/-- A command that leaves its queue sets events of its CP. -/
theorem slot_dequeue (s : State) (c : CpId) (m : Cmd) : ∃ ev, (s.dequeue c m).slot c =
    { s.slot c with cmdq := (s.slot c).cmdq.filter fun x => x.order != m.order, cp := (s.cp c).event ev } := by
  unfold State.dequeue
  extract_lets s1
  have hs1 : s1.slot c = { s.slot c with cmdq := (s.slot c).cmdq.filter fun x => x.order != m.order } := State.slot_modSlot_same _ _ _
  split
  · refine ⟨evCQE, ?_⟩
    rw [State.modCp, State.slot_modSlot_same, hs1]
    rfl
  · have hcp : (s.cp c).event 0 = s.cp c := by simp [Cp.event]
    refine ⟨0, hs1.trans ?_⟩
    rw [hcp]
    rfl

/-- Without a trig and a launch nothing is reported. -/
theorem reportAndProgress_idle (s : State) (c : CpId) (ht : (s.cp c).trigged = none) (hl : (s.slot c).launch = none) : s.reportAndProgress c = s := by
  have htrig : (s.slot c).cp.trigged = none := ht
  simp only [State.reportAndProgress, State.reportTrig, htrig, hl]

/-- A command that has had its effect leaves the queue, unless its record waits for room (R303). -/
def State.headEnds (c : CpId) (m : Cmd) (t : State) : State := if t.recordWaits c m then t.modSlot c fun x => x.failCmd m else t.dequeue c m

theorem commandQueueAdvance_exec (c : CpId) (s : State) : exec (.commandQueueAdvance c) s = execCommandQueueAdvance c s := rfl

theorem onGrid_of_bound (s : State) (c : CpId) (h : (s.slot c).status = 0x01) : s.onGrid c = true := by simp [State.onGrid, Slot.bound, h]

theorem recordWaits_of_nil (s : State) (c : CpId) (m : Cmd) (h : (s.core c.core).recWait = []) : s.recordWaits c m = false := by
  simp [State.recordWaits, State.recWaits, h]

section
variable {s : State} {c : CpId} {m : Cmd} (hb : (s.slot c).status = 0x01) (hq : (s.slot c).cmdq = [m]) (hroom : RecRoom s c.core)
  (hrun : (s.cp c).run = .running) (htrig : (s.cp c).trigged = none) (hlaunch : (s.slot c).launch = none)

include hb hq hroom

/-- A queue's only command has its turn. -/
theorem commandQueueAdvance_single : exec (.commandQueueAdvance c) s = .next (((s.headAct c m).getD s).reportAndProgress c) := by
  have hpass : passing [m] [] = [m] := by
    unfold passing
    split <;> rfl
  rw [commandQueueAdvance_exec, execCommandQueueAdvance]
  simp [onGrid_of_bound s c hb, hq, hpass, recordWaits_of_nil s c m hroom.2]

include htrig hlaunch in
theorem commandQueueAdvance_waits (h : s.headAct c m = none) : exec (.commandQueueAdvance c) s = .next s := by
  rw [commandQueueAdvance_single hb hq hroom, h]
  exact congrArg _ (reportAndProgress_idle s c htrig hlaunch)

/-- A command whose effect leaves its queue, its task and the waiting records ends. -/
theorem commandQueueAdvance_ends (t : State) (h : s.headAct c m = some (t.headEnds c m)) (hwait : (t.core c.core).recWait = [])
    (hcmdq : (t.slot c).cmdq = [m]) (ht : (t.cp c).trigged = none) (hl : (t.slot c).launch = none) : Completes (.commandQueueAdvance c) s fun u =>
      ∃ ev, u.slot c = { t.slot c with cmdq := [], cp := (t.cp c).event ev } := by
  obtain ⟨ev, hslot⟩ := slot_dequeue t c m
  have hends : t.headEnds c m = t.dequeue c m := by rw [State.headEnds, recordWaits_of_nil t c m hwait]; rfl
  have hidle : (t.dequeue c m).reportAndProgress c = t.dequeue c m := by
    refine reportAndProgress_idle _ c ?_ ?_
    · rw [State.cp, hslot]
      exact ht
    · rw [hslot]
      exact hl
  refine ⟨t.dequeue c m, ?_, ev, ?_⟩
  · rw [commandQueueAdvance_single hb hq hroom, h, hends]
    exact congrArg _ hidle
  · rw [hslot, hcmdq]
    simp

include htrig hlaunch

/-- A command that changes its slot alone, after a read of its record. -/
theorem commandQueueAdvance_works (u : State) (hu : LogsOnly s u) (f : Slot → Slot) (h : s.headAct c m = some ((u.modSlot c f).headEnds c m))
    (hf : ∀ t, (f t).cmdq = t.cmdq ∧ (f t).cp = t.cp ∧ (f t).launch = t.launch) : Completes (.commandQueueAdvance c) s fun t =>
      ∃ cp, t.slot c = { f (s.slot c) with cmdq := [], cp := cp } := by
  obtain ⟨hcmdq, hcp, hl⟩ := hf (s.slot c)
  have hslot : (u.modSlot c f).slot c = f (s.slot c) := by rw [State.slot_modSlot_same, hu.slot]
  have hwait : ((u.modSlot c f).core c.core).recWait = [] := by rw [State.core_modSlot_same]; exact (hu.recRoom c.core hroom).2
  obtain ⟨t, ht, ev, hends⟩ := commandQueueAdvance_ends hb hq hroom (u.modSlot c f) h hwait (by rw [hslot, hcmdq, hq])
    (by rw [State.cp, hslot, hcp]; exact htrig) (by rw [hslot, hl, hlaunch])
  exact ⟨t, ht, _, hends.trans (by rw [hslot])⟩

include hrun

/-- A command that ends in a fault, after a read of its record (R241). -/
theorem commandQueueAdvance_fails (u : State) (hu : LogsOnly s u) (cause : BitVec 8) (val vaddr synd detail : Word)
    (h : s.headAct c m = some ((u.commandFault c m.order m.pc cause val vaddr synd detail).headEnds c m)) : Completes (.commandQueueAdvance c) s fun t =>
      (t.slot c).cmdq = [] ∧ ∃ d ∈ (t.cp c).dtraps, d.order = m.order ∧ d.cause = cause ∧ d.tval = val ∧ d.fpc = m.pc := by
  have hcp : u.cp c = s.cp c := congrArg Slot.cp (hu.slot c)
  obtain ⟨hslot, hwait⟩ := commandFault_faults u c m.order m.pc cause val vaddr synd detail (hu.recRoom c.core hroom) (by rw [hcp, hrun])
  rw [hcp, hu.slot] at hslot
  obtain ⟨t, ht, ev, hends⟩ := commandQueueAdvance_ends hb hq hroom _ h hwait (by rw [hslot]; exact hq)
    (by rw [State.cp, hslot]; exact htrig) (by rw [hslot]; exact hlaunch)
  refine ⟨t, ht, by rw [hends], ⟨m.order, cause, val, m.pc⟩, ?_, rfl, rfl, rfl, rfl⟩
  rw [State.cp, hends, State.cp, hslot]
  exact List.mem_append_right _ List.mem_cons_self

end

end Sys2Proof.Machine
end

section
/-! Reel loads, stages and copies (O20): the parts of O20. -/
namespace Sys2Proof.Machine

/-! ### Reel loads (R104, R243) -/

theorem reelLoadComplete_exec (c : CpId) (r : Fin 4) (s : State) : exec (.reelLoadComplete c r) s = execReelLoadComplete c r s := rfl

/-- The load of a region ends with its state and report, and its command leaves the queue. -/
def State.loadDone (s : State) (c : CpId) (r : Fin 4) (m : Cmd) (st : BitVec 8) (rep : W32) : State :=
  (s.modRegion c r fun g => { g with loading := none, lastst := st, loadrep := rep }).dequeue c m

theorem loadDone_ends (s : State) (c : CpId) (r : Fin 4) (m : Cmd) (st : BitVec 8) (rep : W32) :
    (s.loadDone c r m st rep).region c r = { s.region c r with loading := none, lastst := st, loadrep := rep } ∧
      m ∉ ((s.loadDone c r m st rep).slot c).cmdq := by
  obtain ⟨ev, hslot⟩ := slot_dequeue (s.modRegion c r fun g => { g with loading := none, lastst := st, loadrep := rep }) c m
  rw [State.region, State.loadDone, hslot]
  refine ⟨State.region_modRegion_same s c r _, fun hm => ?_⟩
  have hne := (List.mem_filter.mp hm).2
  simp at hne

/-- An image that fills the next bank changes of its region the next bank's state and header (R243). -/
theorem region_fillNext (s : State) (c : CpId) (r : Fin 4) (i : Image) :
    (s.fillNext c r i).region c r = { s.region c r with next := .loaded, nextHdr := i.hdr } := by
  unfold State.fillNext
  extract_lets s1
  have hs1 : s1.region c r = s.region c r :=
    List.foldlRecOn i.secs _ (motive := fun t : State => t.region c r = s.region c r) rfl fun t ht x _ => by
      split
      · rw [State.region_modElem, ht]
      · exact ht
  rw [State.patchExtents, State.region_modSlot_keeps _ _ _ _ rfl, State.region_modRegion_same, hs1]

section
variable {s : State} {c : CpId} {r : Fin 4} {m : Cmd} (hb : (s.slot c).status = 0x01) (hm : (s.region c r).loading = some m) (hf : m.failed = false)
  (hwaits : s.recordWaits c m = false)
include hb hm hf hwaits

theorem reelLoadComplete_fails (u : State) (w : W32) (h : s.readImage c r m.a m.b = (u, .ok (.error w))) :
    exec (.reelLoadComplete c r) s = .next (u.loadDone c r m 3 w) := by
  rw [reelLoadComplete_exec, execReelLoadComplete]
  simp only [hm, onGrid_of_bound s c hb, hwaits, hf, h, Bool.not_true, Bool.or_self, Bool.false_eq_true, if_false]
  rfl

theorem reelLoadComplete_passes (u : State) (i : Image) (h : s.readImage c r m.a m.b = (u, .ok (.ok i))) :
    exec (.reelLoadComplete c r) s = .next ((u.fillNext c r i).loadDone c r m 0 0) := by
  rw [reelLoadComplete_exec, execReelLoadComplete]
  simp only [hm, onGrid_of_bound s c hb, hwaits, hf, h, Bool.not_true, Bool.or_self, Bool.false_eq_true, if_false]
  rfl

/-- The load of a bound slot's region fails a check or fills the next bank (R104, R243). -/
theorem reelLoadComplete_ends :
    (∀ s1 w, s.readImage c r m.a m.b = (s1, .ok (.error w)) → Completes (.reelLoadComplete c r) s fun t =>
      t.region c r = { s.region c r with loading := none, lastst := 3, loadrep := w } ∧ m ∉ (t.slot c).cmdq) ∧
    (∀ s1 im, s.readImage c r m.a m.b = (s1, .ok (.ok im)) → Completes (.reelLoadComplete c r) s fun t =>
      t.region c r = { s.region c r with loading := none, lastst := 0, loadrep := 0, next := .loaded, nextHdr := im.hdr } ∧ m ∉ (t.slot c).cmdq) := by
  refine ⟨fun u w h => ⟨_, reelLoadComplete_fails hb hm hf hwaits u w h, ?_⟩, fun u i h => ⟨_, reelLoadComplete_passes hb hm hf hwaits u i h, ?_⟩⟩
  · obtain ⟨hregion, hcmdq⟩ := loadDone_ends u c r m 3 w
    exact ⟨hregion.trans (by rw [(logsOnly_of_readImage h).region]), hcmdq⟩
  · obtain ⟨hregion, hcmdq⟩ := loadDone_ends (u.fillNext c r i) c r m 0 0
    exact ⟨hregion.trans (by rw [region_fillNext, (logsOnly_of_readImage h).region]), hcmdq⟩

end

/-! ### Copies and stages at the head of the queue (R240, R241, R257, R261) -/

section
variable {s : State} {c : CpId} {m : Cmd} {gather : Bool} {u : State} {b : List Byte}

section
variable (hfull : (s.slot c).copyq.length < 8) (hread : s.readVirt c m.a 64 = (u, .ok b))
include hfull hread

theorem copyHead_breaks (hok : copyFieldsOk gather b = false) : s.copyHead c m gather = some (u.commandFault c m.order m.pc cFORMAT m.a m.a 0 0) := by
  simp [State.copyHead, Nat.not_le.mpr hfull, hread, hok]

variable (hok : copyFieldsOk gather b = true)
include hok

theorem copyHead_noStage (hstgd : (fld b 0x14 1).testBit 2 = true)
    (hstage : (s.slot c).stages.get (ix16 (BitVec.ofNat 4 (fld b 0x16 1))) = none) :
    s.copyHead c m gather = some (u.commandFault c m.order m.pc cFORMAT m.a m.a 0 0) := by
  simp only [State.copyHead, Nat.not_le.mpr hfull, hread, hok, hstgd, hstage, Bool.not_true, Bool.false_eq_true, if_false, if_true]

theorem copyHead_staged (hstgd : (fld b 0x14 1).testBit 2 = true) (g : Stage)
    (hstage : (s.slot c).stages.get (ix16 (BitVec.ofNat 4 (fld b 0x16 1))) = some g) :
    s.copyHead c m gather = some (u.modSlot c fun t => { t with copyq := t.copyq ++ [copyJob m gather b (some g) none] }) := by
  simp only [State.copyHead, Nat.not_le.mpr hfull, hread, hok, hstgd, hstage, Bool.not_true, Bool.false_eq_true, if_false, if_true]

theorem copyHead_plain (hstgd : (fld b 0x14 1).testBit 2 = false) (hctr : fld64 b 0x18 = 0) :
    s.copyHead c m gather = some (u.modSlot c fun t => { t with copyq := t.copyq ++ [copyJob m gather b none none] }) := by
  simp [State.copyHead, Nat.not_le.mpr hfull, hread, hok, hstgd, hctr]

theorem copyHead_counted (hstgd : (fld b 0x14 1).testBit 2 = false) (hctr : fld64 b 0x18 ≠ 0) (pa : PAddr)
    (hpa : u.counterPlace c (fld64 b 0x18) true = .ok pa) :
    s.copyHead c m gather = some (u.modSlot c fun t => { t with copyq := t.copyq ++ [copyJob m gather b none (some (fld64 b 0x18, pa))] }) := by
  simp only [State.copyHead, Nat.not_le.mpr hfull, hread, hok, hstgd, if_neg hctr, hpa, Bool.not_true, Bool.false_eq_true, if_false]

theorem copyHead_noCounter (hstgd : (fld b 0x14 1).testBit 2 = false) (hctr : fld64 b 0x18 ≠ 0) (e : BitVec 8)
    (he : u.counterPlace c (fld64 b 0x18) true = .error e) : ∃ detail,
    s.copyHead c m gather = some (u.commandFault c m.order m.pc e (fld64 b 0x18) (fld64 b 0x18) 0 detail) := by
  refine ⟨if e == cPAGE then pageDetail (fld64 b 0x18) true else 0, ?_⟩
  simp only [State.copyHead, Nat.not_le.mpr hfull, hread, hok, hstgd, if_neg hctr, he, Bool.not_true, Bool.false_eq_true, if_false]

end

theorem copyHead_full (hfull : 8 ≤ (s.slot c).copyq.length) : s.copyHead c m gather = none := by simp [State.copyHead, hfull]

theorem copyHead_unread (hfull : (s.slot c).copyq.length < 8) {e : BitVec 8 × Word × Word × Word} (hread : s.readVirt c m.a 64 = (u, .error e)) :
    s.copyHead c m gather = some (u.commandFault c m.order m.pc e.1 e.2.1 e.2.1 e.2.2.1 e.2.2.2) := by
  simp [State.copyHead, Nat.not_le.mpr hfull, hread, State.headFault]

/-- A stage that a record defines (R261). -/
def stageOf (b : List Byte) (fill rel : PAddr) : Stage :=
  { base := fld b 0 8, slen := fld b 8 4, n := fld b 0x0C 2, scope := BitVec.ofNat 3 (fld b 0x0E 1), fill := fill, rel := rel
    fillVa := fld64 b 0x10, relVa := fld64 b 0x18 }

theorem stageHead_unread (j : BitVec 4) {e : BitVec 8 × Word × Word × Word} (hread : s.readVirt c m.a 32 = (u, .error e)) :
    s.stageHead c m j = some (u.commandFault c m.order m.pc e.1 e.2.1 e.2.1 e.2.2.1 e.2.2.2) := by
  simp [State.stageHead, hread, State.headFault]

theorem stageHead_breaks (j : BitVec 4) (hread : s.readVirt c m.a 32 = (u, .ok b))
    (h : stageFieldsOk ((s.core c.core).sceneShare c.slot).2 b = false ∨ (∃ e, u.counterPlace c (fld64 b 0x10) true = .error e) ∨
      ∃ e, u.counterPlace c (fld64 b 0x18) true = .error e) : s.stageHead c m j = some (u.commandFault c m.order m.pc cFORMAT m.a m.a 0 0) := by
  simp only [State.stageHead, hread]
  split
  · rfl
  next hok =>
    split
    next f z hf hz =>
      rcases h with h | ⟨e, h⟩ | ⟨e, h⟩
      · simp [h] at hok
      · exact nomatch hf.symm.trans h
      · exact nomatch hz.symm.trans h
    · rfl

theorem stageHead_defines (j : BitVec 4) (hread : s.readVirt c m.a 32 = (u, .ok b)) (fill rel : PAddr)
    (hok : stageFieldsOk ((s.core c.core).sceneShare c.slot).2 b = true) (hf : u.counterPlace c (fld64 b 0x10) true = .ok fill)
    (hz : u.counterPlace c (fld64 b 0x18) true = .ok rel) :
    s.stageHead c m j = some (u.modSlot c fun t => { t with stages := vmod t.stages (ix16 j) fun _ => some (stageOf b fill rel) }) := by
  simp only [State.stageHead, hread, hok, hf, hz, Bool.not_true, Bool.false_eq_true, if_false]
  rfl

end

section
variable {s : State} {c : CpId} {m : Cmd} (hf : m.failed = false) (hparked : s.recordParked c m = false)
include hf hparked

theorem headAct_copy (gather : Bool) (x : Reg) (hi : m.i = if gather then .cpyg x else .cpy x) :
    s.headAct c m = (s.copyHead c m gather).map (State.headEnds c m) := by
  cases gather <;>
  · simp only [Bool.false_eq_true, if_false, if_true] at hi
    simp only [State.headAct, hf, hparked, hi, Bool.false_eq_true, if_false]
    rfl

theorem headAct_stage (x : Reg) (j : BitVec 4) (hi : m.i = .stgdef x j) : s.headAct c m = (s.stageHead c m j).map (State.headEnds c m) := by
  simp only [State.headAct, hf, hparked, hi, Bool.false_eq_true, if_false]
  rfl

end

section
variable {s : State} {c : CpId} {m : Cmd} (hb : (s.slot c).status = 0x01) (hq : (s.slot c).cmdq = [m]) (hf : m.failed = false)
  (hparked : s.recordParked c m = false) (hroom : RecRoom s c.core) (hrun : (s.cp c).run = .running) (htrig : (s.cp c).trigged = none)
  (hlaunch : (s.slot c).launch = none)
include hb hq hf hparked hroom hrun htrig hlaunch

/-- cpy and cpyg at the head (R240, R257, R258). -/
theorem commandQueueAdvance_copy (gather : Bool) (x : Reg) (hi : m.i = if gather then .cpyg x else .cpy x) :
    let does (p : State → Prop) : Prop := Completes (.commandQueueAdvance c) s p
    let fails (cause : BitVec 8) (v : Word) : Prop := does fun t => (t.slot c).cmdq = [] ∧
      ∃ d ∈ (t.cp c).dtraps, d.order = m.order ∧ d.cause = cause ∧ d.tval = v ∧ d.fpc = m.pc
    (8 ≤ (s.slot c).copyq.length → does fun t => t = s) ∧
    ((s.slot c).copyq.length < 8 → (∀ u e, s.readVirt c m.a 64 = (u, .error e) → fails e.1 e.2.1) ∧ ∀ u b, s.readVirt c m.a 64 = (u, .ok b) →
      let ctr := fld64 b 0x18
      let stage := (s.slot c).stages.get (ix16 (BitVec.ofNat 4 (fld b 0x16 1)))
      let joins (g : Option Stage) (pa : Option (Word × PAddr)) : Prop := does fun t => (t.slot c).cmdq = [] ∧
        (t.slot c).copyq = (s.slot c).copyq ++ [copyJob m gather b g pa]
      (copyFieldsOk gather b = false → fails 0x09 m.a) ∧
      (copyFieldsOk gather b = true → (fld b 0x14 1).testBit 2 = true → (stage = none → fails 0x09 m.a) ∧ (stage ≠ none → joins stage none)) ∧
      (copyFieldsOk gather b = true → (fld b 0x14 1).testBit 2 = false → (ctr = 0 → joins none none) ∧
        (ctr ≠ 0 → (∀ pa, u.counterPlace c ctr true = .ok pa → joins none (some (ctr, pa))) ∧ ∀ e, u.counterPlace c ctr true = .error e → fails e ctr))) := by
  intro does fails
  have hhead := headAct_copy hf hparked gather x hi
  have hfails (u : State) (hu : LogsOnly s u) (cause : BitVec 8) (v vaddr synd detail : Word)
      (h : s.copyHead c m gather = some (u.commandFault c m.order m.pc cause v vaddr synd detail)) : fails cause v :=
    commandQueueAdvance_fails hb hq hroom hrun htrig hlaunch u hu cause v vaddr synd detail (by rw [hhead, h]; rfl)
  refine ⟨fun hfull => ⟨_, commandQueueAdvance_waits hb hq hroom htrig hlaunch (by rw [hhead, copyHead_full hfull]; rfl), rfl⟩,
    fun hfull => ⟨fun u e hread => hfails u (logsOnly_of_readVirt hread) _ _ _ _ _ (copyHead_unread hfull hread), fun u b hread => ?_⟩⟩
  intro ctr stage joins
  have hu := logsOnly_of_readVirt hread
  have hjoins (g : Option Stage) (pa : Option (Word × PAddr))
      (h : s.copyHead c m gather = some (u.modSlot c fun t => { t with copyq := t.copyq ++ [copyJob m gather b g pa] })) : joins g pa := by
    obtain ⟨t, ht, cp, hslot⟩ := commandQueueAdvance_works hb hq hroom htrig hlaunch u hu
      (fun t => { t with copyq := t.copyq ++ [copyJob m gather b g pa] }) (by rw [hhead, h]; rfl) fun _ => ⟨rfl, rfl, rfl⟩
    exact ⟨t, ht, by rw [hslot], by rw [hslot]⟩
  refine ⟨fun hok => hfails u hu _ _ _ _ _ (copyHead_breaks hfull hread hok), fun hok hstgd => ⟨fun hstage => ?_, fun hstage => ?_⟩,
    fun hok hstgd => ⟨fun hctr => hjoins _ _ (copyHead_plain hfull hread hok hstgd hctr), fun hctr =>
      ⟨fun pa hpa => hjoins _ _ (copyHead_counted hfull hread hok hstgd hctr pa hpa), fun e he => ?_⟩⟩⟩
  · exact hfails u hu _ _ _ _ _ (copyHead_noStage hfull hread hok hstgd hstage)
  · obtain ⟨g, hg⟩ := Option.ne_none_iff_exists'.mp hstage
    rw [hg]
    exact hjoins _ _ (copyHead_staged hfull hread hok hstgd g hg)
  · obtain ⟨detail, h⟩ := copyHead_noCounter hfull hread hok hstgd hctr e he
    exact hfails u hu _ _ _ _ _ h

/-- stgdef at the head (R261, R262). -/
theorem commandQueueAdvance_stage (x : Reg) (j : BitVec 4) (hi : m.i = .stgdef x j) :
    let does (p : State → Prop) : Prop := Completes (.commandQueueAdvance c) s p
    let fails (cause : BitVec 8) (v : Word) : Prop := does fun t => (t.slot c).cmdq = [] ∧
      ∃ d ∈ (t.cp c).dtraps, d.order = m.order ∧ d.cause = cause ∧ d.tval = v ∧ d.fpc = m.pc
    (∀ u e, s.readVirt c m.a 32 = (u, .error e) → fails e.1 e.2.1) ∧ ∀ u b, s.readVirt c m.a 32 = (u, .ok b) →
    let ok := stageFieldsOk ((s.core c.core).sceneShare c.slot).2 b
    let f := u.counterPlace c (fld64 b 0x10) true
    let z := u.counterPlace c (fld64 b 0x18) true
    (ok = false ∨ (∃ e, f = .error e) ∨ (∃ e, z = .error e) → fails 0x09 m.a) ∧
    (∀ fp zp, ok = true → f = .ok fp → z = .ok zp → does fun t => (t.slot c).cmdq = [] ∧ ∃ g : Stage, (t.slot c).stages = vmod (s.slot c).stages (ix16 j) (fun _ => some g) ∧
      g.base = fld b 0 8 ∧ g.slen = fld b 8 4 ∧ g.n = fld b 0x0C 2 ∧ g.fill = fp ∧ g.rel = zp) := by
  intro does fails
  have hhead := headAct_stage hf hparked x j hi
  have hfails (u : State) (hu : LogsOnly s u) (cause : BitVec 8) (v vaddr synd detail : Word)
      (h : s.stageHead c m j = some (u.commandFault c m.order m.pc cause v vaddr synd detail)) : fails cause v :=
    commandQueueAdvance_fails hb hq hroom hrun htrig hlaunch u hu cause v vaddr synd detail (by rw [hhead, h]; rfl)
  refine ⟨fun u e hread => hfails u (logsOnly_of_readVirt hread) _ _ _ _ _ (stageHead_unread j hread), fun u b hread => ?_⟩
  intro ok f z
  have hu := logsOnly_of_readVirt hread
  refine ⟨fun h => hfails u hu _ _ _ _ _ (stageHead_breaks j hread h), fun fill rel hok hfill hrel => ?_⟩
  obtain ⟨t, ht, cp, hslot⟩ := commandQueueAdvance_works hb hq hroom htrig hlaunch u hu
    (fun t => { t with stages := vmod t.stages (ix16 j) fun _ => some (stageOf b fill rel) })
    (by rw [hhead, stageHead_defines j hread fill rel hok hfill hrel]; rfl) fun _ => ⟨rfl, rfl, rfl⟩
  exact ⟨t, ht, by rw [hslot], stageOf b fill rel, by rw [hslot], rfl, rfl, rfl, rfl, rfl⟩

end

/-! ### The copy engine (R258) -/

theorem copyStart_exec (c : CpId) (s : State) : exec (.copyStart c) s = execCopyStart c s := rfl
theorem copyComplete_exec (c : CpId) (s : State) : exec (.copyComplete c) s = execCopyComplete c s := rfl

section
variable {s : State} {c : CpId} (hb : (s.slot c).status = 0x01)
include hb

/-- The engine takes a copy without surfaces, stage or declared scene memory. -/
theorem copyStart_takes (j : CopyJob) (rest : List CopyJob) (hwaits : s.copyRecWaits c = false) (hidle : (s.slot c).copying = none)
    (hq : (s.slot c).copyq = j :: rest) (hgather : j.gather = false) (hsrc : j.ssurf = false) (hdst : j.dsurf = false) (hstage : j.stage = none)
    (hwrites : (s.slot c).declared false j.dst j.len = false) (hreads : (s.slot c).declared true j.src j.len = false) :
    Completes (.copyStart c) s fun t => (t.slot c).copyq = rest ∧
      ∃ run, (t.slot c).copying = some run ∧ run.job = j ∧ run.unit = 0 ∧ run.srcBase = j.src ∧ run.dstBase = j.dst := by
  refine ⟨s.modSlot c fun t => { t.takeCopy with copying := some ⟨j, j.src, none, j.dst, 0, 0, none, none⟩ }, ?_, ?_⟩
  · rw [copyStart_exec, execCopyStart]
    simp [hidle, hq, onGrid_of_bound s c hb, hwaits, hsrc, hdst, State.resolveSurf, CopyJob.dest, hstage, State.sourceDeclared, hgather, hwrites, hreads,
      State.stageTurn]
  · simp only [State.slot_modSlot_same]
    exact ⟨by simp [Slot.takeCopy, hq], _, rfl, rfl, rfl, rfl, rfl⟩

/-- Once every unit has moved, the engine signals the copy's near counter and is free (R258, R282). -/
theorem copyComplete_signals (r : CopyRun) (a : Word) (k : Fin 256) (o : Nat) (hmem : MemoryCanonical s) (hecc : s.ecc = [])
    (hcopy : (s.slot c).copying = some r) (hlen : r.job.len ≤ 32 * r.unit) (hdst : r.job.dsurf = false) (hstage : r.job.stage = none)
    (hctr : r.job.ctr = some (a, ⟨.loc k, o⟩)) (hadds : s.addsOf c .engine s.ids = false) (htrig : (s.cp c).trigged = none)
    (hlaunch : (s.slot c).launch = none) : Completes (.copyComplete c) s fun t => (t.slot c).copying = none ∧
      t.wordAt ⟨.loc k, o⟩ = s.wordAt ⟨.loc k, o⟩ + r.job.inc ∧ OnlyBytes ⟨.loc k, o⟩ 8 s t := by
  have hmoved : ¬ r.unit < r.job.units := by rw [CopyJob.units]; omega
  obtain ⟨hword, hbytes, hslot⟩ := State.addCounter_adds s c (s.slot c).part ⟨.loc k, o⟩ r.job.inc hmem hecc
  let u := (s.addCounter c (s.slot c).part ⟨.loc k, o⟩ r.job.inc).modSlot c fun x => { x with copying := none }
  have hu : u.slot c = { s.slot c with copying := none } := by rw [State.slot_modSlot_same, hslot]
  have hidle : u.reportAndProgress c = u := reportAndProgress_idle u c (by rw [State.cp, hu]; exact htrig) (by rw [hu]; exact hlaunch)
  have hsignal : s.copySignal c r.job = s.addCounter c (s.slot c).part ⟨.loc k, o⟩ r.job.inc := by
    simp only [State.copySignal, hstage, hctr]
    exact signalBy_near s c .engine ⟨.loc k, o⟩ a r.job.inc ⟨k, .inl rfl⟩ hadds
  refine ⟨u, ?_, by rw [hu], hword, hbytes⟩
  rw [copyComplete_exec, execCopyComplete]
  simp only [hcopy, hmoved, onGrid_of_bound s c hb, hstage, hdst, hsignal, Option.isSome_none, decide_false, Bool.not_true, Bool.not_false, Bool.false_and,
    Bool.or_self, Bool.false_eq_true, if_false, if_true]
  exact congrArg _ hidle

end

/-- Settles O20: the end of a load, the commands cpy, cpyg and stgdef at the head of the queue, and the copy engine's start and end. -/
theorem reelAndCopy : Obligations.ReelAndCopy := by
  unfold Obligations.ReelAndCopy
  refine ⟨fun s c r m hb hm hecc hf hwaits => reelLoadComplete_ends hb hm hf hwaits, fun s c m x j hb hq hf hparked hroom hrun htrig hlaunch => ?_,
    fun s c j rest r a k o hb hwaits => ⟨copyStart_takes hb j rest hwaits, copyComplete_signals hb r a k o⟩⟩
  exact ⟨fun gather => commandQueueAdvance_copy hb hq hf hparked hroom hrun htrig hlaunch gather x,
    commandQueueAdvance_stage hb hq hf hparked hroom hrun htrig hlaunch x j⟩

end Sys2Proof.Machine
end

section
/-! Results that land (O39): what stays of a slot while they do, what each act leaves in its element, and the landing of a region. -/
namespace Sys2Proof.Machine

/-! ### What a landing leaves of regions (R66, R139) -/

/-- A region is the same but for a stop that has come due and a walk. -/
def SameTake (g h : Region) : Prop := h = { g with stopDue := h.stopDue, walking := h.walking }

theorem SameTake.trans {g h i : Region} (hg : SameTake g h) (hi : SameTake h i) : SameTake g i := by
  rw [SameTake] at hg hi ⊢
  rw [hi, hg]

theorem sameTake_addStop (g : Region) (i : StopInfo) : SameTake g (g.addStop i) := by
  unfold Region.addStop
  split <;> rfl

/-- A slot keeps its elements, and its regions but for due stops and walks; the agenda stays. -/
def Quiet (c : CpId) (s t : State) : Prop :=
  t.agenda = s.agenda ∧ (∀ r, SameTake (s.region c r) (t.region c r)) ∧ ∀ e, t.elem c e = s.elem c e

theorem Quiet.refl (c : CpId) (s : State) : Quiet c s s := ⟨rfl, fun _ => rfl, fun _ => rfl⟩

theorem Quiet.trans {c : CpId} {s t u : State} (h : Quiet c s t) (k : Quiet c t u) : Quiet c s u := by
  obtain ⟨ha, hr, he⟩ := h
  obtain ⟨ka, kr, ke⟩ := k
  exact ⟨ka.trans ha, fun r => (hr r).trans (kr r), fun e => (ke e).trans (he e)⟩

theorem quiet_of_sameSlots {s t : State} (c : CpId) (h : SameSlots s t) : Quiet c s t :=
  ⟨h.2, fun r => by rw [h.region]; rfl, fun e => by rw [State.elem, h.1]; rfl⟩

theorem quiet_modSlot (s : State) (c : CpId) (f : Slot → Slot) (hr : (f (s.slot c)).regions = (s.slot c).regions) (he : (f (s.slot c)).elems = (s.slot c).elems) :
    Quiet c s (s.modSlot c f) :=
  ⟨rfl, fun r => by rw [State.region_modSlot_keeps _ _ _ _ hr]; rfl, fun e => State.elem_modSlot_keeps s c f e he⟩

theorem quiet_modPort (s : State) (c : CpId) (p : BitVec 5) (f : PortCtx → PortCtx) : Quiet c s (s.modPort c p f) :=
  quiet_modSlot s c _ (Slot.modPort_regions _ _ _) (Slot.modPort_elems _ _ _)

theorem quiet_modRegion (s : State) (c : CpId) (r : Fin 4) (f : Region → Region) (hf : SameTake (s.region c r) (f (s.region c r))) :
    Quiet c s (s.modRegion c r f) := by
  refine ⟨rfl, fun q => ?_, State.elem_modRegion s c r f⟩
  by_cases hq : q = r
  · subst hq
    rw [State.region_modRegion_same]
    exact hf
  · have hkeeps : (s.modRegion c r f).region c q = s.region c q := by
      simp only [State.region, State.modRegion, State.slot_modSlot_same, vmod_get_ne _ _ _ _ hq]
    rw [hkeeps]
    rfl

/-! ### Tokens that leave outbound taps (R445) -/

theorem sameSlots_modRing (s : State) (k : Fin 256) (f : Core → Core) (h : (f (s.core k)).slots = (s.core k).slots) : SameSlots s (s.modCore k f) :=
  ⟨fun c => State.slot_modCore_keeps s k f c h, rfl⟩

theorem quiet_addToken (s : State) (c : CpId) (k : Fin 256) (w : RingTok) : Quiet c s (s.addToken k w) :=
  quiet_of_sameSlots c (sameSlots_modRing s.newId k _ rfl)

theorem quiet_streamStop (s : State) (c : CpId) (r : Fin 4) (p : BitVec 5) (cause : BitVec 8) (detail va synd : Word) :
    Quiet c s (s.streamStop c r p cause detail va synd) :=
  quiet_modRegion s c r _ (sameTake_addStop _ _)

theorem quiet_logIndex (s : State) (c : CpId) (st : Stream) : Quiet c s (s.logIndex c st) := by
  unfold State.logIndex
  split
  · exact Quiet.refl c s
  · exact quiet_of_sameSlots c (sameSlots_load s c _ _ _)

theorem quiet_endStream (s : State) (c : CpId) (p : BitVec 5) : Quiet c s (s.endStream c p) := by
  unfold State.endStream
  extract_lets gone s0 shut s1
  have hs1 : Quiet c s s1 := (quiet_modSlot s c _ rfl rfl : Quiet c s s0).trans (quiet_modPort s0 c p _)
  split
  · split
    · exact hs1.trans (quiet_modRegion s1 c _ _ rfl)
    · exact hs1
  · exact hs1

theorem quiet_startWalk (s : State) (c : CpId) (p : BitVec 5) (st : Stream) (va : Nat) : Quiet c s (s.startWalk c p st va) :=
  (quiet_modPort s c p _).trans (quiet_modRegion _ c _ _ rfl)

theorem quiet_sendWrite (s : State) (c : CpId) (p : BitVec 5) (st : Stream) (e : Fin 256) (t : Fin 4) (tok : Tok) : Quiet c s (s.sendWrite c p st e t tok).1 := by
  unfold State.sendWrite
  split
  · exact ((quiet_logIndex s c st).trans (quiet_addToken _ c _ _)).trans (quiet_modPort _ c p _)
  · dsimp only
    split
    · exact quiet_startWalk s c p st _
    · exact Quiet.refl c s
  · exact (quiet_logIndex s c st).trans (quiet_streamStop _ c _ p _ _ _ _)
  · exact Quiet.refl c s

theorem quiet_skipBubbles (s : State) (c : CpId) (p : BitVec 5) (n : Nat) : Quiet c s (s.skipBubbles c p n) := by
  induction n generalizing s with
  | zero => exact Quiet.refl c s
  | succ n ih =>
    unfold State.skipBubbles
    split
    · exact Quiet.refl c s
    · split
      · exact Quiet.refl c s
      · split
        · exact (quiet_modPort s c p _).trans (ih _)
        · exact Quiet.refl c s

theorem quiet_passBubbles (s : State) (c : CpId) (p : BitVec 5) : Quiet c s (s.passBubbles c p) := by
  unfold State.passBubbles
  split
  · exact Quiet.refl c s
  · split
    · exact Quiet.refl c s
    · extract_lets s1
      have hs1 : Quiet c s s1 := quiet_skipBubbles s c p _
      split
      · split
        · exact hs1.trans (quiet_endStream s1 c p)
        · exact hs1
      · exact hs1

theorem quiet_sendFar (s : State) (c : CpId) (p : BitVec 5) (r : Fin 4) (e : Fin 256) (t : Fin 4) (tok : Tok) : Quiet c s (s.sendFar c p r e t tok) :=
  (quiet_modPort s c p _).trans (quiet_addToken _ c _ _)

theorem quiet_sendOn (s : State) (c : CpId) (p : BitVec 5) (st : Stream) (e : Fin 256) (t : Fin 4) (tok : Tok) : Quiet c s (s.sendOn c p st e t tok).1 := by
  unfold State.sendOn
  extract_lets s1
  have hs1 : Quiet c s s1 := quiet_passBubbles s c p
  split
  · split
    · split
      · exact hs1
      · exact hs1.trans (quiet_sendWrite s1 c p _ e t tok)
    · exact hs1
  · split
    · exact Quiet.refl c s
    · exact quiet_sendFar s c p _ e t tok

theorem quiet_sendToken (s : State) (c : CpId) (r : Fin 4) (e : Fin 256) (t : Fin 4) (tok : Tok) : Quiet c s (s.sendToken c r e t tok) := by
  unfold State.sendToken
  extract_lets p waits
  have hwaits (u : State) : Quiet c u (waits u) := (quiet_addToken u c _ _).trans (quiet_modPort _ c p _)
  split
  · exact quiet_sendFar s c p r e t tok
  · split
    · exact hwaits s
    next st _ =>
      have hsend := quiet_sendOn s c p st e t tok
      split
      · exact hwaits s
      · split
        next h => rwa [h] at hsend
        next h =>
          rw [h] at hsend
          exact hsend.trans (hwaits _)

/-! ### Writes of arrays and stores -/

theorem slot_injectArr (s : State) (k : Fin 256) (part : BitVec 5) (arr unit word : Nat) (c : CpId) : (s.injectArr k part arr unit word).slot c = s.slot c := by
  unfold State.injectArr
  extract_lets reg
  split
  · split
    · rfl
    · extract_lets s1
      have hs1 : s1.slot c = s.slot c := State.slot_modCore_keeps s k _ c rfl
      split <;> exact hs1
  · rfl

theorem agenda_injectArr (s : State) (k : Fin 256) (part : BitVec 5) (arr unit word : Nat) : (s.injectArr k part arr unit word).agenda = s.agenda := by
  unfold State.injectArr
  extract_lets reg
  split
  · split
    · rfl
    · split <;> rfl
  · rfl

theorem sameSlots_writeArr (s : State) (k : Fin 256) (part : BitVec 5) (arr unit word n : Nat) : SameSlots s (s.writeArr k part arr unit word n) := by
  have hclean : SameSlots s (s.cleanArr k arr unit word n) := by
    unfold State.cleanArr
    exact sameSlots_ite (SameSlots.refl s) ⟨fun _ => rfl, rfl⟩
  exact hclean.trans ⟨slot_injectArr _ k part arr unit word, agenda_injectArr _ k part arr unit word⟩

theorem agenda_setBytes (s : State) (a : PAddr) (l : List Byte) : (s.setBytes a l).agenda = s.agenda := by
  induction l generalizing s a with
  | nil => rfl
  | cons x t ih => exact ih (s.setByte a x) (a.plus 1)

theorem agenda_setInjOf (s : State) (a : PAddr) (v : Word) : (s.setInjOf a v).agenda = s.agenda := by
  unfold State.setInjOf
  split <;> rfl

theorem agenda_store (s : State) (part : BitVec 5) (a : PAddr) (l : List Byte) : (s.store part a l).agenda = s.agenda := by
  unfold State.store
  extract_lets s1 whole s2
  have hs2 : s2.agenda = s.agenda := by
    unfold s2
    split <;> exact agenda_setBytes s a l
  split
  · exact hs2
  · extract_lets s3
    have hs3 : s3.agenda = s.agenda := (agenda_setInjOf _ _ _).trans hs2
    split <;> exact hs3

theorem sameSlots_store (s : State) (part : BitVec 5) (a : PAddr) (l : List Byte) : SameSlots s (s.store part a l) :=
  ⟨State.slot_store s part a l, agenda_store s part a l⟩

theorem quiet_addTile (s : State) (c : CpId) (l : List Tile) : Quiet c s { s.newId with tiles := l } := quiet_of_sameSlots c ⟨fun _ => rfl, rfl⟩

/-! ### What an act leaves of its slot -/

/-- Of a slot's elements one alone may change, and what its neighbours read of it stays; regions and agenda are as of `Quiet`. -/
def LandsOn (c : CpId) (e : Fin 256) (s t : State) : Prop :=
  t.agenda = s.agenda ∧ (∀ r, SameTake (s.region c r) (t.region c r)) ∧ (∀ d, d ≠ e → t.elem c d = s.elem c d) ∧
    (t.elem c e).dn = (s.elem c e).dn ∧ (t.elem c e).cn = (s.elem c e).cn

theorem Quiet.landsOn {c : CpId} {s t : State} (h : Quiet c s t) (e : Fin 256) : LandsOn c e s t := by
  obtain ⟨ha, hr, he⟩ := h
  exact ⟨ha, hr, fun d _ => he d, by rw [he], by rw [he]⟩

theorem LandsOn.trans {c : CpId} {e : Fin 256} {s t u : State} (h : LandsOn c e s t) (k : LandsOn c e t u) : LandsOn c e s u := by
  obtain ⟨ha, hr, he, hd, hc⟩ := h
  obtain ⟨ka, kr, ke, kd, kc⟩ := k
  exact ⟨ka.trans ha, fun r => (hr r).trans (kr r), fun d h => (ke d h).trans (he d h), kd.trans hd, kc.trans hc⟩

theorem landsOn_modElem (s : State) (c : CpId) (e : Fin 256) (f : Elem → Elem) (hd : (f (s.elem c e)).dn = (s.elem c e).dn)
    (hc : (f (s.elem c e)).cn = (s.elem c e).cn) : LandsOn c e s (s.modElem c e f) := by
  refine ⟨rfl, fun r => by rw [State.region_modElem]; rfl, fun d h => State.elem_modElem_ne s c e d f h, ?_, ?_⟩ <;> rw [State.elem_modElem_same]
  exacts [hd, hc]

/-- A change of an element, written to its array. -/
theorem landsOn_writeElem (s : State) (c : CpId) (e : Fin 256) (f : Elem → Elem) (hd : (f (s.elem c e)).dn = (s.elem c e).dn)
    (hc : (f (s.elem c e)).cn = (s.elem c e).cn) (part : BitVec 5) (arr unit word n : Nat) :
    LandsOn c e s ((s.modElem c e f).writeArr c.core part arr unit word n) :=
  (landsOn_modElem s c e f hd hc).trans ((quiet_of_sameSlots c (sameSlots_writeArr _ _ _ _ _ _ _)).landsOn e)

theorem elem_writeElem (s : State) (c : CpId) (e : Fin 256) (f : Elem → Elem) (part : BitVec 5) (arr unit word n : Nat) :
    ((s.modElem c e f).writeArr c.core part arr unit word n).elem c e = f (s.elem c e) := by
  rw [State.elem, (sameSlots_writeArr _ _ _ _ _ _ _).1]
  exact State.elem_modElem_same s c e f

section
variable (s : State) (c : CpId) (r : Fin 4) (e : Fin 256)

theorem landsOn_setFlags (fl : BitVec 8) : LandsOn c e s (s.setFlags c e fl) := landsOn_modElem s c e _ rfl rfl
theorem landsOn_setD (t : Tok) : LandsOn c e s (s.setD c e t) := landsOn_writeElem s c e _ rfl rfl _ _ _ _ _
theorem landsOn_setAcc (i : Fin 4) (v : Lanes8) : LandsOn c e s (s.setAcc c e i v) := landsOn_writeElem s c e _ rfl rfl _ _ _ _ _
theorem landsOn_setBp (v : Vector W32 64) : LandsOn c e s (s.setBp c e v) := landsOn_writeElem s c e _ rfl rfl _ _ _ _ _
theorem landsOn_store (part : BitVec 5) (a : PAddr) (l : List Byte) : LandsOn c e s (s.store part a l) :=
  (quiet_of_sameSlots c (sameSlots_store s part a l)).landsOn e
theorem landsOn_refl : LandsOn c e s s := (Quiet.refl c s).landsOn e

theorem landsOn_deliverTok (dst : Dest) (t : Tok) : LandsOn c e s (s.deliverTok c r e dst t) := by
  cases dst with
  | f i => exact (landsOn_writeElem s c e _ rfl rfl _ _ _ _ _).trans (landsOn_setD _ c e t)
  | d => exact landsOn_setD s c e t
  | c => exact landsOn_refl s _ e
  | acc i =>
    unfold State.deliverTok
    dsimp only
    split
    · exact landsOn_refl s c e
    · exact landsOn_setAcc s c e i _
  | stat b w =>
    unfold State.deliverTok
    dsimp only
    split
    · exact landsOn_refl s c e
    · exact landsOn_store s c e _ _ _
  | tapOut i => exact (landsOn_setD s c e t).trans ((quiet_sendToken _ c r e i t).landsOn e)
  | none => exact landsOn_refl s c e

/-- An act changes of its slot its element alone (R73, R139). -/
theorem landsOn_landAct (a : Act) : LandsOn c e s (s.landAct c r e a) := by
  cases a with
  | write dst t fl => exact (landsOn_setFlags s c e fl).trans (landsOn_deliverTok _ c r e dst t)
  | writeC v fl => exact (landsOn_setFlags s c e fl).trans (landsOn_writeElem _ c e _ rfl rfl _ _ _ _ _)
  | accumF i za cs fresh fl => exact (landsOn_setFlags s c e _).trans (landsOn_setAcc _ c e i _)
  | accumI i za cs fl => exact ((landsOn_setFlags s c e _).trans (landsOn_setAcc _ c e i _)).trans (landsOn_setAcc _ c e (nextAcc i) _)
  | accumG b za cs fresh fl => exact (landsOn_setFlags s c e _).trans (landsOn_store _ c e _ _ _)
  | overBp v => exact landsOn_setBp s c e v
  | clearAcc i => exact landsOn_setAcc s c e i _
  | clearBp => exact landsOn_setBp s c e _
  | statWord b w v => exact landsOn_store s c e _ _ _
  | statLanes b wb q v =>
    exact List.foldlRecOn _ _ (motive := LandsOn c e s) (landsOn_refl s c e) fun t ht n _ => ht.trans (landsOn_store t c e _ _ _)
  | drain i fmt sat clr lr ls dst =>
    have hs1 := (landsOn_setFlags s c e (drainWord fmt sat ((s.elem c e).acc.get i)).2).trans
      (landsOn_deliverTok _ c r e dst ⟨(drainWord fmt sat ((s.elem c e).acc.get i)).1, lr, ls, false⟩)
    unfold State.landAct
    dsimp only
    split
    · exact hs1.trans (landsOn_setAcc _ c e i _)
    · exact hs1
  | drainPeer i int clr pb strm desc seq cue idx =>
    unfold State.landAct
    dsimp only
    split
    · exact ((quiet_addTile s c _).landsOn e).trans (landsOn_setAcc _ c e i _)
    · exact (quiet_addTile s c _).landsOn e

theorem quiet_logOf (l : Reads) : Quiet c s (s.logOf c l) := quiet_of_sameSlots c (sameSlots_logOf s c l)

theorem landsOn_landElem : LandsOn c e s (s.landElem c r e) := by
  unfold State.landElem
  extract_lets fl later
  split
  · exact landsOn_refl s c e
  · refine LandsOn.trans ?_ (landsOn_modElem _ c e _ rfl rfl)
    exact List.foldlRecOn _ _ (motive := LandsOn c e s) (landsOn_refl s c e) fun t ht f _ =>
      (ht.trans ((quiet_logOf t c _).landsOn e)).trans (landsOn_landAct _ c r e f.act)

/-! ### What an act leaves in its element (R55, R61, R88, R148, R156) -/

theorem elem_landAct_f (n : Fin 16) (t : Tok) (fl : BitVec 8) : (s.landAct c r e (.write (.f n) t fl)).elem c e =
    { s.elem c e with estat := (s.elem c e).estat ||| fl, f := vmod (s.elem c e).f n fun _ => t, d := t } := by
  simp only [State.landAct, State.deliverTok, State.setD, State.setFlags, elem_writeElem, State.elem_modElem_same]

theorem elem_landAct_c (v : Word) (fl : BitVec 8) : (s.landAct c r e (.writeC v fl)).elem c e =
    { s.elem c e with estat := (s.elem c e).estat ||| fl, c := v } := by
  simp only [State.landAct, State.setFlags, elem_writeElem, State.elem_modElem_same]

theorem elem_landAct_clear (n : Fin 4) : (s.landAct c r e (.clearAcc n)).elem c e =
    { s.elem c e with acc := vmod (s.elem c e).acc n fun _ => Vector.replicate 8 0 } := by
  simp only [State.landAct, State.setAcc, elem_writeElem]

/-- The eight lanes of an accumulator with integer chunks added (R148). -/
def addedLanes (v : Lanes8) (za : Bool) (l : List Int) : Lanes8 := lanes8List ((v.toList.zip l).map fun x => addLaneInt x.1 za x.2)

theorem elem_landAct_accumI (n : Fin 4) (za : Bool) (cs : List Int) (fl : BitVec 8) :
    ((s.landAct c r e (.accumI n za cs fl)).elem c e).acc.get n = addedLanes ((s.elem c e).acc.get n) za (cs.take 8) := by
  have hnext : n ≠ nextAcc n := fun h => by
    have := congrArg Fin.val h
    simp only [nextAcc] at this
    omega
  simp only [State.landAct, State.setAcc, State.setFlags, elem_writeElem, State.elem_modElem_same, vmod_get_ne _ _ _ _ hnext, vmod_get_same]
  rfl

theorem elem_landAct_drain (n : Fin 4) (clr lr ls : Bool) (m : Fin 16) : (s.landAct c r e (.drain n 0 false clr lr ls (.f m))).elem c e =
    { s.elem c e with
      f := vmod (s.elem c e).f m fun _ => ⟨((s.elem c e).acc.get n).word, lr, ls, false⟩
      d := ⟨((s.elem c e).acc.get n).word, lr, ls, false⟩
      acc := if clr then vmod (s.elem c e).acc n fun _ => Vector.replicate 8 0 else (s.elem c e).acc } := by
  have hflags : (s.elem c e).estat ||| 0 = (s.elem c e).estat := by simp
  have hword : drainWord 0 false ((s.elem c e).acc.get n) = (((s.elem c e).acc.get n).word, 0) := rfl
  cases clr
  all_goals
    simp only [State.landAct, hword, if_true, if_false, Bool.false_eq_true, State.setAcc, elem_writeElem, State.deliverTok, State.setD, State.setFlags,
      State.elem_modElem_same, hflags]

end

/-- A lane of an accumulator after an integer chunk: the sum, clamped to 32 bits (R42, R148). -/
theorem addLaneInt_toInt (a : W32) (za : Bool) (k : Int) : (BitVec.ofNat 32 (addLaneInt a za k).v).toInt =
    max (-2147483648) (min 2147483647 ((if za then 0 else a.toInt) + k)) := by
  have hclamp := clampInt_fst 32 ((if za then 0 else a.toInt) + k)
  have hwrap := wrapInt_cast 32 (clampInt 32 ((if za then 0 else a.toInt) + k)).1
  have hv : (addLaneInt a za k).v = wrapInt 32 (clampInt 32 ((if za then 0 else a.toInt) + k)).1 := rfl
  have hcut (v : Int) : max (-2 ^ (32 - 1)) (min (2 ^ (32 - 1) - 1) v) = max (-2147483648) (min 2147483647 v) := rfl
  have hmod (v : Int) := Int.emod_bmod (max (-2147483648) (min 2147483647 v)) (2 ^ 32)
  rw [hv, BitVec.toInt_ofNat', hwrap, hclamp, hcut]
  exact (hmod _).trans (Int.bmod_eq_of_le (by omega) (by omega))

theorem addedLanes_toInt (v : Lanes8) (za : Bool) (cs : List Int) (hlen : cs.length = 16) (l : Fin 8) : ((addedLanes v za (cs.take 8)).get l).toInt =
    max (-2147483648) (min 2147483647 ((if za then 0 else (v.get l).toInt) + cs.getD l.val 0)) := by
  have hl : l.val < cs.length := by omega
  have hchunk : cs.getD l.val 0 = cs[l.val] := by simp [hl]
  rw [hchunk, ← addLaneInt_toInt]
  simp [addedLanes, lanes8List, Vector.get_eq_getElem, hl]

end Sys2Proof.Machine
end

section
/-! Results that land (O39): the landing of a region's elements, the counters of an advancing cycle, and a due stop. -/
namespace Sys2Proof.Machine

/-! ### The elements of a rectangle (R99) -/

theorem Header.phys_val {h : Header} {row col : Nat} {e : Fin 256} (he : h.phys row col = some e) :
    e.val = 16 * (h.row0 + row) + (h.col0 + col) ∧ h.col0 + col < 16 := by
  unfold Header.phys at he
  extract_lets n at he
  split at he
  · split at he
    · obtain rfl := Option.some.inj he
      exact ⟨rfl, ‹_›⟩
    · exact nomatch he
  · exact nomatch he

/-- A rectangle names each of its elements once. -/
theorem Header.elems_nodup (h : Header) : h.elems.Nodup := by
  unfold Header.elems
  rw [List.nodup_flatMap]
  refine ⟨fun row _ => List.nodup_range.filterMap fun k l e hk hl => ?_, List.nodup_range.pairwise_of_forall_ne fun row _ row' _ hne => ?_⟩
  · obtain ⟨hk', -⟩ := Header.phys_val hk
    obtain ⟨hl', -⟩ := Header.phys_val hl
    omega
  · rw [Function.onFun, List.disjoint_left]
    intro e he he'
    obtain ⟨k, -, hk⟩ := List.mem_filterMap.mp he
    obtain ⟨l, -, hl⟩ := List.mem_filterMap.mp he'
    obtain ⟨hk', hcol⟩ := Header.phys_val hk
    obtain ⟨hl', hcol'⟩ := Header.phys_val hl
    omega

/-! ### Changes of one element after another -/

/-- Of changes that each leave all elements but their own, an element meets its own change alone. -/
theorem elem_foldl_own (c : CpId) (g : State → Fin 256 → State) (hg : ∀ t d e, e ≠ d → (g t d).elem c e = t.elem c e) (l : List (Fin 256)) (hl : l.Nodup)
    (e : Fin 256) (he : e ∈ l) (s : State) : ∃ u, u.elem c e = s.elem c e ∧ (l.foldl g s).elem c e = (g u e).elem c e := by
  have hothers (l : List (Fin 256)) (h : e ∉ l) (s : State) : (l.foldl g s).elem c e = s.elem c e :=
    List.foldlRecOn l g (motive := fun t : State => t.elem c e = s.elem c e) rfl fun t ht d hd => (hg t d e fun h' => h (h' ▸ hd)).trans ht
  induction l generalizing s with
  | nil => exact nomatch he
  | cons a l ih =>
    obtain ⟨hnotin, hrest⟩ := List.nodup_cons.mp hl
    rw [List.foldl_cons]
    by_cases ha : e = a
    · subst ha
      exact ⟨s, rfl, hothers l hnotin _⟩
    · obtain ⟨u, hu, hfold⟩ := ih hrest ((List.mem_cons.mp he).resolve_left ha) (g s a)
      exact ⟨u, hu.trans (hg s a e ha), hfold⟩

/-- Agenda and regions stay, due stops and walks apart. -/
def TakesStay (c : CpId) (s t : State) : Prop := t.agenda = s.agenda ∧ ∀ r, SameTake (s.region c r) (t.region c r)

theorem takesStay_foldl {α : Type} (c : CpId) (g : State → α → State) (hg : ∀ t x, TakesStay c t (g t x)) (l : List α) (s : State) :
    TakesStay c s (l.foldl g s) :=
  List.foldlRecOn l g (motive := TakesStay c s) ⟨rfl, fun _ => rfl⟩ fun t ⟨ha, hr⟩ x _ =>
    ⟨(hg t x).1.trans ha, fun r => (hr r).trans ((hg t x).2 r)⟩

/-! ### The landing of a region (R73, R139) -/

/-- An element whose neighbours have come to read what it holds (R73). -/
def Elem.shifted (x : Elem) : Elem := { x with dn := x.d, cn := x.c }

section
variable (s : State) (c : CpId) (r : Fin 4) (e : Fin 256)

theorem takesStay_landAll : TakesStay c s (s.landAll c r) := by
  have hshift : TakesStay c s (s.shiftNeighbours c r) := 
    takesStay_foldl c (fun t e => t.modElem c e Elem.shifted) (fun t d => ⟨rfl, fun q => by rw [State.region_modElem]; rfl⟩) _ s
  have hland : TakesStay c (s.shiftNeighbours c r) (s.landAll c r) := takesStay_foldl c _ (fun t d => by
    obtain ⟨ha, hr, -⟩ := landsOn_landElem t c r d
    exact ⟨ha, hr⟩) _ _
  exact ⟨hland.1.trans hshift.1, fun q => (hshift.2 q).trans (hland.2 q)⟩

theorem elem_shiftNeighbours (he : e ∈ (s.region c r).onHdr.elems) : (s.shiftNeighbours c r).elem c e = (s.elem c e).shifted := by
  obtain ⟨u, hu, hfold⟩ := elem_foldl_own c (fun t e => t.modElem c e Elem.shifted)
    (fun t d e h => State.elem_modElem_ne t c d e _ h) (s.region c r).onHdr.elems (Header.elems_nodup _) e he s
  exact hfold.trans ((State.elem_modElem_same u c e _).trans (congrArg _ hu))

/-- An element of the region meets its own landing alone. -/
theorem elem_landAll (he : e ∈ (s.region c r).onHdr.elems) : ∃ u : State, u.elem c e = (s.elem c e).shifted ∧
    (s.landAll c r).elem c e = (u.landElem c r e).elem c e := by
  obtain ⟨u, hu, hfold⟩ := elem_foldl_own c (fun t e => t.landElem c r e) (fun t d e h => (landsOn_landElem t c r d).2.2.1 e h)
    (s.region c r).onHdr.elems (Header.elems_nodup _) e he (s.shiftNeighbours c r)
  exact ⟨u, hu.trans (elem_shiftNeighbours s c r e he), hfold⟩

/-- Results that are not due come one take cycle nearer. -/
theorem flight_landElem (h : ∀ f ∈ (s.elem c e).flight, 1 < f.rem) :
    ((s.landElem c r e).elem c e).flight = (s.elem c e).flight.map fun f => { f with rem := f.rem - 1 } := by
  have hlater : (s.elem c e).flight.filter (fun f => decide (1 < f.rem)) = (s.elem c e).flight := List.filter_eq_self.mpr fun f hf => decide_eq_true (h f hf)
  unfold State.landElem
  extract_lets fl later
  split
  next hempty =>
    have hnil : (s.elem c e).flight = [] := List.isEmpty_iff.mp hempty
    rw [hnil]
    rfl
  next =>
    rw [State.elem_modElem_same]
    exact congrArg _ hlater

/-- A due result lands, and its element has none in flight. -/
theorem elem_landElem_due (a : Act) (n : BitVec 8) (h : (s.elem c e).flight = [⟨1, a, n⟩]) : ∃ t : State, t.elem c e = s.elem c e ∧
    (s.landElem c r e).elem c e = { (t.landAct c r e a).elem c e with flight := [] } := by
  refine ⟨s.logOf c (s.landReads c r e a), (quiet_logOf s c _).2.2 e, ?_⟩
  rw [State.landElem, h]
  exact State.elem_modElem_same _ _ _ _

end

end Sys2Proof.Machine
end

section
/-! Results that land (O39): the end of a grid cycle. -/
namespace Sys2Proof.Machine

theorem resultLand_exec (c : CpId) (r : Fin 4) (s : State) : exec (.resultLand c r) s = execResultLand c r s := rfl

/-! ### What is due in an element -/

/-- What an element holds after a cycle in which its results have landed or come nearer, by what it had in flight. -/
theorem landElem_lands (u : State) (c : CpId) (r : Fin 4) (e : Fin 256) (k : Elem) (hu : u.elem c e = k.shifted) :
    let q := (u.landElem c r e).elem c e
    let lands (f : Act) : Prop := ∃ n, k.flight = [⟨1, f, n⟩]
    ((∀ f ∈ k.flight, 1 < f.rem) → q.flight = k.flight.map fun f => { f with rem := f.rem - 1 }) ∧
    (∀ n tok fl, lands (.write (.f n) tok fl) → q.f.get n = tok ∧ q.d = tok ∧ q.estat = k.estat ||| fl ∧ q.flight = []) ∧
    (∀ v fl, lands (.writeC v fl) → q.c = v ∧ q.d = k.d) ∧
    (∀ n, lands (.clearAcc n) → ∀ l : Fin 8, (q.acc.get n).get l = 0) ∧
    (∀ n za cs fl, lands (.accumI n za cs fl) → cs.length = 16 → ∀ l : Fin 8, ((q.acc.get n).get l).toInt =
      Max.max (-2147483648) (Min.min 2147483647 ((if za then 0 else ((k.acc.get n).get l).toInt) + cs.getD l.val 0))) ∧
    (∀ n m clr lr ls, lands (.drain n 0 false clr lr ls (.f m)) → q.f.get m = ⟨(k.acc.get n).word, lr, ls, false⟩ ∧
      q.acc.get n = if clr then Vector.replicate 8 0 else k.acc.get n) ∧
    q.dn = k.d ∧ q.cn = k.c := by
  intro q lands
  have hflight : (u.elem c e).flight = k.flight := by rw [hu]; rfl
  have hlands (a : Act) (h : lands a) : ∃ t : State, t.elem c e = k.shifted ∧ q = { (t.landAct c r e a).elem c e with flight := [] } := by
    obtain ⟨n, h⟩ := h
    obtain ⟨t, ht, hq⟩ := elem_landElem_due u c r e a n (hflight.trans h)
    exact ⟨t, ht.trans hu, hq⟩
  refine ⟨fun h => ?_, fun n tok fl h => ?_, fun v fl h => ?_, fun n h l => ?_, fun n za cs fl h hlen l => ?_, fun n m clr lr ls h => ?_, ?_⟩
  · rw [← hflight] at h ⊢
    exact flight_landElem u c r e h
  · obtain ⟨t, ht, hq⟩ := hlands _ h
    rw [hq, elem_landAct_f, ht]
    exact ⟨vmod_get_same _ _ _, rfl, rfl, rfl⟩
  · obtain ⟨t, ht, hq⟩ := hlands _ h
    rw [hq, elem_landAct_c, ht]
    exact ⟨rfl, rfl⟩
  · obtain ⟨t, -, hq⟩ := hlands _ h
    simp only [hq, elem_landAct_clear, vmod_get_same, Vector.get_replicate]
  · obtain ⟨t, ht, hq⟩ := hlands _ h
    rw [hq, elem_landAct_accumI, ht]
    exact addedLanes_toInt _ _ _ hlen l
  · obtain ⟨t, ht, hq⟩ := hlands _ h
    rw [hq, elem_landAct_drain, ht]
    refine ⟨vmod_get_same _ _ _, ?_⟩
    cases clr
    · rfl
    · simp only [if_true, vmod_get_same]
  · obtain ⟨-, -, -, hdn, hcn⟩ := landsOn_landElem u c r e
    rw [hu] at hdn hcn
    exact ⟨hdn, hcn⟩

/-! ### An advancing cycle (R66, R85) -/

theorem SameTake.count {g h : Region} (hg : SameTake g h) : SameTake g.count h.count := by
  rw [SameTake] at hg ⊢
  rw [hg]
  rfl

/-- The state of a running region after its landing, its counters moved on. -/
def State.landed (s : State) (c : CpId) (r : Fin 4) : State := ((s.landAll c r).modSlot c fun t => t.nextReads r).modRegion c r Region.count

theorem quiet_nextReads (s : State) (c : CpId) (r : Fin 4) : Quiet c s (s.modSlot c fun t => t.nextReads r) :=
  quiet_modSlot s c (fun t => t.nextReads r) rfl rfl

theorem region_landed (s : State) (c : CpId) (r : Fin 4) : SameTake (s.region c r).count ((s.landed c r).region c r) := by
  obtain ⟨-, hland⟩ := takesStay_landAll s c r
  obtain ⟨-, hreads, -⟩ := quiet_nextReads (s.landAll c r) c r
  rw [State.landed, State.region_modRegion_same]
  exact ((hland r).trans (hreads r)).count

theorem agenda_landed (s : State) (c : CpId) (r : Fin 4) : (s.landed c r).agenda = s.agenda := (takesStay_landAll s c r).1

theorem elem_landed (s : State) (c : CpId) (r : Fin 4) (e : Fin 256) : (s.landed c r).elem c e = (s.landAll c r).elem c e := by
  obtain ⟨-, -, hreads⟩ := quiet_nextReads (s.landAll c r) c r
  rw [State.landed, State.elem_modRegion, hreads]

/-- An advancing cycle ends with its region's counters moved on; a take whose end-take cue fired drains, and one at the end of its last lap
is about to (R85). -/
theorem resultLand_advances (s : State) (c : CpId) (r : Fin 4) (hdue : (s.region c r).stopDue = none) (hon : (s.region c r).on = .running)
    (hgo : (s.region c r).going = true) : exec (.resultLand c r) s = .next
      (if (s.region c r).endDue then (s.landed c r).modRegion c r fun g => { g with on := .draining, endDue := false }
      else if (s.region c r).onHdr.laps ≤ ((s.landed c r).region c r).lap then (s.landed c r).dueFirst [.takeLastLapEnd c r]
      else s.landed c r) := by
  rw [resultLand_exec, execResultLand]
  simp only [hdue, hon, hgo, Bool.not_true, Bool.false_eq_true, if_false]
  rfl

/-- The counters of a region have moved on (R66). -/
def Region.counted (g h : Region) : Prop :=
  h.slotc = g.count.slotc ∧ h.it = g.count.it ∧ h.tc = g.count.tc ∧ h.lap = g.count.lap ∧ h.cycles = g.count.cycles ∧ h.held = g.held

theorem SameTake.counted {g h : Region} (hg : SameTake g.count h) : g.counted h := by
  have hfield {α : Type} (f : Region → α) : f h = f { g.count with stopDue := h.stopDue, walking := h.walking } := congrArg f hg
  exact ⟨hfield Region.slotc, hfield Region.it, hfield Region.tc, hfield Region.lap, hfield Region.cycles, hfield Region.held⟩

theorem agenda_dueFirst (s : State) (i : Instr) : (s.dueFirst [i]).agenda = .ev i :: s.agenda := rfl
theorem region_dueFirst (s : State) (l : List Instr) (c : CpId) (r : Fin 4) : (s.dueFirst l).region c r = s.region c r := rfl
theorem elem_dueFirst (s : State) (l : List Instr) (c : CpId) (e : Fin 256) : (s.dueFirst l).elem c e = s.elem c e := rfl

theorem resultLand_counts (s : State) (c : CpId) (r : Fin 4) (hdue : (s.region c r).stopDue = none) (hon : (s.region c r).on = .running)
    (hgo : (s.region c r).going = true) : Completes (.resultLand c r) s fun t =>
      (s.region c r).counted (t.region c r) ∧ (t.region c r).on = (if (s.region c r).endDue = true then .draining else .running) ∧
      (∀ e, t.elem c e = (s.landAll c r).elem c e) ∧
      ((s.region c r).endDue = false → (s.region c r).onHdr.laps ≤ (t.region c r).lap → t.agenda = .ev (.takeLastLapEnd c r) :: s.agenda) := by
  refine ⟨_, resultLand_advances s c r hdue hon hgo, ?_⟩
  have htake := region_landed s c r
  have hon' : ((s.landed c r).region c r).on = .running := (congrArg Region.on htake).trans hon
  have helem := elem_landed s c r
  have hagenda := agenda_landed s c r
  generalize s.landed c r = t at htake hon' helem hagenda
  by_cases hend : (s.region c r).endDue = true
  · simp only [hend, if_true, State.region_modRegion_same, State.elem_modRegion]
    exact ⟨htake.counted, trivial, helem, fun h => nomatch h⟩
  · rw [if_neg hend, if_neg hend]
    by_cases hlap : (s.region c r).onHdr.laps ≤ (t.region c r).lap
    · simp only [if_pos hlap, region_dueFirst, elem_dueFirst, agenda_dueFirst, hagenda]
      exact ⟨htake.counted, hon', helem, fun _ _ => trivial⟩
    · rw [if_neg hlap]
      exact ⟨htake.counted, hon', helem, fun _ h => absurd h hlap⟩

/-! ### A due stop (R81, R236, R301) -/

theorem stopNow_stops (s : State) (c : CpId) (r : Fin 4) (j : StopInfo) :
    let t := s.stopNow c r j
    (t.region c r).on = .stopped ∧ (t.region c r).cause = j.cause ∧ (t.region c r).flags = s.flagSummary c r ∧ (t.region c r).stopDue = none ∧
      (∀ e, t.elem c e = s.elem c e) ∧ SameBytes s t ∧ (t.cp c).cpevt = (s.cp c).cpevt ||| 1 ∧ (t.core c.core).recq = (s.core c.core).recq := by
  intro t
  simp only [t]
  unfold State.stopNow
  extract_lets fw fl s1 s2
  have hs1 : s1.slot c = { s.slot c with tilesOut := (s1.slot c).tilesOut, regions := (s1.slot c).regions } := by
    simp only [s1, State.modRegion, State.returnTileCredits, State.slot_modSlot_same]
  have hregion : (s1.region c r).on = .stopped ∧ (s1.region c r).cause = j.cause ∧ (s1.region c r).flags = fl ∧ (s1.region c r).stopDue = none := by
    simp only [s1, State.region_modRegion_same, and_self]
  have hrecq : (s1.core c.core).recq = (s.core c.core).recq := by
    simp only [s1, State.modRegion, State.returnTileCredits, State.core_modSlot_same]
  have hs2 : s2.slot c = { s1.slot c with ports := (s2.slot c).ports } ∧ (s2.core c.core).recq = (s1.core c.core).recq ∧ SameBytes s s2 := by
    unfold s2
    split
    · refine ⟨?_, ?_, sameBytes_of rfl rfl⟩
      · simp only [State.pauseStreams, State.slot_modSlot_same]
      · simp only [State.pauseStreams, State.core_modSlot_same]
    · refine ⟨?_, ?_, sameBytes_of rfl rfl⟩
      · rw [slot_endStreams]
      · simp only [State.endStreams, State.core_modSlot_same, State.core_modCore_same]
  obtain ⟨hports, hrecq2, hbytes⟩ := hs2
  have hregion2 : (s2.modCp c fun p => p.event evRGN).region c r = s1.region c r := by
    rw [State.modCp, State.region_modSlot_keeps _ _ _ _ rfl, State.region, hports]
    rfl
  have helem (e : Fin 256) : (s2.modCp c fun p => p.event evRGN).elem c e = s.elem c e := by
    rw [State.modCp, State.elem_modSlot_keeps _ _ _ _ rfl, State.elem, hports, hs1]
    rfl
  have hcp : s2.cp c = s.cp c := by
    rw [State.cp, hports, hs1]
    rfl
  rw [hregion2]
  obtain ⟨hon, hcause, hflags, hdue⟩ := hregion
  refine ⟨hon, hcause, hflags, hdue, helem, hbytes, ?_, ?_⟩
  · rw [State.cp_modCp_same, hcp]
    rfl
  · rw [State.modCp, State.core_modSlot_same, hrecq2, hrecq]

theorem flagSummary_of_slot {s t : State} (c : CpId) (r : Fin 4) (he : ∀ e, t.elem c e = s.elem c e) (hh : (t.region c r).onHdr = (s.region c r).onHdr) :
    t.flagSummary c r = s.flagSummary c r := by
  simp only [State.flagSummary, he, hh]

/-- The record of a stop enters the queue when it finds room (R299, R302). -/
theorem stopRecord_enters (s : State) (c : CpId) (r : Fin 4) (j : StopInfo) (hrec : (s.region c r).stopRec = false) (hroom : RecRoom s c.core) :
    let t := s.stopRecord c r j
    t.slot c = { s.slot c with regions := (t.slot c).regions } ∧ (t.region c r).onHdr = (s.region c r).onHdr ∧ t.recWaits c.core (.region c r) = false ∧
      SameBytes s t ∧ ∃ f : FaultRec, (t.core c.core).recq = (s.core c.core).recq ++ [f] ∧ f.extractLsb' 0 8 = j.cause := by
  intro t
  let fields : RecFields := { s.slotRec c j.cause 0x04 (some r) with
    port := j.port, elem := j.elem, index := j.index, vaddr := j.vaddr, tc := (s.region c r).tc, lap := (s.region c r).lap, synd := j.synd, detail := j.detail }
  have ht : t = (s.queueRec c.core (.region c r) fields).modRegion c r fun g => { g with stopRec := true } := by
    simp only [t, State.stopRecord, hrec]
    rfl
  have hcore : (t.core c.core).recq = (s.core c.core).recq ++ [fields.bits] ∧ (t.core c.core).recWait = [] := by
    rw [ht, State.modRegion, State.core_modSlot_same, core_queueRec _ _ _ _ hroom]
    exact ⟨rfl, hroom.2⟩
  refine ⟨?_, ?_, ?_, sameBytes_of ?_ ?_, fields.bits, hcore.1, ?_⟩
  · rw [ht, State.modRegion, State.slot_modSlot_same, slot_queueRec]
  · rw [ht, State.region_modRegion_same, State.region, slot_queueRec]
    rfl
  · rw [State.recWaits, hcore.2]
    rfl
  · rw [ht]
    rfl
  · rw [ht]
    rfl
  · have hbits (f : RecFields) : f.bits.extractLsb' 0 8 = f.cause := by
      ext i hi
      grind [RecFields.bits]
    exact hbits fields

theorem resultLand_stops (s : State) (c : CpId) (r : Fin 4) (j : StopInfo) (hdue : (s.region c r).stopDue = some j) (hrec : (s.region c r).stopRec = false)
    (hroom : RecRoom s c.core) : exec (.resultLand c r) s = .next ((s.stopRecord c r j).stopNow c r j) := by
  obtain ⟨-, -, hwaits, -⟩ := stopRecord_enters s c r j hrec hroom
  rw [resultLand_exec, execResultLand]
  simp only [hdue, State.stopRegion, hwaits, Bool.false_eq_true, if_false]

/-- Settles O39: a due stop takes effect and lands nothing; in an advancing cycle what is due lands and the counters move on. -/
theorem resultLand : Obligations.ResultLand := by
  unfold Obligations.ResultLand
  intro s c r e g h k lands
  refine ⟨fun j hdue hrec hroom => ?_, fun hdue hon hgo he => ?_⟩
  · obtain ⟨hslot, hhdr, -, hbytes, f, hrecq, hcause⟩ := stopRecord_enters s c r j hrec hroom
    obtain ⟨hon', hcause', hflags, hdue', helem, hbytes', hevt, hrecq'⟩ := stopNow_stops (s.stopRecord c r j) c r j
    have helems (d : Fin 256) : (s.stopRecord c r j).elem c d = s.elem c d := by
      rw [State.elem, hslot]
      rfl
    refine ⟨_, resultLand_stops s c r j hdue hrec hroom, hon', hcause', hflags.trans (flagSummary_of_slot c r helems hhdr), hdue', (helem e).trans (helems e),
      fun a => (hbytes' a).trans (hbytes a), ?_, f, hrecq'.trans hrecq, hcause⟩
    rw [hevt]
    simp
  · obtain ⟨t, ht, ⟨hslotc, hit, htc, hlap, hcycles, hheld⟩, hon', helem, hagenda⟩ := resultLand_counts s c r hdue hon hgo
    obtain ⟨u, hu, hland⟩ := elem_landAll s c r e he
    have hlands := landElem_lands u c r e k hu
    rw [← hland, ← helem e] at hlands
    refine ⟨t, ht, ?_, ?_, ?_, ?_, hcycles, hheld, hon', hagenda, hlands⟩
    · simpa [Region.count] using hslotc
    · simpa [Region.count] using hit
    · simpa [Region.count] using htc
    · simpa [Region.count] using hlap

end Sys2Proof.Machine
end

section
/-! Float lane instructions (O35): rounding to nearest, the order of fmin, sign edits of codes, and the group. -/
namespace Sys2Proof.Machine

/-! ### Rounding to nearest draws no bits (R23, R43) -/

theorem roundRatio_rne_code (f : Fmt) (l : W32) (neg : Bool) (n d : Nat) (e : Int) : (f.roundRatio .rne l neg n d e).code = (f.roundRatio .rne 0 neg n d e).code := by
  simp only [Fmt.roundRatio, roundUp]
  split_ifs <;> rfl

theorem round_rne_code (f : Fmt) (l : W32) (v : XVal) : (f.round .rne l v).code = f.rne v := by
  cases v with
  | nan => rfl
  | inf s =>
    simp only [Fmt.rne, Fmt.round]
    split_ifs <;> rfl
  | fin s m e =>
    cases m with
    | zero => rfl
    | succ m =>
      simp only [Fmt.rne, Fmt.round]
      split_ifs
      · rfl
      · exact roundRatio_rne_code f l s (m + 1) 1 e

theorem deliver_rne_v (f : Fmt) (sat : Bool) (l : W32) (v : XVal) (anyNan : Bool) : (f.deliver .rne sat l v anyNan).v = (f.saturate sat (f.rne v)).1 :=
  congrArg (fun c => (f.saturate sat c).1) (round_rne_code f l v)

/-- Lanes whose codes do not depend on the generator. -/
theorem DrawsLanes.lane_eq {l : W32} {wd n : Nat} {bits : W256} {f : Nat → W32 → LaneOut} {c : Nat → Nat} (h : DrawsLanes l wd n bits f)
    (hc : ∀ j l, (f j l).v = c j) {j : Nat} (hj : j < n) : lane wd bits j = c j % 2 ^ wd := by
  obtain ⟨L, -, hL⟩ := h
  rw [(hL j hj).1, hc]

/-! ### The order of fmin (R118) -/

theorem cmp_swap (a b : XVal) : XVal.cmp b a = -XVal.cmp a b := by
  cases a with
  | nan => cases b with
    | nan | fin => rfl
    | inf t => cases t <;> rfl
  | inf s => cases b with
    | nan | fin => cases s <;> rfl
    | inf t => cases s <;> cases t <;> rfl
  | fin s m e => cases b with
    | nan => rfl
    | inf t => cases t <;> rfl
    | fin t n f =>
      simp only [XVal.cmp, min_comm f e]
      split_ifs <;> omega

theorem rankCmp_swap (a b : XVal) : rankCmp b a = -rankCmp a b := by
  simp only [rankCmp, cmp_swap a b, neg_eq_zero, Bool.and_right_comm _ b.isZero]
  rw [apply_ite Neg.neg]
  refine ite_congr rfl (fun _ => ?_) fun _ => rfl
  cases a.sign <;> cases b.sign <;> rfl

theorem rankCmp_pos (a b : XVal) : 0 < rankCmp a b ↔ RanksBelow b a := by
  rw [← rankCmp_neg, rankCmp_swap a b, neg_lt_zero]

/-! ### Codes of the group (R118, R119) -/

theorem fmtF_width_pos (c : BitVec 3) : 1 ≤ (fmtF c).width := by
  unfold fmtF
  split <;> decide

/-- Inverting the top bit of a w-bit number is adding its weight. -/
theorem xor_top_bit {w : Nat} (hw : 1 ≤ w) (a : Nat) : (a ^^^ 2 ^ (w - 1)) % 2 ^ w = (a + 2 ^ (w - 1)) % 2 ^ w := by
  obtain ⟨k, rfl⟩ := Nat.exists_eq_add_of_le' hw
  refine Nat.eq_of_testBit_eq fun j => ?_
  rw [Nat.add_sub_cancel, Nat.testBit_mod_two_pow, Nat.testBit_mod_two_pow, Nat.testBit_xor, Nat.testBit_two_pow, Nat.add_comm a]
  rcases lt_trichotomy j k with hj | rfl | hj
  · rw [Nat.testBit_two_pow_add_gt hj, decide_eq_false (by omega : ¬ k = j), Bool.xor_false]
  · rw [Nat.testBit_two_pow_add_eq, decide_eq_true rfl, Bool.xor_true]
  · rw [decide_eq_false (by omega : ¬ j < k + 1), Bool.false_and, Bool.false_and]

/-- What the code that fmin or fmax chooses is, for either order. -/
def Chooses (g : Fmt) (below : Prop) (u v r : Nat) : Prop :=
  if ((g.exact u).isNan || (g.exact v).isNan) = true then r = g.nanCode % 2 ^ g.width else (below → r = v) ∧ (¬ below → r = u)

section
variable {g : Fmt} {u v : Nat}

theorem chooses_of_ite {p : Prop} [Decidable p] {below : Prop} (hp : p ↔ below) (hu : u < 2 ^ g.width) (hv : v < 2 ^ g.width) :
    Chooses g below u v ((if ((g.exact u).isNan || (g.exact v).isNan) = true then g.nanCode else if p then v else u) % 2 ^ g.width) := by
  unfold Chooses
  split_ifs with hnan h
  · rfl
  · exact ⟨fun _ => Nat.mod_eq_of_lt hv, fun hb => absurd (hp.mp h) hb⟩
  · exact ⟨fun hb => absurd (hp.mpr hb) h, fun _ => Nat.mod_eq_of_lt hu⟩

theorem minCode_chooses {r : Nat} (hu : u < 2 ^ g.width) (hv : v < 2 ^ g.width) (hr : r = minCode g u v % 2 ^ g.width) :
    Chooses g (RanksBelow (g.exact v) (g.exact u)) u v r :=
  hr ▸ chooses_of_ite (rankCmp_pos _ _) hu hv

theorem maxCodeOf_chooses {r : Nat} (hu : u < 2 ^ g.width) (hv : v < 2 ^ g.width) (hr : r = maxCodeOf g u v % 2 ^ g.width) :
    Chooses g (RanksBelow (g.exact u) (g.exact v)) u v r :=
  hr ▸ chooses_of_ite (rankCmp_neg _ _) hu hv

theorem absCode_mod : absCode g u % 2 ^ g.width = if (g.exact u).isNan = true then g.nanCode % 2 ^ g.width else u % 2 ^ (g.width - 1) := by
  rw [absCode, apply_ite (· % 2 ^ g.width)]
  refine ite_congr rfl (fun _ => rfl) fun _ => Nat.mod_eq_of_lt ((Nat.mod_lt _ (by positivity)).trans_le (Nat.pow_le_pow_right (by decide) (Nat.sub_le _ _)))

theorem negCode_mod (hg : 1 ≤ g.width) :
    negCode g u % 2 ^ g.width = if (g.exact u).isNan = true then g.nanCode % 2 ^ g.width else (u + 2 ^ (g.width - 1)) % 2 ^ g.width := by
  rw [negCode, apply_ite (· % 2 ^ g.width), xor_top_bit hg]

theorem allOnes_mod (n : Nat) (b : Bool) : (if b = true then 2 ^ n - 1 else 0) % 2 ^ n = if b = true then 2 ^ n - 1 else 0 := by
  refine Nat.mod_eq_of_lt ?_
  have hpos : 0 < 2 ^ n := by positivity
  split_ifs <;> omega

end

/-! ### What each shape of instruction starts (R73, R107, R108) -/

section
variable {i : Instr} {s : State} {x : ElemSite} {w : CtxFields} {op lat : Nat} {p : Tok → Tok → Tok → Tok → BitVec 8 → Prop}

/-- A lane of a float instruction: the exact value of its operands after their negates, rounded once (R117). -/
def floatLane (w : CtxFields) (third : Bool) (f : XVal → XVal → XVal → XVal) (a b c : Tok) (j : Nat) (l : W32) : LaneOut :=
  let g := fmtF w.fmt
  let p := (g.exact (lane g.width a.bits j)).negIf (CtxOps.nx w)
  let q := (g.exact (lane g.width b.bits j)).negIf (CtxOps.ny w)
  let r := (g.exact (lane g.width c.bits j)).negIf (CtxOps.nz w)
  g.deliver (CtxOps.rm w) (CtxOps.sat w) l (f p q r) (p.isNan || q.isNan || (third && r.isNan))

theorem State.floatOp_eq_laneOp (s : State) (x : ElemSite) (op : Nat) (w : CtxFields) (third : Bool) (f : XVal → XVal → XVal → XVal) :
    s.floatOp x op w third f = s.laneOp x op w 3 (ones3 (oneF (fmtF w.fmt))) fun a b c l =>
      ⟨lanesWord (fmtF w.fmt).width (256 / (fmtF w.fmt).width) l (floatLane w third f a b c), a.lr, a.ls⟩ := rfl

theorem laneFlies_of_floatOp {third : Bool} {f : XVal → XVal → XVal → XVal} (hx : exec i s = s.floatOp x op w third f)
    (hp : ∀ r fl, let g := fmtF w.fmt
      let a := s.source x w (oneF g) w.srcA
      let b := s.source x w (oneF g) w.srcB
      let c := s.source x w (oneF g) w.srcC
      r.lr = a.lr ∧ r.ls = a.ls ∧ DrawsLanes (s.elem x.cp x.elem).lfsr g.width (256 / g.width) r.bits (floatLane w third f a b c) → p a b c r fl) :
    LaneFlies i s x w op 3 (ones3 (oneF (fmtF w.fmt))) p :=
  laneFlies_of_lanesWord (hx.trans (s.floatOp_eq_laneOp x op w third f)) (width_mul_le _) fun r fl hlr hls hl => hp r fl ⟨hlr, hls, hl⟩

theorem State.codeOp_eq_laneOp (s : State) (x : ElemSite) (op : Nat) (w : CtxFields) (f : Fmt → Nat → Nat → Nat) :
    s.codeOp x op w f = s.laneOp x op w 1 (ones3 (oneF (fmtF w.fmt))) fun a b _ l =>
      ⟨plainWord (fmtF w.fmt).width (256 / (fmtF w.fmt).width) l fun j =>
        (f (fmtF w.fmt) (lane (fmtF w.fmt).width a.bits j) (lane (fmtF w.fmt).width b.bits j), 0), a.lr, a.ls⟩ := rfl

theorem laneFlies_of_codeOp {f : Fmt → Nat → Nat → Nat} (hx : exec i s = s.codeOp x op w f)
    (hp : ∀ r fl, let g := fmtF w.fmt
      let a := s.source x w (oneF g) w.srcA
      let b := s.source x w (oneF g) w.srcB
      let c := s.source x w (oneF g) w.srcC
      r.lr = a.lr ∧ r.ls = a.ls ∧ (∀ j, j < 256 / g.width → lane g.width r.bits j = f g (lane g.width a.bits j) (lane g.width b.bits j) % 2 ^ g.width) →
        p a b c r fl) :
    LaneFlies i s x w op 1 (ones3 (oneF (fmtF w.fmt))) p :=
  laneFlies_of_plainWord (hx.trans (s.codeOp_eq_laneOp x op w f)) (width_mul_le _) fun r fl hlr hls hl => hp r fl ⟨hlr, hls, hl⟩

theorem State.unaryOp_eq_laneOp (s : State) (x : ElemSite) (op : Nat) (w : CtxFields) (lat : Nat) (g : Fmt) (f : XVal → Nat × BitVec 8) :
    s.unaryOp x op w lat g f = s.laneOp x op w lat (ones3 (oneF g)) fun a _ _ l =>
      ⟨plainWord g.width (256 / g.width) l fun j => f (g.exact (lane g.width a.bits j)), a.lr, a.ls⟩ := rfl

theorem laneFlies_of_unaryOp {g : Fmt} {f : XVal → Nat × BitVec 8} (hx : exec i s = s.unaryOp x op w lat g f)
    (hp : ∀ r fl, let a := s.source x w (oneF g) w.srcA
      let b := s.source x w (oneF g) w.srcB
      let c := s.source x w (oneF g) w.srcC
      r.lr = a.lr ∧ r.ls = a.ls ∧ (∀ j, j < 256 / g.width → lane g.width r.bits j = (f (g.exact (lane g.width a.bits j))).1 % 2 ^ g.width) → p a b c r fl) :
    LaneFlies i s x w op lat (ones3 (oneF g)) p :=
  laneFlies_of_plainWord (hx.trans (s.unaryOp_eq_laneOp x op w lat g f)) (width_mul_le _) fun r fl hlr hls hl => hp r fl ⟨hlr, hls, hl⟩

end

/-! ### The group -/

section
variable (s : State) (x : ElemSite) (w : CtxFields)
theorem fsub_exec : exec (.fsub x w) s = s.floatOp x 0x11 w false fun a b _ => XVal.sumExact (isRdn w) [a, b.neg] := rfl
theorem fmul_exec : exec (.fmul x w) s = s.floatOp x 0x12 w false fun a b _ => a.mul b := rfl
theorem fma_exec : exec (.fma x w) s = s.floatOp x 0x13 w true fun a b c => XVal.sumExact (isRdn w) [a.mul b, c] := rfl
theorem fmin_exec : exec (.fmin x w) s = s.codeOp x 0x14 w minCode := rfl
theorem fmax_exec : exec (.fmax x w) s = s.codeOp x 0x15 w maxCodeOf := rfl
theorem fabs_exec : exec (.fabs x w) s = s.codeOp x 0x16 w fun g a _ => absCode g a := rfl
theorem fneg_exec : exec (.fneg x w) s = s.codeOp x 0x17 w fun g a _ => negCode g a := rfl
theorem fcmp_exec : exec (.fcmp x w) s = s.codeOp x 0x18 w fun g a b => if floatCond (CtxOps.xa w) (g.exact a) (g.exact b) then 2 ^ g.width - 1 else 0 := rfl
theorem rcps_exec : exec (.rcps x w) s = s.unaryOp x 0x20 w 4 fp32 fun v => seedLane (CtxOps.sat w) v (rcpsLane v) := rfl
theorem rsqs_exec : exec (.rsqs x w) s = s.unaryOp x 0x21 w 4 fp32 fun v => seedLane (CtxOps.sat w) v (rsqsLane v) := rfl
theorem exp2_exec : exec (.exp2 x w) s = s.unaryOp x 0x22 w 6 (fmtF w.fmt) fun v =>
    (((fmtF w.fmt).saturate (CtxOps.sat w) ((fmtF w.fmt).exp2 v).code).1,
      flagIf ((fmtF w.fmt).exp2 v).of fOF ||| ((fmtF w.fmt).saturate (CtxOps.sat w) ((fmtF w.fmt).exp2 v).code).2) := rfl
theorem act_exec : exec (.act x w) s = s.unaryOp x 0x23 w 6 (fmtF w.fmt) fun v =>
    (fmtF w.fmt).saturate (CtxOps.sat w) ((fmtF w.fmt).rne (if v.isNan then XVal.nan else actValue (CtxOps.xa w) v)) := rfl

/-- A lane of dact: the gradient times the factor from the saved output, rounded to nearest (R123). -/
def dactLane (y d : XVal) (l : W32) : LaneOut :=
  (fmtF w.fmt).deliver .rne (CtxOps.sat w) l (d.mul (dactFactor (CtxOps.xa w) y)) (y.isNan || d.isNan)

theorem dact_exec : exec (.dact x w) s = s.laneOp x 0x24 w 6 (ones3 (oneF (fmtF w.fmt))) fun a b _ l =>
    (lanesWord (fmtF w.fmt).width (256 / (fmtF w.fmt).width) l fun j l =>
      dactLane w ((fmtF w.fmt).exact (lane (fmtF w.fmt).width a.bits j)) ((fmtF w.fmt).exact (lane (fmtF w.fmt).width b.bits j)) l).with a := rfl
end

/-- Settles O35: fadd to fma draw their lanes, fmin to fcmp edit or choose codes, the others compute on the value of each lane. -/
theorem laneFloat : Obligations.LaneFloat := by
  unfold Obligations.LaneFloat
  intro s x w g n a b c rdn sat flies sum rounds code nan
  refine ⟨laneFlies_of_floatOp (fadd_exec s x w) fun _ _ h => h, laneFlies_of_floatOp (fsub_exec s x w) fun _ _ h => h,
    laneFlies_of_floatOp (fmul_exec s x w) fun _ _ h => h, laneFlies_of_floatOp (fma_exec s x w) fun _ _ h => h,
    laneFlies_of_codeOp (fmin_exec s x w) fun _ _ ⟨hlr, hls, hl⟩ => ⟨hlr, hls, fun j hj => minCode_chooses (lane_lt _ _ _) (lane_lt _ _ _) (hl j hj)⟩,
    laneFlies_of_codeOp (fmax_exec s x w) fun _ _ ⟨hlr, hls, hl⟩ => ⟨hlr, hls, fun j hj => maxCodeOf_chooses (lane_lt _ _ _) (lane_lt _ _ _) (hl j hj)⟩,
    laneFlies_of_codeOp (fabs_exec s x w) fun _ _ ⟨hlr, hls, hl⟩ => ⟨hlr, hls, fun j hj => (hl j hj).trans absCode_mod⟩,
    laneFlies_of_codeOp (fneg_exec s x w) fun _ _ ⟨hlr, hls, hl⟩ => ⟨hlr, hls, fun j hj => (hl j hj).trans (negCode_mod (fmtF_width_pos w.fmt))⟩,
    laneFlies_of_codeOp (fcmp_exec s x w) fun _ _ ⟨hlr, hls, hl⟩ => ⟨hlr, hls, fun j hj => ((hl j hj).trans (allOnes_mod _ _)).trans ?_⟩,
    laneFlies_of_unaryOp (rcps_exec s x w) fun _ _ h => h, laneFlies_of_unaryOp (rsqs_exec s x w) fun _ _ h => h,
    laneFlies_of_unaryOp (exp2_exec s x w) fun _ _ h => h, laneFlies_of_unaryOp (act_exec s x w) fun _ _ ⟨hlr, hls, hl⟩ => ⟨hlr, hls, ?_⟩,
    laneFlies_of_lanesWord (dact_exec s x w) (width_mul_le _) fun _ _ hlr hls hl => ⟨hlr, hls, fun j hj => ?_⟩⟩
  · rw [CtxOps.xa_eq]
    rfl
  · rw [CtxOps.xa_eq] at hl
    exact hl
  · rw [← CtxOps.xa_eq]
    exact hl.lane_eq (fun _ l => deliver_rne_v _ _ l _ _) hj

end Sys2Proof.Machine
end

section
/-! Peer tiles that arrive (O26): the turn of a tile, the lanes it is added to, its drop and the record of that, and its leaving. -/
namespace Sys2Proof.Machine

/-! ### The turn of a tile (R158, R325, R327) -/

section
variable {s : State} {x : Tile}

theorem noTile_before (hfirst : ∀ y ∈ s.tiles, ¬ (y.ordered x = true ∧ y.before x = true)) : s.tiles.any (fun u => u.ordered x && u.before x) = false := by
  simpa using hfirst

variable (hfind : s.tiles.find? (fun t => t.id == x.id) = some x) (hfirst : ∀ y ∈ s.tiles, ¬ (y.ordered x = true ∧ y.before x = true))
include hfind hfirst

/-- Behind no earlier tile, one whose checks pass applies. -/
theorem tileArrive_applies {e : Fin 256} (hrefused : x.refused = none) (htarget : s.tileTarget x = .ok e) :
    exec (.tileArrive x.id) s = .next (s.applyTile x e) := by
  change execTileArrive x.id s = _
  simp only [execTileArrive, hfind, noTile_before hfirst, hrefused, htarget, Bool.false_eq_true, if_false]

/-- Behind no earlier tile, one that fails a check is dropped. -/
theorem tileArrive_drops {why : DropReason} (hrefused : x.refused = none) (htarget : s.tileTarget x = .error why) :
    exec (.tileArrive x.id) s = .next (s.dropTile x why) := by
  change execTileArrive x.id s = _
  simp only [execTileArrive, hfind, noTile_before hfirst, hrefused, htarget, Bool.false_eq_true, if_false]

/-- A refused tile is not checked again: it is dropped for its reason. -/
theorem tileArrive_again {why : DropReason} (hrefused : x.refused = some why) : exec (.tileArrive x.id) s = .next (s.dropTile x why) := by
  change execTileArrive x.id s = _
  simp only [execTileArrive, hfind, noTile_before hfirst, hrefused, Bool.false_eq_true, if_false]

end

/-- An EMPTY slot takes no tile (R324, R325). -/
theorem tileTarget_absent (s : State) (x : Tile) (h : (s.slot x.peer).status = 0x00) : s.tileTarget x = .error .absent := by
  simp [State.tileTarget, State.vacant, h]

/-! ### A tile that leaves (R321) -/

/-- An update of any slot that leaves its elements leaves every element. -/
theorem State.elem_modSlot_any (s : State) (c d : CpId) (f : Slot → Slot) (e : Fin 256) (h : (f (s.slot c)).elems = (s.slot c).elems) :
    (s.modSlot c f).elem d e = s.elem d e := by
  by_cases hd : d = c
  · subst hd
    exact State.elem_modSlot_keeps s d f e h
  · rw [State.elem, State.slot_modSlot_ne s c d f hd]
    rfl

theorem endTile_tiles (s : State) (x : Tile) : (s.endTile x).tiles = s.tiles.filter fun y => y.id != x.id := rfl

theorem elem_endTile (s : State) (x : Tile) (c : CpId) (e : Fin 256) : (s.endTile x).elem c e = s.elem c e :=
  State.elem_modSlot_any _ x.sender c _ e rfl

theorem recq_endTile (s : State) (x : Tile) : ((s.endTile x).core x.sender.core).recq = (s.core x.sender.core).recq := by
  rw [State.endTile, State.core_modSlot_same]
  rfl

theorem sameBytes_endTile (s : State) (x : Tile) : SameBytes s (s.endTile x) := sameBytes_of rfl rfl

/-! ### The lanes of an accumulator with a tile added (R158) -/

section
variable (a v : Lanes8) (l : Fin 8)

theorem lanes8List_tileAdd (int : Bool) : (lanes8List (tileAdd int a v)).get l = BitVec.ofNat 32
    (if int then addLaneInt (a.get l) false (v.get l).toInt
      else addLane (a.get l) false (v.get l).toNat (fp32.exact (v.get l).toNat).isNan false).v := by
  simp [lanes8List, tileAdd, Vector.get_eq_getElem]

/-- An FP32 lane is the exact sum, rounded once to nearest even. -/
theorem tileAdd_float : (lanes8List (tileAdd false a v)).get l =
    BitVec.ofNat 32 (fp32.rne (XVal.sumExact false [fp32.exact (a.get l).toNat, fp32.exact (v.get l).toNat])) := by
  rw [lanes8List_tileAdd]
  rfl

/-- An integer lane is the sum, clamped to 32 bits. -/
theorem tileAdd_int : (lanes8List (tileAdd true a v)).get l =
    BitVec.ofInt 32 (max (-2147483648) (min 2147483647 ((a.get l).toInt + (v.get l).toInt))) := by
  have hlane := addLaneInt_toInt (a.get l) false (v.get l).toInt
  rw [if_neg Bool.false_ne_true] at hlane
  rw [lanes8List_tileAdd, if_pos rfl, ← hlane, BitVec.ofInt_toInt]

end

/-! ### A tile that applies (R158) -/

section
variable (s : State) (x : Tile) (e : Fin 256)

/-- With no error on the accumulator the tile is added, its flags enter ESTAT, and it leaves. -/
theorem applyTile_clean (hecc : s.ecc = []) : s.applyTile x e =
    let rs := tileAdd x.int ((s.elem x.peer e).acc.get (descAcc x.desc)) x.lanes
    ((s.setFlags x.peer e (orFlags rs)).setAcc x.peer e (descAcc x.desc) (lanes8List rs)).endTile x := by
  have hmarks (l : Reads) : s.marksOf x.peer.core l = [] := by simp [State.marksOf, hecc]
  have hlog (l : Reads) : s.logOf x.peer l = s := by simp [State.logOf, hecc]
  simp only [State.applyTile, hmarks, hlog, List.find?_nil]

theorem setAcc_tiles (c : CpId) (i : Fin 4) (v : Lanes8) : (s.setAcc c e i v).tiles = s.tiles := by
  obtain ⟨⟨hrest, -⟩, -⟩ := onlyCp_writeArr c (s.modElem c e fun y => { y with acc := vmod y.acc i fun _ => v }) (s.slot c).part 3 e.val (4 * i.val) 4
  exact (congrArg State.tiles hrest :)

theorem sameBytes_setAcc (c : CpId) (i : Fin 4) (v : Lanes8) : SameBytes s (s.setAcc c e i v) :=
  sameBytes_of (State.setAcc_mem s c e i v) (writeArr_dies _ _ _ _ _ _ _)

theorem acc_setAcc (c : CpId) (i : Fin 4) (v : Lanes8) : ((s.setAcc c e i v).elem c e).acc.get i = v := by
  rw [State.setAcc, elem_writeElem]
  exact vmod_get_same _ _ _

theorem applyTile_applies (hecc : s.ecc = []) :
    let t := s.applyTile x e
    t.tiles = s.tiles.filter (fun y => y.id != x.id) ∧ SameBytes s t ∧
      (t.elem x.peer e).acc.get (descAcc x.desc) = lanes8List (tileAdd x.int ((s.elem x.peer e).acc.get (descAcc x.desc)) x.lanes) := by
  intro t
  simp only [t, applyTile_clean s x e hecc]
  refine ⟨?_, sameBytes_trans (sameBytes_trans (sameBytes_of rfl rfl) (sameBytes_setAcc (s.setFlags x.peer e _) e _ _ _)) (sameBytes_endTile _ _), ?_⟩
  · rw [endTile_tiles, setAcc_tiles]
    rfl
  · rw [elem_endTile, acc_setAcc]

end

/-! ### A tile that is dropped (R302, R303, R326) -/

/-- Bits [7:0] of a record are its cause (R299). -/
theorem RecFields.bits_cause (f : RecFields) : f.bits.extractLsb' 0 8 = f.cause := by
  ext i hi
  grind [RecFields.bits]

/-- Into a full queue nothing enters. -/
theorem Core.enterRecs_full (k : Core) (h : 4 ≤ k.recq.length) : k.enterRecs = k := by
  have go (n : Nat) : Core.enterRecs.go k n = k := by
    cases n with
    | zero => rfl
    | succ n =>
      unfold Core.enterRecs.go
      split
      · exact if_neg (by omega)
      · rfl
  exact go _

/-- With the queue full, a record joins those that wait. -/
theorem core_queueRec_full (s : State) (k : Fin 256) (key : RecKey) (f : RecFields) (h : 4 ≤ (s.core k).recq.length) :
    (s.queueRec k key f).core k = { s.core k with recWait := (s.core k).recWait ++ [⟨key, f.gcyc, true, some f.bits⟩] } := by
  rw [State.queueRec, State.core_modCore_same]
  exact Core.enterRecs_full _ h

section
variable (s : State) (x : Tile) (why : DropReason)

/-- The DROP record of a tile (R326). -/
def State.dropFields : RecFields :=
  { s.slotRec x.sender cDROP 0x05 (some x.region) with
    part := x.part, wid := x.wid, elem := x.imgElem, index := BitVec.ofNat 8 ((if x.cue then 0x80 else 0) + x.idx.toNat)
    detail := x.strm.setWidth 64 }

/-- The record goes to the sender, and CDLOG of the destination's cluster takes the drop. -/
def State.noteDrop : State :=
  (s.queueRec x.sender.core (.job x.id) (s.dropFields x)).modCluster (clusterOf x.peer.core) fun k => { k with cdlog := cdlogNote k.cdlog why x }

theorem core_noteDrop : (s.noteDrop x why).core x.sender.core = (s.queueRec x.sender.core (.job x.id) (s.dropFields x)).core x.sender.core := rfl

theorem noteDrop_tiles : (s.noteDrop x why).tiles = s.tiles := rfl

theorem dropTile_first (hrefused : x.refused = none) : s.dropTile x why =
    if (s.noteDrop x why).recWaits x.sender.core (.job x.id) then
      { s.noteDrop x why with tiles := (s.noteDrop x why).tiles.map fun u => if u.id == x.id then { u with refused := some why } else u }
    else (s.noteDrop x why).endTile x := by
  simp only [State.dropTile, hrefused]
  rfl

/-- A refused tile whose record waits no more leaves. -/
theorem dropTile_leaves (hrefused : x.refused.isSome = true) (hwaits : s.recWaits x.sender.core (.job x.id) = false) : s.dropTile x why = s.endTile x := by
  simp only [State.dropTile, hrefused, hwaits, if_true, Bool.false_eq_true, if_false]

/-- With room at the sender the record enters its queue, and the tile leaves. -/
theorem dropTile_enters (hrefused : x.refused = none) (hroom : RecRoom s x.sender.core) :
    let t := s.dropTile x why
    t.tiles = s.tiles.filter (fun y => y.id != x.id) ∧ (t.core x.sender.core).recq = (s.core x.sender.core).recq ++ [(s.dropFields x).bits] := by
  have hcore := (core_noteDrop s x why).trans (core_queueRec s x.sender.core (.job x.id) (s.dropFields x) hroom)
  have hwaits : (s.noteDrop x why).recWaits x.sender.core (.job x.id) = false := by
    rw [State.recWaits, hcore, hroom.2]
    rfl
  have hdrop : s.dropTile x why = (s.noteDrop x why).endTile x := by
    rw [dropTile_first s x why hrefused, hwaits]
    rfl
  intro t
  simp only [t, hdrop]
  exact ⟨rfl, by rw [recq_endTile, hcore]⟩

/-- With the queue at the sender full the record waits, and so does the tile, refused. -/
theorem dropTile_waits (hrefused : x.refused = none) (hfull : 4 ≤ (s.core x.sender.core).recq.length) :
    let t := s.dropTile x why
    t.tiles = s.tiles.map (fun y => if y.id = x.id then { y with refused := some why } else y) ∧ t.core x.sender.core =
      { s.core x.sender.core with recWait := (s.core x.sender.core).recWait ++ [⟨.job x.id, (s.dropFields x).gcyc, true, some (s.dropFields x).bits⟩] } := by
  have hcore := (core_noteDrop s x why).trans (core_queueRec_full s x.sender.core (.job x.id) (s.dropFields x) hfull)
  have hwaits : (s.noteDrop x why).recWaits x.sender.core (.job x.id) = true := by
    rw [State.recWaits, hcore]
    simp
  intro t
  simp only [t, dropTile_first s x why hrefused, hwaits, if_true, noteDrop_tiles, beq_iff_eq]
  exact ⟨trivial, hcore⟩

end

/-- Settles O26: a tile whose checks pass is added and leaves; one whose peer is absent is dropped with a record, and waits for it while the
sender's queue is full. -/
theorem tileArrive : Obligations.TileArrive := by
  unfold Obligations.TileArrive
  intro s x hfind hecc hfirst
  refine ⟨fun e hrefused htarget => ?_, fun hempty hrefused hroom => ?_, fun hempty hrefused hfull => ?_, fun hrefused hwaits => ?_⟩
  · obtain ⟨htiles, hbytes, hacc⟩ := applyTile_applies s x e hecc
    refine ⟨_, tileArrive_applies hfind hfirst hrefused htarget, htiles, hbytes, fun hint l => ?_, fun hint l => ?_⟩
    · rw [hacc, hint]
      exact tileAdd_float _ _ l
    · rw [hacc, hint]
      exact tileAdd_int _ _ l
  · obtain ⟨htiles, hrecq⟩ := dropTile_enters s x .absent hrefused hroom
    exact ⟨_, tileArrive_drops hfind hfirst hrefused (tileTarget_absent s x hempty), htiles, _, hrecq, RecFields.bits_cause _⟩
  · obtain ⟨htiles, hcore⟩ := dropTile_waits s x .absent hrefused hfull
    exact ⟨_, tileArrive_drops hfind hfirst hrefused (tileTarget_absent s x hempty), htiles, by rw [hcore], _, by rw [hcore], rfl, rfl⟩
  · obtain ⟨why, hwhy⟩ := Option.isSome_iff_exists.mp hrefused
    refine ⟨s.endTile x, ?_, endTile_tiles s x, sameBytes_endTile s x, recq_endTile s x⟩
    rw [tileArrive_again hfind hfirst hwhy, dropTile_leaves s x why hrefused hwaits]

end Sys2Proof.Machine
end

section
/-! What holds an instruction at issue, and what a trap at issue leaves alone (O4). -/
namespace Sys2Proof.Machine

/-! ### Waiting and trapping at issue -/

theorem onlyRegs_count (p : Cp) (ev n : Nat) : OnlyRegs p (p.count ev n) := ⟨rfl, by split <;> exact ⟨rfl, rfl⟩⟩

@[simp] theorem count_queue (p : Cp) (ev n : Nat) : (p.count ev n).queue = p.queue := rfl
@[simp] theorem count_reg (p : Cp) (ev n : Nat) (r : Reg) : (p.count ev n).reg r = p.reg r := rfl

/-- An instruction that leaves the state as it is waits. -/
theorem waits_of_same {i : Instr} {s : State} (h : exec i s = .next s) : Waits i s :=
  ⟨s, h, ⟨onlyCp_refl _ _, fun _ => rfl, onlyRegs_refl _⟩, rfl, fun _ => rfl, rfl⟩

/-- An instruction that stalls at issue waits. -/
theorem waits_of_stall {i : Instr} {s : State} (h : exec i s = .next s.stall) : Waits i s := by
  have hcp : s.stall.cp s.cur = (s.cp s.cur).count 4 1 := State.cp_modCp_same _ _ _
  refine ⟨s.stall, h, ⟨onlyCp_modCp _ _ _, sameBytes_of rfl rfl, ?_⟩, ?_, fun r => ?_, ?_⟩
  · rw [hcp]; exact onlyRegs_count ..
  · show (s.stall.cp s.cur).pc = _
    rw [hcp]; rfl
  · show (s.stall.cp s.cur).reg r = _
    rw [hcp]; rfl
  · rw [hcp]; rfl

/-- The queue holds an entry of a kind for one of the registers. -/
theorem any_entry {q : List LandEntry} {e : LandEntry} {k : LandKind} {regs : List Reg} (he : e ∈ q) (hk : e.kind = k) (hr : e.reg ∈ regs) :
    (q.any fun x => x.kind == k && regs.contains x.reg) = true :=
  List.any_eq_true.mpr ⟨e, he, by simpa [hk] using hr⟩

/-- A pending interlocked entry for one of its registers holds an instruction (R165). -/
theorem issue_interlocked {s : State} {e : LandEntry} {reads writes : List Reg} (late : Bool) (k : State → State)
    (he : e ∈ (s.cp s.cur).queue) (hk : e.kind = .interlocked) (hr : e.reg ∈ reads ++ writes) :
    s.issue reads writes late k = .next s.stall := by
  have hready : (s.cp s.cur).ready (reads ++ writes) = .wait := by
    simp only [Cp.ready, any_entry he hk hr, if_true]
  rw [State.issue, hready]

/-- In check mode a pending fixed-latency entry traps WINDOW, when none of its registers has an interlocked one (R165). -/
theorem issue_window {s : State} {e : LandEntry} {reads writes : List Reg} (late : Bool) (k : State → State)
    (he : e ∈ (s.cp s.cur).queue) (hk : e.kind = .fixed) (hr : e.reg ∈ reads ++ writes)
    (hall : ∀ x ∈ (s.cp s.cur).queue, x.kind = .fixed) (hc : (s.cp s.cur).check = true) :
    s.issue reads writes late k = .next (s.trapFree s.cur cWINDOW) := by
  have hnone : ((s.cp s.cur).queue.any fun x => x.kind == .interlocked && (reads ++ writes).contains x.reg) = false :=
    List.any_eq_false.mpr fun x hx => by simp [hall x hx]
  have hready : (s.cp s.cur).ready (reads ++ writes) = .window := by
    simp only [Cp.ready, hnone, any_entry he hk hr, hc, Bool.and_self, Bool.false_eq_true, if_false, if_true]
  rw [State.issue, hready]

/-- A full landing queue holds an instruction that takes an entry (R167). -/
theorem issue_full {s : State} {reads writes : List Reg} (k : State → State) (hr : (s.cp s.cur).ready (reads ++ writes) = .ok)
    (hq : 8 ≤ (s.cp s.cur).queue.length) : s.issue reads writes true k = .next s.stall := by
  have hroom : (s.cp s.cur).room = false := by simpa [Cp.room] using hq
  simp [State.issue, hr, hroom]

/-! ### Traps in thread mode that write no record -/

/-- A synchronous trap in thread mode whose cause writes no record only enters the trap (R293, R295). -/
theorem syncTrap_thread {s : State} {c : CpId} {cause : BitVec 8} (val detail resume : Word) (hh : (s.cp c).handler = false)
    (hc : recorded cause = false) :
    s.syncTrap c cause val detail resume = s.modCp c fun p => p.trapEntry cause val p.pc resume := by
  simp [State.syncTrap, State.syncTrapWith, hh, hc]

/-- An instruction that enters a trap, from a state that differs in the count of free values at most, traps. -/
theorem traps_of_entry {i : Instr} {s t : State} {cause : BitVec 8} {val resume : Word} (ht : t = s ∨ t = s.took)
    (h : exec i s = .next (t.modCp s.cur fun p => p.trapEntry cause val p.pc resume)) : Traps i s cause val resume := by
  have hcp : t.cp s.cur = s.cp s.cur := by rcases ht with rfl | rfl <;> rfl
  have honly : OnlyCp s.cur s t := by
    rcases ht with rfl | rfl
    · exact onlyCp_refl ..
    · exact ⟨⟨rfl, fun _ _ => rfl⟩, rfl, rfl, rfl⟩
  refine ⟨_, h, ?_, onlyCp_trans honly (onlyCp_modCp _ _ _), sameBytes_of ?_ ?_⟩
  · show (t.modCp _ _).cp s.cur = _
    rw [State.cp_modCp_same, hcp]; rfl
  · rcases ht with rfl | rfl <;> rfl
  · rcases ht with rfl | rfl <;> rfl

/-- A trap at the instruction whose value the spec does not name traps with a free value (entry 12). -/
theorem traps_of_trapFree {i : Instr} {s : State} {cause : BitVec 8} (hh : (s.cp s.cur).handler = false) (hc : recorded cause = false)
    (h : exec i s = .next (s.trapFree s.cur cause)) : Traps i s cause s.freeWord s.pc := by
  exact traps_of_entry (.inr rfl) (h.trans (congrArg _ (syncTrap_thread (s := s.took) s.freeWord 0 s.pc hh hc)))

/-- A trap at an access traps with its address. -/
theorem traps_of_trapAccess {i : Instr} {s : State} {cause : BitVec 8} {a : Word} {write : Bool} (hh : (s.cp s.cur).handler = false)
    (hc : recorded cause = false) (h : exec i s = .next (s.trapAccess s.cur cause a write)) : Traps i s cause a s.pc :=
  traps_of_entry (.inl rfl) (h.trans (congrArg _ (syncTrap_thread a _ s.pc hh hc)))

/-! ### The statement -/

/-- What add is: a latency-1 result. -/
theorem add_exec (d a b : Reg) (s : State) : exec (.add d a b) s = s.result1 [a, b] d fun t => t.reg a + t.reg b := rfl

/-- What mul is: a result at distance 3. -/
theorem mul_exec (d a b : Reg) (s : State) : exec (.mul d a b) s = s.resultL [a, b] d 3 fun t => t.reg a * t.reg b := rfl

/-- Settles O4: the three answers of the issue rule, for add and mul. -/
theorem landingQueue : Obligations.LandingQueue := by
  unfold Obligations.LandingQueue
  refine ⟨fun s d a b k e _ he hk hr => ⟨fun hi => ?_, fun hf hall hc hh => ?_⟩, fun s d a b hr _ hq => ?_⟩
  · exact waits_of_stall ((add_exec d a b s).trans (issue_interlocked (reads := [a, b]) (writes := [d]) _ _ he (hk.trans hi) hr))
  · refine ⟨s.freeWord, traps_of_trapFree hh rfl ?_⟩
    exact (add_exec d a b s).trans (issue_window (reads := [a, b]) (writes := [d]) _ _ he (hk.trans hf) hr hall hc)
  · exact waits_of_stall ((mul_exec d a b s).trans (issue_full (reads := [a, b]) (writes := [d]) _ hr hq))

end Sys2Proof.Machine
end

section
/-! A cycle of a landing queue (O5). -/
namespace Sys2Proof.Machine

/-- The entry reaches its end in this cycle. -/
def LandEntry.due (e : LandEntry) : Bool := e.rem == some 0 || e.rem == some 1

/-- The entry one cycle later. -/
def LandEntry.nearer (e : LandEntry) : LandEntry := { e with rem := e.rem.map (· - 1) }

/-- An entry that is due leaves the queue and is written to its register; another one comes nearer. -/
theorem landCycle_cons (b : Vector Word 32) (e : LandEntry) (l : List LandEntry) :
    landCycle b (e :: l) = if e.due then landCycle (bankSet b e.reg e.value) l
      else ((landCycle b l).1, e.nearer :: (landCycle b l).2) := by
  obtain ⟨id, place, reg, kind, rem, value⟩ := e
  rcases rem with _ | _ | _ | n <;> rfl

/-- What stays in the queue: the entries that are not due, one cycle nearer, in their order (R164). -/
theorem landCycle_queue (b : Vector Word 32) (l : List LandEntry) :
    (landCycle b l).2 = (l.filter fun e => !e.due).map LandEntry.nearer := by
  induction l generalizing b with
  | nil => rfl
  | cons e l ih =>
    rw [landCycle_cons]
    cases hd : e.due <;> simp [hd, ih]

/-- A register for which no entry is due keeps its value. -/
theorem landCycle_reg_of_none (b : Vector Word 32) (l : List LandEntry) (r : Reg) (h : (l.filter fun e => e.due && e.reg == r) = []) :
    bankReg (landCycle b l).1 r = bankReg b r := by
  induction l generalizing b with
  | nil => rfl
  | cons e l ih =>
    rw [landCycle_cons]
    obtain ⟨he, hl⟩ : ¬ (e.due = true ∧ e.reg = r) ∧ (l.filter fun e => e.due && e.reg == r) = [] := by
      simp only [List.filter_cons] at h
      split at h
      · exact absurd h (List.cons_ne_nil _ _)
      · exact ⟨by simp_all, h⟩
    cases hd : e.due with
    | false => exact ih b hl
    | true => rw [if_pos rfl, ih _ hl, bankReg_bankSet, if_neg fun hq => he ⟨hd, hq.1.symm⟩]

/-- Of the entries for a register that are due the last one stands (R166). -/
theorem landCycle_reg_of_last (b : Vector Word 32) (l pre : List LandEntry) (r : Reg) (x : LandEntry) (hr : r ≠ 0)
    (h : (l.filter fun e => e.due && e.reg == r) = pre ++ [x]) : bankReg (landCycle b l).1 r = x.value := by
  induction l generalizing b pre with
  | nil => simp at h
  | cons e l ih =>
    rw [landCycle_cons]
    simp only [List.filter_cons] at h
    split at h
    case isFalse he =>
      cases hd : e.due <;> simpa [hd] using ih _ pre h
    case isTrue he =>
      obtain ⟨hd, hreg⟩ : e.due = true ∧ e.reg = r := by simpa using he
      rw [hd, if_pos rfl]
      cases pre with
      | cons y pre => exact ih _ pre (List.cons.inj h).2
      | nil =>
        obtain ⟨rfl, hl⟩ := List.cons.inj h
        rw [landCycle_reg_of_none _ _ _ hl, bankReg_bankSet, if_pos ⟨hreg.symm, hreg ▸ hr⟩]

/-- A cycle of the handler (R168). -/
theorem tick_handler {p : Cp} (h : p.handler = true) :
    p.tick = { p with bankH := (landCycle p.bankH p.lqH).1, lqH := (landCycle p.bankH p.lqH).2 } := by
  simp [Cp.tick, h]

/-- A cycle of the thread, its events and profile counters apart (R167, R234). -/
theorem tick_thread {p : Cp} (h : p.handler = false) : p.tick =
    { p with bankT := (landCycle p.bankT p.lqT).1, lqT := (landCycle p.bankT p.lqT).2, tcyc := p.tcyc + 1,
             cpevt := p.tick.cpevt, pmc := p.tick.pmc } := by
  simp only [Cp.tick, h, Bool.false_eq_true, if_false]
  split <;> rfl

/-- What a cycle makes of the bank and the queue of its mode. -/
theorem tick_mode (p : Cp) : p.tick.bank = (landCycle p.bank p.queue).1 ∧ p.tick.queue = (landCycle p.bank p.queue).2 := by
  cases h : p.handler with
  | true => rw [tick_handler h]; simp [Cp.bank, Cp.queue, h]
  | false => rw [tick_thread h]; simp [Cp.bank, Cp.queue, h]

/-- Settles O5: by induction on the queue of the present mode, which alone a cycle touches. -/
theorem landingCycle : Obligations.LandingCycle := by
  unfold Obligations.LandingCycle
  intro p
  obtain ⟨hbank, hqueue⟩ := tick_mode p
  refine ⟨hqueue.trans (landCycle_queue ..), fun r h => ?_, fun r l e hr h => ?_, rfl, ?_, ?_⟩
  · show bankReg p.tick.bank r = _
    rw [hbank]; exact landCycle_reg_of_none _ _ r h
  · show bankReg p.tick.bank r = _
    rw [hbank]; exact landCycle_reg_of_last _ _ l r e hr h
  · cases h : p.handler
    · rw [tick_thread h]
    · rw [tick_handler h]
  · cases h : p.handler
    · rw [tick_thread h]; exact ⟨rfl, rfl, rfl⟩
    · rw [tick_handler h]; exact ⟨rfl, rfl, rfl⟩

end Sys2Proof.Machine
end


section
/-! Near addresses (O12): their class, their share and their checks in order. -/
namespace Sys2Proof.Machine

/-! ### Classes and shares -/

theorem classOf_near {a : Word} (h : a.toNat < 0x10000) : classOf a = .near := by simp [classOf, h]

theorem classOf_scene {a : Word} (h : 0x400000 ≤ a.toNat) (k : a.toNat < 0x800000) : classOf a = .scene := by
  have h1 : ¬ a.toNat < 0x10000 := by omega
  have h2 : ¬ a.toNat < 0x400000 := by omega
  simp [classOf, h1, h2, k]

/-- An address that is neither Local nor Scene has no near place (R161). -/
theorem nearPlace_elsewhere (s : State) (c : CpId) {a : Word} (n : Nat)
    (h : (0x10000 ≤ a.toNat ∧ a.toNat < 0x400000) ∨ 0x800000 ≤ a.toNat) : s.nearPlace c a n = .error cADDRCLASS := by
  have hn : classOf a ≠ .near := by unfold classOf; grind
  have hs : classOf a ≠ .scene := by unfold classOf; grind
  unfold State.nearPlace
  split
  · exact absurd ‹_› hn
  · exact absurd ‹_› hs
  · rfl

/-- A Scene address has its place in the slot's share (R171). -/
theorem nearPlace_scene (s : State) (c : CpId) {a : Word} (n : Nat) (hlo : 0x400000 ≤ a.toNat) (hhi : a.toNat < 0x800000) :
    s.nearPlace c a n = if a.toNat - 0x400000 + n ≤ ((s.core c.core).sceneShare c.slot).2
      then .ok ⟨.scene c.core, ((s.core c.core).sceneShare c.slot).1 + (a.toNat - 0x400000)⟩ else .error cPROTECT := by
  unfold State.nearPlace
  rw [classOf_scene hlo hhi]

/-- The local share of a slot, by its number (R170). -/
theorem localShare_eq (k : Core) (i : Fin 2) : k.localShare i =
    (if i = 1 then 4096 * k.lsb.toNat else 0, if i = 1 then 65536 - 4096 * k.lsb.toNat else 4096 * k.lsb.toNat) := by
  fin_cases i <;> simp [Core.localShare, Nat.mul_comm]

/-- The share of scene memory of a slot, by its number (R170). -/
theorem sceneShare_eq (k : Core) (i : Fin 2) : k.sceneShare i =
    (if i = 1 then 65536 * k.smb.toNat else 0, if i = 1 then 4194304 - 65536 * k.smb.toNat else 65536 * k.smb.toNat) := by
  fin_cases i <;> simp [Core.sceneShare, Nat.mul_comm]

/-! ### The checks of a near data address -/

theorem dataPlace_misaligned (s : State) {a : Word} {n : Nat} (w : Bool) (h : a.toNat % n ≠ 0) :
    s.dataPlace a n true w = .error cMISALIGNED := by
  simp [State.dataPlace, State.dataPlaceIn, h]

/-- An aligned near address has the place of its share, unless a running take declares it and it is written (R189). -/
theorem dataPlace_aligned (s : State) {a : Word} {n : Nat} (w : Bool) (h : a.toNat % n = 0) :
    s.dataPlace a n true w = match s.nearPlace s.cur a n with
      | .error e => .error e
      | .ok pa => if w && s.declaredWrite s.cur pa n then .error cPROTECT else .ok pa := by
  simp only [State.dataPlace, State.dataPlaceIn, h]
  rfl

/-- A place in local memory is in no declared region. -/
theorem declaredWrite_loc (s : State) (c : CpId) (k : Fin 256) (o n : Nat) : s.declaredWrite c ⟨.loc k, o⟩ n = false := rfl

/-- A write that meets a region which a running or draining take declares for writing is refused (R189). -/
theorem declaredWrite_of_region {s : State} {c : CpId} {y n : Nat} {r : Fin 4} {m : Smr} (hm : m ∈ (s.region c r).onHdr.smr)
    (hon : (s.region c r).on = .running ∨ (s.region c r).on = .draining) (hw : m.wr = true) (hlo : m.off < y + n) (hhi : y < m.off + m.len) :
    s.declaredWrite c ⟨.scene c.core, ((s.core c.core).sceneShare c.slot).1 + y⟩ n = true := by
  have hmem : s.region c r ∈ (s.slot c).regions.toList := Vector.mem_toList_iff.mpr (Vector.getElem_mem r.isLt)
  have hcounts : (s.region c r).counts = true := by rcases hon with h | h <;> simp [Region.counts, h]
  simp only [State.declaredWrite, List.any_eq_true]
  refine ⟨_, hmem, ?_⟩
  rw [hcounts, Bool.true_and, List.any_eq_true]
  refine ⟨m, hm, ?_⟩
  simp only [hw, Bool.true_and, Bool.and_eq_true, decide_eq_true_eq]
  omega

/-- An aligned Local address (R162, R171). -/
theorem dataPlace_near (s : State) {a : Word} {n : Nat} (w : Bool) (h : a.toNat % n = 0) (hx : a.toNat < 0x10000) :
    s.dataPlace a n true w = if a.toNat + n ≤ ((s.core s.cur.core).localShare s.cur.slot).2
      then .ok ⟨.loc s.cur.core, ((s.core s.cur.core).localShare s.cur.slot).1 + a.toNat⟩ else .error cPROTECT := by
  rw [dataPlace_aligned s w h]
  simp only [State.nearPlace, classOf_near hx]
  by_cases hin : a.toNat + n ≤ ((s.core s.cur.core).localShare s.cur.slot).2
  · simp only [if_pos hin, declaredWrite_loc, Bool.and_false, Bool.false_eq_true, if_false]
  · simp only [if_neg hin]

/-- An aligned Scene address: the share's bound, then the write guard (R162, R171, R189). -/
theorem dataPlace_scene (s : State) {a : Word} {n : Nat} (w : Bool) (h : a.toNat % n = 0) (hlo : 0x400000 ≤ a.toNat) (hhi : a.toNat < 0x800000) :
    let pa : PAddr := ⟨.scene s.cur.core, ((s.core s.cur.core).sceneShare s.cur.slot).1 + (a.toNat - 0x400000)⟩
    s.dataPlace a n true w = if a.toNat - 0x400000 + n ≤ ((s.core s.cur.core).sceneShare s.cur.slot).2
      then (if w && s.declaredWrite s.cur pa n then .error cPROTECT else .ok pa) else .error cPROTECT := by
  intro pa
  rw [dataPlace_aligned s w h, nearPlace_scene s _ n hlo hhi]
  by_cases hin : a.toNat - 0x400000 + n ≤ ((s.core s.cur.core).sceneShare s.cur.slot).2
  · rw [if_pos hin, if_pos hin]
  · rw [if_neg hin, if_neg hin]

/-- Settles O12: the class of the address, then the bound of its share. -/
theorem nearPlace : Obligations.NearPlace := by
  unfold Obligations.NearPlace
  intro s a n w _
  refine ⟨dataPlace_misaligned s w, fun h hc => ?_, fun h hx => ?_, fun h hlo hhi hw => ?_, fun h hlo hhi hw hr => ?_⟩
  · exact (dataPlace_aligned s w h).trans (by rw [nearPlace_elsewhere s _ n hc]; rfl)
  · rw [dataPlace_near s w h hx, localShare_eq]
    by_cases hs : s.cur.slot = 1
    · simp only [if_pos hs, decide_eq_true hs]; rfl
    · simp only [if_neg hs, decide_eq_false hs]; rfl
  · rw [dataPlace_scene s w h hlo hhi, hw, sceneShare_eq]
    by_cases hs : s.cur.slot = 1
    · simp only [if_pos hs, decide_eq_true hs]; rfl
    · simp only [if_neg hs, decide_eq_false hs]; rfl
  · obtain ⟨r, m, hm, hon, hwr, h1, h2⟩ := hr
    rw [dataPlace_scene s w h hlo hhi, hw, declaredWrite_of_region hm hon hwr h1 h2]
    exact ite_self _

end Sys2Proof.Machine
end

section
/-! Engine commands enter their queue (O18): pending landing entries, and what a command leaves alone. -/
namespace Sys2Proof.Machine

/-! ### Pending landing entries -/

/-- The entry that an answer which comes later takes in the queue of the present mode (R164). -/
def State.pendingEntry (s : State) (r : Reg) (far : Option (PAddr × FarOp)) (ask : Option Ask) (vaddr : Word) : LandEntry :=
  { id := s.ids, place := freePlace (s.cp s.cur).queue, reg := r, kind := .interlocked, rem := none, value := 0, far := far, ask := ask
    vaddr := vaddr, fpc := s.pc, since := s.ftime }

section
variable (s : State) (r : Reg) (far : Option (PAddr × FarOp)) (ask : Option Ask) (vaddr : Word)

theorem putPending_cp : (s.putPending r far ask vaddr).cp s.cur =
    (s.cp s.cur).setQueue ((s.cp s.cur).queue ++ [s.pendingEntry r far ask vaddr]) :=
  (writeArr_cp _ _ _ _ _ _ _ _).trans (State.cp_modCp_same _ _ _)

theorem putPending_cur : (s.putPending r far ask vaddr).cur = s.cur := writeArr_cur _ _ _ _ _ _ _
theorem putPending_dies : (s.putPending r far ask vaddr).dies = s.dies := writeArr_dies _ _ _ _ _ _ _

theorem onlyCp_putPending : OnlyCp s.cur s (s.putPending r far ask vaddr) :=
  onlyCp_trans (onlyCp_trans (onlyCp_newId s.cur s) (onlyCp_modCp _ _ _)) (onlyCp_writeArr _ _ _ _ _ _ _)

theorem sameBytes_putPending : SameBytes s (s.putPending r far ask vaddr) := sameBytes_of (by simp) (putPending_dies ..)

theorem onlyRegs_putPending : OnlyRegs (s.cp s.cur) ((s.putPending r far ask vaddr).cp s.cur) :=
  putPending_cp s r far ask vaddr ▸ onlyRegs_setQueue _ _

end

/-! ### A command joins the queue of its slot -/

theorem outsideCore_trans {c : CpId} {s t u : State} (h : OutsideCore c s t) (k : OutsideCore c t u) : OutsideCore c s u := by
  obtain ⟨h1, h2⟩ := h
  obtain ⟨k1, k2⟩ := k
  exact ⟨by rw [k1, h1], fun j hj => (k2 j hj).trans (h2 j hj)⟩

theorem outsideCore_modSlot (c : CpId) (s : State) (f : Slot → Slot) : OutsideCore c s (s.modSlot c f) :=
  ⟨rfl, fun _ hk => State.core_modSlot_ne _ _ _ _ hk⟩

/-- The command joins the queue of the slot and the next instruction follows. -/
def State.withCmd (u : State) (m : Cmd) : State := (u.modSlot u.cur fun x => { x with cmdq := x.cmdq ++ [m] }).advance

theorem withCmd_cur (u : State) (m : Cmd) : (u.withCmd m).cur = u.cur := advance_cur _

theorem withCmd_cp (u : State) (m : Cmd) : (u.withCmd m).cp u.cur = { (u.cp u.cur).asIssued with pc := (u.cp u.cur).pc + 4 } := by
  have h := advance_cp (u.modSlot u.cur fun x => { x with cmdq := x.cmdq ++ [m] })
  have hcp : (u.modSlot u.cur fun x => { x with cmdq := x.cmdq ++ [m] }).cp u.cur = u.cp u.cur := by
    rw [State.cp, State.slot_modSlot_same]; rfl
  exact h.trans (by rw [← hcp]; rfl)

theorem withCmd_slot (u : State) (m : Cmd) :
    (u.withCmd m).slot u.cur = { u.slot u.cur with cp := (u.withCmd m).cp u.cur, cmdq := (u.slot u.cur).cmdq ++ [m] } := by
  obtain ⟨_, _, _, h⟩ := onlyCp_advance (u.modSlot u.cur fun x => { x with cmdq := x.cmdq ++ [m] })
  rw [State.modSlot_cur] at h
  exact h.trans (by rw [State.slot_modSlot_same]; rfl)

theorem outsideCore_withCmd (u : State) (m : Cmd) : OutsideCore u.cur u (u.withCmd m) := by
  obtain ⟨h, _⟩ := onlyCp_advance (u.modSlot u.cur fun x => { x with cmdq := x.cmdq ++ [m] })
  exact outsideCore_trans (outsideCore_modSlot _ _ _) h

theorem withCmd_otherSlot (u : State) (m : Cmd) : (u.withCmd m).slot (otherSlot u.cur) = u.slot (otherSlot u.cur) := by
  obtain ⟨_, _, h, _⟩ := onlyCp_advance (u.modSlot u.cur fun x => { x with cmdq := x.cmdq ++ [m] })
  exact h.trans (State.slot_modSlot_ne _ _ _ _ (otherSlot_ne _))

theorem sameBytes_withCmd (u : State) (m : Cmd) : SameBytes u (u.withCmd m) := sameBytes_of (advance_mem _) (advance_dies _)

/-- What a command leaves alone, after a change of the registers of its CP. -/
theorem withCmd_command {s u : State} (m : Cmd) (hcur : u.cur = s.cur) (ho : OnlyCp s.cur s u) (hb : SameBytes s u)
    (hr : OnlyRegs (s.cp s.cur) (u.cp s.cur)) :
    OnlyCommand s (u.withCmd m) ∧ ((u.withCmd m).slot s.cur).cmdq = (s.slot s.cur).cmdq ++ [m] := by
  obtain ⟨hout, _, hother, hslot⟩ := ho
  rw [← hcur] at hout hother hslot hr ⊢
  have hcmdq : (u.slot u.cur).cmdq = (s.slot u.cur).cmdq := by rw [hslot]
  have hs := withCmd_slot u m
  refine ⟨⟨?_, sameBytes_trans hb (sameBytes_withCmd u m), ?_, ?_, ?_⟩, by rw [hs, hcmdq]⟩
  · rw [← hcur]; exact outsideCore_trans hout (outsideCore_withCmd u m)
  · rw [← hcur, withCmd_cp]; exact onlyRegs_next _ _ hr
  · rw [← hcur, hs, hslot]
  · rw [← hcur]; exact (withCmd_otherSlot u m).trans hother

/-- A CP at its next instruction, with the one before it counted. -/
theorem reg_next (p : Cp) (pc : Word) (r : Reg) : ({ p.asIssued with pc := pc } : Cp).reg r = p.reg r := rfl
theorem queue_next (p : Cp) (pc : Word) : ({ p.asIssued with pc := pc } : Cp).queue = p.queue := rfl

/-! ### Commands with and without a record -/

/-- A command that finds room enters the queue and goes on. -/
theorem commands_of_enqueue {i : Instr} {s : State} {reads : List Reg} {a b : Word}
    (h : CanIssue s reads false → exec i s = .next (s.enqueue i a b)) : Commands i s reads a b := by
  intro hc hroom
  let m : Cmd := { order := s.ids, pc := s.pc, i := i, a := a, b := b, part := s.myPart }
  have he : s.enqueue i a b = s.newId.withCmd m := by
    rw [State.enqueue, Slot.queueRoom, decide_eq_true hroom]; rfl
  obtain ⟨honly, hq⟩ := withCmd_command (s := s) (u := s.newId) m rfl (onlyCp_newId _ _) (sameBytes_of rfl rfl) (onlyRegs_refl _)
  have hcp := withCmd_cp s.newId m
  have hcur := withCmd_cur s.newId m
  refine ⟨_, (h hc).trans (congrArg _ he), honly, hq, ?_, fun r => ?_⟩
  · rw [State.pc, hcur, hcp]; rfl
  · rw [State.reg, hcur, hcp, reg_next]; rfl

/-- A command that finds its queue full waits (R193). -/
theorem enqueue_full {s : State} (i : Instr) (a b : Word) (h : 16 ≤ (s.slot s.cur).cmdq.length) : s.enqueue i a b = s := by
  rw [State.enqueue, Slot.queueRoom, decide_eq_false (by omega)]; rfl

theorem queuedPlain_commands {i : Instr} {s : State} {reads : List Reg} {a : State → Word} (h : exec i s = s.queuedPlain i reads a) :
    Commands i s reads (a s) 0 :=
  commands_of_enqueue fun hc => h.trans (issue_ok s reads [] false _ (by rwa [List.append_nil]))

theorem queuedPlain_waits {i : Instr} {s : State} {reads : List Reg} {a : State → Word} (h : exec i s = s.queuedPlain i reads a)
    (hc : CanIssue s reads false) (hq : 16 ≤ (s.slot s.cur).cmdq.length) : Waits i s :=
  waits_of_same ((h.trans (issue_ok s reads [] false _ (by rwa [List.append_nil]))).trans (congrArg _ (enqueue_full i _ _ hq)))

theorem withRecord_ok {s : State} {a : Word} {align len : Nat} {write : Bool} {ps : List PAddr} (k : List PAddr → State)
    (h : s.record a align len write = .ok ps) : s.withRecord a align len write k = k ps := by simp only [State.withRecord, h]

theorem withRecord_misaligned {s : State} {a : Word} {align : Nat} (len : Nat) (write : Bool) (k : List PAddr → State) (h : a.toNat % align ≠ 0) :
    s.withRecord a align len write k = s.trapAccess s.cur cMISALIGNED a write := by
  have hr : s.record a align len write = .error (cMISALIGNED, a) := by
    rw [State.record, State.recordPlaces, if_pos (bne_iff_ne.mpr h)]
  simp only [State.withRecord, hr]

theorem queuedBy_commands {i : Instr} {s : State} {reads : List Reg} {a b : State → Word} {align : Nat} {len : State → Nat} {write : Bool}
    (h : exec i s = s.queuedBy i reads a b align len write) (hrec : RecordOk s (a s) align (len s) write) : Commands i s reads (a s) (b s) := by
  obtain ⟨ps, hps⟩ := hrec
  refine commands_of_enqueue fun hc => ?_
  rw [h, State.queuedBy, issue_ok s reads [] false _ (by rwa [List.append_nil]), withRecord_ok _ hps]

/-- A record operand that is not aligned traps MISALIGNED (R237). -/
theorem queuedBy_traps {i : Instr} {s : State} {reads : List Reg} {a b : State → Word} {align : Nat} {len : State → Nat} {write : Bool}
    (h : exec i s = s.queuedBy i reads a b align len write) (hc : CanIssue s reads false) (hh : (s.cp s.cur).handler = false)
    (ha : (a s).toNat % align ≠ 0) : Traps i s cMISALIGNED (a s) s.pc := by
  refine traps_of_trapAccess (write := write) hh rfl ?_
  rw [h, State.queuedBy, issue_ok s reads [] false _ (by rwa [List.append_nil]), withRecord_misaligned _ _ _ ha]

/-- The equation of spat. -/
theorem spat_exec (a : Reg) (k : BitVec 4) (s : State) : exec (.spat a k) s = s.issue [a] [] false fun t =>
    t.withRecord (t.reg a) 64 64 false fun ps => t.readRecord (t.reg a) ps fun u b =>
      (u.modSlot t.cur fun x => { x with patterns := vmod x.patterns (ix16 k) fun _ => BitVec.ofNat 512 (leNat b) }).advance := rfl

theorem spat_traps {s : State} {a : Reg} (k : BitVec 4) (hc : CanIssue s [a] false) (hh : (s.cp s.cur).handler = false)
    (ha : (s.reg a).toNat % 64 ≠ 0) : Traps (.spat a k) s cMISALIGNED (s.reg a) s.pc := by
  refine traps_of_trapAccess (write := false) hh rfl ?_
  rw [spat_exec, issue_ok s [a] [] false _ hc, withRecord_misaligned _ _ _ ha]

/-! ### Commands that answer -/

/-- A command that answers: it enters the queue and awaits its answer in a landing entry of its number (R238, R248). -/
theorem queuedAnswer_completes {i : Instr} {s : State} {x : Reg} (h : exec i s = s.queuedAnswer i x) (hc : CanIssue s [x] true)
    (hroom : (s.slot s.cur).cmdq.length < 16) :
    Completes i s fun t => OnlyCommand s t ∧ Enqueued i 0 0 s t ∧ t.pc = s.pc + 4 ∧ (∀ g, t.reg g = s.reg g) ∧
      ∃ e : LandEntry, (t.cp s.cur).queue = (s.cp s.cur).queue ++ [e] ∧ e.id = s.ids ∧ e.reg = x ∧ e.kind = .interlocked ∧ e.rem = none ∧
        e.far = none ∧ e.ask = none := by
  let m : Cmd := { order := s.ids, pc := s.pc, i := i, a := 0, b := 0, part := s.myPart }
  let u := s.putPending x none none 0
  have hcur : u.cur = s.cur := putPending_cur ..
  obtain ⟨honly, hq⟩ := withCmd_command m hcur (onlyCp_putPending s x none none 0) (sameBytes_putPending s x none none 0)
    (onlyRegs_putPending s x none none 0)
  have hcp : (u.withCmd m).cp s.cur = { (u.cp s.cur).asIssued with pc := (u.cp s.cur).pc + 4 } := hcur ▸ withCmd_cp u m
  have hu : u.cp s.cur = (s.cp s.cur).setQueue ((s.cp s.cur).queue ++ [s.pendingEntry x none none 0]) := putPending_cp ..
  have ht : (u.withCmd m).cur = s.cur := (withCmd_cur u m).trans hcur
  refine ⟨u.withCmd m, ?_, honly, hq, ?_, fun g => ?_, s.pendingEntry x none none 0, ?_, rfl, rfl, rfl, rfl, rfl, rfl⟩
  · have hr : (s.slot s.cur).queueRoom = true := decide_eq_true hroom
    rw [h, State.queuedAnswer, issue_ok s [] [x] true _ hc, if_pos hr, State.withCmd, hcur]
  · rw [State.pc, ht, hcp, hu, setQueue_pc]; rfl
  · rw [State.reg, ht, hcp, hu, reg_next, setQueue_reg]; rfl
  · rw [hcp, hu, queue_next, setQueue_queue]

/-! ### The statement -/

/-! The commands by the way in which they enter the queue. -/

theorem rgo_exec (r : BitVec 2) (s : State) : exec (.rgo r) s = s.queuedPlain (.rgo r) [] fun _ => 0 := rfl
theorem rstop_exec (r : BitVec 2) (s : State) : exec (.rstop r) s = s.queuedPlain (.rstop r) [] fun _ => 0 := rfl
theorem sbind_exec (p : BitVec 5) (k : BitVec 4) (s : State) : exec (.sbind p k) s = s.queuedPlain (.sbind p k) [] fun _ => 0 := rfl
theorem sbindt_exec (a : Reg) (p : BitVec 5) (k : BitVec 4) (s : State) :
    exec (.sbindt a p k) s = s.queuedPlain (.sbindt a p k) [a] fun t => t.reg a := rfl
theorem sstop_exec (p : BitVec 5) (s : State) : exec (.sstop p) s = s.queuedPlain (.sstop p) [] fun _ => 0 := rfl
theorem rload_exec (a b : Reg) (r : BitVec 2) (s : State) : exec (.rload a b r) s =
    s.queuedBy (.rload a b r) [a, b] (fun t => t.reg a) (fun t => t.reg b) 64 (fun t => t.imageLen (t.reg a)) false := rfl
theorem rsave_exec (a : Reg) (r : BitVec 2) (s : State) : exec (.rsave a r) s = s.queuedBy (.rsave a r) [a] (fun t => t.reg a) (fun _ => 0) 256
    (fun t => imageSize (t.region t.cur (ix4 r)).onHdr.rows (t.region t.cur (ix4 r)).onHdr.cols) true := rfl
theorem rrest_exec (a : Reg) (r : BitVec 2) (s : State) : exec (.rrest a r) s =
    s.queuedBy (.rrest a r) [a] (fun t => t.reg a) (fun _ => 0) 256 (fun t => t.savedSize (t.reg a)) false := rfl
theorem cpy_exec (a : Reg) (s : State) : exec (.cpy a) s = s.queuedBy (.cpy a) [a] (fun t => t.reg a) (fun _ => 0) 64 (fun _ => 64) false := rfl
theorem cpyg_exec (a : Reg) (s : State) : exec (.cpyg a) s = s.queuedBy (.cpyg a) [a] (fun t => t.reg a) (fun _ => 0) 64 (fun _ => 64) false := rfl
theorem stgdef_exec (a : Reg) (k : BitVec 4) (s : State) :
    exec (.stgdef a k) s = s.queuedBy (.stgdef a k) [a] (fun t => t.reg a) (fun _ => 0) 32 (fun _ => 32) false := rfl

/-- rarm without a record, and with one (R245). -/
theorem rarm_plain_exec (r : BitVec 2) (s : State) : exec (.rarm 0 r) s = s.queuedPlain (.rarm 0 r) [] fun _ => 0 := rfl

theorem rarm_record_exec {a : Reg} (r : BitVec 2) (s : State) (h : a ≠ 0) :
    exec (.rarm a r) s = s.queuedBy (.rarm a r) [a] (fun t => t.reg a) (fun _ => 0) 16 (fun _ => 272) false := if_neg h

/-- Settles O18: each command goes through `queuedPlain`, `queuedBy` or `queuedAnswer`. -/
theorem engineCommands : Obligations.EngineCommands := by
  unfold Obligations.EngineCommands
  refine ⟨fun s a b r p k => ?_, fun s a r p k => ⟨fun hc hq => ?_, fun hc hh => ⟨fun ha => ?_, fun ha => ?_⟩⟩, fun s x r hc hroom => ?_⟩
  · refine ⟨?_, ?_, ?_, ?_, ?_, ?_, ?_, ?_, ?_, ?_, ?_, ?_⟩
    · exact queuedPlain_commands (rgo_exec r s)
    · exact queuedPlain_commands (rstop_exec r s)
    · exact queuedPlain_commands (rarm_plain_exec r s)
    · exact queuedPlain_commands (sbind_exec p k s)
    · exact queuedPlain_commands (sbindt_exec a p k s)
    · exact queuedPlain_commands (sstop_exec p s)
    · exact fun hr => queuedBy_commands (rload_exec a b r s) hr
    · exact fun ha hr => queuedBy_commands (rarm_record_exec r s ha) hr
    · exact fun hr => queuedBy_commands (rsave_exec a r s) hr
    · exact fun hr => queuedBy_commands (rrest_exec a r s) hr
    · exact fun hr => ⟨queuedBy_commands (cpy_exec a s) hr, queuedBy_commands (cpyg_exec a s) hr⟩
    · exact fun hr => queuedBy_commands (stgdef_exec a k s) hr
  · exact ⟨queuedPlain_waits (rgo_exec r s) hc hq, queuedPlain_waits (rstop_exec r s) hc hq, queuedPlain_waits (sbind_exec p k s) hc hq,
      queuedPlain_waits (sstop_exec p s) hc hq⟩
  · exact ⟨queuedBy_traps (cpy_exec a s) hc hh ha, queuedBy_traps (cpyg_exec a s) hc hh ha, spat_traps k hc hh ha⟩
  · exact ⟨queuedBy_traps (rsave_exec a r s) hc hh ha, queuedBy_traps (rrest_exec a r s) hc hh ha⟩
  · exact ⟨queuedAnswer_completes rfl hc hroom, queuedAnswer_completes rfl hc hroom, queuedAnswer_completes rfl hc hroom,
      queuedAnswer_completes rfl hc hroom, queuedAnswer_completes rfl hc hroom, queuedAnswer_completes rfl hc hroom,
      queuedAnswer_completes rfl hc hroom, queuedAnswer_completes rfl hc hroom, queuedAnswer_completes rfl hc hroom⟩

end Sys2Proof.Machine
end

section
/-! Words of memory and what a write leaves alone; what going on leaves of memory (O22). -/
namespace Sys2Proof.Machine

/-! ### Bytes and words -/

theorem bytesAt_of_sameBytes {s t : State} (h : SameBytes s t) (a : PAddr) (n : Nat) : t.bytesAt a n = s.bytesAt a n := by
  induction n generalizing a with
  | zero => rfl
  | succ n ih => rw [State.bytesAt, State.bytesAt, h a, ih]

theorem wordAt_of_sameBytes {s t : State} (h : SameBytes s t) (a : PAddr) : t.wordAt a = s.wordAt a := by
  rw [State.wordAt, State.leAt, bytesAt_of_sameBytes h, State.wordAt, State.leAt]

theorem onlyBytes_trans_same {pa : PAddr} {n : Nat} {s t u : State} (h : OnlyBytes pa n s t) (k : SameBytes t u) : OnlyBytes pa n s u :=
  fun a ha => (k a).trans (h a ha)

/-! ### What a write of bytes leaves alone -/

/-- Nothing but memory, its marks and the injection registers of its units changes. -/
def OnlyMemory (s t : State) : Prop :=
  t = { s with cores := t.cores, clusters := t.clusters, dies := t.dies, chiplets := t.chiplets, mem := t.mem, ecc := t.ecc, fresh := t.fresh }

theorem onlyMemory_trans {s t u : State} (h : OnlyMemory s t) (k : OnlyMemory t u) : OnlyMemory s u := by
  unfold OnlyMemory at *
  rw [k, h]

theorem onlyMemory_setBytes (s : State) (a : PAddr) (l : List Byte) : OnlyMemory s (s.setBytes a l) := by
  induction l generalizing s a with
  | nil => rfl
  | cons x l ih => exact onlyMemory_trans (t := s.setByte a x) rfl (ih (s.setByte a x) (a.plus 1))

theorem onlyMemory_setInjOf (s : State) (a : PAddr) (v : Word) : OnlyMemory s (s.setInjOf a v) := by
  unfold State.setInjOf
  split <;> rfl

theorem onlyMemory_store (s : State) (part : BitVec 5) (a : PAddr) (l : List Byte) : OnlyMemory s (s.store part a l) := by
  unfold State.store
  extract_lets s1 whole s2
  have h2 : OnlyMemory s s2 := by
    have h1 : OnlyMemory s s1 := onlyMemory_setBytes s a l
    unfold s2
    split
    · exact h1
    · exact onlyMemory_trans h1 rfl
  split
  · exact h2
  · extract_lets s3
    have h3 : OnlyMemory s s3 := onlyMemory_trans h2 (onlyMemory_setInjOf _ _ _)
    split
    · exact h3
    · exact onlyMemory_trans h3 rfl

/-- What of a core is no injection register stays through a write. -/
theorem core_store_keeps {α : Type} (s : State) (part : BitVec 5) (a : PAddr) (l : List Byte) (p : Core → α) (k : Fin 256)
    (hp : ∀ c v, p { c with einj := v } = p c) : p ((s.store part a l).core k) = p (s.core k) := by
  have hbytes : (s.setBytes a l).core k = s.core k := by rw [State.core, State.setBytes_cores]; rfl
  have hinj (t : State) (v : Word) : p ((t.setInjOf a v).core k) = p (t.core k) := by
    unfold State.setInjOf
    split
    case h_1 j _ | h_2 j _ | h_3 j _ =>
      by_cases hk : k = j
      · subst hk
        rw [State.core_modCore_same, hp]
      · rw [State.core_modCore_ne _ _ _ _ hk]
    all_goals rfl
  unfold State.store
  extract_lets s1 whole s2
  have h2 : s2.core k = s.core k := by
    unfold s2
    split <;> exact hbytes
  split
  · exact congrArg p h2
  · extract_lets s3
    have h3 : p (s3.core k) = p (s.core k) := (hinj s2 _).trans (congrArg p h2)
    split <;> exact h3

/-- A word that is written reads as it was written, and no other byte and no slot changes. -/
theorem State.store_word (s : State) (part : BitVec 5) (pa : PAddr) (v : Word) (hmem : MemoryCanonical s) :
    (s.store part pa (leBytes 8 v.toNat)).wordAt pa = v ∧ OnlyBytes pa 8 s (s.store part pa (leBytes 8 v.toNat)) := by
  have hbytes : (s.store part pa (leBytes 8 v.toNat)).bytesAt pa 8 = leBytes 8 v.toNat := by
    rw [State.bytesAt_store_eq]
    exact State.bytesAt_setBytes s pa (leBytes 8 _) hmem
  refine ⟨BitVec.eq_of_toNat_eq ?_, State.onlyBytes_store s part pa (leBytes 8 v.toNat)⟩
  rw [State.wordAt_toNat, hbytes, leNat_leBytes 8 _ v.isLt]

/-- A counter's add without errors is a write of its word. -/
theorem addCounter_eq (s : State) (who : CpId) (part : BitVec 5) (pa : PAddr) (k : Word) (hecc : s.ecc = []) :
    s.addCounter who part pa k = s.store part pa (leBytes 8 (s.wordAt pa + k).toNat) := by
  rw [State.addCounter, State.updateWord, State.load_clean s who part pa 8 hecc]
  rfl

/-! ### Writes outside the compressed surfaces (R356) -/

/-- A write to an address of no surface performs (R357). -/
theorem storeOrPark_performs (s : State) (c : CpId) (pa : PAddr) (va fpc : Word) (b : List Byte) (h : s.surfaceOf (s.slot c).part va = none) :
    s.storeOrPark c pa va fpc b = s.store (s.slot c).part pa b := by
  rw [State.storeOrPark, h]
  rfl

/-- The change of a word without errors, outside the surfaces. -/
theorem changeWord_performs (s : State) (c : CpId) (pa : PAddr) (va fpc : Word) (f : Word → Option Word) (v : Word) (hecc : s.ecc = [])
    (h : s.surfaceOf (s.slot c).part va = none) (hf : f (s.wordAt pa) = some v) :
    s.changeWord c pa va fpc f = s.store (s.slot c).part pa (leBytes 8 v.toNat) := by
  have hf' : f (BitVec.ofNat 64 (leNat (s.bytesAt pa 8))) = some v := hf
  rw [State.changeWord, State.load_clean s c _ pa 8 hecc]
  simp only [hf']
  exact storeOrPark_performs s c pa va fpc _ h

/-! ### Going on -/

theorem sameBytes_advance (s : State) : SameBytes s s.advance := sameBytes_of (advance_mem s) (advance_dies s)

/-- What going on leaves outside the core. -/
theorem outsideCore_advance (s : State) : OutsideCore s.cur s s.advance := (onlyCp_advance s).1

theorem advance_adds (s : State) : s.advance.adds = s.adds := by
  obtain ⟨h, -⟩ := outsideCore_advance s
  rw [h]

/-- An instruction that only goes on changes the PC and the profile. -/
theorem advance_registers (s : State) : OnlyRegisters s s.advance ∧ s.advance.pc = s.pc + 4 ∧ ∀ r, s.advance.reg r = s.reg r := by
  refine ⟨⟨onlyCp_advance s, sameBytes_advance s, ?_⟩, ?_, fun r => ?_⟩
  · rw [advance_cp]; exact onlyRegs_next _ _ (onlyRegs_refl _)
  · rw [State.pc, advance_cur, advance_cp]; rfl
  · rw [State.reg, advance_cur, advance_cp]; rfl

/-- A state whose CP is the one of another goes on as the other would. -/
theorem advance_of_same {s u : State} (hcur : u.cur = s.cur) (hcp : u.cp s.cur = s.cp s.cur) :
    u.advance.pc = s.pc + 4 ∧ OnlyRegs (s.cp s.cur) (u.advance.cp s.cur) := by
  obtain ⟨⟨-, -, hregs⟩, hpc, -⟩ := advance_registers u
  rw [hcur, hcp] at hregs
  refine ⟨hpc.trans ?_, hregs⟩
  rw [State.pc, hcur, hcp]; rfl

theorem store_cur (s : State) (part : BitVec 5) (a : PAddr) (l : List Byte) : (s.store part a l).cur = s.cur := by
  rw [onlyMemory_store s part a l]

theorem cp_store (s : State) (part : BitVec 5) (a : PAddr) (l : List Byte) (c : CpId) : (s.store part a l).cp c = s.cp c :=
  congrArg Slot.cp (State.slot_store s part a l c)

/-- An instruction whose effect is the write of a word. -/
theorem completes_wordWrite {i : Instr} {s : State} (part : BitVec 5) (pa : PAddr) (v : Word) (hmem : MemoryCanonical s)
    (h : exec i s = .next (s.store part pa (leBytes 8 v.toNat)).advance) : Completes i s fun t => t.pc = s.pc + 4 ∧
      t.wordAt pa = v ∧ OnlyBytes pa 8 s t ∧ OnlyRegs (s.cp s.cur) (t.cp s.cur) := by
  obtain ⟨hword, hbytes⟩ := State.store_word s part pa v hmem
  obtain ⟨hpc, hregs⟩ := advance_of_same (store_cur s part pa (leBytes 8 v.toNat)) (cp_store s part pa _ _)
  have hsame := sameBytes_advance (s.store part pa (leBytes 8 v.toNat))
  exact ⟨_, h, hpc, (wordAt_of_sameBytes hsame pa).trans hword, onlyBytes_trans_same hbytes hsame, hregs⟩

end Sys2Proof.Machine
end

section
/-! Signals, counter adds, waits and publication (O22). -/
namespace Sys2Proof.Machine

/-! ### sig (R265, R267) -/

theorem sig_exec (a b : Reg) (z : BitVec 3) (s : State) : exec (.sig a b z) s = s.issue [a, b] [] false fun t =>
    match t.counterPlace t.cur (t.reg a) true with
    | .error e => t.trapAccess t.cur e (t.reg a) true
    | .ok pa => if t.accessesDone t.cur then (t.signal pa (t.reg a) (t.reg b)).advance else t := rfl

theorem sig_placed {s : State} {a b : Reg} (z : BitVec 3) {pa : PAddr} (hc : CanIssue s [a, b] false)
    (hp : s.counterPlace s.cur (s.reg a) true = .ok pa) :
    exec (.sig a b z) s = .next (if s.accessesDone s.cur then (s.signal pa (s.reg a) (s.reg b)).advance else s) := by
  rw [sig_exec, issue_ok s [a, b] [] false _ hc]
  simp only [hp]

/-- When every earlier access has performed, none of the CP's adds is under way. -/
theorem addsOf_of_accessesDone {s : State} {c : CpId} (h : s.accessesDone c = true) : s.addsOf c .cp s.ids = false := by
  simp only [State.accessesDone, Bool.and_eq_true, Bool.not_eq_true', List.any_eq_false] at h
  obtain ⟨-, h⟩ := h
  refine List.any_eq_false.mpr fun x hx hmine => h x hx ?_
  simp only [CtrAdd.byCp, Bool.and_eq_true, decide_eq_true_eq] at hmine ⊢
  exact ⟨hmine.1.2, hmine.1.1⟩

section
variable {s : State} {a b : Reg} (z : BitVec 3) {pa : PAddr} (hc : CanIssue s [a, b] false) (hp : s.counterPlace s.cur (s.reg a) true = .ok pa)
include hc hp

theorem sig_near (hmem : MemoryCanonical s) (hd : s.accessesDone s.cur = true) (hnear : ∃ k, pa.space = .loc k ∨ pa.space = .scene k) :
    Completes (.sig a b z) s fun t => t.pc = s.pc + 4 ∧
      t.wordAt pa = s.wordAt pa + s.reg b ∧ OnlyBytes pa 8 s t ∧ OnlyRegs (s.cp s.cur) (t.cp s.cur) := by
  refine completes_wordWrite (s.slot s.cur).part pa (s.wordAt pa + s.reg b) hmem ?_
  rw [sig_placed z hc hp, if_pos hd, State.signal, signalBy_near s s.cur .cp pa _ _ hnear (addsOf_of_accessesDone hd), addCounter_eq _ _ _ _ _ hc.2.2]

theorem sig_far (hd : s.accessesDone s.cur = true) (hfar : ∀ k, pa.space ≠ .loc k ∧ pa.space ≠ .scene k) :
    Completes (.sig a b z) s fun t => t.pc = s.pc + 4 ∧ SameBytes s t ∧
      ∃ x : CtrAdd, t.adds = s.adds ++ [x] ∧ x.pa = pa ∧ x.inc = s.reg b ∧ x.sender = s.cur ∧ x.part = s.myPart := by
  let u := s.postAdd s.cur .cp pa (s.reg a) (s.reg b)
  have hpost : s.signal pa (s.reg a) (s.reg b) = u :=
    signalBy_posts s s.cur .cp pa _ _ fun ⟨⟨k, hk⟩, _⟩ => hk.elim (hfar k).1 (hfar k).2
  have hu : SameBytes s u := sameBytes_of rfl rfl
  obtain ⟨hpc, -⟩ := advance_of_same (s := s) (u := u) rfl rfl
  refine ⟨u.advance, ?_, hpc, sameBytes_trans hu (sameBytes_advance u), _, (advance_adds u).trans rfl, rfl, rfl, rfl, rfl⟩
  rw [sig_placed z hc hp, if_pos hd, hpost]

theorem sig_waits (hd : s.accessesDone s.cur = false) : Waits (.sig a b z) s :=
  waits_of_same ((sig_placed z hc hp).trans (by rw [hd]; rfl))

end

/-- A counter that is not aligned has no place (R265). -/
theorem counterPlace_misaligned (s : State) (c : CpId) {a : Word} (w : Bool) (h : a.toNat % 8 ≠ 0) : s.counterPlace c a w = .error cMISALIGNED :=
  if_pos (bne_iff_ne.mpr h)

theorem sig_misaligned {s : State} {a b : Reg} (z : BitVec 3) (hc : CanIssue s [a, b] false) (hh : (s.cp s.cur).handler = false)
    (ha : (s.reg a).toNat % 8 ≠ 0) : Traps (.sig a b z) s cMISALIGNED (s.reg a) s.pc := by
  refine traps_of_trapAccess (write := true) hh rfl ?_
  rw [sig_exec, issue_ok s [a, b] [] false _ hc]
  simp only [counterPlace_misaligned s s.cur true ha]

/-! ### The arrival of an add (R266) -/

theorem counterAddArrive_exec (id : Nat) (s : State) : exec (.counterAddArrive id) s = execCounterAddArrive id s := rfl

/-- The record of an add that is refused (R266, R299). -/
def State.addRec (s : State) (x : CtrAdd) : RecFields :=
  { s.slotRec x.sender cPROTECT 0x06 x.agent.region with part := x.part, wid := x.wid, vaddr := x.vaddr }

theorem RecFields.bits_origin_cause (f : RecFields) : f.bits.extractLsb' 0 16 = f.origin ++ f.cause := by
  ext i hi
  grind [RecFields.bits]

theorem RecFields.bits_wid (f : RecFields) : f.bits.extractLsb' 64 64 = f.wid := by
  simp (disch := decide) only [RecFields.bits, BitVec.extractLsb'_append_eq_of_le, Nat.reduceSub, BitVec.extractLsb'_append_eq_right]

theorem RecFields.bits_vaddr (f : RecFields) : f.bits.extractLsb' 128 64 = f.vaddr := by
  simp (disch := decide) only [RecFields.bits, BitVec.extractLsb'_append_eq_of_le, Nat.reduceSub, BitVec.extractLsb'_append_eq_right]

theorem addAllowed_iff (s : State) (x : CtrAdd) :
    s.addAllowed x = true ↔ (s.part x.part).live = true ∧ (s.part x.part).gen = x.gen ∧ s.ownerOk x.part x.pa true = true := by
  simp [State.addAllowed, and_assoc]

section
variable {s : State} {x : CtrAdd} (hfind : s.adds.find? (fun y => y.id == x.id) = some x) (hwait : s.addWaits x = false) (href : x.refused = false)
include hfind hwait href

/-- An add that is allowed, at a counter of no surface, adds and is gone (R266). -/
theorem counterAddArrive_adds (hmem : MemoryCanonical s) (hok : s.addAllowed x = true) (hecc : s.ecc = [])
    (hsurf : s.surfaceOf x.part x.vaddr = none) : Completes (.counterAddArrive x.id) s fun t =>
      t.adds = s.adds.filter (fun y => y.id != x.id) ∧ t.wordAt x.pa = s.wordAt x.pa + x.inc ∧ OnlyBytes x.pa 8 s t := by
  let u : State := { s with adds := s.adds.filter fun y => y.id != x.id }
  have hperform : s.performAdd x = u.store x.part x.pa (leBytes 8 (s.wordAt x.pa + x.inc).toNat) := addCounter_eq u _ _ _ _ hecc
  have hexec : exec (.counterAddArrive x.id) s = .next (s.performAdd x) := by
    rw [counterAddArrive_exec, execCounterAddArrive, hfind]
    simp only [hwait, hok, href, hsurf]
    rfl
  obtain ⟨hword, hbytes⟩ := State.store_word u x.part x.pa (s.wordAt x.pa + x.inc) hmem
  refine ⟨_, hexec.trans (congrArg _ hperform), ?_, hword, hbytes⟩
  rw [onlyMemory_store u]

/-- An add that is not allowed goes, with a record at its sender (R266, R299). -/
theorem counterAddArrive_refused (hok : s.addAllowed x = false) (hroom : RecRoom s x.sender.core) : Completes (.counterAddArrive x.id) s fun t =>
    t.adds = s.adds.filter (fun y => y.id != x.id) ∧ SameBytes s t ∧
      ∃ f : FaultRec, (t.core x.sender.core).recq = (s.core x.sender.core).recq ++ [f] ∧ f.extractLsb' 0 16 = 0x0606 ∧ f.extractLsb' 64 64 = x.wid ∧
        f.extractLsb' 128 64 = x.vaddr := by
  let u := s.queueRec x.sender.core (.job x.id) (s.addRec x)
  have hcore := core_queueRec s x.sender.core (.job x.id) (s.addRec x) hroom
  have hnone : u.recWaits x.sender.core (.job x.id) = false := by
    have hwaits : (u.core x.sender.core).recWait = [] := by rw [hcore]; exact hroom.2
    rw [State.recWaits, hwaits]; rfl
  have hexec : exec (.counterAddArrive x.id) s = .next { u with adds := u.adds.filter fun y => y.id != x.id } := by
    have hturn : exec (.counterAddArrive x.id) s = .next (if u.recWaits x.sender.core (.job x.id)
        then { u with adds := u.adds.map fun y => if y.id == x.id then { y with refused := true } else y }
        else { u with adds := u.adds.filter fun y => y.id != x.id }) := by
      rw [counterAddArrive_exec, execCounterAddArrive, hfind]
      simp only [hwait, hok, href, Bool.false_eq_true, if_false, Bool.false_and]
      rfl
    rw [hturn, hnone]
    rfl
  refine ⟨_, hexec, rfl, sameBytes_of rfl rfl, (s.addRec x).bits, ?_, (RecFields.bits_origin_cause (s.addRec x)).trans (by decide : (0x06#8 ++ cPROTECT) = 0x0606#16),
    RecFields.bits_wid _, RecFields.bits_vaddr _⟩
  show (u.core x.sender.core).recq = _
  rw [hcore]

end

/-! ### waitge (R268) -/

theorem waitge_exec (a b : Reg) (z : BitVec 3) (s : State) : exec (.waitge a b z) s = s.issue [a, b] [] false fun t =>
    match t.counterPlace t.cur (t.reg a) false with
    | .error e => t.trapAt t.cur e (t.reg a)
    | .ok pa =>
      if t.olderAccess t.cur t.ids pa 8 || t.parkedBlock pa then t
      else match t.load t.cur t.myPart pa 8 with
      | (t1, some v) => if (t.reg b).toNat ≤ leNat v then t1.advance else t1
      | (t1, none) => (t1.newId.farFault t.cur t.ids cUNCORR (t.reg a) t.pc (t.synd pa 8) (t.uncorrDetail pa 8)).advance := rfl

theorem waitge_observes {s : State} {a b : Reg} (z : BitVec 3) {pa : PAddr} (hc : CanIssue s [a, b] false)
    (hp : s.counterPlace s.cur (s.reg a) false = .ok pa) (hold : s.olderAccess s.cur s.ids pa 8 = false) (hpark : s.parkedBlock pa = false) :
    exec (.waitge a b z) s = .next (if (s.reg b).toNat ≤ (s.wordAt pa).toNat then s.advance else s) := by
  rw [waitge_exec, issue_ok s [a, b] [] false _ hc, State.wordAt_toNat]
  simp only [hp, hold, hpark, State.load_clean s s.cur s.myPart pa 8 hc.2.2]
  rfl

/-! ### pub (R269) -/

theorem pub_exec (a b : Reg) (n : BitVec 7) (z : BitVec 3) (s : State) : exec (.pub a b n z) s = execPub a b n z s := rfl

/-- pub without a counter is the change of one word. -/
theorem pub_flips {s : State} {a : Reg} (n : BitVec 7) (z : BitVec 3) {ps : List PAddr} {pa : PAddr} (hc : CanIssue s [a, 0] false)
    (hr : s.record (s.reg a) 32 32 true = .ok ps) (hps : ps[1]? = some pa) (hd : s.accessesDone s.cur = true)
    (hsurf : s.surfaceOf s.myPart (s.reg a + 0x10) = none) :
    exec (.pub a 0 n z) s = .next (s.store s.myPart pa (leBytes 8 (s.wordAt pa ^^^ 0x100000000).toNat)).advance := by
  have hpiece : pieceAt ps 0x10 = pa := by
    show ((ps[1]?).getD default).plus 0 = pa
    rw [hps]; rfl
  have hflip : s.flipSel s.cur pa (s.reg a + 0x10) s.pc = s.store s.myPart pa (leBytes 8 (s.wordAt pa ^^^ 0x100000000).toNat) :=
    changeWord_performs s s.cur pa _ _ _ _ hc.2.2 hsurf rfl
  rw [pub_exec, execPub, issue_ok s [a, 0] [] false _ hc]
  simp only [hr, recordFailure, firstFailure, if_true, withRecord_ok _ hr, hd, hpiece, hflip]
  split <;> rfl

/-- Settles O22: each clause is the lemma about its instruction. -/
theorem counters : Obligations.Counters := by
  unfold Obligations.Counters
  refine ⟨fun s a b z pa hmem => ⟨fun hc hp hd => ⟨sig_near z hc hp hmem hd, sig_far z hc hp hd⟩, fun hc hp hd => sig_waits z hc hp hd,
    fun hc hh ha => sig_misaligned z hc hh ha, fun x hfind hwait href => ⟨fun hok hecc hsurf => ?_, fun hok hroom => ?_⟩⟩,
    fun s a b z pa hc hp hold hpark => ⟨fun hle => ?_, fun hlt => ?_⟩, fun s a n z ps pa hmem hc hr hps hd hsurf => ?_⟩
  · exact counterAddArrive_adds hfind hwait href hmem ((addAllowed_iff s x).mpr hok) hecc hsurf
  · exact counterAddArrive_refused hfind hwait href (by rwa [← Bool.not_eq_true, addAllowed_iff]) hroom
  · exact ⟨s.advance, (waitge_observes z hc hp hold hpark).trans (by rw [if_pos hle]), advance_registers s⟩
  · exact waits_of_same ((waitge_observes z hc hp hold hpark).trans (by rw [if_neg (by omega)]))
  · exact completes_wordWrite s.myPart pa _ hmem (pub_flips n z hc hr hps hd hsurf)

end Sys2Proof.Machine
end

section
/-! Streams start, and walks return (O43). -/
namespace Sys2Proof.Machine

theorem dispatchedStreamStart_exec (c : CpId) (p : BitVec 5) (s : State) :
    exec (.dispatchedStreamStart c p) s = execDispatchedStreamStart c p s := rfl
theorem stampedStreamStart_exec (c : CpId) (p : BitVec 5) (s : State) : exec (.stampedStreamStart c p) s = execStampedStreamStart c p s := rfl
theorem edgeTlbWalkReturn_exec (c : CpId) (p : BitVec 5) (s : State) : exec (.edgeTlbWalkReturn c p) s = execEdgeTlbWalkReturn c p s := rfl

/-! ### Dispatched starts (R252) -/

/-- A dispatched binding, of whatever port, starts a stream of no lane pair (R174, R252). -/
theorem startStream_dispatched (s : State) (c : CpId) (p : BitVec 5) (b : Binding) (r : Fin 4) (e : Nat) (hp : p.toNat < 24) :
    let q := ((s.startStream c p b r e true).slot c).port p
    q.pending = none ∧ q.run = some (b.started (s.startExtents c b) r e true) := by
  unfold State.startStream
  simp only [Bool.not_true, Bool.and_false, Bool.false_and, Bool.false_eq_true, if_false]
  split
  next l hext =>
    rw [State.port_modPort_same _ _ _ _ hp, State.port_modPort_same _ _ _ _ hp]
    exact ⟨rfl, by rw [hext]; rfl⟩
  next x hext =>
    rw [State.extentStop, State.streamStop, State.port_modRegion, State.port_modPort_same _ _ _ _ hp, State.port_modPort_same _ _ _ _ hp]
    exact ⟨rfl, by rw [hext]; rfl⟩

/-- The region's stop that a start on a port raises, whose pending binding goes with it. -/
theorem stopDue_discarded (s : State) (c : CpId) (r : Fin 4) (p : BitVec 5) (detail : Word)
    (hon : (s.region c r).on = .running) (hdue : (s.region c r).stopDue = none) (hrec : (s.region c r).stopRec = false) :
    ∃ j : StopInfo, (((s.modPort c p fun q => { q with pending := none }).streamStop c r p cTIMING detail 0 0).region c r).stopDue = some j ∧
      j.cause = 0x08 ∧ j.detail = detail := by
  have hregion : (s.modPort c p fun q => { q with pending := none }).region c r = s.region c r := State.region_modPort _ _ _ _ _
  exact ⟨_, stopDue_streamStop _ c r p cTIMING detail 0 0 (by rw [hregion]; exact .inl hon) (by rw [hregion]; exact hdue) (by rw [hregion]; exact hrec), rfl, rfl⟩

/-- A region found for its live take has a running take. -/
theorem running_of_found {s : State} {c : CpId} {r : Fin 4} {f : Fin 4 → Bool} (h : (regions4.find? fun k => (s.region c k).live && f k) = some r) :
    (s.region c r).on = .running := by
  have hr := List.find?_some h
  simp only [Region.live, Bool.and_eq_true, beq_iff_eq] at hr
  exact hr.1.1

section
variable {s : State} {c : CpId} {p : BitVec 5} {b : Binding} {e : Nat} {r : Fin 4} {x : Fin 256} {i : Fin 4}
  (hpending : ((s.slot c).port p).pending = some b) (hengine : s.freeEngine c = some e) (hstamp : b.stamp = none)
  (hidle : (s.slot c).portIdle p = true) (hruns : s.takesRun c = true)
  (hregion : (regions4.find? fun k => (s.region c k).live && ((s.slot c).tapOfPort k false p fun _ => true).isSome) = some r)
  (hcue : (s.slot c).hasStartCue r p = false) (htap : ((s.slot c).tapOfPort r false p fun _ => true) = some (x, i))
include hpending hengine hstamp hidle hruns hregion hcue htap

/-- The turn of a pending dispatched binding that may start now. -/
theorem dispatchedStreamStart_turn : exec (.dispatchedStreamStart c p) s =
    .next (if tapElastic ((s.elem c x).on.tap i) then s.startStream c p b r e true
      else (s.modPort c p fun q => { q with pending := none }).streamStop c r p cTIMING 10 0 0) := by
  have hregion' : (regions4.find? fun k => ((s.slot c).regions.get k).live && ((s.slot c).tapOfPort k false p fun _ => true).isSome) = some r := hregion
  rw [dispatchedStreamStart_exec, execDispatchedStreamStart]
  simp only [hpending, hengine, hstamp, hidle, hruns, hregion', hcue, htap]
  rfl

theorem dispatchedStreamStart_starts (hp : p.toNat < 24) (helastic : tapElastic ((s.elem c x).on.tap i) = true) :
    Completes (.dispatchedStreamStart c p) s fun t =>
      ((t.slot c).port p).pending = none ∧ ∃ u : Stream, ((t.slot c).port p).run = some u ∧ u.pat = b.pat ∧ u.region = r ∧
        u.engine = e ∧ u.pos = 0 ∧ u.stored = 0 ∧ u.dispatched = true ∧ u.timed = false := by
  obtain ⟨hnone, hrun⟩ := startStream_dispatched s c p b r e hp
  refine ⟨_, (dispatchedStreamStart_turn hpending hengine hstamp hidle hruns hregion hcue htap).trans (by rw [if_pos helastic]), hnone, _, hrun, ?_⟩
  exact ⟨rfl, rfl, rfl, rfl, rfl, rfl, rfl⟩

theorem dispatchedStreamStart_timed (hp : p.toNat < 24) (htimed : tapElastic ((s.elem c x).on.tap i) = false)
    (hdue : (s.region c r).stopDue = none) (hrec : (s.region c r).stopRec = false) : Completes (.dispatchedStreamStart c p) s fun t =>
      ((t.slot c).port p).pending = none ∧ ((t.slot c).port p).run = none ∧
        ∃ j : StopInfo, (t.region c r).stopDue = some j ∧ j.cause = 0x08 ∧ j.detail = 10 := by
  have hon := running_of_found hregion
  have hrun : ((s.slot c).port p).run = none := by
    simp only [Slot.portIdle, Bool.and_eq_true, Option.isNone_iff_eq_none] at hidle
    exact hidle.1
  refine ⟨_, (dispatchedStreamStart_turn hpending hengine hstamp hidle hruns hregion hcue htap).trans (by rw [htimed]; rfl), ?_, ?_,
    stopDue_discarded s c r p 10 hon hdue hrec⟩
  · rw [State.streamStop, State.port_modRegion, State.port_modPort_same _ _ _ _ hp]
  · rw [State.streamStop, State.port_modRegion, State.port_modPort_same _ _ _ _ hp]
    exact hrun

end

/-! ### Stamped starts (R253) -/

section
variable {s : State} {c : CpId} {p : BitVec 5} {b : Binding} {n : Nat} {r : Fin 4}
  (hpending : ((s.slot c).port p).pending = some b) (hstamp : b.stamp = some n) (htake : b.take = some (r, (s.region c r).takeSeq))
  (hon : (s.region c r).on = .running) (hstart : (s.region c r).startIn = 0) (hgo : (s.region c r).going = true)
include hpending hstamp htake hon hstart hgo

/-- The turn of a stamped binding in its take: in its cycle it starts, in another one nothing changes. -/
theorem stampedStreamStart_turn : exec (.stampedStreamStart c p) s =
    .next (if (s.region c r).lap * (s.region c r).onHdr.p + (s.region c r).tc = n then s.fixedStart c p b r else s) := by
  have hlive : (s.region c r).live = true := by simp [Region.live, hon, hstart]
  rw [stampedStreamStart_exec, execStampedStreamStart]
  simp only [hpending, hstamp, htake, hlive, hgo, beq_self_eq_true, Bool.and_self, Bool.true_and, beq_iff_eq]

theorem stampedStreamStart_starts {e : Nat} (hp : p.toNat < 24) (hcycle : (s.region c r).lap * (s.region c r).onHdr.p + (s.region c r).tc = n)
    (hidle : (s.slot c).portIdle p = true) (hengine : s.freeEngine c = some e) (hspace : patSpace b.pat ≠ 0) :
    Completes (.stampedStreamStart c p) s fun t =>
      ((t.slot c).port p).pending = none ∧ ∃ u : Stream, ((t.slot c).port p).run = some u ∧ u.pat = b.pat ∧ u.region = r ∧
        u.engine = e ∧ u.pos = 0 ∧ u.stored = 0 ∧ u.dispatched = false ∧ u.timed = false := by
  obtain ⟨hnone, hrun⟩ := startStream_far s c p b r e false hp hspace
  have hfixed : s.fixedStart c p b r = s.startStream c p b r e false := by simp only [State.fixedStart, hengine, hidle, if_true]
  refine ⟨_, (stampedStreamStart_turn hpending hstamp htake hon hstart hgo).trans (by rw [if_pos hcycle, hfixed]), hnone, _, hrun, ?_⟩
  exact ⟨rfl, rfl, rfl, rfl, rfl, rfl, rfl⟩

theorem stampedStreamStart_noEngine (hcycle : (s.region c r).lap * (s.region c r).onHdr.p + (s.region c r).tc = n) (hengine : s.freeEngine c = none)
    (hdue : (s.region c r).stopDue = none) (hrec : (s.region c r).stopRec = false) :
    Completes (.stampedStreamStart c p) s fun t => ∃ j : StopInfo, (t.region c r).stopDue = some j ∧ j.cause = 0x08 ∧ j.detail = 5 := by
  refine ⟨_, (stampedStreamStart_turn hpending hstamp htake hon hstart hgo).trans (by rw [if_pos hcycle, State.fixedStart, hengine]), ?_⟩
  exact stopDue_discarded s c r p 5 hon hdue hrec

end

/-! ### Walks (R184) -/

/-- The walk is over: its stream walks no more, and its region looks for walks anew. -/
def State.walked (s : State) (c : CpId) (p : BitVec 5) (r : Fin 4) : State :=
  (s.modPort c p fun q => { q with run := q.run.map fun u => { u with walkVa := none } }).rewalk c r

theorem walked_stops (s : State) (c : CpId) (p : BitVec 5) (r : Fin 4) : ((s.walked c p r).region c r).on = (s.region c r).on ∧
    ((s.walked c p r).region c r).stopDue = (s.region c r).stopDue ∧ ((s.walked c p r).region c r).stopRec = (s.region c r).stopRec := by
  rw [State.walked, State.rewalk, State.region_modRegion_same, State.region_modPort]
  exact ⟨rfl, rfl, rfl⟩

theorem walked_run (s : State) (c : CpId) (p : BitVec 5) (r : Fin 4) {st : Stream} (hp : p.toNat < 24) (hrun : ((s.slot c).port p).run = some st) :
    (((s.walked c p r).slot c).port p).run = some { st with walkVa := none } := by
  rw [State.walked, State.rewalk, State.port_modRegion, State.port_modPort_same _ _ _ _ hp, hrun]
  rfl

theorem walked_edgeTlb (s : State) (c : CpId) (p : BitVec 5) (r : Fin 4) : ((s.walked c p r).core c.core).edgeTlb = (s.core c.core).edgeTlb := by
  simp only [State.walked, State.rewalk, State.modRegion, State.modPort, State.core_modSlot_same]

section
variable {s : State} {c : CpId} {p : BitVec 5} {st : Stream} {va : Nat} (hrun : ((s.slot c).port p).run = some st) (hwalk : st.walkVa = some va)
include hrun hwalk

theorem edgeTlbWalkReturn_found (hp : p.toNat < 24) {y : PageMap} (hpage : (s.part (s.slot c).part).page va = some y) :
    Completes (.edgeTlbWalkReturn c p) s fun t => SameBytes s t ∧
      (t.core c.core).edgeTlb = ⟨(s.slot c).part, y⟩ :: (s.core c.core).edgeTlb.take 255 ∧
      ∃ u : Stream, ((t.slot c).port p).run = some u ∧ u.walkVa = none ∧ u.pos = st.pos := by
  let f (k : Core) : Core := { k with edgeTlb := ⟨(s.slot c).part, y⟩ :: k.edgeTlb.take 255 }
  have hexec : exec (.edgeTlbWalkReturn c p) s = .next ((s.walked c p st.region).modCore c.core f) := by
    rw [edgeTlbWalkReturn_exec, execEdgeTlbWalkReturn]
    simp only [hrun, hwalk, hpage]
    rfl
  refine ⟨_, hexec, sameBytes_of rfl rfl, ?_, { st with walkVa := none }, ?_, rfl, rfl⟩
  · rw [State.core_modCore_same]
    show _ :: ((s.walked c p st.region).core c.core).edgeTlb.take 255 = _
    rw [walked_edgeTlb]
  · rw [State.slot_modCore_keeps _ _ _ _ rfl]
    exact walked_run s c p st.region hp hrun

theorem edgeTlbWalkReturn_missing (hpage : (s.part (s.slot c).part).page va = none) (hon : (s.region c st.region).on = .running)
    (hdue : (s.region c st.region).stopDue = none) (hrec : (s.region c st.region).stopRec = false) : Completes (.edgeTlbWalkReturn c p) s fun t =>
      ∃ j : StopInfo, (t.region c st.region).stopDue = some j ∧ j.cause = 0x05 ∧ j.detail = if patWrite st.pat then 4 else 0 := by
  obtain ⟨hon', hdue', hrec'⟩ := walked_stops s c p st.region
  have hexec : exec (.edgeTlbWalkReturn c p) s =
      .next ((s.walked c p st.region).streamStop c st.region p cPAGE (if patWrite st.pat then 4 else 0) (BitVec.ofNat 64 va) 0) := by
    rw [edgeTlbWalkReturn_exec, execEdgeTlbWalkReturn]
    simp only [hrun, hwalk, hpage]
    rfl
  exact ⟨_, hexec, _, stopDue_streamStop _ c st.region p cPAGE _ _ 0 (.inl (hon'.trans hon)) (hdue'.trans hdue) (hrec'.trans hrec), rfl, rfl⟩

end

/-- Settles O43: dispatched and stamped starts, and the two returns of a walk. -/
theorem streamStarts : Obligations.StreamStarts := by
  unfold Obligations.StreamStarts
  intro s c p b e n r x i st va hp q g starts stops idle
  refine ⟨fun hpending hengine hstamp hidle hruns hregion hcue htap => ⟨fun helastic => ?_, fun htimed hdue hrec => ?_⟩,
    fun hpending hstamp htake hon hstart hgo => ⟨fun hcycle hidle hengine hspace => ?_, fun hcycle hengine hdue hrec => ?_, fun hcycle => ?_⟩,
    fun hrun hwalk => ⟨fun y hpage => ?_, fun hpage hon hdue hrec => ?_⟩⟩
  · exact dispatchedStreamStart_starts hpending hengine hstamp hidle hruns hregion hcue htap hp helastic
  · exact dispatchedStreamStart_timed hpending hengine hstamp hidle hruns hregion hcue htap hp htimed hdue hrec
  · exact stampedStreamStart_starts hpending hstamp htake hon hstart hgo hp hcycle hidle hengine hspace
  · exact stampedStreamStart_noEngine hpending hstamp htake hon hstart hgo hcycle hengine hdue hrec
  · exact ⟨s, (stampedStreamStart_turn hpending hstamp htake hon hstart hgo).trans (by rw [if_neg hcycle]), rfl⟩
  · exact edgeTlbWalkReturn_found hrun hwalk hp hpage
  · exact edgeTlbWalkReturn_missing hrun hwalk hpage hon hdue hrec

end Sys2Proof.Machine
end

section
/-! sysc, landings and instruction lines (O10). -/
namespace Sys2Proof.Machine

/-! ### sysc (R232) -/

/-- An instruction whose effect is a landing entry that awaits an answer (R164, R232). -/
theorem asks_of_putPending {i : Instr} {s : State} {a d : Reg} {q : Ask}
    (h : exec i s = s.issue [a] [d] true fun t => (t.putPending d none (some q) 0).advance) (hc : CanIssue s [a, d] true) :
    Completes i s fun t => OnlyRegisters s t ∧ t.pc = s.pc + 4 ∧ (∀ r, t.reg r = s.reg r) ∧
      ∃ e : LandEntry, (t.cp s.cur).queue = (s.cp s.cur).queue ++ [e] ∧ e.reg = d ∧ e.kind = .interlocked ∧ e.rem = none ∧
        e.far = none ∧ e.ask = some q := by
  let u := s.putPending d none (some q) 0
  have hcur : u.cur = s.cur := putPending_cur ..
  have hcp : u.advance.cp s.cur = { (u.cp s.cur).asIssued with pc := (u.cp s.cur).pc + 4 } := hcur ▸ advance_cp u
  have hu : u.cp s.cur = (s.cp s.cur).setQueue ((s.cp s.cur).queue ++ [s.pendingEntry d none (some q) 0]) := putPending_cp ..
  have ht : u.advance.cur = s.cur := (advance_cur u).trans hcur
  refine ⟨u.advance, h.trans (issue_ok s [a] [d] true _ hc), ⟨?_, ?_, ?_⟩, ?_, fun r => ?_, s.pendingEntry d none (some q) 0, ?_, rfl, rfl, rfl, rfl, rfl⟩
  · exact onlyCp_trans (onlyCp_putPending ..) (hcur ▸ onlyCp_advance u)
  · exact sameBytes_trans (sameBytes_putPending s d none (some q) 0) (sameBytes_advance u)
  · rw [hcp]; exact onlyRegs_next _ _ (onlyRegs_putPending ..)
  · rw [State.pc, ht, hcp, hu, setQueue_pc]; rfl
  · rw [State.reg, ht, hcp, hu, reg_next, setQueue_reg]; rfl
  · rw [hcp, hu, queue_next, setQueue_queue]

/-! The services by what they await. -/

theorem syscVerify_exec (d a : Reg) (s : State) : exec (.syscVerify d a) s =
    s.issue [a] [d] true fun t => (t.putPending d none (some (.verify (t.reg a))) 0).advance := rfl
theorem syscFused_exec (d a : Reg) (s : State) : exec (.syscFused d a) s =
    s.issue [a] [d] true fun t => (t.putPending d none (some (.fused (t.reg a))) 0).advance := rfl
theorem syscEnergy_exec (d a : Reg) (s : State) : exec (.syscEnergy d a) s =
    s.issue [a] [d] true fun t => (t.putPending d none (some .energy) 0).advance := rfl

/-- sysc with a service number that no instruction has. -/
theorem syscOther_exec (w : W32) (s : State) (hop : w.extractLsb' 25 7 = 0x44) (hn : 2 < (w.extractLsb' 0 15).toNat) :
    exec (.illegalWord w) s = s.issue [w.extractLsb' 15 5] [w.extractLsb' 20 5] true fun t =>
      (t.putPending (w.extractLsb' 20 5) none (some .other) 0).advance := by
  have hcond : (decide (opOf w = 0x44) && decide (2 < (loOf w).toNat)) = true := by
    rw [Bool.and_eq_true, decide_eq_true_eq, decide_eq_true_eq]; exact ⟨hop, hn⟩
  exact if_pos hcond

/-- An answer that depends on the argument's value. -/
theorem asks_of_value {i : Instr} {s : State} {a d : Reg} {q : Word → Ask}
    (h : exec i s = s.issue [a] [d] true fun t => (t.putPending d none (some (q (t.reg a))) 0).advance) (hc : CanIssue s [a, d] true) :
    exec i s = s.issue [a] [d] true fun t => (t.putPending d none (some (q (s.reg a))) 0).advance := by
  rw [h, issue_ok s [a] [d] true _ hc, issue_ok s [a] [d] true _ hc]

/-! ### Landings (R164) -/

theorem landing_exec (c : CpId) (id : Nat) (s : State) : exec (.landing c id) s = execLanding c id s := rfl

/-- The entry of a number takes its value and lands at the end of the next cycle. -/
def LandEntry.arrived (id : Nat) (v : Word) (x : LandEntry) : LandEntry := if x.id = id then { x with value := v, rem := some 1 } else x

theorem arriveIn_eq (id : Nat) (v : Word) (q : List LandEntry) : arriveIn id v q = q.map (LandEntry.arrived id v) := by
  refine List.map_congr_left fun x _ => ?_
  simp only [LandEntry.arrived, beq_iff_eq]

theorem onlyCp_writeArrived (c : CpId) (id : Nat) (s : State) : OnlyCp c s (s.writeArrived c id) := by
  unfold State.writeArrived
  split
  · exact onlyCp_writeArr ..
  · exact onlyCp_writeArr ..
  · exact onlyCp_refl ..

theorem writeArrived_cp (c : CpId) (id : Nat) (s : State) : (s.writeArrived c id).cp c = s.cp c := by
  unfold State.writeArrived
  split
  · exact writeArr_cp ..
  · exact writeArr_cp ..
  · rfl

theorem writeArrived_dies (c : CpId) (id : Nat) (s : State) : (s.writeArrived c id).dies = s.dies := by
  unfold State.writeArrived
  split
  · exact writeArr_dies ..
  · exact writeArr_dies ..
  · rfl

/-- What an arriving value changes: the entries of its number, in both queues. -/
theorem arrive_effect (s : State) (c : CpId) (id : Nat) (v : Word) : OnlyCp c s (s.arrive c id v) ∧ SameBytes s (s.arrive c id v) ∧
    (s.arrive c id v).cp c = { s.cp c with lqT := (s.cp c).lqT.map (LandEntry.arrived id v), lqH := (s.cp c).lqH.map (LandEntry.arrived id v) } := by
  refine ⟨onlyCp_trans (onlyCp_modCp _ _ _) (onlyCp_writeArrived ..), sameBytes_of (State.arrive_mem ..) (writeArrived_dies ..), ?_⟩
  rw [State.arrive, writeArrived_cp, State.cp_modCp_same, arriveIn_eq, arriveIn_eq]

/-- LANDING brings a value when its turn does. -/
theorem landing_arrives {s : State} {c : CpId} {id : Nat} {v : Word} (h : exec (.landing c id) s = .next (s.arrive c id v)) :
    Completes (.landing c id) s fun t => OnlyCp c s t ∧ SameBytes s t ∧
      t.cp c = { s.cp c with lqT := (s.cp c).lqT.map (LandEntry.arrived id v), lqH := (s.cp c).lqH.map (LandEntry.arrived id v) } :=
  ⟨_, h, arrive_effect s c id v⟩

/-! ### Loaded values (R204) -/

/-- The sign extension of a code of w bits. -/
theorem signExtend_ofNat {w v : Nat} (hw64 : w ≤ 64) (hv : v < 2 ^ w) :
    (BitVec.ofNat w v).signExtend 64 = BitVec.ofNat 64 (if 2 ^ (w - 1) ≤ v then 2 ^ 64 - 2 ^ w + v else v) := by
  have hle : 2 ^ w ≤ 2 ^ 64 := Nat.pow_le_pow_right (by decide) hw64
  have hv64 : v < 2 ^ 64 := hv.trans_le hle
  refine BitVec.eq_of_toNat_eq ?_
  rw [BitVec.toNat_signExtend, BitVec.msb_eq_decide, BitVec.toNat_setWidth, BitVec.toNat_ofNat, BitVec.toNat_ofNat, Nat.mod_eq_of_lt hv, Nat.mod_eq_of_lt hv64]
  by_cases hneg : 2 ^ (w - 1) ≤ v
  · rw [decide_eq_true hneg, if_pos rfl, if_pos hneg, Nat.mod_eq_of_lt (by omega)]
    omega
  · rw [decide_eq_false hneg, if_neg Bool.false_ne_true, if_neg hneg, Nat.mod_eq_of_lt hv64]
    rfl

/-- A far load's value is the one that its size and its bytes give (R204). -/
theorem farValue_eq_loadedWord (z : BitVec 3) (hz : z.toNat ≤ 6) (l : List Byte) (hl : l.length = accessBytes z) :
    farValue (decide (z.toNat < 3)) l = loadedWord z (leNat l) := by
  have hlt := leNat_lt l
  rw [hl] at hlt
  obtain h | h | h | h : z = 0 ∨ z = 1 ∨ z = 2 ∨ 3 ≤ z.toNat := by bv_omega
  · subst h
    rw [show (256 : Nat) ^ accessBytes 0 = 2 ^ 8 by decide] at hlt
    have hlen : l.length = 1 := hl
    simpa [farValue, hlen, loadedWord, accessBytes] using signExtend_ofNat (by decide) hlt
  · subst h
    rw [show (256 : Nat) ^ accessBytes 1 = 2 ^ 16 by decide] at hlt
    have hlen : l.length = 2 := hl
    simpa [farValue, hlen, loadedWord, accessBytes] using signExtend_ofNat (by decide) hlt
  · subst h
    rw [show (256 : Nat) ^ accessBytes 2 = 2 ^ 32 by decide] at hlt
    have hlen : l.length = 4 := hl
    simpa [farValue, hlen, loadedWord, accessBytes] using signExtend_ofNat (by decide) hlt
  · have hn : ¬ z.toNat < 3 := by omega
    simp [farValue, loadedWord, hn]

/-! ### Far loads (R220) -/

theorem outside_of_package {pa : PAddr} (h : pa.space.package = true) : pa.outside = false := by
  unfold PAddr.outside
  split <;> simp_all [Space.package]

/-- A load in the package performs without failing when its owner may read and no word carries an error. -/
theorem performFar_load {s : State} {c : CpId} {pa : PAddr} (n : Nat) (signed : Bool) (hpkg : pa.space.package = true)
    (hown : s.ownerOk (s.slot c).part pa false = true) (hecc : s.ecc = []) :
    s.performFar c pa (.load n signed) = (s, .ok (farValue signed (s.bytesAt pa n))) := by
  have hout := outside_of_package hpkg
  have hfails : s.farFails c pa false = none := by simp [State.farFails, hout, hown]
  simp only [State.performFar, hout, hfails, Bool.false_eq_true, if_false, State.load_clean s c _ pa n hecc]
  split
  · simp_all [Space.package]
  · rfl

section
variable {s : State} {c : CpId} {id : Nat} {e : LandEntry}
  (hfind : ((s.cp c).lqT ++ (s.cp c).lqH).find? (fun x => x.id == id && x.rem.isNone) = some e)
include hfind

theorem landing_answer {q : Ask} {v : Word} (hask : e.ask = some q) (hv : s.answer c q = (s, v)) :
    exec (.landing c id) s = .next (s.arrive c id v) := by
  rw [landing_exec, execLanding, hfind]
  simp only [hask, hv]

theorem landing_load {pa : PAddr} {n : Nat} {signed : Bool} (hask : e.ask = none) (hfar : e.far = some (pa, .load n signed)) (hecc : s.ecc = [])
    (hpkg : pa.space.package = true) (hown : s.ownerOk (s.slot c).part pa false = true) (hpark : s.parkedBlock pa = false)
    (hold : s.olderAccess c id pa n = false) : exec (.landing c id) s = .next (s.arrive c id (farValue signed (s.bytesAt pa n))) := by
  have hid : e.id = id := by
    have h := List.find?_some hfind
    simp only [Bool.and_eq_true, beq_iff_eq] at h
    exact h.1
  rw [landing_exec, execLanding, hfind]
  simp only [hask, hfar, State.landFarTurn, hpark, hid, FarOp.len, hold, Bool.or_self, Bool.false_eq_true, if_false, State.landFar,
    performFar_load n signed hpkg hown hecc]

end

theorem fusedRow_eq (fuse : BitVec 256) (row : Word) :
    fusedRow fuse row = if row.toNat ≤ 15 then BitVec.ofNat 64 (fuse.toNat / 2 ^ (16 * row.toNat) % 2 ^ 16) else BitVec.allOnes 64 := by
  unfold fusedRow
  by_cases h : row.toNat ≤ 15
  · rw [if_neg (by omega), if_pos h]; rfl
  · rw [if_pos (by omega), if_neg h]; rfl

/-! ### Instruction lines (R446) -/

/-- A read of a clean memory of the package gives the bytes at its place. -/
theorem readFrom_clean {s : State} {c : CpId} {pa : PAddr} (n : Nat) (hout : pa.outside = false) (hecc : s.ecc = []) :
    s.readFrom c pa n = (s, .ok (s.bytesAt pa n)) := by
  simp only [State.readFrom, hout, State.load_clean s c _ pa n hecc, Bool.false_eq_true, if_false]

theorem readLine_clean {s : State} {c : CpId} {pa : PAddr} (hout : pa.outside = false) (hecc : s.ecc = []) :
    s.readLine c pa = (s, .ok (BitVec.ofNat 512 (leNat (s.bytesAt pa 64)))) := by
  rw [State.readLine, readFrom_clean 64 hout hecc]

/-- The CP awaits its line no more. -/
def State.resumes (s : State) (c : CpId) : State := s.modCp c fun p => { p with run := .running }

theorem resumes_cp (s : State) (c : CpId) : (s.resumes c).cp c = { s.cp c with run := .running } := State.cp_modCp_same _ _ _

theorem sameBytes_resumes (s : State) (c : CpId) : SameBytes s (s.resumes c) := sameBytes_of rfl rfl

theorem recRoom_resumes {s : State} {c : CpId} (h : RecRoom s c.core) : RecRoom (s.resumes c) c.core := by
  simp only [RecRoom, State.resumes, State.modCp, State.core_modSlot_same]
  exact h

/-- A translation that is cached changes the translation cache of the CP alone. -/
theorem cacheTranslation_effect (s : State) (a : Word) : SameBytes s (s.cacheTranslation a) ∧
    ∃ l, (s.cacheTranslation a).cp s.cur = { s.cp s.cur with ftc := l } := by
  unfold State.cacheTranslation
  extract_lets c
  split
  · exact ⟨fun _ => rfl, _, rfl⟩
  · split
    · exact ⟨fun _ => rfl, _, rfl⟩
    · extract_lets e
      split
      · exact ⟨fun _ => rfl, _, rfl⟩
      · exact ⟨sameBytes_of rfl rfl, _, State.cp_modCp_same _ _ _⟩

/-- A trap in thread mode with room for its record, if it writes one, is entered, and no byte changes (R293 to R295). -/
theorem syncTrapWith_enters {s : State} {c : CpId} (cause : BitVec 8) (val synd detail resume : Word) (hh : (s.cp c).handler = false)
    (hroom : s.recRoom c.core (.cp c) = true) : SameBytes s (s.syncTrapWith c cause val synd detail resume) ∧
      (s.syncTrapWith c cause val synd detail resume).cp c = (s.cp c).trapEntry cause val (s.cp c).pc resume := by
  simp only [State.syncTrapWith, hh, hroom, Bool.false_eq_true, if_false, if_true]
  split
  · refine ⟨sameBytes_of rfl rfl, ?_⟩
    rw [State.cp_modCp_same, State.cp, State.slot_pushRec]; rfl
  · exact ⟨sameBytes_of rfl rfl, State.cp_modCp_same _ _ _⟩

theorem recRoom_of_recRoom {s : State} {k : Fin 256} (key : RecKey) (h : RecRoom s k) : s.recRoom k key = true := by
  obtain ⟨hq, hw⟩ := h
  simp [State.recRoom, hq, hw]

theorem fetchMissFill_exec (c : CpId) (s : State) : exec (.fetchMissFill c) s = execFetchMissFill c s := rfl

/-- A CP that awaits no line keeps everything. -/
theorem fetchMissFill_idle {s : State} {c : CpId} (h : ∀ x, (s.cp c).run ≠ .fetchWait x) : exec (.fetchMissFill c) s = .next s := by
  rw [fetchMissFill_exec, execFetchMissFill]
  split
  · exact absurd ‹_› (h _)
  · rfl

section
variable {s : State} {c : CpId} {va : Word} (hrun : (s.cp c).run = .fetchWait va)
include hrun

theorem fetchMissFill_line {pa : PAddr} (hplace : s.place c va 4 false = .ok pa) (hout : pa.outside = false)
    (hpark : s.parkedBlock ⟨pa.space, pa.off / 64 * 64⟩ = false) (hecc : s.ecc = []) :
    Completes (.fetchMissFill c) s fun t => SameBytes s t ∧ (t.cp c).run = .running ∧ (t.cp c).pc = (s.cp c).pc ∧
      ∃ l : ICacheLine, (t.cp c).icache = l :: (s.cp c).icache.take 255 ∧ l.part = (s.slot c).part ∧ l.line = va.toNat / 64 ∧
        l.data = BitVec.ofNat 512 (leNat (s.bytesAt ⟨pa.space, pa.off / 64 * 64⟩ 64)) := by
  let base : PAddr := ⟨pa.space, pa.off / 64 * 64⟩
  let u : State := { s.resumes c with cur := c }
  let line : ICacheLine := { part := (s.slot c).part, line := va.toNat / 64, data := BitVec.ofNat 512 (leNat (s.bytesAt base 64)) }
  have hread : (s.resumes c).readLine c base = (s.resumes c, .ok (BitVec.ofNat 512 (leNat (s.bytesAt base 64)))) := by
    rw [← bytesAt_of_sameBytes (sameBytes_resumes s c) base 64]
    exact readLine_clean (s := s.resumes c) hout hecc
  have hexec : exec (.fetchMissFill c) s = .next ((u.cacheTranslation va).modCp c fun p => { p with icache := line :: p.icache.take 255 }) := by
    rw [fetchMissFill_exec, execFetchMissFill, hrun]
    simp only [hplace, hpark, Bool.false_eq_true, if_false]
    rw [← State.resumes, hread]
  obtain ⟨hcached, l, hcp⟩ := cacheTranslation_effect u va
  have hcp' : (u.cacheTranslation va).cp c = { s.cp c with run := .running, ftc := l } := by
    have hu : u.cp u.cur = { s.cp c with run := .running } := resumes_cp s c
    rw [hu] at hcp
    exact hcp
  refine ⟨_, hexec, sameBytes_trans (sameBytes_trans (sameBytes_resumes s c) hcached) (sameBytes_of rfl rfl), ?_, ?_, line, ?_, rfl, rfl, rfl⟩
  · rw [State.cp_modCp_same, hcp']
  · rw [State.cp_modCp_same, hcp']
  · rw [State.cp_modCp_same, hcp']

section
variable {e : BitVec 8} (hplace : s.place c va 4 false = .error e) (hh : (s.cp c).handler = false)
include hplace hh

theorem fetchMissFill_trap (hroom : RecRoom s c.core) (hd : (s.cp c).dtraps = []) : Completes (.fetchMissFill c) s fun t => SameBytes s t ∧
    (t.cp c).handler = true ∧ (t.cp c).tcause = e ∧ (t.cp c).tval = va ∧ (t.cp c).tpc = va ∧ (t.cp c).pc = (s.cp c).tvec := by
  obtain ⟨hsame, hcp⟩ := syncTrapWith_enters (s := s.resumes c) e va 0 0 va (by rw [resumes_cp]; exact hh)
    (recRoom_of_recRoom _ (recRoom_resumes hroom))
  have hexec : exec (.fetchMissFill c) s = .next (((s.resumes c).syncTrapWith c e va 0 0 va).modCp c fun p => { p with untimed := 2 }) := by
    rw [fetchMissFill_exec, execFetchMissFill, hrun]
    simp only [hplace, hd, recRoom_of_recRoom (.cp c) hroom, List.isEmpty_nil, Bool.not_true, Bool.and_false, Bool.false_eq_true, if_false,
      Bool.true_or, if_true]
    rfl
  refine ⟨_, hexec, sameBytes_trans (sameBytes_trans (sameBytes_resumes s c) hsame) (sameBytes_of rfl rfl), ?_⟩
  rw [State.cp_modCp_same, hcp, resumes_cp]
  exact ⟨rfl, rfl, rfl, rfl, rfl⟩

/-- A pending deferred trap goes first (R296). -/
theorem fetchMissFill_deferred (hd : (s.cp c).dtraps ≠ []) :
    Completes (.fetchMissFill c) s fun t => t.cp c = { s.cp c with run := .running } ∧ SameBytes s t := by
  have hsome : (s.cp c).dtraps.isEmpty = false := by simpa using hd
  refine ⟨s.resumes c, ?_, resumes_cp s c, sameBytes_resumes s c⟩
  rw [fetchMissFill_exec, execFetchMissFill, hrun]
  simp only [hplace, hh, hsome, Bool.not_false, Bool.and_self, if_true]
  rfl

end

end

/-- Settles O10: sysc by its landing entry, LANDING by what its entry awaits, and the line of a fetch. -/
theorem lateAnswers : Obligations.LateAnswers := by
  unfold Obligations.LateAnswers
  refine ⟨fun s d a w => ⟨fun hc => ⟨?_, ?_, ?_⟩, fun hop hn hc => ?_⟩, fun s c id e hfind hecc => ⟨fun hask => ?_, fun hask => ?_, fun row hask => ?_, ?_⟩,
    fun s c va => ⟨fun hrun => ⟨fun pa hplace hout hpark hecc => ?_, fun e hplace hh hroom => ⟨fun hd => ?_, fun hd => ?_⟩⟩, fun hidle => ?_⟩⟩
  · exact asks_of_putPending (asks_of_value (q := Ask.verify) (syscVerify_exec d a s) hc) hc
  · exact asks_of_putPending (asks_of_value (q := Ask.fused) (syscFused_exec d a s) hc) hc
  · exact asks_of_putPending (syscEnergy_exec d a s) hc
  · exact asks_of_putPending (syscOther_exec w s hop hn) hc
  · exact landing_arrives (landing_answer hfind hask rfl)
  · exact landing_arrives (landing_answer hfind hask rfl)
  · rw [← fusedRow_eq]
    exact landing_arrives (landing_answer hfind hask rfl)
  · intro pa z hask hfar hz hpkg hown hpark hold
    refine landing_arrives ((landing_load hfind hask hfar hecc hpkg hown hpark hold).trans ?_)
    rw [farValue_eq_loadedWord z hz _ (State.bytesAt_length ..)]
    rfl
  · exact fetchMissFill_line hrun hplace hout hpark hecc
  · exact fetchMissFill_trap hrun hplace hh hroom hd
  · exact fetchMissFill_deferred hrun hplace hh hd
  · exact ⟨s, fetchMissFill_idle hidle, rfl⟩

end Sys2Proof.Machine
end

section

/-! ### Bindings (R195, R343, R346): what binds a core's slots to their tasks, which a pre-emption and everything that it stores leave -/

namespace Sys2Proof.Machine

/-- What binds a slot to its task: its state and the fields of its record. -/
def Slot.binding (t : Slot) : BitVec 8 × Word × Word × Word × BitVec 5 × BitVec 3 × Option Nat :=
  (t.status, t.wid, t.slate, t.cfg, t.part, t.prio, t.launch)

/-- What binds a core's slots: CORESHARE, the guard column, the swap under way, who has held what, and each slot's binding. -/
def Core.binding (k : Core) :=
  (k.ssb, k.smb, k.lsb, k.gc, k.swap, k.cquar, (k.localHeld, k.sceneHeld, k.statHeld), fun i => (k.slots.get i).binding)

/-- Two states bind the same tasks. -/
def SameBindings (s t : State) : Prop := ∀ k, (t.core k).binding = (s.core k).binding

theorem SameBindings.refl (s : State) : SameBindings s s := fun _ => rfl

theorem SameBindings.trans {s t u : State} (h : SameBindings s t) (h' : SameBindings t u) : SameBindings s u := fun k => (h' k).trans (h k)

/-- A choice between two states that bind the same tasks. -/
theorem SameBindings.ite {s t u : State} (p : Prop) [Decidable p] (ht : SameBindings s t) (hu : SameBindings s u) :
    SameBindings s (if p then t else u) := by
  split
  · exact ht
  · exact hu

/-- States with the same cores bind the same tasks. -/
theorem SameBindings.of_cores {s t : State} (h : t.cores = s.cores) : SameBindings s t := fun k => by rw [State.core, h, State.core]

section
variable {s t : State} (h : SameBindings s t)
include h

theorem SameBindings.slot (c : CpId) : (t.slot c).binding = (s.slot c).binding := by
  have hk := h c.core
  simp only [Core.binding, Prod.mk.injEq] at hk
  exact congrFun hk.2.2.2.2.2.2.2 c.slot

theorem SameBindings.status (c : CpId) : (t.slot c).status = (s.slot c).status := congrArg (·.1) (h.slot c)
theorem SameBindings.wid (c : CpId) : (t.slot c).wid = (s.slot c).wid := congrArg (·.2.1) (h.slot c)
theorem SameBindings.cfg (c : CpId) : (t.slot c).cfg = (s.slot c).cfg := congrArg (·.2.2.2.1) (h.slot c)
theorem SameBindings.swap (k : Fin 256) : (t.core k).swap = (s.core k).swap := congrArg (·.2.2.2.2.1) (h k)
theorem SameBindings.gc (k : Fin 256) : (t.core k).gc = (s.core k).gc := congrArg (·.2.2.2.1) (h k)
theorem SameBindings.localHeld (k : Fin 256) : (t.core k).localHeld = (s.core k).localHeld := congrArg (·.2.2.2.2.2.2.1.1) (h k)
theorem SameBindings.sceneHeld (k : Fin 256) : (t.core k).sceneHeld = (s.core k).sceneHeld := congrArg (·.2.2.2.2.2.2.1.2.1) (h k)
theorem SameBindings.statHeld (k : Fin 256) : (t.core k).statHeld = (s.core k).statHeld := congrArg (·.2.2.2.2.2.2.1.2.2) (h k)

theorem SameBindings.split (k : Fin 256) : (t.core k).split = (s.core k).split := by
  rw [Core.split, h.gc k, Core.split]

end

/-! What each update of the state does to the bindings -/

section
variable (s : State) (c : CpId)

theorem sameBindings_modCore (k : Fin 256) (f : Core → Core) (hf : (f (s.core k)).binding = (s.core k).binding) : SameBindings s (s.modCore k f) := by
  intro j
  by_cases hj : j = k
  · subst hj
    rw [State.core_modCore_same, hf]
  · rw [State.core_modCore_ne _ _ _ _ hj]

theorem sameBindings_modSlot (f : Slot → Slot) (hf : (f (s.slot c)).binding = (s.slot c).binding) : SameBindings s (s.modSlot c f) := by
  refine sameBindings_modCore s c.core _ ?_
  have hslots : (fun i => ((vmod (s.core c.core).slots c.slot f).get i).binding) = fun i => ((s.core c.core).slots.get i).binding := by
    funext i
    by_cases hi : i = c.slot
    · subst hi
      rw [vmod_get_same]
      exact hf
    · rw [vmod_get_ne _ _ _ _ hi]
  simp only [Core.binding, hslots]

theorem sameBindings_modCp (f : Cp → Cp) : SameBindings s (s.modCp c f) := sameBindings_modSlot s c _ rfl
theorem sameBindings_modRegion (r : Fin 4) (f : Region → Region) : SameBindings s (s.modRegion c r f) := sameBindings_modSlot s c _ rfl
theorem sameBindings_modElem (e : Fin 256) (f : Elem → Elem) : SameBindings s (s.modElem c e f) := sameBindings_modSlot s c _ rfl

theorem Slot.binding_modPort (t : Slot) (p : BitVec 5) (f : PortCtx → PortCtx) : (t.modPort p f).binding = t.binding := by
  unfold Slot.modPort
  split <;> rfl

theorem sameBindings_modPort (p : BitVec 5) (f : PortCtx → PortCtx) : SameBindings s (s.modPort c p f) :=
  sameBindings_modSlot s c _ (Slot.binding_modPort _ p f)

theorem sameBindings_foldl {α : Type} (g : State → α → State) (l : List α) (h : ∀ t x, SameBindings t (g t x)) : SameBindings s (l.foldl g s) :=
  List.foldlRecOn l g (motive := SameBindings s) (SameBindings.refl s) fun t ht x _ => ht.trans (h t x)

/-! Memory, logs and injections -/

theorem sameBindings_store (part : BitVec 5) (a : PAddr) (l : List Byte) : SameBindings s (s.store part a l) :=
  fun k => core_store_keeps s part a l Core.binding k fun _ _ => rfl

theorem sameBindings_logAt (who : CpId) (part : BitVec 5) (a : PAddr) (m : EccMark) : SameBindings s (s.logAt who part a m) := by
  unfold State.logAt
  extract_lets w enter stat
  split
  case h_1 | h_2 | h_3 => exact sameBindings_modCore s _ _ rfl
  all_goals exact SameBindings.of_cores rfl

theorem sameBindings_load (who : CpId) (part : BitVec 5) (a : PAddr) (n : Nat) : SameBindings s (s.load who part a n).1 := by
  have hlog : SameBindings s (s.logMarks who part a (s.marksAt a n)) := sameBindings_foldl s _ _ fun t m => sameBindings_logAt t who part _ m
  unfold State.load
  extract_lets ms s'
  split <;> exact hlog

theorem sameBindings_readArr (who : CpId) (part : BitVec 5) (arr unit word n : Nat) : SameBindings s (s.readArr who part arr unit word n).1 := by
  unfold State.readArr
  split
  · exact SameBindings.refl s
  · exact sameBindings_foldl s _ _ fun t m => sameBindings_modCore t _ _ rfl

theorem sameBindings_injectArr (k : Fin 256) (part : BitVec 5) (arr unit word : Nat) : SameBindings s (s.injectArr k part arr unit word) := by
  unfold State.injectArr
  extract_lets reg
  split
  · split
    · exact SameBindings.refl s
    · extract_lets s1
      have h1 : SameBindings s s1 := sameBindings_modCore s k _ rfl
      split
      · exact h1
      · exact h1.trans (SameBindings.of_cores rfl)
  · exact SameBindings.refl s

theorem sameBindings_writeArr (k : Fin 256) (part : BitVec 5) (arr unit word n : Nat) : SameBindings s (s.writeArr k part arr unit word n) := by
  have hclean : SameBindings s (s.cleanArr k arr unit word n) := by
    unfold State.cleanArr
    split <;> exact SameBindings.of_cores rfl
  exact hclean.trans (sameBindings_injectArr _ _ _ _ _ _)

/-! Records and traps -/

theorem Core.enterRecs_binding (k : Core) : k.enterRecs.binding = k.binding := by
  have go (n : Nat) (k : Core) : (Core.enterRecs.go k n).binding = k.binding := by
    induction n generalizing k with
    | zero => rfl
    | succ n ih =>
      unfold Core.enterRecs.go
      split
      · split
        · exact ih _
        · rfl
      · rfl
  exact go _ k

theorem sameBindings_queueRec (k : Fin 256) (key : RecKey) (f : RecFields) : SameBindings s (s.queueRec k key f) :=
  sameBindings_modCore s k _ (Core.enterRecs_binding _)

theorem sameBindings_deferTrap (order : Nat) (cause : BitVec 8) (val fpc : Word) : SameBindings s (s.deferTrap c order cause val fpc) := by
  unfold State.deferTrap
  split
  · exact SameBindings.refl s
  · exact sameBindings_modCp s c _

theorem sameBindings_farFault (order : Nat) (cause : BitVec 8) (vaddr fpc synd detail : Word) :
    SameBindings s (s.farFault c order cause vaddr fpc synd detail) :=
  (sameBindings_queueRec s _ _ _).trans (sameBindings_deferTrap _ c _ _ _ _)

/-! What leaves the package -/

theorem cores_transmit (p : Fin 18) (x : OutFlit) : (s.transmit p x).cores = s.cores := by
  unfold State.transmit
  extract_lets l n s1
  have h1 : s1.cores = s.cores := rfl
  split
  · rfl
  · split
    · rfl
    · split <;> exact h1

theorem cores_sendVia (p : Option (Fin 18)) (ep : BitVec 20) (m : FabMsg) : (s.sendVia p ep m).cores = s.cores := by
  unfold State.sendVia
  split
  · rfl
  · exact cores_transmit s _ _

theorem cores_toFabric (ep : BitVec 20) (m : FabMsg) : (s.toFabric ep m).cores = s.cores := cores_sendVia s _ ep m

theorem cores_askPeer (k : Fin 256) (part : BitVec 5) (ep : BitVec 20) (off size : Nat) (write : Bool) (data : List Byte) :
    (s.askPeer k part ep off size write data).cores = s.cores := by
  rw [State.askPeer, cores_toFabric, State.newId_cores]

theorem cores_hostRequest (part : BitVec 5) (addr : Nat) (write : Bool) (data : List Byte) : (s.hostRequest part addr write data).cores = s.cores :=
  State.emit_cores s _

theorem cores_askWrite (pa : PAddr) (b : List Byte) : (s.askWrite c pa b).cores = s.cores := by
  unfold State.askWrite
  cases pa.space with
  | peer ep => exact cores_askPeer s _ _ _ _ _ _ _
  | host => exact cores_hostRequest s _ _ _ _
  | _ => rfl

/-! Streams and their tokens -/

theorem sameBindings_dropToken (k : Fin 256) (id : Nat) : SameBindings s (s.dropToken k id) := sameBindings_modCore s k _ rfl
theorem sameBindings_enterTap (e : Fin 256) (i : Fin 4) (tok : Tok) : SameBindings s (s.enterTap c e i tok) := sameBindings_modElem s c e _
theorem sameBindings_enterLane (t : RingTok) (e : Fin 256) : SameBindings s (s.enterLane c t e) := sameBindings_modCore s c.core _ rfl
theorem sameBindings_addToken (k : Fin 256) (w : RingTok) : SameBindings s (s.addToken k w) := sameBindings_modCore s.newId k _ rfl
theorem sameBindings_streamStop (r : Fin 4) (p : BitVec 5) (cause : BitVec 8) (detail vaddr synd : Word) :
    SameBindings s (s.streamStop c r p cause detail vaddr synd) := sameBindings_modRegion s c r _

theorem sameBindings_endStream (p : BitVec 5) : SameBindings s (s.endStream c p) := by
  unfold State.endStream
  extract_lets gone s0 shut s1
  have h1 : SameBindings s s1 := (sameBindings_modSlot s c _ rfl).trans (sameBindings_modPort s0 c p _)
  split
  · split
    · exact h1.trans (sameBindings_modRegion s1 c _ _)
    · exact h1
  · exact h1

theorem sameBindings_readDone (p : BitVec 5) : SameBindings s (s.readDone c p) := by
  unfold State.readDone
  split
  · exact SameBindings.refl s
  · split
    · exact sameBindings_endStream s c p
    · exact SameBindings.refl s

theorem sameBindings_skipBubbles (p : BitVec 5) (n : Nat) : SameBindings s (s.skipBubbles c p n) := by
  induction n generalizing s with
  | zero => exact SameBindings.refl s
  | succ n ih =>
    unfold State.skipBubbles
    split
    · exact SameBindings.refl s
    · split
      · exact SameBindings.refl s
      · split
        · exact (sameBindings_modPort s c p _).trans (ih _)
        · exact SameBindings.refl s

theorem sameBindings_passBubbles (p : BitVec 5) : SameBindings s (s.passBubbles c p) := by
  unfold State.passBubbles
  split
  · exact SameBindings.refl s
  · split
    · exact SameBindings.refl s
    · extract_lets s1
      have h1 : SameBindings s s1 := sameBindings_skipBubbles s c p _
      split
      · split
        · exact h1.trans (sameBindings_endStream s1 c p)
        · exact h1
      · exact h1

theorem sameBindings_stored (t : RingTok) : SameBindings s (s.stored c t) := by
  unfold State.stored
  extract_lets q s1
  have h1 : SameBindings s s1 := (sameBindings_dropToken s _ _).trans (sameBindings_modPort _ c _ _)
  split
  · split
    · exact h1
    · split
      · exact h1.trans (sameBindings_endStream s1 c _)
      · split
        · exact h1.trans (sameBindings_passBubbles s1 c _)
        · exact h1
  · exact h1

theorem sameBindings_accepted (p : BitVec 5) : SameBindings s (s.accepted c p) := by
  unfold State.accepted
  extract_lets q
  split
  · exact SameBindings.refl s
  · extract_lets s1
    have h1 : SameBindings s s1 := sameBindings_modPort s c p _
    split
    · split
      · exact h1.trans (sameBindings_endStream s1 c p)
      · exact h1
    · exact h1

theorem sameBindings_channelEnter (p : BitVec 5) (tok : Tok) (t : State) (h : s.channelEnter c p tok = some t) : SameBindings s t := by
  unfold State.channelEnter at h
  extract_lets u at h
  split at h
  · exact nomatch h
  · split at h
    · exact nomatch h
    · split at h
      · exact nomatch h
      · next e i _ =>
        split at h
        · exact nomatch h
        · have h1 (tok' : Tok) (f : PortCtx → PortCtx) : SameBindings s ((s.enterTap c e i tok').modPort c p f) :=
            (sameBindings_enterTap s c e i tok').trans (sameBindings_modPort _ c p f)
          rw [← Option.some.inj h]
          split
          · exact (h1 _ _).trans (sameBindings_endStream _ c p)
          · exact h1 _ _

theorem sameBindings_channelArrive (t : RingTok) : SameBindings s (s.channelArrive c t) := by
  unfold State.channelArrive
  split
  · exact SameBindings.refl s
  · next s1 hs1 =>
    have h1 : SameBindings s s1 := sameBindings_channelEnter s c _ _ s1 hs1
    extract_lets st tap s2 base q
    have h2 : SameBindings s s2 := h1.trans (sameBindings_dropToken s1 _ _)
    clear_value tap
    split
    · split
      · exact .ite _ (.refl s) (sameBindings_enterLane s c t _)
      · exact .refl s
    · exact .ite _ (h2.trans (sameBindings_accepted s2 _ _)) (h2.trans (.of_cores (cores_sendVia s2 _ _ _)))

theorem sameBindings_resultEnter (t : RingTok) : SameBindings s (s.resultEnter c t) := by
  unfold State.resultEnter
  split
  · exact SameBindings.refl s
  · split
    · exact (sameBindings_dropToken s _ _).trans (sameBindings_enterTap _ c _ _ _)
    · split
      · exact SameBindings.refl s
      · exact sameBindings_enterLane s c t _

theorem sameBindings_leavePort (t : RingTok) : SameBindings s (s.leavePort c t) := by
  unfold State.leavePort
  extract_lets s1 base peer
  have h1 : SameBindings s s1 := sameBindings_dropToken s _ _
  split
  · exact h1
  · split
    · exact h1.trans (SameBindings.of_cores (cores_sendVia s1 _ _ _))
    · exact h1.trans (sameBindings_addToken s1 _ _)

theorem sameBindings_flushToken (t : RingTok) : SameBindings s (s.flushToken c t) := by
  unfold State.flushToken
  extract_lets place comes g
  have hplace (x : RingPos) : SameBindings s (place x) := sameBindings_modCore s c.core _ rfl
  have hcomes (f : State → RingTok → State) (hf : ∀ u x, SameBindings u (f u x)) : SameBindings s (comes f) := by
    unfold comes
    extract_lets u
    split
    · exact (hplace .due).trans (hf _ _)
    · exact hplace .far
  clear_value comes place g
  refine .ite _ (.refl s) (.ite _ (hcomes _ fun u x => sameBindings_resultEnter u c x) (.ite _ (hcomes _ fun u x => sameBindings_channelArrive u c x)
    (.ite _ (.ite _ ?_ ?_) (.ite _ (hplace .far) (.ite _ ?_ ?_)))))
  · exact ((sameBindings_dropToken s _ _).trans (sameBindings_enterTap _ c _ _ _)).trans (sameBindings_readDone _ c _)
  · exact (sameBindings_dropToken s _ _).trans (sameBindings_modPort _ c _ _)
  · exact (sameBindings_store s _ _ _).trans (sameBindings_stored _ c t)
  · exact (hplace .refused).trans (sameBindings_streamStop _ c _ _ _ _ _ _)

end

end Sys2Proof.Machine

end

section

/-! Pre-emption, what a slot sent before its image goes, and the ends of takes keep the bindings (R195, R306, R344). -/

namespace Sys2Proof.Machine

section
variable (s : State) (c : CpId)

/-! ### Stops (R81, R195) -/

theorem sameBindings_stopRecord (r : Fin 4) (i : StopInfo) : SameBindings s (s.stopRecord c r i) := by
  unfold State.stopRecord
  extract_lets g
  exact .ite _ (.refl s) ((sameBindings_queueRec s _ _ _).trans (sameBindings_modRegion _ c r _))

theorem sameBindings_endStreams (r : Fin 4) : SameBindings s (s.endStreams c r) :=
  (sameBindings_modCore s c.core _ rfl).trans (sameBindings_modSlot _ c _ rfl)

theorem sameBindings_stopNow (r : Fin 4) (i : StopInfo) : SameBindings s (s.stopNow c r i) := by
  unfold State.stopNow
  extract_lets fw fl s1 s2
  have h1 : SameBindings s s1 := (sameBindings_modSlot s c _ rfl).trans (sameBindings_modRegion _ c r _)
  have h2 : SameBindings s s2 := .ite _ (h1.trans (sameBindings_modSlot s1 c _ rfl)) (h1.trans (sameBindings_endStreams s1 c r))
  exact h2.trans (sameBindings_modCp s2 c _)

/-- A stop that is due takes effect. -/
theorem sameBindings_stopDue (r : Fin 4) : SameBindings s (match (s.region c r).stopDue with | some i => (s.stopRecord c r i).stopNow c r i | none => s) := by
  split
  · exact (sameBindings_stopRecord s c r _).trans (sameBindings_stopNow _ c r _)
  · exact .refl s

theorem sameBindings_clearNext (r : Fin 4) : SameBindings s (s.clearNext c r) :=
  (sameBindings_foldl s _ _ fun t e => sameBindings_modElem t c e _).trans (sameBindings_modRegion _ c r _)

theorem sameBindings_loseNext (r : Fin 4) : SameBindings s (s.loseNext c r) := by
  unfold State.loseNext
  extract_lets g s1
  have h1 : SameBindings s s1 := .ite _ (sameBindings_modRegion s c r _) (.refl s)
  exact .ite _ h1 ((h1.trans (sameBindings_clearNext s1 c r)).trans (sameBindings_modRegion _ c r _))

/-! ### Pre-emption (R195, R306) -/

theorem sameBindings_charge : SameBindings s (s.charge c) := .ite _ (sameBindings_modCore s c.core _ rfl) (.refl s)

theorem sameBindings_answerIn : SameBindings s (s.answerIn c) := by
  unfold State.answerIn
  extract_lets p t
  have ht : SameBindings s t := sameBindings_modCp s c _
  split
  · exact ht
  · exact (ht.trans (sameBindings_modCp t c _)).trans (sameBindings_writeArr _ _ _ _ _ _ _)

theorem sameBindings_preempt : SameBindings s (s.preempt c) := by
  unfold State.preempt
  extract_lets u p s1 s2 s3
  have hu : SameBindings s u := (sameBindings_charge s c).trans (sameBindings_answerIn _ c)
  have h1 : SameBindings s s1 := by
    unfold s1
    clear_value u p
    split
    · exact .ite _ hu (hu.trans (sameBindings_modCp u c _))
    · exact hu
  clear_value s1
  have h2 : SameBindings s s2 := h1.trans (sameBindings_foldl s1 _ _ fun t r => sameBindings_stopDue t c r)
  clear_value s2
  have h3 : SameBindings s s3 := h2.trans (sameBindings_foldl s2 _ _ fun t x => sameBindings_flushToken t c x)
  clear_value s3
  exact h3.trans (sameBindings_foldl s3 _ _ fun t r => sameBindings_loseNext t c r)

/-! ### What a slot sent before its image goes (R280, R357) -/

theorem sameBindings_dropPosted (id : Nat) : SameBindings s (s.dropPosted c id) := sameBindings_modCp s c _

theorem sameBindings_performStore (w : Posted) : SameBindings s (s.performStore c w) := by
  unfold State.performStore
  extract_lets s1
  have h1 : SameBindings s s1 := sameBindings_dropPosted s c w.id
  split
  · exact h1
  · exact h1.trans (sameBindings_store s1 _ _ _)

theorem sameBindings_completeStore (w : Posted) : SameBindings s (s.completeStore c w) := by
  unfold State.completeStore
  extract_lets asked s0
  have h0 : SameBindings s s0 := .of_cores <| by
    unfold s0
    split
    · exact cores_askWrite s c w.pa w.bytes
    · rfl
  clear_value s0
  split
  · exact (h0.trans (sameBindings_dropPosted s0 c w.id)).trans (sameBindings_farFault _ c _ _ _ _ _ _)
  · exact h0.trans (sameBindings_performStore s0 c w)

theorem cores_slotted (part : BitVec 5) (surf : Option Nat) (va : Word) : (s.slotted part surf va).cores = s.cores := by
  unfold State.slotted
  split
  · rfl
  · next g =>
    extract_lets r n esc h csz a i put t1 e
    have hput (u : State) (x len : Nat) : (put u x len).cores = u.cores := by
      unfold put
      split
      · exact State.setBytes_cores u _ _
      · rfl
    have h1 : t1.cores = s.cores := hput s _ _
    clear_value t1 put
    split
    · exact h1
    · exact (hput t1.took _ _).trans h1

/-- A store that stays at its controller. -/
theorem sameBindings_leave (t : State) (part : BitVec 5) (w : Posted) (parked : Bool) : SameBindings t (match parkPlace w.pa with
    | none => t
    | some (d, k) => (t.dropPosted c w.id).modDie d fun x => x.modCtl k fun l =>
        { l with park := l.park.filter (· != (c, w.id)), left := l.left ++ [(part, { w with parked := parked })] }) := by
  split
  · exact .refl t
  · exact (sameBindings_dropPosted t c w.id).trans (.of_cores rfl)

theorem sameBindings_leaveStore (w : Posted) : SameBindings s (s.leaveStore c w) := by
  unfold State.leaveStore
  extract_lets part leave
  have hleave (t : State) (parked : Bool) : SameBindings t (leave t parked) := sameBindings_leave c t part w parked
  clear_value leave
  split
  · exact hleave s _
  · split
    · exact (sameBindings_completeStore s c w).trans (.of_cores (cores_slotted _ _ _ _))
    · exact hleave s _
    · exact SameBindings.trans (.of_cores rfl) (hleave _ _)

/-- Controllers forget the park entries of a slot; its tokens leave the core's list. -/
theorem sameBindings_drainOut : SameBindings s (s.drainOut c) := by
  unfold State.drainOut
  extract_lets s1 s2 s3
  have h1 : SameBindings s s1 := sameBindings_foldl s _ _ fun t w => sameBindings_leaveStore t c w
  clear_value s1
  have h2 : SameBindings s s2 := h1.trans (sameBindings_foldl s1 _ _ fun t x =>
    .ite _ (sameBindings_leavePort t c x) (.ite _ (sameBindings_leaveStore t c _) (.refl t)))
  clear_value s2
  have h3 : SameBindings s s3 := h2.trans (.of_cores rfl)
  clear_value s3
  exact h3.trans (sameBindings_modCore s3 c.core _ rfl)

end

end Sys2Proof.Machine

end

section

/-! Commands of a bind record (O46). -/

namespace Sys2Proof.Machine

/-! ### A slot is bound (R170, R221, R234, R306, R446) -/

/-- A slot as binding leaves it. -/
def Slot.asBound (t : Slot) : Slot :=
  { t with status := 0x01, refusal := 0, part := cfgPart t.cfg, prio := cfgPrio t.cfg, cp := { t.cp with ftc := [], icache := [] } }

section
variable (s : State) (c : CpId)

/-- What of a core is not the note of who has held its memories stays when a share is claimed. -/
theorem core_claimShare_keeps {α : Type} (p : Core → α) (k : Fin 256)
    (hp : ∀ x a b d, p { x with localHeld := a, sceneHeld := b, statHeld := d } = p x) : p ((s.claimShare c).core k) = p (s.core k) := by
  unfold State.claimShare
  extract_lets cfg q x l m b inside
  by_cases hk : k = c.core
  · subst hk
    rw [State.core_modCore_same, hp]
    rfl
  · rw [State.core_modCore_ne _ _ _ _ hk]
    rfl

theorem slot_claimShare (d : CpId) : (s.claimShare c).slot d = s.slot d :=
  congrArg (·.get d.slot) (core_claimShare_keeps s c Core.slots d.core fun _ _ _ _ => rfl)

theorem slot_setShare (d : CpId) : (s.setShare c).slot d = s.slot d := State.slot_modCore_keeps s c.core _ d rfl

theorem core_setShare : ((s.setShare c).core c.core).ssb = cfgSsb (s.slot c).cfg ∧ ((s.setShare c).core c.core).smb = cfgSmb (s.slot c).cfg ∧
    ((s.setShare c).core c.core).lsb = cfgLsb (s.slot c).cfg ∧ ((s.setShare c).core c.core).swap = (s.core c.core).swap := by
  unfold State.setShare
  extract_lets v beside
  rw [State.core_modCore_same]
  exact ⟨rfl, rfl, rfl, rfl⟩

/-- The state that binding's changes of the slot itself give. -/
def State.marksBound (s : State) (c : CpId) : State :=
  (s.setStatus c 0x01).modSlot c fun t => { t with part := cfgPart t.cfg, prio := cfgPrio t.cfg, cp := { t.cp with ftc := [], icache := [] } }

theorem bindNow_eq : s.bindNow c = ((s.marksBound c).setShare c).claimShare c := rfl

theorem slot_marksBound_same : (s.marksBound c).slot c = (s.slot c).asBound := by
  rw [State.marksBound, State.setStatus, State.slot_modSlot_same, State.slot_modSlot_same]
  rfl

theorem core_marksBound_swap : ((s.marksBound c).core c.core).swap = (s.core c.core).swap := by
  rw [State.marksBound, State.setStatus, State.core_modSlot_same, State.core_modSlot_same]

theorem slot_bindNow_same : (s.bindNow c).slot c = (s.slot c).asBound := by
  rw [bindNow_eq, slot_claimShare, slot_setShare, slot_marksBound_same]

/-- CORESHARE follows the record of a slot that is bound; a swap goes on. -/
theorem core_bindNow : ((s.bindNow c).core c.core).ssb = cfgSsb (s.slot c).cfg ∧ ((s.bindNow c).core c.core).smb = cfgSmb (s.slot c).cfg ∧
    ((s.bindNow c).core c.core).lsb = cfgLsb (s.slot c).cfg ∧ ((s.bindNow c).core c.core).swap = (s.core c.core).swap := by
  have hclaim {α : Type} (p : Core → α) (hp : ∀ x a b d, p { x with localHeld := a, sceneHeld := b, statHeld := d } = p x) :
      p ((s.bindNow c).core c.core) = p (((s.marksBound c).setShare c).core c.core) := by
    rw [bindNow_eq, core_claimShare_keeps _ c p c.core hp]
  obtain ⟨hssb, hsmb, hlsb, hswap⟩ := core_setShare (s.marksBound c) c
  rw [slot_marksBound_same] at hssb hsmb hlsb
  rw [core_marksBound_swap] at hswap
  exact ⟨(hclaim Core.ssb fun _ _ _ _ => rfl).trans hssb, (hclaim Core.smb fun _ _ _ _ => rfl).trans hsmb,
    (hclaim Core.lsb fun _ _ _ _ => rfl).trans hlsb, (hclaim Core.swap fun _ _ _ _ => rfl).trans hswap⟩

end

/-! ### Fields of a record (R346) -/

/-- A mask that keeps a field. -/
theorem extractLsb'_masked (v m : Word) (i n : Nat) (h : m.extractLsb' i n = BitVec.allOnes n) : (v &&& m).extractLsb' i n = v.extractLsb' i n := by
  rw [BitVec.extractLsb'_and, h, BitVec.and_allOnes]

theorem cfgPart_cfgFields (v : Word) : cfgPart (cfgFields v) = cfgPart v := extractLsb'_masked v _ 24 5 (by decide)
theorem cfgPrio_cfgFields (v : Word) : cfgPrio (cfgFields v) = cfgPrio v := extractLsb'_masked v _ 29 3 (by decide)
theorem cfgSsb_cfgFields (v : Word) : cfgSsb (cfgFields v) = cfgSsb v := extractLsb'_masked v _ 16 7 (by decide)
theorem cfgSmb_cfgFields (v : Word) : cfgSmb (cfgFields v) = cfgSmb v := extractLsb'_masked v _ 8 7 (by decide)
theorem cfgLsb_cfgFields (v : Word) : cfgLsb (cfgFields v) = cfgLsb v := extractLsb'_masked v _ 0 5 (by decide)
theorem cfgCheck_cfgFields (v : Word) : cfgCheck (cfgFields v) = cfgCheck v := by
  rw [cfgCheck, cfgFields, BitVec.getLsbD_and, (by decide : (0xFFFF000EFF7F7FDF#64).getLsbD 33 = true), Bool.and_true, cfgCheck]

/-! ### The initial image (R343) -/

theorem get_bankSet (b : Vector Word 32) (r : Reg) (i : Fin 32) (v : Word) :
    (bankSet b r v).get i = if r ≠ 0 ∧ i = ix32 r then v else b.get i := by
  unfold bankSet
  by_cases hr : r = 0
  · rw [if_pos hr, if_neg fun h => h.1 hr]
  · rw [if_neg hr]
    by_cases hi : i = ix32 r
    · rw [if_pos ⟨hr, hi⟩, hi, vmod_get_same]
    · rw [if_neg fun h => hi h.2, vmod_get_ne _ _ _ _ hi]

section
variable (slate wid tvec cfg share entry arg : Word)

/-- The registers that a task finds set. -/
theorem bankT_start : let p := Cp.start slate wid tvec cfg share entry arg
    p.bankT.get 1 = wid ∧ p.bankT.get 2 = arg ∧ p.bankT.get 3 = slate ∧ p.bankT.get 30 = 0x3FFFFC := by
  have hget (r : Reg) (i : Fin 32) (b : Vector Word 32) (v : Word) (h : ¬ (r ≠ 0 ∧ i = ix32 r)) : (bankSet b r v).get i = b.get i := by
    rw [get_bankSet, if_neg h]
  have hset (r : Reg) (i : Fin 32) (b : Vector Word 32) (v : Word) (h : r ≠ 0 ∧ i = ix32 r) : (bankSet b r v).get i = v := by
    rw [get_bankSet, if_pos h]
  refine ⟨?_, ?_, ?_, ?_⟩
  · exact (hget 31 1 _ _ (by decide)).trans ((hget 30 1 _ _ (by decide)).trans ((hget 3 1 _ _ (by decide)).trans
      ((hget 2 1 _ _ (by decide)).trans (hset 1 1 _ _ (by decide)))))
  · exact (hget 31 2 _ _ (by decide)).trans ((hget 30 2 _ _ (by decide)).trans ((hget 3 2 _ _ (by decide)).trans (hset 2 2 _ _ (by decide))))
  · exact (hget 31 3 _ _ (by decide)).trans ((hget 30 3 _ _ (by decide)).trans (hset 3 3 _ _ (by decide)))
  · exact (hget 31 30 _ _ (by decide)).trans (hset 30 30 _ _ (by decide))

theorem pc_start : (Cp.start slate wid tvec cfg share entry arg).pc.toNat % 4 = 0 := by
  have h : (entry &&& ~~~(3 : Word)).toNat % 4 = 0 := by
    have hand : (entry &&& ~~~(3 : Word)).extractLsb' 0 2 = 0#2 := by
      rw [BitVec.extractLsb'_and, (by decide : (~~~(3 : Word)).extractLsb' 0 2 = 0#2), BitVec.and_zero]
    have := congrArg BitVec.toNat hand
    simpa [BitVec.extractLsb'_toNat] using this
  exact h

end

/-- The image of a slot's task, of which the share, the entry and the argument are to be found. -/
def Slot.started (t : Slot) (l : Option Launch) (share entry arg : Word) : Slot :=
  { Slot.reset with
    slate := t.slate, wid := t.wid, tvec := t.tvec, cfg := t.cfg, part := cfgPart t.cfg, prio := cfgPrio t.cfg, launch := l.map (·.id), tilesOut := t.tilesOut
    cp := Cp.start t.slate t.wid t.tvec t.cfg share entry arg }

theorem startImage_started (s : State) (c : CpId) (l : Option Launch) : ∃ share entry arg, s.startImage c l = (s.slot c).started l share entry arg := by
  unfold State.startImage
  extract_lets t part lsb share
  exact ⟨_, _, _, rfl⟩

/-- A launch's copy of the slate gives entry and argument. -/
theorem startImage_of_launch (s : State) (c : CpId) (l : Launch) :
    ∃ share, s.startImage c (some l) = (s.slot c).started (some l) share (fld64 l.slate 0) (fld64 l.slate 8) :=
  ⟨_, rfl⟩

/-! ### Two changes of one slot -/

theorem vmod_vmod {α : Type} {n : Nat} (v : Vector α n) (i : Fin n) (f g : α → α) : vmod (vmod v i f) i g = vmod v i fun x => g (f x) := by
  rw [vmod, vmod_get_same]
  simp [vmod]

theorem State.modCore_modCore (s : State) (k : Fin 256) (f g : Core → Core) : (s.modCore k f).modCore k g = s.modCore k fun x => g (f x) :=
  congrArg (fun v => { s with cores := v }) (vmod_vmod s.cores k f g)

theorem State.modSlot_modSlot (s : State) (c : CpId) (f g : Slot → Slot) : (s.modSlot c f).modSlot c g = s.modSlot c fun x => g (f x) :=
  (State.modCore_modCore s c.core _ _).trans <| congrArg (s.modCore c.core) <| funext fun k =>
    congrArg (fun v => { k with slots := v }) (vmod_vmod k.slots c.slot f g)

/-! ### BIND (R343, R346, R347) -/

section
variable (s : State) (c : CpId) (cfg : Word) (l : Option Launch)

theorem slot_writeCfg_same : (s.writeCfg c cfg).slot c = { s.slot c with cfg := cfgFields cfg } := State.slot_modSlot_same s c _
theorem slot_writeCfg_ne (d : CpId) (h : d ≠ c) : (s.writeCfg c cfg).slot d = s.slot d := State.slot_modSlot_ne s c d _ h

theorem swap_writeCfg : ((s.writeCfg c cfg).core c.core).swap = (s.core c.core).swap := by
  rw [State.writeCfg, State.core_modSlot_same]

theorem refuseCmd_eq (v : BitVec 8) : s.refuseCmd c cfg v = s.modSlot c fun x => { x with cfg := cfg &&& 0xFFFF000EFF7F7FDF, refusal := v } :=
  State.modSlot_modSlot s c _ _

/-- The image of the task stands in the slot, and the core's time counts anew. -/
def State.withImage (s : State) (c : CpId) (cfg : Word) (l : Option Launch) : State :=
  ({ s.writeCfg c cfg with fresh := (s.writeCfg c cfg).fresh + 2 }.modSlot c fun _ => (s.writeCfg c cfg).startImage c l).freshTime c.core

theorem slot_withImage_same : (s.withImage c cfg l).slot c = (s.writeCfg c cfg).startImage c l := by
  rw [State.withImage, State.freshTime, State.slot_modCore_keeps, State.slot_modSlot_same]
  rfl

theorem slot_withImage_ne (d : CpId) (h : d ≠ c) : (s.withImage c cfg l).slot d = s.slot d := by
  rw [State.withImage, State.freshTime, State.slot_modCore_keeps, State.slot_modSlot_ne _ _ _ _ h]
  · exact slot_writeCfg_ne s c cfg d h
  · rfl

theorem bindCmd_refused (hrec : (s.die (dieOf c.core)).recovery = false) (h : (s.slot c).status ≠ 0 ∨ s.recordOk c cfg = false) :
    s.bindCmd c cfg l = s.refuseCmd c cfg 0x11 := by
  have hno : ((s.slot c).status != 0 || !s.recordOk c cfg) = true := by simpa using h
  unfold State.bindCmd
  extract_lets o other s0 image s1 waits
  rw [if_neg (by simp [hrec]), if_pos hno]

section
variable (hrec : (s.die (dieOf c.core)).recovery = false) (hempty : (s.slot c).status = 0) (hok : s.recordOk c cfg = true) (hgc : cfgGc cfg = 0)
include hrec hempty hok hgc

/-- A record that is accepted, without a split. -/
theorem bindCmd_accepted : s.bindCmd c cfg l =
    if (s.slot (otherSlot c)).status == 0x01 then (((s.withImage c cfg l).setStatus c 0x02).claimShare c).storeImage c else (s.withImage c cfg l).bindNow c := by
  unfold State.bindCmd
  extract_lets o other s0 image s1 waits
  rw [if_neg (by simp [hrec]), if_neg (by simp [hempty, hok]), if_neg (by simp [hgc]), if_pos (by simp [hgc])]
  rfl

theorem bindCmd_alone (ho : (s.slot (otherSlot c)).status = 0) : s.bindCmd c cfg l = (s.withImage c cfg l).bindNow c := by
  rw [bindCmd_accepted s c cfg l hrec hempty hok hgc, if_neg (by simp [ho])]

theorem bindCmd_beside (ho : (s.slot (otherSlot c)).status = 1) :
    s.bindCmd c cfg l = (((s.withImage c cfg l).setStatus c 0x02).claimShare c).storeImage c := by
  rw [bindCmd_accepted s c cfg l hrec hempty hok hgc, if_pos (by simp [ho])]

end

end

end Sys2Proof.Machine

end

section

namespace Sys2Proof.Machine

/-! ### The effects of commands (R347) -/

section
variable (s : State) (c : CpId) (cfg : Word)

theorem cmdBind_exec : exec (.cmdBind c cfg) s = execCmdBind c cfg s := rfl
theorem cmdSwap_exec : exec (.cmdSwap c cfg) s = execCmdSwap c cfg s := rfl
theorem cmdUnbind_exec : exec (.cmdUnbind c cfg) s = execCmdUnbind c cfg s := rfl
theorem cmdRing_exec : exec (.cmdRing c cfg) s = execCmdRing c cfg s := rfl

/-- A command keeps CFG and sets STATUS to its refusal. -/
def RefusesAs (i : Instr) (s : State) (c : CpId) (cfg : Word) (v : BitVec 8) : Prop :=
  Completes i s fun t => t = s.modSlot c fun x => { x with cfg := cfg &&& 0xFFFF000EFF7F7FDF, refusal := v }

theorem refuses_of_exec {i : Instr} {v : BitVec 8} (h : exec i s = .next (s.refuseCmd c cfg v)) : RefusesAs i s c cfg v :=
  ⟨_, h, refuseCmd_eq s c cfg v⟩

/-- A quarantined core, or a swap in progress, refuses every command. -/
theorem blocked_refuses {v : BitVec 8} (h : s.cmdBlocked c = some v) :
    RefusesAs (.cmdBind c cfg) s c cfg v ∧ RefusesAs (.cmdSwap c cfg) s c cfg v ∧ RefusesAs (.cmdUnbind c cfg) s c cfg v ∧ RefusesAs (.cmdRing c cfg) s c cfg v := by
  refine ⟨?_, ?_, ?_, ?_⟩ <;> refine refuses_of_exec s c cfg ?_
  · rw [cmdBind_exec, execCmdBind, h]
  · rw [cmdSwap_exec, execCmdSwap, h]
  · rw [cmdUnbind_exec, execCmdUnbind, h]
  · rw [cmdRing_exec, execCmdRing, h]

theorem cmdBlocked_quarantined (h : (s.core c.core).cquar = true) : s.cmdBlocked c = some 0x10 := if_pos h

theorem cmdBlocked_swapping (hq : (s.core c.core).cquar = false) (h : (s.core c.core).swap ≠ none) : s.cmdBlocked c = some 0x12 := by
  rw [State.cmdBlocked, if_neg (by simp [hq]), if_pos (by simpa [Option.isSome_iff_ne_none] using h)]

theorem cmdBlocked_none (hq : (s.core c.core).cquar = false) (h : (s.core c.core).swap = none) : s.cmdBlocked c = none := by
  rw [State.cmdBlocked, if_neg (by simp [hq]), if_neg (by simp [h])]

/-! What a command does that nothing blocks -/

section
variable (hfree : s.cmdBlocked c = none)
include hfree

theorem cmdBind_free : exec (.cmdBind c cfg) s = .next (s.bindCmd c cfg (s.launchAt (cfgPart cfg) (s.slot c).slate)) := by
  rw [cmdBind_exec, execCmdBind, hfree]

theorem cmdSwap_free : exec (.cmdSwap c cfg) s = .next (if (s.core c.core).split then s.refuseCmd c cfg 0x11
      else if (s.slot c).status == 0x01 && (s.slot (otherSlot c)).status == 0x02 then (s.writeCfg c cfg).swapSlots c
      else if (s.slot c).status == 0x02 && (s.slot (otherSlot c)).status == 0x01 then (s.writeCfg c cfg).swapSlots (otherSlot c)
      else s.refuseCmd c cfg 0x11) := by
  rw [cmdSwap_exec, execCmdSwap, hfree]

theorem cmdUnbind_free : exec (.cmdUnbind c cfg) s = .next (if (s.slot c).status == 0 then s.refuseCmd c cfg 0x11 else (s.writeCfg c cfg).unbind c) := by
  rw [cmdUnbind_exec, execCmdUnbind, hfree]

theorem cmdRing_free : exec (.cmdRing c cfg) s = .next (if (s.slot c).status == 0x01 || (s.slot c).status == 0x02 then
        ((s.writeCfg c cfg).modSlot c fun t => { t with refusal := 0 }).modCp c fun p => p.event evDB
      else s.refuseCmd c cfg 0x11) := by
  rw [cmdRing_exec, execCmdRing, hfree]

end

/-! ### Records within the limits (R170, R347) -/

/-- The shares of a record within CORESHARE's limits. -/
def Sizes (cfg : Word) : Prop := (cfg.extractLsb' 16 7).toNat ≤ 64 ∧ (cfg.extractLsb' 8 7).toNat ≤ 64 ∧ (cfg.extractLsb' 0 5).toNat ≤ 16

theorem recordOk_sizes (h : s.recordOk c cfg = true) : Sizes cfg := by
  simp only [State.recordOk, Bool.and_eq_true, decide_eq_true_eq] at h
  obtain ⟨⟨⟨⟨hssb, hsmb⟩, hlsb⟩, -⟩, -⟩ := h
  exact ⟨hssb, hsmb, hlsb⟩

/-- Beside an EMPTY slot, or one of an equal record, a record without a split is accepted. -/
theorem recordOk_of_sizes (h : Sizes cfg) (hgc : cfgGc cfg = 0) (ho : (s.slot (otherSlot c)).status = 0 ∨
    (cfgSsb (s.slot (otherSlot c)).cfg = cfgSsb cfg ∧ cfgSmb (s.slot (otherSlot c)).cfg = cfgSmb cfg ∧ cfgLsb (s.slot (otherSlot c)).cfg = cfgLsb cfg ∧
      cfgGc (s.slot (otherSlot c)).cfg = 0)) : s.recordOk c cfg = true := by
  obtain ⟨hssb, hsmb, hlsb⟩ := h
  have hother : ((s.slot (otherSlot c)).status == 0 || (cfgSsb (s.slot (otherSlot c)).cfg == cfgSsb cfg && cfgSmb (s.slot (otherSlot c)).cfg == cfgSmb cfg &&
      cfgLsb (s.slot (otherSlot c)).cfg == cfgLsb cfg && cfgGc (s.slot (otherSlot c)).cfg == cfgGc cfg)) = true := by
    rcases ho with ho | ⟨h1, h2, h3, h4⟩
    · simp [ho]
    · simp [h1, h2, h3, h4, hgc]
  simp only [State.recordOk, Bool.and_eq_true, decide_eq_true_eq]
  exact ⟨⟨⟨⟨hssb, hsmb⟩, hlsb⟩, hother⟩, by simp [hgc]⟩

/-! ### BIND (R343, R346) -/

/-- A slot has the initial state of the task of a record, as its slot gives it. -/
def StartsFresh (a : Slot) (cfg : Word) (x : Slot) : Prop :=
  x.wid = a.wid ∧ x.slate = a.slate ∧ x.part = cfg.extractLsb' 24 5 ∧ x.prio = cfg.extractLsb' 29 3 ∧ x.cp.handler = false ∧ x.cp.run = .running ∧ x.cp.pc.toNat % 4 = 0 ∧
  x.cp.bankT.get 1 = a.wid ∧ x.cp.bankT.get 3 = a.slate ∧ x.cp.bankT.get 30 = 0x3FFFFC ∧ x.cp.tcyc = 0 ∧ x.cp.cpevt = 0 ∧ x.cp.check = cfg.getLsbD 33 ∧ x.cmdq = [] ∧
  ∀ r, (x.regions.get r).on = .free ∧ (x.regions.get r).next = .empty

theorem startsFresh_started (a : Slot) (l : Option Launch) (share entry arg : Word) :
    StartsFresh a cfg (({ a with cfg := cfgFields cfg } : Slot).started l share entry arg) := by
  obtain ⟨hwid, -, hslate, hstack⟩ := bankT_start a.slate a.wid a.tvec (cfgFields cfg) share entry arg
  have hr (r : Fin 4) : (Vector.replicate 4 Region.reset).get r = Region.reset := by simp [Vector.get]
  exact ⟨rfl, rfl, cfgPart_cfgFields cfg, cfgPrio_cfgFields cfg, rfl, rfl, pc_start a.slate a.wid a.tvec (cfgFields cfg) share entry arg, hwid, hslate,
    hstack, rfl, rfl, cfgCheck_cfgFields cfg, rfl, fun r => ⟨congrArg Region.on (hr r), congrArg Region.next (hr r)⟩⟩

variable {cfg} in
/-- Binding leaves what the initial image sets. -/
theorem StartsFresh.asBound {a x : Slot} (h : StartsFresh a cfg x) (hcfg : x.cfg = cfgFields cfg) : StartsFresh a cfg x.asBound := by
  obtain ⟨hwid, hslate, -, -, hrest⟩ := h
  exact ⟨hwid, hslate, (congrArg cfgPart hcfg).trans (cfgPart_cfgFields cfg), (congrArg cfgPrio hcfg).trans (cfgPrio_cfgFields cfg), hrest⟩

theorem startImage_writeCfg (l : Option Launch) : StartsFresh (s.slot c) cfg ((s.writeCfg c cfg).startImage c l) ∧
    ((s.writeCfg c cfg).startImage c l).cfg = cfgFields cfg := by
  obtain ⟨share, entry, arg, h⟩ := startImage_started (s.writeCfg c cfg) c l
  rw [h, slot_writeCfg_same]
  exact ⟨startsFresh_started cfg (s.slot c) l share entry arg, rfl⟩

theorem slot_storeImage (d : CpId) : (s.storeImage c).slot d = s.slot d := by
  unfold State.storeImage
  rw [slot_injectArr]
  split <;> rfl

section
variable (hrec : (s.die (dieOf c.core)).recovery = false) (hempty : (s.slot c).status = 0) (hok : s.recordOk c cfg = true) (hgc : cfgGc cfg = 0)
include hrec hempty hok hgc

/-- Beside an EMPTY slot the task is bound, and CORESHARE takes the shares of its record. -/
theorem bindCmd_binds (l : Option Launch) (ho : (s.slot (otherSlot c)).status = 0) : StartsFresh (s.slot c) cfg ((s.bindCmd c cfg l).slot c) ∧
    ((s.bindCmd c cfg l).slot c).status = 1 ∧ ((s.bindCmd c cfg l).core c.core).ssb = cfgSsb cfg ∧ ((s.bindCmd c cfg l).core c.core).smb = cfgSmb cfg ∧
    ((s.bindCmd c cfg l).core c.core).lsb = cfgLsb cfg := by
  obtain ⟨hfresh, hcfg⟩ := startImage_writeCfg s c cfg l
  obtain ⟨hssb, hsmb, hlsb, -⟩ := core_bindNow (s.withImage c cfg l) c
  rw [slot_withImage_same, hcfg] at hssb hsmb hlsb
  rw [bindCmd_alone s c cfg l hrec hempty hok hgc ho]
  refine ⟨?_, ?_, hssb.trans (cfgSsb_cfgFields cfg), hsmb.trans (cfgSmb_cfgFields cfg), hlsb.trans (cfgLsb_cfgFields cfg)⟩
  · rw [slot_bindNow_same, slot_withImage_same]
    exact hfresh.asBound hcfg
  · rw [slot_bindNow_same]
    rfl

/-- Beside a BOUND slot the task stands by. -/
theorem bindCmd_standsBy (l : Option Launch) (ho : (s.slot (otherSlot c)).status = 1) : StartsFresh (s.slot c) cfg ((s.bindCmd c cfg l).slot c) ∧
    ((s.bindCmd c cfg l).slot c).status = 2 ∧ ((s.bindCmd c cfg l).slot (otherSlot c)).status = 1 := by
  have hslot : (s.bindCmd c cfg l).slot c = { (s.writeCfg c cfg).startImage c l with status := 0x02, refusal := 0 } := by
    rw [bindCmd_beside s c cfg l hrec hempty hok hgc ho, slot_storeImage, slot_claimShare, State.setStatus, State.slot_modSlot_same, slot_withImage_same]
  have hother : (s.bindCmd c cfg l).slot (otherSlot c) = s.slot (otherSlot c) := by
    rw [bindCmd_beside s c cfg l hrec hempty hok hgc ho, slot_storeImage, slot_claimShare, State.setStatus, State.slot_modSlot_ne _ _ _ _ (otherSlot_ne c),
      slot_withImage_ne s c cfg l (otherSlot c) (otherSlot_ne c)]
  rw [hslot, hother]
  exact ⟨(startImage_writeCfg s c cfg l).1, rfl, ho⟩

end

/-! ### SWAP and UNBIND (R195, R347) -/

theorem otherSlot_otherSlot : otherSlot (otherSlot c) = c := by
  have h : ∀ i : Fin 2, 1 - (1 - i) = i := by decide
  exact congrArg (CpId.mk c.core) (h c.slot)

theorem slot_beginSwap (k : Fin 256) (i : Fin 2) (d : CpId) : (s.beginSwap k i).slot d = s.slot d := State.slot_modCore_keeps s k _ d rfl

theorem swap_beginSwap (k : Fin 256) (i : Fin 2) : ((s.beginSwap k i).core k).swap = some i := by rw [State.beginSwap, State.core_modCore_same]

/-- The bound slot stands by, as the other one does, and the scan is to bind the other. -/
theorem swapSlots_spec : ((s.swapSlots c).slot c).status = 2 ∧ ((s.swapSlots c).slot (otherSlot c)).status = (s.slot (otherSlot c)).status ∧
    ((s.swapSlots c).core c.core).swap = some (otherSlot c).slot := by
  rw [State.swapSlots, slot_beginSwap, slot_beginSwap, swap_beginSwap, State.setStatus, State.slot_modSlot_same,
    State.slot_modSlot_ne (s.preempt c) c (otherSlot c) _ (otherSlot_ne c)]
  exact ⟨rfl, (sameBindings_preempt s c).status _, rfl⟩

theorem slot_emptySlot (d : CpId) : (s.emptySlot c).slot d = ((s.drainOut c).modSlot c Slot.discard).slot d :=
  State.slot_modCore_keeps ((s.drainOut c).modSlot c Slot.discard) c.core _ d rfl

theorem Slot.discard_status (t : Slot) : t.discard.status = 0 := rfl
theorem Slot.discard_wid (t : Slot) : t.discard.wid = t.wid := rfl

/-- A slot whose image goes is EMPTY, with its record; a scan that was to bind it ends. -/
theorem emptySlot_spec : ((s.emptySlot c).slot c).status = 0 ∧ ((s.emptySlot c).slot c).wid = (s.slot c).wid ∧
    ((s.emptySlot c).slot (otherSlot c)).status = (s.slot (otherSlot c)).status ∧
    ((s.emptySlot c).core c.core).swap = if (s.core c.core).swap == some c.slot then none else (s.core c.core).swap := by
  have hdrain : SameBindings s (s.drainOut c) := sameBindings_drainOut s c
  rw [slot_emptySlot, slot_emptySlot, State.slot_modSlot_same, State.slot_modSlot_ne (s.drainOut c) c (otherSlot c) _ (otherSlot_ne c),
    Slot.discard_status, Slot.discard_wid, hdrain.wid, hdrain.status]
  refine ⟨rfl, rfl, rfl, ?_⟩
  rw [State.emptySlot, State.core_modCore_same, State.core_modSlot_same, hdrain.swap]

/-- With no scan under way, a slot that is unbound is EMPTY, and where it was BOUND the scan is to bind a STANDBY other one. -/
theorem unbind_spec (hswap : (s.core c.core).swap = none) : ((s.unbind c).slot c).status = 0 ∧ ((s.unbind c).slot c).wid = (s.slot c).wid ∧
    ((s.unbind c).core c.core).swap = if (s.slot c).status = 1 ∧ (s.slot (otherSlot c)).status = 2 then some (otherSlot c).slot else none := by
  unfold State.unbind
  extract_lets bound s1
  let u : State := if bound then s.preempt c else s
  have hu : SameBindings s u := .ite _ (sameBindings_preempt s c) (.refl s)
  obtain ⟨hempty, hwid, hother, hnone⟩ := emptySlot_spec u c
  rw [hu.wid] at hwid
  rw [hu.status] at hother
  rw [hu.swap, hswap] at hnone
  have hs1 : s1 = u.emptySlot c := rfl
  rw [← hs1] at hempty hwid hother hnone
  have hnone' : (s1.core c.core).swap = none := hnone
  have hcond : ((bound || (s.core c.core).swap == some c.slot) && (s1.slot (otherSlot c)).status == 0x02 && (s1.core c.core).swap.isNone) =
      decide ((s.slot c).status = 1 ∧ (s.slot (otherSlot c)).status = 2) := by
    simp [bound, hswap, hother, hnone', beq_eq_decide]
  rw [hcond]
  by_cases h : (s.slot c).status = 1 ∧ (s.slot (otherSlot c)).status = 2
  · rw [if_pos (decide_eq_true h), if_pos h]
    rw [slot_beginSwap, swap_beginSwap]
    exact ⟨hempty, hwid, rfl⟩
  · rw [if_neg (by simpa using h), if_neg h]
    exact ⟨hempty, hwid, hnone'⟩

end

end Sys2Proof.Machine

end

section

namespace Sys2Proof.Machine

/-! ### Commands of a bind record, settled -/

section
variable (s : State) (c : CpId) (cfg : Word) (hfree : s.cmdBlocked c = none)
include hfree

theorem cmdBind_badrec (hrec : (s.die (dieOf c.core)).recovery = false) (h : (s.slot c).status ≠ 0 ∨ ¬ Sizes cfg) : RefusesAs (.cmdBind c cfg) s c cfg 0x11 := by
  have hbad : (s.slot c).status ≠ 0 ∨ s.recordOk c cfg = false := h.imp_right fun hs => Bool.eq_false_iff.mpr fun hok => hs (recordOk_sizes s c cfg hok)
  refine refuses_of_exec s c cfg ?_
  rw [cmdBind_free s c cfg hfree, bindCmd_refused s c cfg _ hrec hbad]

theorem cmdSwap_badrec (h : (s.core c.core).gc ≠ 0 ∨ ¬ (((s.slot c).status = 1 ∧ (s.slot (otherSlot c)).status = 2) ∨
    ((s.slot c).status = 2 ∧ (s.slot (otherSlot c)).status = 1))) : RefusesAs (.cmdSwap c cfg) s c cfg 0x11 := by
  refine refuses_of_exec s c cfg ?_
  rw [cmdSwap_free s c cfg hfree]
  by_cases hgc : (s.core c.core).gc = 0
  · obtain ⟨h12, h21⟩ := not_or.mp (h.resolve_left (not_not_intro hgc))
    rw [if_neg (by simp [Core.split, hgc]), if_neg (by simpa using h12), if_neg (by simpa using h21)]
  · rw [if_pos (by simpa [Core.split] using hgc)]

theorem cmdSwap_out (hgc : (s.core c.core).gc = 0) (ha : (s.slot c).status = 1) (hb : (s.slot (otherSlot c)).status = 2) :
    Completes (.cmdSwap c cfg) s fun t => (t.slot c).status = 2 ∧ (t.slot (otherSlot c)).status = 2 ∧ (t.core c.core).swap = some (otherSlot c).slot := by
  refine ⟨(s.writeCfg c cfg).swapSlots c, ?_, ?_⟩
  · rw [cmdSwap_free s c cfg hfree, if_neg (by simp [Core.split, hgc]), if_pos (by simp [ha, hb])]
  · obtain ⟨hc, ho, hswap⟩ := swapSlots_spec (s.writeCfg c cfg) c
    rw [slot_writeCfg_ne s c cfg (otherSlot c) (otherSlot_ne c), hb] at ho
    exact ⟨hc, ho, hswap⟩

theorem cmdSwap_in (hgc : (s.core c.core).gc = 0) (ha : (s.slot c).status = 2) (hb : (s.slot (otherSlot c)).status = 1) :
    Completes (.cmdSwap c cfg) s fun t => (t.slot c).status = 2 ∧ (t.slot (otherSlot c)).status = 2 ∧ (t.core c.core).swap = some c.slot := by
  refine ⟨(s.writeCfg c cfg).swapSlots (otherSlot c), ?_, ?_⟩
  · rw [cmdSwap_free s c cfg hfree, if_neg (by simp [Core.split, hgc]), if_neg (by simp [ha]), if_pos (by simp [ha, hb])]
  · obtain ⟨ho, hc, hswap⟩ := swapSlots_spec (s.writeCfg c cfg) (otherSlot c)
    rw [otherSlot_otherSlot] at hc hswap
    rw [slot_writeCfg_same] at hc
    exact ⟨hc.trans ha, ho, hswap⟩

theorem cmdUnbind_badrec (h : (s.slot c).status = 0) : RefusesAs (.cmdUnbind c cfg) s c cfg 0x11 :=
  refuses_of_exec s c cfg <| by rw [cmdUnbind_free s c cfg hfree, if_pos (by simp [h])]

theorem cmdUnbind_empties (hswap : (s.core c.core).swap = none) (h : (s.slot c).status ≠ 0) :
    Completes (.cmdUnbind c cfg) s fun t => (t.slot c).status = 0 ∧ (t.slot c).wid = (s.slot c).wid ∧
      (t.core c.core).swap = if (s.slot c).status = 1 ∧ (s.slot (otherSlot c)).status = 2 then some (otherSlot c).slot else none := by
  refine ⟨(s.writeCfg c cfg).unbind c, ?_, ?_⟩
  · rw [cmdUnbind_free s c cfg hfree, if_neg (by simpa using h)]
  · have hspec := unbind_spec (s.writeCfg c cfg) c ((swap_writeCfg s c cfg).trans hswap)
    rw [slot_writeCfg_same, slot_writeCfg_ne s c cfg (otherSlot c) (otherSlot_ne c)] at hspec
    exact hspec

theorem cmdRing_rings (h : (s.slot c).status = 1 ∨ (s.slot c).status = 2) : Completes (.cmdRing c cfg) s fun t =>
    (t.cp c).cpevt = (s.cp c).cpevt ||| 8 ∧ (t.slot c).refusal = 0 ∧ (t.slot c).status = (s.slot c).status ∧ SameBytes s t := by
  refine ⟨_, (cmdRing_free s c cfg hfree).trans (congrArg _ (if_pos (by simpa using h))), ?_⟩
  have hslot : (((s.writeCfg c cfg).modSlot c fun t => { t with refusal := 0 }).modCp c fun p => p.event evDB).slot c =
      { s.slot c with cfg := cfgFields cfg, refusal := 0, cp := (s.cp c).event evDB } := by
    rw [State.modCp, State.slot_modSlot_same, State.slot_modSlot_same, slot_writeCfg_same]
    rfl
  exact ⟨congrArg (·.cp.cpevt) hslot, congrArg (·.refusal) hslot, congrArg (·.status) hslot, fun _ => rfl⟩

theorem cmdRing_badrec (h1 : (s.slot c).status ≠ 1) (h2 : (s.slot c).status ≠ 2) : RefusesAs (.cmdRing c cfg) s c cfg 0x11 :=
  refuses_of_exec s c cfg <| by rw [cmdRing_free s c cfg hfree, if_neg (by simpa using ⟨h1, h2⟩)]

end

/-- Settles O46: a blocked command and one of a state that it does not fit are refused; else BIND gives the initial image and binds it or lets it stand by, and
a pre-emption, which keeps the bindings of the core, comes before what SWAP and UNBIND change. -/
theorem slotCommands : Obligations.SlotCommands := by
  intro s c cfg a o b k refused all sizes same fresh
  refine ⟨fun hq => blocked_refuses s c cfg (cmdBlocked_quarantined s c hq), fun hq hswap => blocked_refuses s c cfg (cmdBlocked_swapping s c hq hswap),
    fun hq hswap => ?_⟩
  have hfree : s.cmdBlocked c = none := cmdBlocked_none s c hq hswap
  refine ⟨cmdBind_badrec s c cfg hfree, fun hrec ha hsizes hgc hb => ?_, fun hrec ha hsizes hgc hb hsame => ?_, cmdSwap_badrec s c cfg hfree,
    cmdSwap_out s c cfg hfree, cmdSwap_in s c cfg hfree, cmdUnbind_badrec s c cfg hfree, cmdUnbind_empties s c cfg hfree hswap, cmdRing_rings s c cfg hfree,
    cmdRing_badrec s c cfg hfree⟩
  · have hok := recordOk_of_sizes s c cfg hsizes hgc (.inl hb)
    exact ⟨_, cmdBind_free s c cfg hfree, bindCmd_binds s c cfg hrec ha hok hgc _ hb⟩
  · have hok := recordOk_of_sizes s c cfg hsizes hgc (.inr hsame)
    exact ⟨_, cmdBind_free s c cfg hfree, bindCmd_standsBy s c cfg hrec ha hok hgc _ hb⟩

end Sys2Proof.Machine

end

section

/-! Firmware's stores and signals leave the cores as they were (R345, R435). -/

namespace Sys2Proof.Machine

/-- Every core stands as it was, its error logs and its injection register apart. -/
def CoresStand (s t : State) : Prop := ∀ k, t.core k = { s.core k with elog := (t.core k).elog, einj := (t.core k).einj }

theorem CoresStand.refl (s : State) : CoresStand s s := fun _ => rfl

theorem CoresStand.trans {s t u : State} (h : CoresStand s t) (h' : CoresStand t u) : CoresStand s u := fun k => by rw [h' k, h k]

theorem CoresStand.of_cores {s t : State} (h : t.cores = s.cores) : CoresStand s t := fun k => by rw [State.core, h, State.core]

theorem CoresStand.ite {s t u : State} (p : Prop) [Decidable p] (ht : CoresStand s t) (hu : CoresStand s u) : CoresStand s (if p then t else u) := by
  split
  · exact ht
  · exact hu

theorem CoresStand.slot {s t : State} (h : CoresStand s t) (c : CpId) : t.slot c = s.slot c := by
  rw [State.slot, h c.core]
  rfl

theorem CoresStand.bindings {s t : State} (h : CoresStand s t) : SameBindings s t := fun k => by
  rw [h k]
  rfl

theorem LogsOnly.coresStand {s t : State} (h : LogsOnly s t) : CoresStand s t := fun k => by rw [h k]

section
variable (s : State) (c : CpId)

theorem coresStand_store (part : BitVec 5) (a : PAddr) (l : List Byte) : CoresStand s (s.store part a l) := fun k => by
  have h := core_store_keeps s part a l (fun x : Core => { x with elog := Vector.replicate 8 ErrLog.reset, einj := 0 }) k fun _ _ => rfl
  have helog := core_store_keeps s part a l Core.elog k fun _ _ => rfl
  generalize (s.store part a l).core k = y at h helog
  cases y
  simp only [Core.mk.injEq] at h
  simp_all

theorem coresStand_of_load {who : CpId} {part : BitVec 5} {a : PAddr} {n : Nat} {t : State} {o : Option (List Byte)}
    (h : s.load who part a n = (t, o)) : CoresStand s t := by
  have hload := logsOnly_load s who part a n
  rw [h] at hload
  exact hload.coresStand

/-! ### Firmware's stores and signals (R345) -/

theorem coresStand_firmwareStore (part : BitVec 5) (pa : PAddr) (va : Word) (b : List Byte) : CoresStand s (s.firmwareStore part pa va b) := by
  unfold State.firmwareStore
  extract_lets t surf turn
  have ht : CoresStand s t := coresStand_store s part pa b
  split
  · exact ht.trans (.of_cores (cores_slotted _ _ _ _))
  · exact ht
  · exact .of_cores rfl

theorem coresStand_firmwareAdd (part : BitVec 5) (pa : PAddr) (va k : Word) : CoresStand s (s.firmwareAdd part pa va k) := by
  unfold State.firmwareAdd
  split
  next h => exact coresStand_of_load s h
  next h => exact (coresStand_of_load s h).trans (coresStand_firmwareStore _ _ _ _ _)

theorem coresStand_launchSignal (part : BitVec 5) (a : Word) (k : Nat) : CoresStand s (s.launchSignal part a k) := by
  unfold State.launchSignal
  refine .ite _ (.refl s) ?_
  split
  · exact .ite _ (coresStand_firmwareAdd s _ _ _ _) (.refl s)
  · exact .refl s

theorem coresStand_launchProgress (id : Nat) : CoresStand s (s.launchProgress id) := by
  unfold State.launchProgress
  split
  · exact .refl s
  · extract_lets ends etrig dsig trig s1 done s2
    have h1 : CoresStand s s1 := .ite _ (coresStand_launchSignal s _ _ _) (.refl s)
    have h2 : CoresStand s s2 := .ite _ (h1.trans (coresStand_launchSignal s1 _ _ _)) h1
    exact h2.trans (.of_cores rfl)

theorem coresStand_updateWord (who : CpId) (part : BitVec 5) (pa : PAddr) (f : Word → Option Word) : CoresStand s (s.updateWord who part pa f) := by
  unfold State.updateWord
  split
  next h => exact coresStand_of_load s h
  next h =>
    split
    · exact coresStand_of_load s h
    · exact (coresStand_of_load s h).trans (coresStand_store _ _ _ _)

theorem coresStand_gangSignal (g : Gang) : CoresStand s (s.gangSignal g) := by
  unfold State.gangSignal
  extract_lets s1
  have h1 : CoresStand s s1 := .of_cores rfl
  split
  · exact h1
  · exact .ite _ (h1.trans (coresStand_updateWord s1 _ _ _ _)) (h1.trans (.of_cores rfl))

theorem coresStand_enterState (gid : Word) (x : GangState) : CoresStand s (s.enterState gid x) := by
  unfold State.enterState
  split
  · exact .refl s
  · extract_lets s1 s2
    have h1 : CoresStand s s1 := .of_cores rfl
    have h2 : CoresStand s s2 := h1.trans (coresStand_firmwareStore s1 _ _ _ _)
    exact .ite _ h1 (.ite _ (h2.trans (coresStand_gangSignal s2 _)) h2)

theorem coresStand_gangRetire (gid : Word) : CoresStand s (s.gangRetire gid) := by
  unfold State.gangRetire
  split
  · exact .refl s
  · extract_lets isOver
    exact .ite _ (coresStand_enterState s gid _) (.refl s)

end

end Sys2Proof.Machine

end

section

/-! The end of a swap's scan (O47). -/

namespace Sys2Proof.Machine

/-! ### What of memory a claim of a share zeroes (R343) -/

theorem sameBytes_load (s : State) (who : CpId) (part : BitVec 5) (a : PAddr) (n : Nat) : SameBytes s (s.load who part a n).1 := by
  have hlog : SameBytes s (s.logMarks who part a (s.marksAt a n)) :=
    List.foldlRecOn _ _ (motive := SameBytes s) (fun _ => rfl) fun t ht m _ => sameBytes_trans ht <|
      sameBytes_of_keys (State.logAt_mem t _ _ _ m) (fun d k => State.ctl_logAt_keeps t _ _ _ m d k HbmCtl.keys fun _ _ => rfl) fun d => State.granules_logAt t _ _ _ m d
  unfold State.load
  extract_lets ms s'
  split <;> exact hlog

/-- A place whose key lies among the memories of cores is none of HBM. -/
theorem space_of_low_key (x : PAddr) (h : x.key / 2 ^ 64 < 768) : ∀ d, x.space ≠ .hbm d := by
  intro d hd
  have hindex : Space.index x.space = 800 + d.val := by
    rw [hd]
    rfl
  have hkey : x.key = (800 + d.val) * 2 ^ 64 + x.off := congrArg (· * 2 ^ 64 + x.off) hindex
  omega

/-- Places whose keys are zeroed read 0, and the others as before. -/
theorem byteAt_zeroKeys (s : State) (f : Nat → Bool) (x : PAddr) (hf : ∀ n, f n = true → n / 2 ^ 64 < 768) :
    (s.zeroKeys f).byteAt x = if f x.key then 0 else s.byteAt x := by
  have hmem : memGet (s.zeroKeys f).mem x.key = if !f x.key then memGet s.mem x.key else unlisted := memGet_filter s.mem (fun n => !f n) x.key
  by_cases hx : f x.key = true
  · rw [byteAt_outside_hbm _ x (space_of_low_key x (hf _ hx)), hmem, hx]
    rfl
  · rw [State.byteAt, hmem, if_pos (by simpa using hx), if_neg hx]
    rfl

/-- A key lies in a share of a core's memories that another partition's task held. -/
def Core.takenOver (k : Core) (c : CpId) (p : BitVec 5) (key : Nat) : Bool :=
  let inside (x : Nat) (r : Nat × Nat) : Bool := decide (r.1 ≤ x) && decide (x < r.1 + r.2)
  let off := key % 2 ^ 64
  let sp := key / 2 ^ 64
  (sp == c.core.val && inside off (k.localShare c.slot) && passes k.localHeld p (off / 4096)) ||
  (sp == 256 + c.core.val && inside off (k.sceneShare c.slot) && passes k.sceneHeld p (off / 65536)) ||
  (sp == 512 + c.core.val && inside (off % 2 ^ 14 / 256) (k.statShare c.slot) && passes k.statHeld p (off % 2 ^ 14 / 256))

theorem takenOver_key {k : Core} {c : CpId} {p : BitVec 5} {key : Nat} (h : k.takenOver c p key = true) :
    key / 2 ^ 64 < 768 ∧ key / 2 ^ 64 % 256 = c.core.val ∧
    ((∃ i, passes k.localHeld p i = true) ∨ (∃ i, passes k.sceneHeld p i = true) ∨ ∃ i, passes k.statHeld p i = true) := by
  have hcore : c.core.val < 256 := c.core.isLt
  simp only [Core.takenOver, Bool.or_eq_true, Bool.and_eq_true, beq_iff_eq] at h
  rcases h with (⟨⟨hsp, -⟩, hheld⟩ | ⟨⟨hsp, -⟩, hheld⟩) | ⟨⟨hsp, -⟩, hheld⟩
  · exact ⟨by omega, by omega, .inl ⟨_, hheld⟩⟩
  · exact ⟨by omega, by omega, .inr (.inl ⟨_, hheld⟩)⟩
  · exact ⟨by omega, by omega, .inr (.inr ⟨_, hheld⟩)⟩

/-- A unit that passes to another partition was one's. -/
theorem passes_held {n : Nat} {held : Vector (Option (BitVec 5)) n} {p : BitVec 5} {i : Nat} (h : passes held p i = true) :
    ∃ o ∈ held.toList, o ≠ none ∧ o ≠ some p := by
  unfold passes at h
  split at h
  next q hq =>
    refine ⟨some q, ?_, nofun, fun he => ?_⟩
    · obtain ⟨hi, hget⟩ := Vector.getElem?_eq_some_iff.mp hq
      rw [← hget, Vector.mem_toList_iff]
      exact Vector.getElem_mem hi
    · rw [Option.some.inj he] at h
      simp at h
  · exact nomatch h

/-- Bytes that binding zeroes: those of the share that another partition's task has held. -/
theorem byteAt_bindNow (s : State) (c : CpId) (x : PAddr) : ∃ f : Nat → Bool, (s.bindNow c).byteAt x = (if f x.key then 0 else s.byteAt x) ∧
    ∀ n, f n = true → n / 2 ^ 64 < 768 ∧ n / 2 ^ 64 % 256 = c.core.val ∧
      ∃ o ∈ (s.core c.core).localHeld.toList ++ (s.core c.core).sceneHeld.toList ++ (s.core c.core).statHeld.toList, o ≠ none ∧ o ≠ some (cfgPart (s.slot c).cfg) := by
  let u := (s.marksBound c).setShare c
  have hheld : ((u.core c.core).localHeld, (u.core c.core).sceneHeld, (u.core c.core).statHeld) =
      ((s.core c.core).localHeld, (s.core c.core).sceneHeld, (s.core c.core).statHeld) := by
    unfold u State.setShare
    extract_lets v beside
    rw [State.core_modCore_same, State.marksBound, State.setStatus, State.core_modSlot_same, State.core_modSlot_same]
  obtain ⟨hlocal, hscene, hstat⟩ : (u.core c.core).localHeld = (s.core c.core).localHeld ∧ (u.core c.core).sceneHeld = (s.core c.core).sceneHeld ∧
      (u.core c.core).statHeld = (s.core c.core).statHeld := by simpa using hheld
  have hcfg : (u.slot c).cfg = (s.slot c).cfg := by
    rw [slot_setShare, slot_marksBound_same]
    rfl
  let k : Core := { u.core c.core with ssb := cfgSsb (u.slot c).cfg, smb := cfgSmb (u.slot c).cfg, lsb := cfgLsb (u.slot c).cfg }
  have hf (n : Nat) (hn : k.takenOver c (cfgPart (u.slot c).cfg) n = true) : n / 2 ^ 64 < 768 ∧ n / 2 ^ 64 % 256 = c.core.val ∧
      ∃ o ∈ (s.core c.core).localHeld.toList ++ (s.core c.core).sceneHeld.toList ++ (s.core c.core).statHeld.toList, o ≠ none ∧ o ≠ some (cfgPart (s.slot c).cfg) := by
    obtain ⟨hlow, hcore, hpass⟩ := takenOver_key hn
    refine ⟨hlow, hcore, ?_⟩
    rw [← hlocal, ← hscene, ← hstat, ← hcfg]
    rcases hpass with ⟨i, hi⟩ | ⟨i, hi⟩ | ⟨i, hi⟩ <;> obtain ⟨o, ho, hne⟩ := passes_held hi
    · exact ⟨o, List.mem_append_left _ (List.mem_append_left _ ho), hne⟩
    · exact ⟨o, List.mem_append_left _ (List.mem_append_right _ ho), hne⟩
    · exact ⟨o, List.mem_append_right _ ho, hne⟩
  refine ⟨k.takenOver c (cfgPart (u.slot c).cfg), ?_, hf⟩
  exact byteAt_zeroKeys u _ x fun n hn => (hf n hn).1

end Sys2Proof.Machine

end

section

namespace Sys2Proof.Machine

/-! ### The images of a swap (R194, R195, R307) -/

section
variable (s : State) (c : CpId)

theorem length_freeBytes (k n : Nat) : (freeBytes k n).length = n := by
  have hlen : ((List.range ((n + 31) / 32)).flatMap fun i => leBytes 32 (Config.freeWord256 (k + i)).toNat).length = (n + 31) / 32 * 32 := by
    rw [List.length_flatMap]
    simp [leBytes_length]
  rw [freeBytes, List.length_take, hlen]
  omega

/-- The image that goes out writes its variable part alone, and binds nothing. -/
theorem sameBindings_spill : SameBindings s (s.spill c) := by
  unfold State.spill
  extract_lets n t
  exact .ite _ (.refl s) (SameBindings.trans (.of_cores rfl) (sameBindings_store t _ _ _))

theorem onlyBytes_spill : OnlyBytes (s.overflowArea c) (s.slot c).variableBytes s (s.spill c) := by
  unfold State.spill
  extract_lets n t
  split
  · exact fun _ _ => rfl
  · have h := State.onlyBytes_store t (s.slot c).part (s.overflowArea c) (freeBytes s.fresh n)
    rw [length_freeBytes] at h
    exact h

theorem sameBindings_logArrays (lo hi : Nat) : SameBindings s (s.logArrays c lo hi) :=
  sameBindings_foldl s _ _ fun t m => by
    split
    · exact .ite _ (sameBindings_readArr t _ _ _ _ _ _) (.refl t)
    · exact .refl t

theorem dies_readArr (who : CpId) (part : BitVec 5) (arr unit word n : Nat) : (s.readArr who part arr unit word n).1.dies = s.dies := by
  unfold State.readArr
  split
  · rfl
  · exact List.foldlRecOn _ _ (motive := fun t : State => t.dies = s.dies) rfl fun t ht m _ => ht

theorem dies_logArrays (lo hi : Nat) : (s.logArrays c lo hi).dies = s.dies :=
  List.foldlRecOn _ _ (motive := fun t : State => t.dies = s.dies) rfl fun t ht m _ => by
    split
    · split
      · exact (dies_readArr t _ _ _ _ _ _).trans ht
      · exact ht
    · exact ht

/-- The scan logs and moves the errors of both images, and binds nothing. -/
theorem sameBindings_exchange (out : Option CpId) : SameBindings s (s.exchange c out) := by
  have hlogged : SameBindings s (match out with | some o => (s.logArrays c 6 6).logArrays o 1 3 | none => s.logArrays c 6 6) := by
    split
    · exact (sameBindings_logArrays s c 6 6).trans (sameBindings_logArrays _ _ 1 3)
    · exact sameBindings_logArrays s c 6 6
  unfold State.exchange
  extract_lets t s1
  have h1 : SameBindings s s1 := .ite _ (.refl s) (hlogged.trans (.of_cores rfl))
  clear_value s1
  split
  · exact h1.trans (sameBindings_injectArr s1 _ _ _ _ _)
  · exact h1

theorem dies_exchange (out : Option CpId) : (s.exchange c out).dies = s.dies := by
  have hlogged : (match out with | some o => (s.logArrays c 6 6).logArrays o 1 3 | none => s.logArrays c 6 6).dies = s.dies := by
    split
    · exact (dies_logArrays _ _ 1 3).trans (dies_logArrays s c 6 6)
    · exact dies_logArrays s c 6 6
  unfold State.exchange
  extract_lets t s1
  have h1 : s1.dies = s.dies := by
    unfold s1
    split
    · rfl
    · exact hlogged
  clear_value s1
  split
  · exact (injectArr_dies s1 _ _ _ _ _).trans h1
  · exact h1

theorem sameBytes_exchange (out : Option CpId) : SameBytes s (s.exchange c out) := sameBytes_of (State.exchange_mem s c out) (dies_exchange s c out)

theorem sameBindings_unspill : SameBindings s (s.unspill c) := .ite _ (.refl s) (sameBindings_load s c _ _ _)

theorem sameBytes_unspill : SameBytes s (s.unspill c) := by
  unfold State.unspill
  extract_lets n
  split
  · exact fun _ => rfl
  · exact sameBytes_load s c _ _ _

/-! ### The end of the scan (R195, R343, R434) -/

/-- The scan that was to bind a slot of a core has ended. -/
def State.endsScan (s : State) (k : Fin 256) : State := s.modCore k fun x => { x with swap := none }

theorem slot_endsScan (k : Fin 256) (d : CpId) : (s.endsScan k).slot d = s.slot d := State.slot_modCore_keeps s k _ d rfl

theorem core_endsScan (k : Fin 256) : ((s.endsScan k).core k).swap = none ∧ ((s.endsScan k).core k).localHeld = (s.core k).localHeld ∧
    ((s.endsScan k).core k).sceneHeld = (s.core k).sceneHeld ∧ ((s.endsScan k).core k).statHeld = (s.core k).statHeld := by
  rw [State.endsScan, State.core_modCore_same]
  exact ⟨rfl, rfl, rfl, rfl⟩

/-- A place lies in what the image that goes out writes. -/
def State.spilledTo (s : State) (out : CpId) (x : PAddr) : Prop := (s.slot out).status = 2 ∧ Covers (s.overflowArea out) (s.slot out).variableBytes x

/-- With the end of the scan a STANDBY other slot has written the variable part of its image. -/
def State.imageOut (s : State) (c : CpId) : State :=
  if (s.slot (otherSlot c)).status = 0x02 then (s.endsScan c.core).spill (otherSlot c) else s.endsScan c.core

theorem sameBindings_imageOut : SameBindings (s.endsScan c.core) (s.imageOut c) := .ite _ (sameBindings_spill _ _) (.refl _)

theorem byteAt_imageOut (x : PAddr) (hx : ¬ s.spilledTo (otherSlot c) x) : (s.imageOut c).byteAt x = s.byteAt x := by
  have harea : (s.endsScan c.core).overflowArea (otherSlot c) = s.overflowArea (otherSlot c) := by
    simp only [State.overflowArea, slot_endsScan]
    rfl
  have hbytes := onlyBytes_spill (s.endsScan c.core) (otherSlot c)
  rw [harea, slot_endsScan] at hbytes
  unfold State.imageOut
  split
  next ho => exact hbytes x fun hcov => hx ⟨ho, hcov⟩
  next => rfl

/-- The image that goes out, when there is one. -/
def State.outgoing (s : State) (c : CpId) : Option CpId := if (s.slot (otherSlot c)).status == 0x02 then some (otherSlot c) else none

/-- The state in which the resumed slot is bound. -/
def State.scanned (s : State) (c : CpId) : State := ((s.imageOut c).exchange c (s.outgoing c)).unspill c

theorem sameBindings_scanned : SameBindings (s.endsScan c.core) (s.scanned c) :=
  ((sameBindings_imageOut s c).trans (sameBindings_exchange _ c _)).trans (sameBindings_unspill _ c)

theorem byteAt_scanned (x : PAddr) (hx : ¬ s.spilledTo (otherSlot c) x) : (s.scanned c).byteAt x = s.byteAt x :=
  ((sameBytes_unspill _ c x).trans (sameBytes_exchange _ c _ x)).trans (byteAt_imageOut s c x hx)

theorem slotSwapDone_exec (core : Fin 256) : exec (.slotSwapDone core) s = execSlotSwapDone core s := rfl

theorem slotSwapDone_idle (core : Fin 256) (h : (s.core core).swap = none) : exec (.slotSwapDone core) s = .next s := by
  rw [slotSwapDone_exec, execSlotSwapDone, h]

theorem slotSwapDone_next (h : (s.core c.core).swap = some c.slot) : exec (.slotSwapDone c.core) s = .next
    (if (s.slot c).status == 0x02 then (s.scanned c).bindNow c else s.imageOut c) := by
  have himage : (match s.outgoing c with | some o => (s.endsScan c.core).spill o | none => s.endsScan c.core) = s.imageOut c := by
    unfold State.outgoing State.imageOut
    by_cases ho : (s.slot (otherSlot c)).status = 2
    · simp [ho]
    · rw [if_neg (by simpa using ho), if_neg ho]
  rw [slotSwapDone_exec, execSlotSwapDone, h, State.scanned, ← himage]
  rfl

/-- A slot that is no longer STANDBY is not bound (R434). -/
theorem slotSwapDone_lost (h : (s.core c.core).swap = some c.slot) (hst : (s.slot c).status ≠ 2) :
    Completes (.slotSwapDone c.core) s fun t => (t.core c.core).swap = none ∧ (t.slot c).status = (s.slot c).status := by
  refine ⟨s.imageOut c, ?_, ((sameBindings_imageOut s c).swap _).trans (core_endsScan s c.core).1, ?_⟩
  · rw [slotSwapDone_next s c h, if_neg (by simpa using hst)]
  · rw [(sameBindings_imageOut s c).status, slot_endsScan]

theorem slot_bound : ((s.bindNow c).slot c).status = 1 ∧ ((s.bindNow c).slot c).part = cfgPart (s.slot c).cfg ∧
    ((s.bindNow c).slot c).prio = cfgPrio (s.slot c).cfg ∧ ((s.bindNow c).cp c).ftc = [] ∧ ((s.bindNow c).cp c).icache = [] := by
  rw [State.cp, slot_bindNow_same]
  exact ⟨rfl, rfl, rfl, rfl, rfl⟩

/-- A STANDBY slot is bound under its record; what of its share another partition's task held is zeroed. -/
theorem slotSwapDone_binds (h : (s.core c.core).swap = some c.slot) (hst : (s.slot c).status = 2) : Completes (.slotSwapDone c.core) s fun t =>
    (t.slot c).status = 1 ∧ (t.core c.core).swap = none ∧
    (t.slot c).part = (s.slot c).cfg.extractLsb' 24 5 ∧ (t.slot c).prio = (s.slot c).cfg.extractLsb' 29 3 ∧ (t.cp c).ftc = [] ∧ (t.cp c).icache = [] ∧
    (∀ x : PAddr, ¬ s.spilledTo (otherSlot c) x → t.byteAt x = s.byteAt x ∨ t.byteAt x = 0 ∧ x.key / 2 ^ 64 < 768 ∧ x.key / 2 ^ 64 % 256 = c.core.val) ∧
    ((∀ o ∈ (s.core c.core).localHeld.toList ++ (s.core c.core).sceneHeld.toList ++ (s.core c.core).statHeld.toList,
      o = none ∨ o = some ((s.slot c).cfg.extractLsb' 24 5)) → ∀ x : PAddr, ¬ s.spilledTo (otherSlot c) x → t.byteAt x = s.byteAt x) ∧
    (t.core c.core).lsb = (s.slot c).cfg.extractLsb' 0 5 ∧ (t.core c.core).smb = (s.slot c).cfg.extractLsb' 8 7 ∧
    (t.core c.core).ssb = (s.slot c).cfg.extractLsb' 16 7 := by
  have hb : SameBindings (s.endsScan c.core) (s.scanned c) := sameBindings_scanned s c
  obtain ⟨hscan, hlocal, hscene, hstat⟩ := core_endsScan s c.core
  have hcfg : ((s.scanned c).slot c).cfg = (s.slot c).cfg := by rw [hb.cfg, slot_endsScan]
  obtain ⟨hstatus, hpart, hprio, hftc, hicache⟩ := slot_bound (s.scanned c) c
  rw [hcfg] at hpart hprio
  obtain ⟨hssb, hsmb, hlsb, hswap⟩ := core_bindNow (s.scanned c) c
  rw [hcfg] at hssb hsmb hlsb
  rw [hb.swap, hscan] at hswap
  refine ⟨(s.scanned c).bindNow c, ?_, hstatus, hswap, hpart, hprio, hftc, hicache, fun x hx => ?_, fun hheld x hx => ?_, hlsb, hsmb, hssb⟩
  · rw [slotSwapDone_next s c h, if_pos (by simp [hst])]
  all_goals
    obtain ⟨f, hbyte, hzero⟩ := byteAt_bindNow (s.scanned c) c x
    rw [byteAt_scanned s c x hx] at hbyte
    rw [hcfg, hb.localHeld, hb.sceneHeld, hb.statHeld, hlocal, hscene, hstat] at hzero
  · by_cases hf : f x.key = true
    · obtain ⟨hlow, hcore, -⟩ := hzero _ hf
      exact .inr ⟨hbyte.trans (if_pos hf), hlow, hcore⟩
    · exact .inl (hbyte.trans (if_neg hf))
  · refine hbyte.trans (if_neg fun hf => ?_)
    obtain ⟨-, -, o, ho, hnone, hmine⟩ := hzero _ hf
    exact (hheld o ho).elim hnone hmine

end

end Sys2Proof.Machine

end

section

/-! Exchanges of tasks (O47). -/

namespace Sys2Proof.Machine

/-! ### An exchange of a core's tasks (R195, R348) -/

section
variable (s : State) (core : Fin 256) (c : CpId)

theorem schedulerQuantum_exec : exec (.schedulerQuantum core) s = execSchedulerQuantum core s := rfl

theorem schedulerQuantum_idle (h : s.swapWanted core = false) : Completes (.schedulerQuantum core) s fun t => t = s :=
  ⟨s, by rw [schedulerQuantum_exec, execSchedulerQuantum, if_neg (by simp [h])], rfl⟩

/-- The slot that a core would swap is its BOUND one, beside a STANDBY one. -/
theorem swappable_spec (h : s.swappable core = some c) : c.core = core ∧ (s.slot c).status = 1 ∧ (s.slot (otherSlot c)).status = 2 := by
  unfold State.swappable at h
  extract_lets k at h
  split at h
  · exact nomatch h
  · have hmem := List.mem_of_find?_eq_some h
    have hfits := List.find?_some h
    simp only [Bool.and_eq_true, beq_iff_eq] at hfits
    obtain ⟨⟨hbound, hby⟩, -⟩ := hfits
    refine ⟨?_, hbound, hby⟩
    rcases List.mem_cons.mp hmem with rfl | hmem
    · rfl
    · rw [List.mem_singleton.mp hmem]

theorem swapWanted_none (h : s.swappable core = none) : s.swapWanted core = false := by
  rw [State.swapWanted, h]

/-- What makes a core change its task: a higher priority in its partition, or another partition that is owed time at a quantum's end. -/
theorem swapWanted_some (h : s.swappable core = some c) : s.swapWanted core =
    if (s.slot c).part == (s.slot (otherSlot c)).part then decide ((s.slot c).prio.toNat < (s.slot (otherSlot c)).prio.toNat)
    else s.quantumOver c && s.owesTime c := by
  rw [State.swapWanted, h]

theorem groupOf_alone (h : (s.slot c).launch = none) : s.groupOf c = [c] := by
  rw [State.groupOf, h]
  rfl

/-- A core neither of whose tasks is of a launch is swapped alone. -/
theorem swapCores_alone (n : Nat) (h : ∀ i, (s.slot ⟨core, i⟩).launch = none) : s.swapCores (n + 1) [core] = [core] := by
  unfold State.swapCores
  extract_lets more
  have hnone : more = [] := by
    simp [more, groupOf_alone, h]
  rw [hnone]
  rfl

theorem swapWhole_alone (hc : s.swappable core = some c) (h : ∀ i, (s.slot ⟨core, i⟩).launch = none) : s.swapWhole core = s.swapSlots c := by
  unfold State.swapWhole
  rw [swapCores_alone s core 255 h]
  simp [hc]

theorem launch_of_both (ha : (s.slot c).launch = none) (hb : (s.slot (otherSlot c)).launch = none) (i : Fin 2) : (s.slot ⟨c.core, i⟩).launch = none := by
  have hi : ∀ i j : Fin 2, i = j ∨ i = 1 - j := by decide
  rcases hi i c.slot with rfl | rfl
  · exact ha
  · exact hb

/-- A core that is to change its task does, when neither task is of a launch. -/
theorem schedulerQuantum_swaps (hc : s.swappable core = some c) (hw : s.swapWanted core = true) (ha : (s.slot c).launch = none)
    (hb : (s.slot (otherSlot c)).launch = none) :
    Completes (.schedulerQuantum core) s fun t => (t.slot c).status = 2 ∧ (t.core core).swap = some (otherSlot c).slot := by
  obtain ⟨rfl, -, -⟩ := swappable_spec s core c hc
  obtain ⟨hstatus, -, hswap⟩ := swapSlots_spec s c
  refine ⟨s.swapSlots c, ?_, hstatus, hswap⟩
  rw [schedulerQuantum_exec, execSchedulerQuantum, if_pos hw, swapWhole_alone s c.core c hc (launch_of_both s c ha hb)]

theorem scheduling_swaps (hw : s.swapWanted core = true) (h : ∀ i, ((s.core core).slots.get i).status ≠ 0) : .schedulerQuantum core ∈ s.scheduling := by
  have hall : ((s.core core).slots.toList.all fun t => t.status != 0) = true := by
    rw [List.all_eq_true]
    intro t ht
    obtain ⟨i, hi, rfl⟩ := Vector.getElem_of_mem (Vector.mem_toList_iff.mp ht)
    exact bne_iff_ne.mpr (h ⟨i, hi⟩)
  unfold State.scheduling
  refine List.mem_append_left _ (List.mem_map_of_mem (List.mem_filter.mpr ⟨List.mem_finRange core, ?_⟩))
  rw [hall, hw]
  rfl

end

end Sys2Proof.Machine

end

section

/-! The next task of a launch starts (O47). -/

namespace Sys2Proof.Machine

/-! ### The record that dispatch writes (R343, R346) -/

/-- A field of bits that dispatch writes comes from what it writes. -/
theorem extractLsb'_written (old m : Word) (x i n : Nat) (v : BitVec n) (hm : m.extractLsb' i n = 0#n) (hx : x % 2 ^ 64 / 2 ^ i % 2 ^ n = v.toNat) :
    ((old &&& m) ||| BitVec.ofNat 64 x).extractLsb' i n = v := by
  refine BitVec.eq_of_toNat_eq ?_
  rw [BitVec.extractLsb'_or, BitVec.extractLsb'_and, hm, BitVec.and_zero, BitVec.zero_or, BitVec.extractLsb'_toNat, BitVec.toNat_ofNat, Nat.shiftRight_eq_div_pow, hx]

/-- The CFG of a task that dispatch starts: the slate's priority and partition, and CORESHARE as it stands. -/
def dispatchCfg (old : Word) (shape : Nat) (part : BitVec 5) (k : Core) : Word :=
  (old &&& ~~~(0xFF7F7FDF#64)) ||| BitVec.ofNat 64 (shape / 2 ^ 54 % 8 * 2 ^ 29 + part.toNat * 2 ^ 24
    + k.ssb.toNat * 2 ^ 16 + k.smb.toNat * 2 ^ 8 + k.gc.toNat * 2 ^ 6 + k.lsb.toNat)

theorem dispatchCfg_fields (old : Word) (shape : Nat) (part : BitVec 5) (k : Core) : let v := dispatchCfg old shape part k
    cfgPart v = part ∧ cfgSsb v = k.ssb ∧ cfgSmb v = k.smb ∧ cfgLsb v = k.lsb ∧ cfgGc v = k.gc := by
  have hpart := part.isLt
  have hssb := k.ssb.isLt
  have hsmb := k.smb.isLt
  have hlsb := k.lsb.isLt
  have hgc := k.gc.isLt
  refine ⟨?_, ?_, ?_, ?_, ?_⟩ <;> refine extractLsb'_written old _ _ _ _ _ (by decide) ?_ <;> omega

/-! ### TASK_START (R340, R341, R348) -/

theorem taskStart_exec (s : State) (n : Nat) (wid : Word) (c : CpId) : exec (.taskStart n wid c) s = execTaskStart n wid c s := rfl

section
variable {s : State} {c : CpId} {l : Launch} {n : Nat} {wid : Word} (hl : s.launches.find? (fun x => x.id == n) = some l)
include hl

theorem id_of_find : l.id = n := beq_iff_eq.mp (List.find?_some (p := fun x : Launch => x.id == n) hl)

/-- A task whose launch is not one of co-resident groups starts alone. -/
theorem startNext_alone (hco : l.shape.testBit 62 = false) : s.startNext l c = s.startOne n (BitVec.ofNat 64 (widOf l.shape l.extm1 6 l.started.length)) c := by
  unfold State.startNext
  extract_lets m e wid
  rw [if_pos (by simp [hco]), id_of_find hl]

theorem startOne_taken (h : (s.slot c).status ≠ 0) : s.startOne n wid c = none := by
  rw [State.startOne, hl]
  exact if_pos (by simp [show ¬ (s.slot c).status = 0#8 from h])

theorem taskStart_next : exec (.taskStart n wid c) s = .next
    (if wid != BitVec.ofNat 64 (widOf l.shape l.extm1 6 l.started.length) then s
      else if s.launches.any fun x => x.precedes l && (s.startNext x c).isSome then s else (s.startNext l c).getD s) := by
  rw [taskStart_exec, execTaskStart, hl]

/-- A slot that is taken, or a launch that goes before this one and could have it, leaves everything as it was. -/
theorem taskStart_idle (hco : l.shape.testBit 62 = false)
    (h : (s.slot c).status ≠ 0 ∨ ∃ y ∈ s.launches, y.precedes l = true ∧ (s.startNext y c).isSome = true) : Completes (.taskStart n wid c) s fun t => t = s := by
  refine ⟨_, taskStart_next hl, ?_⟩
  split
  · rfl
  · rcases h with h | ⟨y, hy, hbefore⟩
    · rw [startNext_alone hl hco, startOne_taken hl h]
      exact ite_self s
    · have hany : (s.launches.any fun x => x.precedes l && (s.startNext x c).isSome) = true := List.any_eq_true.mpr ⟨y, hy, by simpa using hbefore⟩
      exact if_pos hany

end

section
variable (s : State) (c : CpId) (l : Launch) (wid : Word)

/-- The state in which dispatch gives the record's command. -/
def State.forTask (s : State) (c : CpId) (l : Launch) (wid : Word) : State :=
  s.took.modSlot c fun t => { t with slate := ((s.part l.part).vaOf (s.launchPlace l.part (dieOfQueue l.queue) l.id)).getD s.freeWord, wid := wid }

theorem slot_forTask : ((s.forTask c l wid).slot c).status = (s.slot c).status ∧ ((s.forTask c l wid).slot c).wid = wid ∧
    (s.forTask c l wid).slot (otherSlot c) = s.slot (otherSlot c) := by
  rw [State.forTask, State.slot_modSlot_same, State.slot_modSlot_ne s.took c (otherSlot c) _ (otherSlot_ne c)]
  exact ⟨rfl, rfl, rfl⟩

theorem launches_bindNow : (s.bindNow c).launches = s.launches := rfl

theorem launches_withImage (cfg : Word) (o : Option Launch) : (s.withImage c cfg o).launches = s.launches := rfl

/-- A slot that dispatch binds for a launch holds the task's initial state. -/
theorem bindCmd_launch (cfg : Word) (hrec : (s.die (dieOf c.core)).recovery = false) (hempty : (s.slot c).status = 0) (hok : s.recordOk c cfg = true)
    (hgc : cfgGc cfg = 0) (ho : (s.slot (otherSlot c)).status = 0) : let t := s.bindCmd c cfg (some l)
    (t.slot c).status = 1 ∧ (t.slot c).wid = (s.slot c).wid ∧ (t.slot c).launch = some l.id ∧ (t.slot c).part = cfgPart cfg ∧ (t.cp c).run = .running ∧
    (t.cp c).handler = false ∧ (t.cp c).pc = fld64 l.slate 0 &&& ~~~3 ∧ (t.cp c).bankT.get 1 = (s.slot c).wid ∧ (t.cp c).bankT.get 2 = fld64 l.slate 8 ∧
    t.launches = s.launches := by
  intro t
  obtain ⟨share, himage⟩ := startImage_of_launch (s.writeCfg c cfg) c l
  rw [slot_writeCfg_same] at himage
  have ht : t = (s.withImage c cfg (some l)).bindNow c := bindCmd_alone s c cfg (some l) hrec hempty hok hgc ho
  have hslot : t.slot c = (({ s.slot c with cfg := cfgFields cfg } : Slot).started (some l) share (fld64 l.slate 0) (fld64 l.slate 8)).asBound := by
    rw [ht, slot_bindNow_same, slot_withImage_same, himage]
  have hlaunches : t.launches = s.launches := by rw [ht, launches_bindNow, launches_withImage]
  obtain ⟨hwid, harg, -, -⟩ := bankT_start (s.slot c).slate (s.slot c).wid (s.slot c).tvec (cfgFields cfg) share (fld64 l.slate 0) (fld64 l.slate 8)
  rw [State.cp, hslot]
  exact ⟨rfl, rfl, rfl, cfgPart_cfgFields cfg, rfl, rfl, rfl, hwid, harg, hlaunches⟩

/-- The next task of an eligible launch starts in an EMPTY slot beside an EMPTY one, when no launch goes before its own. -/
theorem taskStart_starts {n : Nat} (hl : s.launches.find? (fun x => x.id == n) = some l) (hco : l.shape.testBit 62 = false)
    (hready : s.taskReady l wid = true) (hfits : s.coreFits l wid c.core = true) (hsched : s.scheduleOk l.part c = true)
    (hfirst : ∀ y ∈ s.launches, y.precedes l = false) (hrec : (s.die (dieOf c.core)).recovery = false) (hempty : (s.slot c).status = 0)
    (ho : (s.slot (otherSlot c)).status = 0) (hq : (s.core c.core).cquar = false) (hswap : (s.core c.core).swap = none) (hgc : (s.core c.core).gc = 0)
    (hssb : (s.core c.core).ssb.toNat ≤ 64) (hsmb : (s.core c.core).smb.toNat ≤ 64) (hlsb : (s.core c.core).lsb.toNat ≤ 16) :
    Completes (.taskStart n wid c) s fun t => let x := t.slot c
        x.status = 1 ∧ x.wid = wid ∧ x.launch = some n ∧ x.part = l.part ∧ x.cp.run = .running ∧ x.cp.handler = false ∧ x.cp.pc = fld64 l.slate 0 &&& ~~~3 ∧
        x.cp.bankT.get 1 = wid ∧ x.cp.bankT.get 2 = fld64 l.slate 8 ∧ ∃ y ∈ t.launches, y.id = n ∧ y.started = l.started ++ [(wid, c)] := by
  have hid : l.id = n := id_of_find hl
  have hwid : wid = BitVec.ofNat 64 (widOf l.shape l.extm1 6 l.started.length) := by
    simp only [State.taskReady, Bool.and_eq_true, beq_iff_eq] at hready
    exact hready.2
  let cfg := dispatchCfg (s.slot c).cfg l.shape l.part (s.core c.core)
  let u := s.forTask c l wid
  let t := u.bindCmd c cfg (some l)
  obtain ⟨hfpart, hfssb, hfsmb, hflsb, hfgc⟩ := dispatchCfg_fields (s.slot c).cfg l.shape l.part (s.core c.core)
  obtain ⟨hustatus, huwid, huother⟩ := slot_forTask s c l wid
  have hok : u.recordOk c cfg = true :=
    recordOk_of_sizes u c cfg ⟨(congrArg BitVec.toNat hfssb).trans_le hssb, (congrArg BitVec.toNat hfsmb).trans_le hsmb, (congrArg BitVec.toNat hflsb).trans_le hlsb⟩
      (hfgc.trans hgc) (.inl (by rw [huother, ho]))
  obtain ⟨hstatus, hxwid, hlaunch, hpart, hrun, hhandler, hpc, hw, harg, hlaunches⟩ :=
    bindCmd_launch u c l cfg hrec (hustatus.trans hempty) hok (hfgc.trans hgc) (by rw [huother, ho])
  have hone : s.startOne n wid c = some (t.modLaunch n fun x => { x with started := x.started ++ [(wid, c)] }) := by
    rw [State.startOne, hl]
    refine (if_neg ?_).trans (if_neg ?_)
    · simp [hready, hfits, hsched, hempty, cmdBlocked_none s c hq hswap]
    · exact fun h => absurd (hstatus.symm.trans (beq_iff_eq.mp h)) (by decide)
  have hnone : ¬ (s.launches.any fun x => x.precedes l && (s.startNext x c).isSome) = true := by
    rw [List.any_eq_true]
    rintro ⟨y, hy, h⟩
    simp [hfirst y hy] at h
  refine ⟨t.modLaunch n fun x => { x with started := x.started ++ [(wid, c)] }, ?_, hstatus, hxwid.trans huwid, hlaunch.trans (congrArg some hid), hpart.trans hfpart,
    hrun, hhandler, hpc, hw.trans huwid, harg, { l with started := l.started ++ [(wid, c)] }, ?_, hid, rfl⟩
  · rw [taskStart_next hl, if_neg (by simp [← hwid]), if_neg hnone, startNext_alone hl hco, ← hwid, hone]
    rfl
  · refine List.mem_map.mpr ⟨l, ?_, if_pos (beq_iff_eq.mpr hid)⟩
    rw [hlaunches]
    exact List.mem_of_find?_eq_some hl

end

end Sys2Proof.Machine

end

section

/-! Retirement (O47). -/

namespace Sys2Proof.Machine

/-! ### The takes of a slot end (R247, R344) -/

/-- The queue and the loads of a slot stay, and no take starts. -/
def TakesEnd (c : CpId) (s t : State) : Prop := (t.slot c).cmdq = (s.slot c).cmdq ∧
  ∀ r, (t.region c r).loading = (s.region c r).loading ∧ ((t.region c r).on = .running → (s.region c r).on = .running)

theorem TakesEnd.refl (c : CpId) (s : State) : TakesEnd c s s := ⟨rfl, fun _ => ⟨rfl, id⟩⟩

theorem TakesEnd.trans {c : CpId} {s t u : State} (h : TakesEnd c s t) (h' : TakesEnd c t u) : TakesEnd c s u := by
  obtain ⟨hq, hr⟩ := h
  obtain ⟨hq', hr'⟩ := h'
  exact ⟨hq'.trans hq, fun r => ⟨(hr' r).1.trans (hr r).1, fun h => (hr r).2 ((hr' r).2 h)⟩⟩

section
variable (s : State) (c : CpId)

theorem takesEnd_of_quiet {t : State} (hq : (t.slot c).cmdq = (s.slot c).cmdq) (h : Quiet c s t) : TakesEnd c s t := by
  refine ⟨hq, fun r => ?_⟩
  have hr : SameTake (s.region c r) (t.region c r) := h.2.1 r
  rw [SameTake] at hr
  rw [hr]
  exact ⟨rfl, id⟩

theorem cmdq_modSlot (f : Slot → Slot) (h : (f (s.slot c)).cmdq = (s.slot c).cmdq) : ((s.modSlot c f).slot c).cmdq = (s.slot c).cmdq := by
  rw [State.slot_modSlot_same, h]

theorem cmdq_modPort (p : BitVec 5) (f : PortCtx → PortCtx) : ((s.modPort c p f).slot c).cmdq = (s.slot c).cmdq := by
  refine cmdq_modSlot s c _ ?_
  unfold Slot.modPort
  split <;> rfl

theorem cmdq_endStream (p : BitVec 5) : ((s.endStream c p).slot c).cmdq = (s.slot c).cmdq := by
  unfold State.endStream
  extract_lets gone s0 shut s1
  have h1 : (s1.slot c).cmdq = (s.slot c).cmdq := (cmdq_modPort s0 c p _).trans (cmdq_modSlot s c _ rfl)
  split
  · split
    · exact (cmdq_modSlot s1 c _ rfl).trans h1
    · exact h1
  · exact h1

theorem takesEnd_endStreams (ps : List (BitVec 5)) : TakesEnd c s (ps.foldl (fun t p => t.endStream c p) s) :=
  List.foldlRecOn ps _ (motive := TakesEnd c s) (TakesEnd.refl c s) fun t ht p _ => ht.trans (takesEnd_of_quiet t c (cmdq_endStream t c p) (quiet_endStream t c p))

/-- A region that is stopped runs no more. -/
theorem stopTake_spec (r : Fin 4) : TakesEnd c s (s.stopTake c r) ∧ ((s.stopTake c r).region c r).on ≠ .running := by
  unfold State.stopTake
  split
  next hrun =>
    extract_lets ps
    have hends : TakesEnd c s (ps.foldl (fun t p => t.endStream c p) s) := takesEnd_endStreams s c ps
    generalize ps.foldl (fun t p => t.endStream c p) s = t at hends ⊢
    refine ⟨hends.trans ⟨cmdq_modSlot t c _ rfl, fun q => ?_⟩, ?_⟩
    · by_cases hq : q = r
      · subst hq
        rw [State.region_modRegion_same]
        exact ⟨rfl, nofun⟩
      · have hsame : (t.modRegion c r fun g => { g with on := .draining, going := false, startIn := 0 }).region c q = t.region c q := by
          rw [State.region, State.modRegion, State.slot_modSlot_same]
          exact vmod_get_ne _ _ _ _ hq
        rw [hsame]
        exact ⟨rfl, id⟩
    · rw [State.region_modRegion_same]
      exact nofun
  next hrun => exact ⟨TakesEnd.refl c s, fun h => hrun (beq_iff_eq.mpr h)⟩

theorem stopTakes_spec : TakesEnd c s (s.stopTakes c) ∧ ∀ r, ((s.stopTakes c).region c r).on ≠ .running := by
  have hstop (l : List (Fin 4)) (t : State) : TakesEnd c t (l.foldl (fun t r => t.stopTake c r) t) ∧
      ∀ r ∈ l, ((l.foldl (fun t r => t.stopTake c r) t).region c r).on ≠ .running := by
    induction l generalizing t with
    | nil => exact ⟨TakesEnd.refl c t, nofun⟩
    | cons a l ih =>
      obtain ⟨hend, hnot⟩ := stopTake_spec t c a
      obtain ⟨hrest, hothers⟩ := ih (t.stopTake c a)
      refine ⟨hend.trans hrest, fun r hr => ?_⟩
      rcases List.mem_cons.mp hr with rfl | hr
      · exact fun hrun => hnot ((hrest.2 r).2 hrun)
      · exact hothers r hr
  obtain ⟨hend, hnot⟩ := hstop regions4 s
  have hmem : ∀ r : Fin 4, r ∈ regions4 := by decide
  exact ⟨hend, fun r => hnot r (hmem r)⟩

/-- What is left of the queue goes, with the loads. -/
theorem discardQueue_spec : ((s.discardQueue c).slot c).cmdq = [] ∧ ∀ r, ((s.discardQueue c).region c r).loading = none := by
  unfold State.discardQueue
  extract_lets s1
  have h1 : (s1.slot c).cmdq = [] := by rw [State.slot_modSlot_same]
  have hload (l : List (Fin 4)) (t : State) (ht : (t.slot c).cmdq = []) :
      ((l.foldl (fun t r => t.modRegion c r fun g => { g with loading := none }) t).slot c).cmdq = [] ∧
      ∀ r, r ∈ l ∨ (t.region c r).loading = none → ((l.foldl (fun t r => t.modRegion c r fun g => { g with loading := none }) t).region c r).loading = none := by
    induction l generalizing t with
    | nil => exact ⟨ht, fun r hr => hr.resolve_left nofun⟩
    | cons a l ih =>
      obtain ⟨hq, hl⟩ := ih (t.modRegion c a fun g => { g with loading := none }) ((cmdq_modSlot t c _ rfl).trans ht)
      refine ⟨hq, fun r hr => hl r ?_⟩
      by_cases hra : r = a
      · subst hra
        right
        rw [State.region_modRegion_same]
      · rcases hr with hr | hr
        · exact .inl ((List.mem_cons.mp hr).resolve_left hra)
        · right
          rw [State.region, State.modRegion, State.slot_modSlot_same]
          exact (congrArg Region.loading (vmod_get_ne _ _ _ _ hra)).trans hr
  obtain ⟨hq, hl⟩ := hload regions4 s1 h1
  have hmem : ∀ r : Fin 4, r ∈ regions4 := by decide
  exact ⟨hq, fun r => hl r (.inl (hmem r))⟩

/-! ### TASK_RETIRE (R280, R344) -/

theorem taskRetire_exec : exec (.taskRetire c) s = execTaskRetire c s := rfl

/-- The queue is discarded, the takes of the slot drain, and its thread waits for the end of what is left. -/
def State.drainsTakes (s : State) (c : CpId) : State := ((s.discardQueue c).stopTakes c).modCp c fun p => { p with run := .retiring true }

section
variable (hst : (s.slot c).status = 1)
include hst

theorem taskRetire_first (hrun : (s.cp c).run = .retiring false) : exec (.taskRetire c) s = .next
    (if s.accessesDone c && (s.slot c).writesDone s.ids then s.drainsTakes c else s) := by
  rw [taskRetire_exec]
  unfold execTaskRetire
  extract_lets t
  have hrun' : t.cp.run = .retiring false := hrun
  rw [if_neg (by simp [Slot.bound, t, hst]), hrun']
  rfl

theorem taskRetire_last (hrun : (s.cp c).run = .retiring true) : exec (.taskRetire c) s = .next
    (if s.accessesDone c && (s.slot c).regions.toList.all (fun g => !g.counts) && s.engineDone c then s.retired c else s) := by
  rw [taskRetire_exec]
  unfold execTaskRetire
  extract_lets t
  have hrun' : t.cp.run = .retiring true := hrun
  rw [if_neg (by simp [Slot.bound, t, hst]), hrun']

theorem taskRetire_running (h : ∀ b, (s.cp c).run ≠ .retiring b) : exec (.taskRetire c) s = .next s := by
  rw [taskRetire_exec]
  unfold execTaskRetire
  extract_lets t
  rw [if_neg (by simp [Slot.bound, t, hst])]
  split
  next hrun => exact absurd hrun (h _)
  next hrun => exact absurd hrun (h _)
  next => rfl

end

theorem drainsTakes_spec : ((s.drainsTakes c).cp c).run = .retiring true ∧ ((s.drainsTakes c).slot c).cmdq = [] ∧
    ∀ r, ((s.drainsTakes c).region c r).on ≠ .running ∧ ((s.drainsTakes c).region c r).loading = none := by
  obtain ⟨hq, hload⟩ := discardQueue_spec s c
  obtain ⟨⟨hcmdq, htakes⟩, hnot⟩ := stopTakes_spec (s.discardQueue c) c
  unfold State.drainsTakes
  generalize (s.discardQueue c).stopTakes c = u at hcmdq htakes hnot ⊢
  have hregion (r : Fin 4) : (u.modCp c fun p => { p with run := .retiring true }).region c r = u.region c r := State.region_modSlot_keeps u c _ r rfl
  refine ⟨congrArg Cp.run (State.cp_modCp_same u c _), (cmdq_modSlot u c _ rfl).trans (hcmdq.trans hq), fun r => ?_⟩
  rw [hregion]
  exact ⟨hnot r, (htakes r).1.trans (hload r)⟩

/-- First the queue and the takes end. -/
theorem taskRetire_ends (hst : (s.slot c).status = 1) (hrun : (s.cp c).run = .retiring false) (hacc : s.accessesDone c = true)
    (hw : (s.slot c).writesDone s.ids = true) : Completes (.taskRetire c) s fun t =>
      (t.cp c).run = .retiring true ∧ (t.slot c).cmdq = [] ∧ ∀ r, (t.region c r).on ≠ .running ∧ (t.region c r).loading = none := by
  refine ⟨s.drainsTakes c, ?_, drainsTakes_spec s c⟩
  rw [taskRetire_first s c hst hrun, if_pos (by simp [hacc, hw])]

/-- While an access, or what a slot has under way outside its CP, has not ended, the thread waits. -/
theorem taskRetire_waits (hst : (s.slot c).status = 1)
    (h : s.accessesDone c = false ∨ (s.cp c).run = .retiring true ∧ s.engineDone c = false) : Completes (.taskRetire c) s fun t => t = s := by
  refine ⟨s, ?_, rfl⟩
  by_cases hlast : (s.cp c).run = .retiring true
  · have hopen : ¬ (s.accessesDone c && (s.slot c).regions.toList.all (fun g => !g.counts) && s.engineDone c) = true := by
      rcases h with h | ⟨-, h⟩ <;> simp [h]
    rw [taskRetire_last s c hst hlast, if_neg hopen]
  · have hacc : s.accessesDone c = false := h.resolve_right fun hr => hlast hr.1
    by_cases hfirst : (s.cp c).run = .retiring false
    · rw [taskRetire_first s c hst hfirst, if_neg (by simp [hacc])]
    · refine taskRetire_running s c hst fun b => ?_
      cases b
      · exact hfirst
      · exact hlast

end

end Sys2Proof.Machine

end

section

namespace Sys2Proof.Machine

section
variable (s : State) (c : CpId)

/-- A slot as retirement leaves it. -/
def State.marksRetired (s : State) (c : CpId) : State := (s.setStatus c 0x03).modCp c fun p => { p with run := .stopped }

theorem slot_marksRetired : ((s.marksRetired c).slot c).status = 3 ∧ ((s.marksRetired c).slot c).cp.run = .stopped ∧
    (s.marksRetired c).slot (otherSlot c) = s.slot (otherSlot c) := by
  rw [State.marksRetired, State.modCp, State.setStatus, State.slot_modSlot_same, State.slot_modSlot_same,
    State.slot_modSlot_ne _ c (otherSlot c) _ (otherSlot_ne c), State.slot_modSlot_ne s c (otherSlot c) _ (otherSlot_ne c)]
  exact ⟨rfl, rfl, rfl⟩

theorem core_marksRetired : ((s.marksRetired c).core c.core).swap = (s.core c.core).swap ∧ ((s.marksRetired c).core c.core).gc = (s.core c.core).gc := by
  rw [State.marksRetired, State.modCp, State.setStatus, State.core_modSlot_same, State.core_modSlot_same]
  exact ⟨rfl, rfl⟩

/-- The slot is RETIRED and its CP stopped; a STANDBY other slot of a core without a split is then bound by a scan (R344). -/
theorem retired_spec : ((s.retired c).slot c).status = 3 ∧ ((s.retired c).cp c).run = .stopped ∧
    ((s.retired c).core c.core).swap = if (s.slot (otherSlot c)).status = 2 ∧ (s.core c.core).gc = 0 then some (otherSlot c).slot else (s.core c.core).swap := by
  unfold State.retired
  extract_lets t s1 s2
  have h2 : CoresStand s1 s2 := by
    unfold s2
    split
    · exact .refl s1
    · extract_lets u
      have hu : CoresStand s1 u := CoresStand.trans (.of_cores rfl) (coresStand_launchProgress _ _)
      split
      · exact hu.trans (coresStand_gangRetire u _)
      · exact hu
  clear_value s2
  obtain ⟨hstatus, hrun, hother⟩ : (s1.slot c).status = 3 ∧ (s1.slot c).cp.run = .stopped ∧ s1.slot (otherSlot c) = s.slot (otherSlot c) := slot_marksRetired s c
  obtain ⟨hswap, hgc⟩ : (s1.core c.core).swap = (s.core c.core).swap ∧ (s1.core c.core).gc = (s.core c.core).gc := core_marksRetired s c
  clear_value s1
  rw [← h2.slot] at hstatus hrun hother
  rw [← h2.bindings.swap] at hswap
  rw [← h2.bindings.gc] at hgc
  have hcond : ((s2.slot (otherSlot c)).status == 0x02 && !(s2.core c.core).split) = decide ((s.slot (otherSlot c)).status = 2 ∧ (s.core c.core).gc = 0) := by
    simp [hother, Core.split, hgc, bne, beq_eq_decide]
  rw [hcond]
  by_cases h : (s.slot (otherSlot c)).status = 2 ∧ (s.core c.core).gc = 0
  · rw [if_pos (decide_eq_true h), if_pos h, State.cp, slot_beginSwap, swap_beginSwap]
    exact ⟨hstatus, hrun, rfl⟩
  · rw [if_neg (by simpa using h), if_neg h]
    exact ⟨hstatus, hrun, hswap⟩

/-- Then the slot is RETIRED. -/
theorem taskRetire_retires (hst : (s.slot c).status = 1) (hrun : (s.cp c).run = .retiring true) (hacc : s.accessesDone c = true) (hdone : s.engineDone c = true)
    (hr : ∀ r, (s.region c r).on ≠ .running ∧ (s.region c r).on ≠ .draining) : Completes (.taskRetire c) s fun t =>
      (t.slot c).status = 3 ∧ (t.cp c).run = .stopped ∧
      (t.core c.core).swap = if (s.slot (otherSlot c)).status = 2 ∧ (s.core c.core).gc = 0 then some (otherSlot c).slot else (s.core c.core).swap := by
  have hregions : (s.slot c).regions.toList.all (fun g => !g.counts) = true := by
    rw [List.all_eq_true]
    intro g hg
    obtain ⟨i, hi, rfl⟩ := Vector.getElem_of_mem (Vector.mem_toList_iff.mp hg)
    obtain ⟨hrunning, hdraining⟩ := hr ⟨i, hi⟩
    have hcounts : (s.region c ⟨i, hi⟩).counts = false := by
      rw [Region.counts, beq_eq_false_iff_ne.mpr hrunning, beq_eq_false_iff_ne.mpr hdraining]
      rfl
    exact congrArg (!·) hcounts
  refine ⟨s.retired c, ?_, retired_spec s c⟩
  rw [taskRetire_last s c hst hrun, if_pos (by simp [hacc, hregions, hdone])]

end

/-- Settles O47: the end of a scan, the scheduler's exchange of a core, the start of a launch's next task and the retirement of one. -/
theorem taskDispatch : Obligations.TaskDispatch := by
  intro s core c l n wid k o inert
  refine ⟨fun i hi hst => slotSwapDone_lost s ⟨core, i⟩ hi hst, fun i hi hst => slotSwapDone_binds s ⟨core, i⟩ hi hst, fun h => ⟨s, slotSwapDone_idle s core h, rfl⟩,
    fun h => schedulerQuantum_idle s core (swapWanted_none s core h), scheduling_swaps s core, fun hc hpart => ⟨fun hprio => ?_, fun hprio ha hb => ?_⟩,
    fun hc hpart => ⟨fun hno => ?_, fun hover howes ha hb => ?_⟩, fun hl hco => ⟨?_, taskStart_idle hl hco⟩,
    fun hst => ⟨taskRetire_ends s c hst, taskRetire_retires s c hst, taskRetire_waits s c hst⟩⟩
  · refine schedulerQuantum_idle s core ?_
    rw [swapWanted_some s core c hc, if_pos (beq_iff_eq.mpr hpart)]
    exact decide_eq_false (Nat.not_lt.mpr hprio)
  · refine schedulerQuantum_swaps s core c hc ?_ ha hb
    rw [swapWanted_some s core c hc, if_pos (beq_iff_eq.mpr hpart)]
    exact decide_eq_true hprio
  · refine schedulerQuantum_idle s core ?_
    rw [swapWanted_some s core c hc, if_neg (by simpa using hpart)]
    rcases hno with hno | hno <;> simp [hno]
  · refine schedulerQuantum_swaps s core c hc ?_ ha hb
    rw [swapWanted_some s core c hc, if_neg (by simpa using hpart), hover, howes]
    rfl
  · exact taskStart_starts s c l wid hl hco

end Sys2Proof.Machine

end

section

/-! What leaves for the fabric, and what stores and gangs leave of the other parts (O31). -/

namespace Sys2Proof.Machine

/-! ### Messages to other packages (R421 to R424) -/

/-- Links, what leaves the package and the next free value alone change. -/
def OnlyFabric (s t : State) : Prop := t = { s with links := t.links, outbox := t.outbox, fresh := t.fresh }

theorem OnlyFabric.refl (s : State) : OnlyFabric s s := rfl

theorem OnlyFabric.trans {s t u : State} (h : OnlyFabric s t) (h' : OnlyFabric t u) : OnlyFabric s u := by
  unfold OnlyFabric at h h' ⊢
  rw [h', h]

theorem onlyFabric_transmit (s : State) (p : Fin 18) (x : OutFlit) : OnlyFabric s (s.transmit p x) := by
  unfold State.transmit
  extract_lets l n s1
  have h1 : OnlyFabric s s1 := rfl
  clear_value s1
  split
  · exact .refl s
  · split
    · rfl
    · split
      · exact h1
      · exact h1.trans rfl

theorem onlyFabric_toFabric (s : State) (ep : BitVec 20) (m : FabMsg) : OnlyFabric s (s.toFabric ep m) := by
  unfold State.toFabric State.sendVia
  split
  · exact .refl s
  · exact onlyFabric_transmit s _ _

theorem onlyFabric_foldl {α : Type} (g : State → α → State) (l : List α) (s : State) (h : ∀ t x, OnlyFabric t (g t x)) : OnlyFabric s (l.foldl g s) :=
  List.foldlRecOn l g (motive := OnlyFabric s) (OnlyFabric.refl s) fun t ht x _ => ht.trans (h t x)

theorem onlyFabric_collTell (s : State) (g : Gang) (m : FabMsg) : OnlyFabric s (s.collTell g m) :=
  onlyFabric_foldl _ _ s fun t x => by
    split
    · exact .refl t
    · exact onlyFabric_toFabric t _ _

theorem onlyFabric_toMembers (s : State) (g : Gang) (kind : Nat) (arg : Word) : OnlyFabric s (s.toMembers g kind arg) :=
  onlyFabric_foldl _ _ s fun t x => by
    split
    · exact .refl t
    · exact onlyFabric_toFabric t _ _

section
variable {s t : State} (h : OnlyFabric s t)
include h

theorem OnlyFabric.cores : t.cores = s.cores := by rw [h]
theorem OnlyFabric.slot (c : CpId) : t.slot c = s.slot c := by rw [State.slot, State.core, h.cores]; rfl
theorem OnlyFabric.sameBytes : SameBytes s t := sameBytes_of ((by rw [h])) ((by rw [h]))
theorem OnlyFabric.gangs : t.gangs = s.gangs := by rw [h]
theorem OnlyFabric.cur : t.cur = s.cur := by rw [h]

end

/-! What leaves does not depend on the cores, nor on the numbers given -/

/-- A state with other cores, and with other numbers to come. -/
def State.withCores (s : State) (k : Vector Core 256) (i : Nat) : State := { s with cores := k, ids := i }

theorem transmit_withCores (s : State) (k : Vector Core 256) (i : Nat) (p : Fin 18) (x : OutFlit) :
    (s.withCores k i).transmit p x = (s.transmit p x).withCores k i := by
  have hlink : (s.withCores k i).link p = s.link p := rfl
  unfold State.transmit
  rw [hlink]
  extract_lets l n s1 s2
  have h12 : s1 = s2.withCores k i := rfl
  clear_value s1 s2
  subst h12
  split
  · rfl
  · split
    · rfl
    · split <;> rfl

theorem toFabric_withCores (s : State) (k : Vector Core 256) (i : Nat) (ep : BitVec 20) (m : FabMsg) :
    (s.withCores k i).toFabric ep m = (s.toFabric ep m).withCores k i := by
  have hroute : (s.withCores k i).routeTo ep = s.routeTo ep := rfl
  unfold State.toFabric State.sendVia
  rw [hroute]
  split
  · rfl
  · exact transmit_withCores s k i _ _

theorem collTell_withCores (s : State) (k : Vector Core 256) (i : Nat) (g : Gang) (m : FabMsg) :
    (s.withCores k i).collTell g m = (s.collTell g m).withCores k i := by
  unfold State.collTell
  induction g.members.zipIdx generalizing s with
  | nil => rfl
  | cons x l ih =>
    rw [List.foldl_cons, List.foldl_cons, ← ih]
    congr 1
    split
    · rfl
    · exact toFabric_withCores s k i _ _

theorem outbox_collTell (s : State) (k : Vector Core 256) (i : Nat) (g : Gang) (m : FabMsg) :
    ((s.withCores k i).collTell g m).outbox = (s.collTell g m).outbox := by
  rw [collTell_withCores]
  rfl

end Sys2Proof.Machine

end

section

namespace Sys2Proof.Machine

/-! ### What a store, a read and a gang's change of state leave of the CPs and of the collectives (R220, R435, R440) -/

/-- What of a core its stores and the reads of firmware leave: its records, and of each slot the collectives, the partition, the PC and the task. -/
def Core.standing (k : Core) := (k.recq, k.recWait, fun i => let t := k.slots.get i; (t.colls, t.part, t.cp.pc, t.cp.run, t.wid))

/-- The cores stand but for accesses under way, logs and injections, and firmware's tables and the instruction that issues stand. -/
def Standing (s t : State) : Prop := t.cur = s.cur ∧ t.gangs = s.gangs ∧ t.parts = s.parts ∧ ∀ k, (t.core k).standing = (s.core k).standing

theorem Standing.refl (s : State) : Standing s s := ⟨rfl, rfl, rfl, fun _ => rfl⟩

theorem Standing.trans {s t u : State} (h : Standing s t) (h' : Standing t u) : Standing s u := by
  obtain ⟨hcur, hgangs, hparts, hcores⟩ := h
  obtain ⟨hcur', hgangs', hparts', hcores'⟩ := h'
  exact ⟨hcur'.trans hcur, hgangs'.trans hgangs, hparts'.trans hparts, fun k => (hcores' k).trans (hcores k)⟩

theorem Standing.ite {s t u : State} (p : Prop) [Decidable p] (ht : Standing s t) (hu : Standing s u) : Standing s (if p then t else u) := by
  split
  · exact ht
  · exact hu

theorem Standing.of_cores {s t : State} (hcur : t.cur = s.cur) (hgangs : t.gangs = s.gangs) (hparts : t.parts = s.parts) (h : t.cores = s.cores) : Standing s t :=
  ⟨hcur, hgangs, hparts, fun k => by rw [State.core, h, State.core]⟩

section
variable {s t : State} (h : Standing s t)
include h

theorem Standing.recq (k : Fin 256) : (t.core k).recq = (s.core k).recq := congrArg (·.1) (h.2.2.2 k)
theorem Standing.recWait (k : Fin 256) : (t.core k).recWait = (s.core k).recWait := congrArg (·.2.1) (h.2.2.2 k)

theorem Standing.slot (c : CpId) : (t.slot c).colls = (s.slot c).colls ∧ (t.slot c).part = (s.slot c).part ∧ (t.cp c).pc = (s.cp c).pc ∧
    (t.cp c).run = (s.cp c).run ∧ (t.slot c).wid = (s.slot c).wid := by
  have hc : ((t.slot c).colls, (t.slot c).part, (t.cp c).pc, (t.cp c).run, (t.slot c).wid) =
      ((s.slot c).colls, (s.slot c).part, (s.cp c).pc, (s.cp c).run, (s.slot c).wid) := congrFun (congrArg (·.2.2) (h.2.2.2 c.core)) c.slot
  simp only [Prod.mk.injEq] at hc
  exact hc

theorem Standing.surfaceOf (p : BitVec 5) (a : Word) : t.surfaceOf p a = s.surfaceOf p a := by
  rw [State.surfaceOf, State.part, h.2.2.1]
  rfl

theorem Standing.recRoom (k : Fin 256) (hr : RecRoom s k) : RecRoom t k := by
  rw [RecRoom, h.recq, h.recWait]
  exact hr

end

theorem CoresStand.standing {s t : State} (h : CoresStand s t) (k : Fin 256) : (t.core k).standing = (s.core k).standing := by
  rw [h k]
  rfl

section
variable (s : State) (c : CpId)

theorem standing_modCore (k : Fin 256) (f : Core → Core) (hf : (f (s.core k)).standing = (s.core k).standing) : Standing s (s.modCore k f) := by
  refine ⟨rfl, rfl, rfl, fun j => ?_⟩
  by_cases hj : j = k
  · subst hj
    rw [State.core_modCore_same, hf]
  · rw [State.core_modCore_ne _ _ _ _ hj]

theorem standing_modCp (f : Cp → Cp) (hpc : (f (s.cp c)).pc = (s.cp c).pc) (hrun : (f (s.cp c)).run = (s.cp c).run) : Standing s (s.modCp c f) := by
  refine standing_modCore s c.core _ ?_
  have hslots : (fun i => let t := (vmod (s.core c.core).slots c.slot fun t => { t with cp := f t.cp }).get i; (t.colls, t.part, t.cp.pc, t.cp.run, t.wid)) =
      fun i => let t := (s.core c.core).slots.get i; (t.colls, t.part, t.cp.pc, t.cp.run, t.wid) := by
    funext i
    by_cases hi : i = c.slot
    · subst hi
      simp only [vmod_get_same]
      exact congrArg₂ (fun x y => ((s.slot c).colls, (s.slot c).part, x, y, (s.slot c).wid)) hpc hrun
    · simp only [vmod_get_ne _ _ _ _ hi]
  simp only [Core.standing, hslots]

theorem standing_store (part : BitVec 5) (a : PAddr) (l : List Byte) : Standing s (s.store part a l) := by
  have h : OnlyMemory s (s.store part a l) := onlyMemory_store s part a l
  refine ⟨?_, ?_, ?_, (coresStand_store s part a l).standing⟩
  all_goals rw [h]

theorem standing_slotted (part : BitVec 5) (surf : Option Nat) (va : Word) : Standing s (s.slotted part surf va) := by
  unfold State.slotted
  split
  · exact .refl s
  · next g =>
    extract_lets r n esc h csz a i put t1 e
    have hput (u : State) (x len : Nat) : Standing u (put u x len) := by
      unfold put
      split
      · next pa _ =>
        have hbytes : OnlyMemory u (u.setBytes pa (freeBytes u.fresh len)) := onlyMemory_setBytes u _ _
        refine Standing.of_cores ?_ ?_ ?_ (State.setBytes_cores u _ _)
        all_goals exact (by rw [hbytes])
      · exact .refl u
    have h1 : Standing s t1 := hput s _ _
    clear_value t1 put
    exact .ite _ h1 (h1.trans (Standing.trans (.of_cores rfl rfl rfl rfl) (hput t1.took _ _)))

theorem standing_parkRec (id : Nat) (part : BitVec 5) (va fpc : Word) (d : Fin 4) (k : Fin 2) : Standing s (s.parkRec c id part va fpc d k) :=
  .of_cores rfl rfl rfl rfl

theorem standing_park (w : Posted) (d : Fin 4) (k : Fin 2) : Standing s (s.park c w d k) :=
  (standing_parkRec s c w.id _ _ _ d k).trans (standing_modCp _ c _ rfl rfl)

theorem standing_storeOrPark (pa : PAddr) (va fpc : Word) (b : List Byte) : Standing s (s.storeOrPark c pa va fpc b) := by
  unfold State.storeOrPark
  extract_lets part surf posted
  have hposted (t : State) : Standing t (posted t) := standing_modCp t c _ rfl rfl
  have hnew : Standing s (posted s.newId) := Standing.trans (.of_cores rfl rfl rfl rfl) (hposted s.newId)
  clear_value posted
  split
  · exact (standing_store s _ _ _).trans (standing_slotted _ _ _ _)
  · exact hnew
  · split
    · exact hnew.trans (standing_park _ c _ _ _)
    · exact .refl s

theorem standing_logAt (who : CpId) (part : BitVec 5) (a : PAddr) (m : EccMark) : Standing s (s.logAt who part a m) := by
  unfold State.logAt
  extract_lets w enter stat
  split
  case h_1 | h_2 | h_3 => exact standing_modCore s _ _ rfl
  all_goals exact .of_cores rfl rfl rfl rfl

theorem standing_load (who : CpId) (part : BitVec 5) (a : PAddr) (n : Nat) : Standing s (s.load who part a n).1 := by
  have hlog : Standing s (s.logMarks who part a (s.marksAt a n)) :=
    List.foldlRecOn _ _ (motive := Standing s) (.refl s) fun t ht m _ => ht.trans (standing_logAt t who part _ m)
  unfold State.load
  extract_lets ms s'
  split <;> exact hlog

theorem standing_of_load {who : CpId} {part : BitVec 5} {a : PAddr} {n : Nat} {t : State} {o : Option (List Byte)}
    (h : s.load who part a n = (t, o)) : Standing s t := by
  have hload := standing_load s who part a n
  rwa [h] at hload

theorem standing_updateWord (who : CpId) (part : BitVec 5) (pa : PAddr) (f : Word → Option Word) : Standing s (s.updateWord who part pa f) := by
  unfold State.updateWord
  split
  next h => exact standing_of_load s h
  next h =>
    split
    · exact standing_of_load s h
    · exact (standing_of_load s h).trans (standing_store _ _ _ _)

theorem standing_firmwareStore (part : BitVec 5) (pa : PAddr) (va : Word) (b : List Byte) : Standing s (s.firmwareStore part pa va b) := by
  unfold State.firmwareStore
  extract_lets t surf turn
  have ht : Standing s t := standing_store s part pa b
  split
  · exact ht.trans (standing_slotted _ _ _ _)
  · exact ht
  · exact .of_cores rfl rfl rfl rfl

theorem OnlyFabric.standing {s t : State} (h : OnlyFabric s t) : Standing s t := .of_cores h.cur h.gangs (by rw [h]) h.cores

end

end Sys2Proof.Machine

end

section

/-! gstat and coll (O31). -/

namespace Sys2Proof.Machine

/-! ### gstat (R441) -/

theorem gstat_exec (d a : Reg) (s : State) : exec (.gstat d a) s =
    s.issue [a] [d] true fun t => (t.putPending d none (some (.gang (t.reg a))) 0).advance := rfl

/-! ### Records and operands without errors (R237, R241, R265) -/

section
variable (s : State)

/-- A record on which nothing is parked is read as it stands. -/
theorem readRecord_clean (a : Word) {ps : List PAddr} (k : State → List Byte → State) (hecc : s.ecc = []) (hopen : ∀ p ∈ ps, s.parkedBlock p = false) :
    s.readRecord a ps k = k s (ps.flatMap fun p => s.bytesAt p 16) := by
  have hany : ps.any s.parkedBlock = false := by
    rw [List.any_eq_false]
    exact fun p hp => by simp [hopen p hp]
  rw [State.readRecord, hany, if_neg (by simp), State.loadPieces_clean s _ _ _ hecc]

/-- An optional counter of a record that its address places, or that is absent. -/
def CounterIs (s : State) (v : Word) (ctr : Option (Word × PAddr)) : Prop :=
  (v = 0 ∧ ctr = none) ∨ (v ≠ 0 ∧ ∃ pa, s.counterPlace s.cur v true = .ok pa ∧ ctr = some (v, pa))

variable {s} in
theorem optCounter_is {v : Word} {ctr : Option (Word × PAddr)} (h : CounterIs s v ctr) (k : Option (Word × PAddr) → State) : s.optCounter v k = k ctr := by
  rcases h with ⟨hv, hctr⟩ | ⟨hv, pa, hpa, hctr⟩
  · rw [State.optCounter, if_pos (beq_iff_eq.mpr hv), hctr]
  · rw [State.optCounter, if_neg (by simpa using hv), hpa, hctr]

theorem placesIn_newId (ok : Space → Bool) (c : CpId) (write : Bool) (step n : Nat) (a : Word) :
    s.newId.placesIn ok c write step n a = s.placesIn ok c write step n a := by
  induction n generalizing a with
  | zero => rfl
  | succ n ih =>
    rw [State.placesIn, State.placesIn, ih]
    rfl

/-- A number that is given changes nothing of what a virtual range reads as. -/
theorem readVirt_newId (c : CpId) (a : Word) (n : Nat) (hecc : s.ecc = []) : s.newId.readVirt c a n = (s.newId, (s.readVirt c a n).2) := by
  have hplaces : s.newId.places c false 8 ((n + 7) / 8) a = s.places c false 8 ((n + 7) / 8) a := placesIn_newId s _ c false 8 _ a
  have hbytes (p : PAddr) : s.newId.bytesAt p 8 = s.bytesAt p 8 := bytesAt_of_sameBytes (sameBytes_of rfl rfl) p 8
  unfold State.readVirt
  rw [hplaces]
  split
  · rfl
  · rw [State.loadPieces_clean s.newId _ _ _ hecc, State.loadPieces_clean s _ _ _ hecc]
    simp only [hbytes]

theorem collBuffer_newId (c : CpId) (rec : Word) (surf dst : Bool) (a : Word) (len : Nat) (hecc : s.ecc = []) :
    s.newId.collBuffer c rec surf dst a len = (s.newId, (s.collBuffer c rec surf dst a len).2) := by
  have hread : s.readVirt c a 32 = ((s.readVirt c a 32).1, (s.readVirt c a 32).2) := rfl
  unfold State.collBuffer
  rw [readVirt_newId s c a 32 hecc, hread]
  cases surf with
  | false => rfl
  | true =>
    cases (s.readVirt c a 32).2 with
    | error e => rfl
    | ok r =>
      by_cases hlen : (surfOf r).len < len <;> simp [hlen]

/-- A collective whose buffers are resolved and whose input reads takes them (R186). -/
theorem collStart_takes (c : CpId) (j : CollJob) (n m : Nat) {src dst : Word} {own : List Byte} (hecc : s.ecc = [])
    (hsrc : (s.collBuffer c j.recAddr (collSsurf j.bytes) false (fld64 j.bytes 0x10) (collSrcLen j.bytes n)).2 = .ok src)
    (hdst : (s.collBuffer c j.recAddr (collDsurf j.bytes) true (fld64 j.bytes 0x18) (collDstLen j.bytes n)).2 = .ok dst)
    (hown : (s.readVirt c src (collSrcLen j.bytes n)).2 = .ok own) :
    s.newId.collStart c j n m = (s.newId, { j with src := src, dst := dst, own := own }) := by
  unfold State.collStart
  simp only [collBuffer_newId s _ _ _ _ _ _ hecc, readVirt_newId s _ _ _ hecc, hsrc, hdst, hown]

end

/-! ### coll (R436, R438, R440) -/

section
variable {s : State} {a : Reg} {ps : List PAddr} {r : List Byte} {g : Gang} {ctr : Option (Word × PAddr)} {src dst : Word} {own : List Byte}

/-- The collective that coll makes known to its slot. -/
def State.newColl (s : State) (a : Reg) (ps : List PAddr) (r : List Byte) (g : Gang) (ctr : Option (Word × PAddr)) (src dst : Word) (own : List Byte) : CollJob :=
  { id := s.ids, gid := g.gid, result := pieceAt ps 0x38, ctr := ctr, pc := s.pc, recAddr := s.reg a, bytes := r, src := src, dst := dst, own := own, fault := none }

/-- The collective has joined those of its slot. -/
def State.joinsColl (s : State) (j : CollJob) : State := s.newId.modSlot s.cur fun x => { x with colls := x.colls ++ [j] }

theorem coll_exec (hr : r = ps.flatMap fun p => s.bytesAt p 16) (hc : CanIssue s [a] false) (hps : s.record (s.reg a) 64 64 true = .ok ps)
    (hopen : ∀ p ∈ ps, s.parkedBlock p = false) (hdone : s.accessesDone s.cur = true) (hfew : (s.slot s.cur).colls.length < 16)
    (hg : s.gangOf s.cur = some g) (hgid : g.gid = fld64 r 8) (hok : collOk r g.members.length = true) (hctr : CounterIs s (fld64 r 0x28) ctr)
    (hsrc : (s.collBuffer s.cur (s.reg a) (collSsurf r) false (fld64 r 0x10) (collSrcLen r g.members.length)).2 = .ok src)
    (hdst : (s.collBuffer s.cur (s.reg a) (collDsurf r) true (fld64 r 0x18) (collDstLen r g.members.length)).2 = .ok dst)
    (hown : (s.readVirt s.cur src (collSrcLen r g.members.length)).2 = .ok own) :
    exec (.coll a) s = .next ((s.joinsColl (s.newColl a ps r g ctr src dst own)).collTell g (.collTerms g.gid (fld r 4 4) (fld r 0 1) (fld r 1 1) (fld r 0x20 4))).advance := by
  have hecc : s.ecc = [] := hc.2.2
  have hstart := collStart_takes s s.cur { id := s.ids, gid := g.gid, result := pieceAt ps 0x38, ctr := ctr, pc := s.pc, recAddr := s.reg a, bytes := r, src := 0, dst := 0, own := [], fault := none }
    g.members.length g.midx hecc hsrc hdst hown
  have hexec : exec (.coll a) s = execColl a s := rfl
  rw [hexec, execColl, issue_ok s [a] [] false _ hc]
  dsimp only
  rw [withRecord_ok _ hps, if_neg (by simp [hdone, hfew]), readRecord_clean s _ _ hecc hopen, ← hr, hg]
  dsimp only
  rw [if_neg (by simp [hgid]), if_neg (by simp [hok]), optCounter_is hctr, hstart]
  rfl

/-- A coll whose record keeps the limits enters the slot's collectives, and its terms leave for the other members. -/
theorem coll_joins (hr : r = ps.flatMap fun p => s.bytesAt p 16) (hc : CanIssue s [a] false) (hps : s.record (s.reg a) 64 64 true = .ok ps)
    (hopen : ∀ p ∈ ps, s.parkedBlock p = false) (hdone : s.accessesDone s.cur = true) (hfew : (s.slot s.cur).colls.length < 16)
    (hg : s.gangOf s.cur = some g) (hgid : g.gid = fld64 r 8) (hok : collOk r g.members.length = true) (hctr : CounterIs s (fld64 r 0x28) ctr)
    (hsrc : (s.collBuffer s.cur (s.reg a) (collSsurf r) false (fld64 r 0x10) (collSrcLen r g.members.length)).2 = .ok src)
    (hdst : (s.collBuffer s.cur (s.reg a) (collDsurf r) true (fld64 r 0x18) (collDstLen r g.members.length)).2 = .ok dst)
    (hown : (s.readVirt s.cur src (collSrcLen r g.members.length)).2 = .ok own) :
    Completes (.coll a) s fun t => t.pc = s.pc + 4 ∧ SameBytes s t ∧
      t.outbox = (s.collTell g (.collTerms g.gid (fld r 4 4) (fld r 0 1) (fld r 1 1) (fld r 0x20 4))).outbox ∧
      ∃ y : CollJob, (t.slot s.cur).colls = (s.slot s.cur).colls ++ [y] ∧ y.gid = g.gid ∧
        y.recAddr = s.reg a ∧ y.bytes = r ∧ y.src = src ∧ y.dst = dst ∧ y.own = own ∧ y.ctr = ctr ∧ y.fault = none ∧ y.agreed = false := by
  let j := s.newColl a ps r g ctr src dst own
  let m : FabMsg := .collTerms g.gid (fld r 4 4) (fld r 0 1) (fld r 1 1) (fld r 0x20 4)
  let w := s.joinsColl j
  let u := w.collTell g m
  have hfab : OnlyFabric w u := onlyFabric_collTell w g m
  have hslot : u.slot s.cur = { s.slot s.cur with colls := (s.slot s.cur).colls ++ [j] } := (hfab.slot s.cur).trans (State.slot_modSlot_same s.newId s.cur _)
  have hcur : u.cur = s.cur := hfab.cur
  have hcp : u.cp s.cur = s.cp s.cur := by
    rw [State.cp, hslot]
    rfl
  have hout : u.outbox = (s.collTell g m).outbox := outbox_collTell s w.cores (s.ids + 1) g m
  obtain ⟨honly, -⟩ := onlyCp_advance u
  have hadvance : u.advance.outbox = u.outbox := by rw [honly.1]
  have hcolls : (u.advance.slot u.cur).colls = (u.slot u.cur).colls := by rw [(onlyCp_advance u).2.2.2]
  rw [hcur, hslot] at hcolls
  refine ⟨u.advance, coll_exec hr hc hps hopen hdone hfew hg hgid hok hctr hsrc hdst hown, (advance_of_same hcur hcp).1, ?_, hadvance.trans hout,
    j, hcolls, rfl, rfl, rfl, rfl, rfl, rfl, rfl, rfl, rfl⟩
  exact sameBytes_trans (sameBytes_trans (sameBytes_of rfl rfl : SameBytes s w) hfab.sameBytes) (sameBytes_advance u)

end

end Sys2Proof.Machine

end

section

/-! What the other members of a collective have told (O31). -/

namespace Sys2Proof.Machine

/-! ### Fields of a record (R299, R300) -/

theorem RecFields.bits_pc (f : RecFields) : f.bits.extractLsb' 192 64 = f.pc := by
  simp (disch := decide) only [RecFields.bits, BitVec.extractLsb'_append_eq_of_le, Nat.reduceSub, BitVec.extractLsb'_append_eq_right]

theorem RecFields.bits_detail (f : RecFields) : f.bits.extractLsb' 384 64 = f.detail := by
  simp (disch := decide) only [RecFields.bits, BitVec.extractLsb'_append_eq_of_le, Nat.reduceSub, BitVec.extractLsb'_append_eq_right]

/-- A field of a field. -/
theorem extractLsb'_of_field {w : Nat} (v : BitVec w) (a b i n : Nat) (h : i + n ≤ b) : v.extractLsb' (a + i) n = (v.extractLsb' a b).extractLsb' i n := by
  refine BitVec.eq_of_getLsbD_eq fun k hk => ?_
  have hb : i + k < b := by omega
  simp only [BitVec.getLsbD_extractLsb', hk, hb, decide_true, Bool.true_and, Nat.add_assoc]

/-- DETAIL of a collective's error names the member, by bit 63 and bits [43:32] (R300, R440). -/
theorem detail_of_member (v : BitVec 512) (k : Nat) (hk : k < 4096) (h : v.extractLsb' 384 64 = BitVec.ofNat 64 (2 ^ 63 + k * 2 ^ 32)) :
    v.extractLsb' 384 12 = 0 ∧ v.getLsbD 447 = true ∧ v.extractLsb' 416 12 = BitVec.ofNat 12 k := by
  have hdetail : (BitVec.ofNat 64 (2 ^ 63 + k * 2 ^ 32)).toNat = 2 ^ 63 + k * 2 ^ 32 := by
    rw [BitVec.toNat_ofNat]
    omega
  refine ⟨?_, ?_, ?_⟩
  · rw [extractLsb'_of_field v 384 64 0 12 (by decide), h]
    refine BitVec.eq_of_toNat_eq ?_
    rw [BitVec.extractLsb'_toNat, hdetail, Nat.shiftRight_zero]
    have : (2 ^ 63 + k * 2 ^ 32) % 2 ^ 12 = 0 := by omega
    exact this
  · have hbit : (v.extractLsb' 384 64).getLsbD 63 = v.getLsbD 447 := by
      rw [BitVec.getLsbD_extractLsb']
      rfl
    rw [← hbit, h, BitVec.getLsbD, hdetail, Nat.testBit_eq_decide_div_mod_eq]
    have : (2 ^ 63 + k * 2 ^ 32) / 2 ^ 63 % 2 = 1 := by omega
    exact decide_eq_true this
  · rw [extractLsb'_of_field v 384 64 32 12 (by decide), h]
    refine BitVec.eq_of_toNat_eq ?_
    rw [BitVec.extractLsb'_toNat, hdetail, Nat.shiftRight_eq_div_pow, BitVec.toNat_ofNat]
    omega

/-! ### A command's fault (R241, R302) -/

section
variable (s : State) (c : CpId)

/-- What a record that finds room, and the trap behind it, leave of the state. -/
theorem commandFault_records (order : Nat) (fpc : Word) (cause : BitVec 8) (val vaddr synd detail : Word) (hroom : RecRoom s c.core) :
    let t := s.commandFault c order fpc cause val vaddr synd detail
    let f : RecFields := { s.slotRec c cause 0x03 none with vaddr := vaddr, pc := fpc, synd := synd, detail := detail }
    (t.core c.core).recq = (s.core c.core).recq ++ [f.bits] ∧ (t.core c.core).recWait = [] ∧ (t.slot c).colls = (s.slot c).colls ∧ (t.slot c).part = (s.slot c).part ∧
    t.parts = s.parts ∧ t.outbox = s.outbox ∧ t.ecc = s.ecc ∧ t.mem = s.mem ∧ t.dies = s.dies := by
  intro t f
  let u := s.queueRec c.core (.job order) f
  have hcore : u.core c.core = { s.core c.core with recq := (s.core c.core).recq ++ [f.bits], offerIn := if (s.core c.core).recq.isEmpty then 0 else (s.core c.core).offerIn } :=
    core_queueRec s c.core (.job order) f hroom
  have hslot : u.slot c = s.slot c := slot_queueRec s c.core (.job order) f c
  have hu : (u.core c.core).recq = (s.core c.core).recq ++ [f.bits] ∧ (u.core c.core).recWait = [] := by
    rw [hcore]
    exact ⟨rfl, hroom.2⟩
  have ht : t = u.deferTrap c order cause val fpc := rfl
  rw [ht]
  unfold State.deferTrap
  split
  · rw [hslot]
    exact ⟨hu.1, hu.2, rfl, rfl, rfl, rfl, rfl, rfl, rfl⟩
  · rw [State.modCp, State.slot_modSlot_same, State.core_modSlot_same, hslot]
    exact ⟨hu.1, hu.2, rfl, rfl, rfl, rfl, rfl, rfl, rfl⟩

/-! ### A collective ends with RESULT (R440) -/

/-- A collective that has ended in a fault, as R300 and R440 record it. -/
structure CollEnds (s t : State) (c : CpId) (j : CollJob) (e : BitVec 8 × Word × Word × Word) : Prop where
  left : (t.slot c).colls = (s.slot c).colls.filter fun y => y.id != j.id
  record : ∃ f : RecFields, (t.core c.core).recq = (s.core c.core).recq ++ [f.bits] ∧ f.cause = e.1 ∧ f.pc = j.pc ∧ f.detail = e.2.2.2
  outbox : t.outbox = s.outbox
  result : t.wordAt j.result = BitVec.ofNat 64 (2 + 256 * e.1.toNat)
  bytes : OnlyBytes j.result 8 s t

theorem filter_modColl (l : List CollJob) (id : Nat) (f : CollJob → CollJob) (hf : ∀ x, (f x).id = x.id) :
    (l.map fun x => if x.id == id then f x else x).filter (fun x => x.id != id) = l.filter fun x => x.id != id := by
  induction l with
  | nil => rfl
  | cons x l ih =>
    rw [List.map_cons]
    by_cases hx : x.id = id
    · have hfx : (f x).id = id := (hf x).trans hx
      rw [if_pos (beq_iff_eq.mpr hx), List.filter_cons_of_neg (by simp [hfx]), List.filter_cons_of_neg (by simp [hx]), ih]
    · rw [if_neg (by simpa using hx), List.filter_cons_of_pos (by simpa using hx), List.filter_cons_of_pos (by simpa using hx), ih]

/-- A word that the engine writes for a collective, which then leaves its slot. -/
theorem dropColl_store (part : BitVec 5) (pa : PAddr) (v : Word) (id : Nat) (hmem : MemoryCanonical s) :
    let t := (s.store part pa (leBytes 8 v.toNat)).dropColl c id
    (t.slot c).colls = (s.slot c).colls.filter (fun y => y.id != id) ∧ (t.core c.core).recq = (s.core c.core).recq ∧ t.outbox = s.outbox ∧
    t.wordAt pa = v ∧ OnlyBytes pa 8 s t := by
  intro t
  obtain ⟨hword, hbytes⟩ := State.store_word s part pa v hmem
  have hstand : Standing s (s.store part pa (leBytes 8 v.toNat)) := standing_store s part pa _
  have hout : (s.store part pa (leBytes 8 v.toNat)).outbox = s.outbox := by rw [onlyMemory_store s part pa (leBytes 8 v.toNat)]
  refine ⟨?_, ?_, hout, hword, hbytes⟩
  · simp only [t, State.dropColl, State.slot_modSlot_same, (hstand.slot c).1]
  · simp only [t, State.dropColl, State.core_modSlot_same, hstand.recq]

variable {s c} in
/-- A failing collective whose record finds room ends at once. -/
theorem collFail_ends {j : CollJob} {e : BitVec 8 × Word × Word × Word} (hroom : RecRoom s c.core) (hmem : MemoryCanonical s)
    (hsurf : s.surfaceOf (s.slot c).part (j.recAddr + 0x38) = none) : CollEnds s (s.collFail c j e) c j e := by
  let s1 := s.modColl c j.id fun x => { x with fault := some e }
  let u := s1.commandFault c j.id j.pc e.1 j.recAddr e.2.1 e.2.2.1 e.2.2.2
  have hcore1 : (s1.core c.core).recq = (s.core c.core).recq ∧ (s1.core c.core).recWait = (s.core c.core).recWait := by
    rw [show s1 = s.modSlot c _ from rfl, State.core_modSlot_same]
    exact ⟨rfl, rfl⟩
  have hslot1 : s1.slot c = { s.slot c with colls := (s.slot c).colls.map fun x => if x.id == j.id then { x with fault := some e } else x } :=
    State.slot_modSlot_same s c _
  have hroom1 : RecRoom s1 c.core := by
    rw [RecRoom, hcore1.1, hcore1.2]
    exact hroom
  obtain ⟨hrecq, hwait, hcolls, hpart, hparts, hout, -, hm, hdies⟩ := commandFault_records s1 c j.id j.pc e.1 j.recAddr e.2.1 e.2.2.1 e.2.2.2 hroom1
  have hnowait : u.recWaits c.core (.job j.id) = false := by rw [State.recWaits, hwait]; rfl
  have hpart' : (u.slot c).part = (s.slot c).part := by
    rw [hpart, hslot1]
  have husurf : u.surfaceOf (u.slot c).part (j.recAddr + 0x38) = none := by
    have hpage : u.surfaceOf (s.slot c).part (j.recAddr + 0x38) = s.surfaceOf (s.slot c).part (j.recAddr + 0x38) := by
      rw [State.surfaceOf, State.part, hparts]
      rfl
    rw [hpart', hpage, hsurf]
  have humem : MemoryCanonical u := by
    have : u.mem = s.mem := hm
    rw [MemoryCanonical, this]
    exact hmem
  have hsame : SameBytes s u := sameBytes_of hm hdies
  have hvalue : (BitVec.ofNat 64 (2 + 256 * e.1.toNat)).toNat = 2 + 256 * e.1.toNat := by
    have := e.1.isLt
    rw [BitVec.toNat_ofNat]
    omega
  have hfail : s.collFail c j e = (u.store (u.slot c).part j.result (leBytes 8 (BitVec.ofNat 64 (2 + 256 * e.1.toNat)).toNat)).dropColl c j.id := by
    have hsettle : s.collFail c j e = u.settleColl c { j with fault := some e } := rfl
    rw [hsettle, State.settleColl]
    dsimp only
    rw [if_neg (by simp [hnowait]), State.collResultFault, storeOrPark_performs u c _ _ _ _ husurf, hvalue]
  obtain ⟨hleft, hq, hto, hword, hbytes⟩ := dropColl_store u c (u.slot c).part j.result (BitVec.ofNat 64 (2 + 256 * e.1.toNat)) j.id humem
  rw [hfail]
  refine ⟨?_, ⟨{ s1.slotRec c e.1 0x03 none with vaddr := e.2.1, pc := j.pc, synd := e.2.2.1, detail := e.2.2.2 }, ?_, rfl, rfl, rfl⟩, hto.trans hout, hword,
    fun a ha => (hbytes a ha).trans (hsame a)⟩
  · rw [hleft, hcolls, hslot1]
    exact filter_modColl _ _ _ fun _ => rfl
  · rw [hq, hrecq, hcore1.1]

end

end Sys2Proof.Machine

end

section

namespace Sys2Proof.Machine

/-! ### COLL_COMPLETE (R438, R440) -/

section
variable (s : State) (c : CpId)

/-- Without errors a virtual range reads without a change. -/
theorem readVirt_state (a : Word) (n : Nat) (hecc : s.ecc = []) : (s.readVirt c a n).1 = s := by
  unfold State.readVirt
  split
  · rfl
  · rw [State.loadPieces_clean s _ _ _ hecc]

theorem standing_writeVirt {a : Word} {b : List Byte} {t : State} (h : s.writeVirt c a b = .ok t) : Standing s t := by
  unfold State.writeVirt at h
  split at h
  · exact nomatch h
  · rw [← Except.ok.inj h]
    exact List.foldlRecOn _ _ (motive := Standing s) (.refl s) fun t ht p _ => ht.trans (standing_storeOrPark t c _ _ _ _)

variable {s c} {j : CollJob} {g : Gang} (shards : List (List Byte))

/-- The content of DST at this member: its own input among those of all. -/
def State.collContent (j : CollJob) (g : Gang) (shards : List (List Byte)) : List Byte :=
  collResult j.bytes ((List.range g.members.length).map fun k => if k = g.midx then j.own else (shards[k]?).getD []) g.members.length g.midx

section
variable (hfind : (s.slot c).colls.find? (fun y => y.id == j.id) = some j) (hgang : s.gang j.gid = some g) (hfault : j.fault = none)
include hfind hgang hfault

theorem collComplete_terms (l : List (Nat × Nat × Nat)) : exec (.collComplete c j.id shards (.terms l)) s = .next
    (if j.agreed || l.length + 1 != g.members.length then s
      else if l.all (· == collTerms j.bytes) then (s.modColl c j.id fun x => { x with agreed := true }).collTell g (.collShard g.gid (fld j.bytes 4 4) j.own)
      else s.collFail c j (cFORMAT, j.recAddr, 0, 0)) := by
  have hexec : exec (.collComplete c j.id shards (.terms l)) s = execCollComplete c j.id shards (.terms l) s := rfl
  rw [hexec, execCollComplete, hfind]
  dsimp only
  rw [hgang]
  dsimp only
  rw [if_neg (by simp [hfault])]

theorem collComplete_failed (k : Nat) : exec (.collComplete c j.id shards (.failed k)) s = .next
    ((if j.agreed then s.collLeave c j (State.collContent j g shards) (collDstLen j.bytes g.members.length) else s).collFail c j (collDetail k (cUNCORR, 0, 0, 0))) := by
  have hexec : exec (.collComplete c j.id shards (.failed k)) s = execCollComplete c j.id shards (.failed k) s := rfl
  rw [hexec, execCollComplete, hfind]
  dsimp only
  rw [hgang]
  dsimp only
  rw [if_neg (by simp [hfault])]
  rfl

theorem collComplete_data_early (hno : j.agreed = false) : exec (.collComplete c j.id shards .data) s = .next s := by
  have hexec : exec (.collComplete c j.id shards .data) s = execCollComplete c j.id shards .data s := rfl
  rw [hexec, execCollComplete, hfind]
  dsimp only
  rw [hgang]
  dsimp only
  rw [if_neg (by simp [hfault]), if_pos (by simp [hno])]

theorem collComplete_data (hyes : j.agreed = true) {s4 : State} (hw : s.writeVirt c j.dst (State.collContent j g shards) = .ok s4) :
    exec (.collComplete c j.id shards .data) s = .next (s4.collDone c j) := by
  have hw' : s.writeVirt c j.dst (collResult j.bytes ((List.range g.members.length).map fun k => if k = g.midx then j.own else (shards[k]?).getD [])
      g.members.length g.midx) = .ok s4 := hw
  have hexec : exec (.collComplete c j.id shards .data) s = execCollComplete c j.id shards .data s := rfl
  rw [hexec, execCollComplete, hfind]
  dsimp only
  rw [hgang]
  dsimp only
  rw [if_neg (by simp [hfault]), if_neg (by simp [hyes]), hw']

/-- Equal terms: the input leaves for the other members, and the data move. -/
theorem collComplete_agrees (l : List (Nat × Nat × Nat)) (hno : j.agreed = false) (hlen : l.length + 1 = g.members.length) (hall : ∀ x ∈ l, x = collTerms j.bytes) :
    Completes (.collComplete c j.id shards (.terms l)) s fun t => SameBytes s t ∧ t.outbox = (s.collTell g (.collShard g.gid (fld j.bytes 4 4) j.own)).outbox ∧
      (t.slot c).colls = (s.slot c).colls.map fun y => if y.id = j.id then { y with agreed := true } else y := by
  let w := s.modColl c j.id fun x => { x with agreed := true }
  let m : FabMsg := .collShard g.gid (fld j.bytes 4 4) j.own
  have hfab : OnlyFabric w (w.collTell g m) := onlyFabric_collTell w g m
  have hcolls : (w.slot c).colls = (s.slot c).colls.map fun y => if y.id == j.id then { y with agreed := true } else y :=
    congrArg Slot.colls (State.slot_modSlot_same s c _)
  refine ⟨w.collTell g m, ?_, sameBytes_trans (sameBytes_of rfl rfl : SameBytes s w) hfab.sameBytes, outbox_collTell s w.cores s.ids g m, ?_⟩
  · rw [collComplete_terms shards hfind hgang hfault, if_neg (by simp [hno, hlen]), if_pos (by simpa using hall)]
  · rw [hfab.slot, hcolls]
    simp only [beq_iff_eq]

variable (hmem : MemoryCanonical s) (hsurf : s.surfaceOf (s.slot c).part (j.recAddr + 0x38) = none)
include hmem hsurf

/-- Terms that differ: RESULT FORMAT. -/
theorem collComplete_differs (l : List (Nat × Nat × Nat)) (hno : j.agreed = false) (hlen : l.length + 1 = g.members.length) (hany : ∃ x ∈ l, x ≠ collTerms j.bytes)
    (hroom : RecRoom s c.core) : Completes (.collComplete c j.id shards (.terms l)) s fun t => CollEnds s t c j (cFORMAT, j.recAddr, 0, 0) := by
  refine ⟨_, ?_, collFail_ends hroom hmem hsurf⟩
  rw [collComplete_terms shards hfind hgang hfault, if_neg (by simp [hno, hlen]), if_neg (by simpa using hany)]

/-- The member at which an error has arisen, as its record names it. -/
def failedAt (k : Nat) : BitVec 8 × Word × Word × Word := (cUNCORR, 0, 0, BitVec.ofNat 64 (2 ^ 63 + k * 2 ^ 32))

omit hfind hgang hfault hmem hsurf in
theorem collDetail_uncorr (k : Nat) : collDetail k (cUNCORR, 0, 0, 0) = failedAt k := by
  rw [collDetail, if_pos (by decide)]
  exact congrArg (fun v => (cUNCORR, (0 : Word), (0 : Word), v)) BitVec.zero_or

/-- An error at a member before the data move: RESULT UNCORR. -/
theorem collComplete_fails (k : Nat) (hno : j.agreed = false) (hroom : RecRoom s c.core) :
    Completes (.collComplete c j.id shards (.failed k)) s fun t => CollEnds s t c j (failedAt k) := by
  refine ⟨_, ?_, collFail_ends hroom hmem hsurf⟩
  rw [collComplete_failed shards hfind hgang hfault, if_neg (by simp [hno]), collDetail_uncorr]

omit hmem in
/-- While the data move, each unit of DST keeps its old content or has its new one. -/
theorem collComplete_fails_moving (k : Nat) {old : List Byte} {s4 : State} (hroom : RecRoom s c.core) (hyes : j.agreed = true) (hecc : s.ecc = [])
    (hold : (s.readVirt c j.dst (collDstLen j.bytes g.members.length)).2 = .ok old)
    (hw : s.writeVirt c j.dst (collMix s.fresh old (State.collContent j g shards)) = .ok s4) (hmem4 : MemoryCanonical s4) :
    Completes (.collComplete c j.id shards (.failed k)) s fun t => (t.slot c).colls = (s.slot c).colls.filter (fun y => y.id != j.id) ∧
      (s4.core c.core).recq = (s.core c.core).recq ∧ CollEnds s4 t c j (failedAt k) := by
  have hstand : Standing s s4 := standing_writeVirt s c hw
  obtain ⟨hcolls, hpart, -⟩ := hstand.slot c
  let u : State := { s4 with fresh := s4.fresh + (collDstLen j.bytes g.members.length / 32 + 1) }
  have hleave : s.collLeave c j (State.collContent j g shards) (collDstLen j.bytes g.members.length) = u := by
    have hread : s.readVirt c j.dst (collDstLen j.bytes g.members.length) = (s, .ok old) := Prod.ext (readVirt_state s c _ _ hecc) hold
    rw [State.collLeave, hread]
    dsimp only
    rw [hw]
  have hroom4 : RecRoom s4 c.core := hstand.recRoom c.core hroom
  have hsurf4 : u.surfaceOf (u.slot c).part (j.recAddr + 0x38) = none := by
    have hpage : u.surfaceOf (u.slot c).part (j.recAddr + 0x38) = s4.surfaceOf (s4.slot c).part (j.recAddr + 0x38) := rfl
    rw [hpage, hstand.surfaceOf, hpart, hsurf]
  obtain ⟨hleft, hrecord, hout, hresult, hbytes⟩ : CollEnds u (u.collFail c j (failedAt k)) c j (failedAt k) := collFail_ends hroom4 hmem4 hsurf4
  refine ⟨u.collFail c j (failedAt k), ?_, hleft.trans (congrArg _ hcolls), hstand.recq c.core, ⟨hleft, hrecord, hout, hresult, hbytes⟩⟩
  rw [collComplete_failed shards hfind hgang hfault, if_pos hyes, hleave, collDetail_uncorr]

end

end

/-! ### The data are in place (R186, R269, R438) -/

section
variable {s : State} {c : CpId} {j : CollJob} {g : Gang} (shards : List (List Byte))

/-- RESULT is written, and a collective without a counter leaves its slot. -/
def State.endsColl (s : State) (c : CpId) (j : CollJob) : State := (s.storeOrPark c j.result (j.recAddr + 0x38) j.pc (leBytes 8 1)).dropColl c j.id

theorem endsColl_spec (hmem : MemoryCanonical s) (hsurf : s.surfaceOf (s.slot c).part (j.recAddr + 0x38) = none) :
    ((s.endsColl c j).slot c).colls = (s.slot c).colls.filter (fun y => y.id != j.id) ∧ (s.endsColl c j).wordAt j.result = 1 ∧ OnlyBytes j.result 8 s (s.endsColl c j) := by
  obtain ⟨hleft, -, -, hword, hbytes⟩ := dropColl_store s c (s.slot c).part j.result 1 j.id hmem
  have hends : s.endsColl c j = (s.store (s.slot c).part j.result (leBytes 8 (1 : Word).toNat)).dropColl c j.id := by
    rw [State.endsColl, storeOrPark_performs s c _ _ _ _ hsurf]
    rfl
  rw [hends]
  exact ⟨hleft, hword, hbytes⟩

theorem collDone_plain (hctr : j.ctr = none) (hd : collDsurf j.bytes = false) : s.collDone c j = s.endsColl c j := by
  unfold State.collDone
  extract_lets ends va
  rw [if_neg (by simp [hd])]
  unfold ends
  rw [hctr]
  rfl

theorem collDone_surface (hctr : j.ctr = none) (hd : collDsurf j.bytes = true) {pa : PAddr} (hpa : s.place c (fld64 j.bytes 0x18 + 0x10) 8 true = .ok pa) :
    s.collDone c j = (s.flipSel c pa (fld64 j.bytes 0x18 + 0x10) j.pc).endsColl c j := by
  unfold State.collDone
  extract_lets ends va
  have hpa' : s.place c va 8 true = .ok pa := hpa
  rw [if_pos hd, hpa']
  unfold ends
  dsimp only
  rw [hctr]
  rfl

/-- Words apart keep each other's value. -/
theorem wordAt_of_onlyBytes {t : State} {pa q : PAddr} (h : OnlyBytes q 8 s t) (hapart : ∀ x, Covers pa 8 x → ¬ Covers q 8 x) : t.wordAt pa = s.wordAt pa := by
  have hbytes (n i : Nat) (hi : i + n ≤ 8) : t.bytesAt (pa.plus i) n = s.bytesAt (pa.plus i) n := by
    induction n generalizing i with
    | zero => rfl
    | succ n ih =>
      have hcov : Covers pa 8 (pa.plus i) := ⟨i, by omega, rfl⟩
      have hnext : (pa.plus i).plus 1 = pa.plus (i + 1) := by simp only [PAddr.plus, Nat.add_assoc]
      rw [State.bytesAt, State.bytesAt, h _ (hapart _ hcov), hnext, ih (i + 1) (by omega)]
  have h8 : t.bytesAt pa 8 = s.bytesAt pa 8 := hbytes 8 0 (by decide)
  rw [State.wordAt, State.leAt, h8]
  rfl

variable (hfind : (s.slot c).colls.find? (fun y => y.id == j.id) = some j) (hgang : s.gang j.gid = some g) (hfault : j.fault = none)
  (hsurf : s.surfaceOf (s.slot c).part (j.recAddr + 0x38) = none) {s4 : State} (hw : s.writeVirt c j.dst (State.collContent j g shards) = .ok s4)
  (hyes : j.agreed = true) (hctr : j.ctr = none) (hmem4 : MemoryCanonical s4)
include hfind hgang hfault hsurf hw hyes hctr hmem4

/-- A destination of no surface. -/
theorem collComplete_done (hd : collDsurf j.bytes = false) : Completes (.collComplete c j.id shards .data) s fun t =>
    t.wordAt j.result = 1 ∧ OnlyBytes j.result 8 s4 t ∧ (t.slot c).colls = (s4.slot c).colls.filter fun y => y.id != j.id := by
  have hstand : Standing s s4 := standing_writeVirt s c hw
  have hsurf4 : s4.surfaceOf (s4.slot c).part (j.recAddr + 0x38) = none := by rw [hstand.surfaceOf, (hstand.slot c).2.1, hsurf]
  obtain ⟨hleft, hresult, hbytes⟩ := endsColl_spec hmem4 hsurf4
  refine ⟨s4.endsColl c j, ?_, hresult, hbytes, hleft⟩
  rw [collComplete_data shards hfind hgang hfault hyes hw, collDone_plain hctr hd]

/-- A surface is published: its SEL is inverted. -/
theorem collComplete_publishes (hecc4 : s4.ecc = []) {pa : PAddr} (hd : collDsurf j.bytes = true) (hpa : s4.place c (fld64 j.bytes 0x18 + 0x10) 8 true = .ok pa)
    (hapart : ∀ q, Covers pa 8 q → ¬ Covers j.result 8 q) (hsel : s.surfaceOf (s.slot c).part (fld64 j.bytes 0x18 + 0x10) = none) :
    Completes (.collComplete c j.id shards .data) s fun t =>
      t.wordAt j.result = 1 ∧ t.wordAt pa = s4.wordAt pa ^^^ 0x100000000 ∧ (t.slot c).colls = (s4.slot c).colls.filter fun y => y.id != j.id := by
  have hstand : Standing s s4 := standing_writeVirt s c hw
  have hpart4 : (s4.slot c).part = (s.slot c).part := (hstand.slot c).2.1
  have hsel4 : s4.surfaceOf (s4.slot c).part (fld64 j.bytes 0x18 + 0x10) = none := by rw [hstand.surfaceOf, hpart4, hsel]
  let v : Word := s4.wordAt pa ^^^ BitVec.ofNat 64 (2 ^ 32)
  let u := s4.store (s4.slot c).part pa (leBytes 8 v.toNat)
  have hflip : s4.flipSel c pa (fld64 j.bytes 0x18 + 0x10) j.pc = u := changeWord_performs s4 c pa _ _ _ v hecc4 hsel4 rfl
  have hu : Standing s4 u := standing_store s4 _ _ _
  obtain ⟨hcolls, hpart, -⟩ := hu.slot c
  have hsurfu : u.surfaceOf (u.slot c).part (j.recAddr + 0x38) = none := by rw [hu.surfaceOf, hpart, hstand.surfaceOf, hpart4, hsurf]
  obtain ⟨hleft, hresult, hbytes⟩ := endsColl_spec (State.store_wf s4 (s4.slot c).part pa _ hmem4 : MemoryCanonical u) hsurfu
  refine ⟨u.endsColl c j, ?_, hresult, ?_, hleft.trans (congrArg _ hcolls)⟩
  · rw [collComplete_data shards hfind hgang hfault hyes hw, collDone_surface hctr hd hpa, hflip]
  · rw [wordAt_of_onlyBytes hbytes hapart]
    exact (State.store_word s4 (s4.slot c).part pa v hmem4).1

end

end Sys2Proof.Machine

end

section

/-! glaunch (O31). -/

namespace Sys2Proof.Machine

/-! ### A gang that is known keeps its identity (R432, R435) -/

/-- The instruction that issues and the PCs stand. -/
def PcsStand (s t : State) : Prop := t.cur = s.cur ∧ ∀ c, (t.cp c).pc = (s.cp c).pc

theorem PcsStand.trans {s t u : State} (h : PcsStand s t) (h' : PcsStand t u) : PcsStand s u :=
  ⟨h'.1.trans h.1, fun c => (h'.2 c).trans (h.2 c)⟩

theorem Standing.pcs {s t : State} (h : Standing s t) : PcsStand s t := ⟨h.1, fun c => (h.slot c).2.2.1⟩

theorem Standing.gang {s t : State} (h : Standing s t) (gid : Word) : t.gang gid = s.gang gid := by
  rw [State.gang, h.2.1, State.gang]

/-- What a gang keeps from its acceptance on. -/
def Gang.SameAs (y g : Gang) : Prop := y.gid = g.gid ∧ y.initHere = g.initHere ∧ y.part = g.part ∧ y.members = g.members ∧ y.ctr = g.ctr ∧ y.acks = g.acks

theorem Gang.SameAs.trans {x y z : Gang} (h : x.SameAs y) (h' : y.SameAs z) : x.SameAs z := by
  obtain ⟨h1, h2, h3, h4, h5, h6⟩ := h
  obtain ⟨k1, k2, k3, k4, k5, k6⟩ := h'
  exact ⟨h1.trans k1, h2.trans k2, h3.trans k3, h4.trans k4, h5.trans k5, h6.trans k6⟩

section
variable (s : State)

theorem gid_of_gang {gid : Word} {g : Gang} (h : s.gang gid = some g) : g.gid = gid := beq_iff_eq.mp (List.find?_some (p := fun g : Gang => g.gid == gid) h)

theorem pcsStand_modGang (gid : Word) (f : Gang → Gang) : PcsStand s (s.modGang gid f) := ⟨rfl, fun _ => rfl⟩

theorem gang_modGang {gid : Word} {g : Gang} (f : Gang → Gang) (hf : ∀ x, (f x).gid = x.gid) (h : s.gang gid = some g) :
    (s.modGang gid f).gang gid = some (f g) := by
  have hkeep : ((fun g : Gang => g.gid == gid) ∘ fun g => if g.gid == gid then f g else g) = fun g => g.gid == gid := by
    funext x
    by_cases hx : x.gid == gid
    · simp only [Function.comp, if_pos hx, hf]
    · simp only [Function.comp, if_neg hx]
  have hmap : (s.modGang gid f).gang gid = (s.gangs.find? fun g => g.gid == gid).map fun g => if g.gid == gid then f g else g := by
    rw [State.gang, State.modGang, List.find?_map, hkeep]
  have h' : s.gangs.find? (fun g => g.gid == gid) = some g := h
  rw [hmap, h', Option.map_some, if_pos (beq_iff_eq.mpr (gid_of_gang s h))]

/-- Signalling a gang's counter. -/
theorem gangSignal_spec {gid : Word} {g y : Gang} (hgid : g.gid = gid) (h : s.gang gid = some y) :
    PcsStand s (s.gangSignal g) ∧ (s.gangSignal g).gang gid = some { y with signalled := true } := by
  subst hgid
  unfold State.gangSignal
  extract_lets s1
  have hpcs : PcsStand s s1 := pcsStand_modGang s _ _
  have hgang : s1.gang g.gid = some { y with signalled := true } := gang_modGang s _ (fun _ => rfl) h
  clear_value s1
  split
  · exact ⟨hpcs, hgang⟩
  · split
    next va pa _ _ =>
      have hadd : Standing s1 (s1.addCounter g.home g.part pa g.inc) := standing_updateWord s1 _ _ _ _
      exact ⟨hpcs.trans hadd.pcs, (hadd.gang _).trans hgang⟩
    · exact ⟨hpcs, hgang⟩

/-- A known gang enters a state. -/
theorem enterState_spec {gid : Word} {g : Gang} (x : GangState) (h : s.gang gid = some g) :
    PcsStand s (s.enterState gid x) ∧ ∃ y, (s.enterState gid x).gang gid = some y ∧ y.SameAs g ∧ y.state = x ∧ y.reason = g.reason := by
  have hgid : g.gid = gid := gid_of_gang s h
  unfold State.enterState
  rw [h]
  dsimp only
  generalize hs1 : s.modGang gid (fun g => { g with state := x, since := s.timeNs }) = s1
  have hpcs1 : PcsStand s s1 := hs1 ▸ pcsStand_modGang s _ _
  have hgang1 : s1.gang gid = some { g with state := x, since := s.timeNs } := hs1 ▸ gang_modGang s _ (fun _ => rfl) h
  have hstore : Standing s1 (s1.firmwareStore g.part (pieceAt g.recPlaces 0x68) (g.recVa + 0x68) (leBytes 8 x.code)) := standing_firmwareStore s1 _ _ _ _
  generalize s1.firmwareStore g.part (pieceAt g.recPlaces 0x68) (g.recVa + 0x68) (leBytes 8 x.code) = s2 at hstore ⊢
  have hpcs2 : PcsStand s s2 := hpcs1.trans hstore.pcs
  have hgang2 : s2.gang gid = some { g with state := x, since := s.timeNs } := (hstore.gang _).trans hgang1
  split
  · exact ⟨hpcs1, _, hgang1, ⟨rfl, rfl, rfl, rfl, rfl, rfl⟩, rfl, rfl⟩
  · split
    · obtain ⟨hpcs3, hgang3⟩ := gangSignal_spec s2 hgid hgang2
      exact ⟨hpcs2.trans hpcs3, _, hgang3, ⟨rfl, rfl, rfl, rfl, rfl, rfl⟩, rfl, rfl⟩
    · exact ⟨hpcs2, _, hgang2, ⟨rfl, rfl, rfl, rfl, rfl, rfl⟩, rfl, rfl⟩

/-- The initiator aborts a gang that it knows. -/
theorem abortAll_spec {g y : Gang} (reason : BitVec 8) (h : s.gang g.gid = some y) :
    PcsStand s (s.abortAll g reason) ∧ ∃ z, (s.abortAll g reason).gang g.gid = some z ∧ z.SameAs y ∧ z.state = .aborted ∧ z.reason = reason := by
  unfold State.abortAll State.abortGang
  have hfab : Standing s (s.toMembers g 6 (reason.setWidth 64)) := (onlyFabric_toMembers s g 6 _).standing
  generalize s.toMembers g 6 (reason.setWidth 64) = u at hfab ⊢
  have hu : u.gang g.gid = some y := (hfab.gang _).trans h
  have hmod := gang_modGang u (fun g => { g with reason := reason }) (fun _ => rfl) hu
  obtain ⟨hpcs, z, hz, hsame, hstate, hreason⟩ := enterState_spec _ .aborted hmod
  exact ⟨(hfab.pcs.trans (pcsStand_modGang u _ _)).trans hpcs, z, hz, hsame, hstate, hreason⟩

/-! ### PREPARE at the initiator (R432) -/

theorem standing_firmwareRead {d : Fin 4} {part : BitVec 5} {a : Word} {n : Nat} : Standing s (s.firmwareRead d part a n).1 := by
  unfold State.firmwareRead
  split
  · split
    · exact standing_load s _ _ _ _
    · exact .refl s
  · exact .refl s

theorem standing_entryOk (d : Fin 4) (part : BitVec 5) (entry : Word) : Standing s (s.entryOk d part entry).1 := by
  unfold State.entryOk
  split
  · exact .refl s
  · split
    · exact .refl s
    · exact standing_firmwareRead s

theorem standing_depsOk (d : Fin 4) (part : BitVec 5) (dep : Word) (n : Nat) : Standing s (s.depsOk d part dep n).1 := by
  have hread : Standing s (s.firmwareRead d part dep 64).1 := standing_firmwareRead s
  unfold State.depsOk
  split
  · exact .refl s
  · split
    · exact .refl s
    · split
      next h => rwa [h] at hread
      next h => rwa [h] at hread

theorem standing_slateCounterOk (d : Fin 4) (part : BitVec 5) (a : Word) : Standing s (s.slateCounterOk d part a).1 := by
  unfold State.slateCounterOk
  split
  · exact .refl s
  · split
    · exact .refl s
    · exact standing_firmwareRead s

theorem standing_slateAddrOk (d : Fin 4) (part : BitVec 5) (b : List Byte) : Standing s (s.slateAddrOk d part b).1 :=
  (((standing_entryOk s d part _).trans (standing_depsOk _ d part _ _)).trans (standing_slateCounterOk _ d part _)).trans (standing_slateCounterOk _ d part _)

theorem standing_slateRefusal (q : Nat) (b : List Byte) : Standing s (s.slateRefusal q b).1 := by
  unfold State.slateRefusal
  extract_lets part shape extm1
  have haddr : Standing s (s.slateAddrOk (dieOfQueue q) part b).1 := standing_slateAddrOk s _ _ _
  split
  · exact .refl s
  · split
    · exact .refl s
    · split
      next h => rwa [h] at haddr
      next h =>
        rw [h] at haddr
        split
        · exact haddr
        · split <;> exact haddr

theorem standing_prepareRefusal (q : Nat) (m : PrepareMsg) : Standing s (s.prepareRefusal q m).1 := by
  have hslate : Standing s (s.slateRefusal q m.slate).1 := standing_slateRefusal s _ _
  unfold State.prepareRefusal
  split
  next h => rwa [h] at hslate
  next h => rwa [h] at hslate

/-- The first ACK of a gang of two or more members starts nothing. -/
theorem addAck_first {g : Gang} (h : s.gang g.gid = some g) (hinit : g.initHere = true) (hstate : g.state = .ready) (hacks : g.acks = []) (hmany : 2 ≤ g.members.length) :
    PcsStand s (s.addAck g 0) ∧ (s.addAck g 0).gang g.gid = some { g with acks := [0] } := by
  have hgo : s.addAck g 0 = s.modGang g.gid fun g => { g with acks := 0 :: g.acks } := by
    unfold State.addAck
    have hfew : ¬ g.members.length ≤ 0 := by omega
    rw [if_neg (by simp [hinit, hstate, hacks, hfew])]
    exact if_pos (by rw [hacks]; exact hmany)
  have hadd := gang_modGang s (fun g => { g with acks := 0 :: g.acks }) (fun _ => rfl) h
  rw [hgo]
  refine ⟨pcsStand_modGang s _ _, hadd.trans ?_⟩
  rw [hacks]

/-- The initiator's own PREPARE: the gang is READY with its first ACK, or aborted. -/
theorem takePrepare_spec {g : Gang} (m : PrepareMsg) (h : s.gang g.gid = some g) (hinit : g.initHere = true) (hacks : g.acks = []) (hmany : 2 ≤ g.members.length) :
    PcsStand s (s.takePrepare g m) ∧ ∃ y, (s.takePrepare g m).gang g.gid = some y ∧ y.gid = g.gid ∧ y.initHere = g.initHere ∧ y.part = g.part ∧
      y.members = g.members ∧ y.ctr = g.ctr := by
  unfold State.takePrepare
  have hstand : Standing s (s.prepareRefusal g.queue m).1 := standing_prepareRefusal s _ _
  generalize s.prepareRefusal g.queue m = x at hstand ⊢
  obtain ⟨u, r⟩ := x
  have hu : u.gang g.gid = some g := (hstand.gang _).trans h
  dsimp only
  split
  · have hslots := gang_modGang u (fun x => { x with slots := (u.gangSlotsFor g.queue m).getD [] }) (fun _ => rfl) hu
    obtain ⟨hpcs, y, hy, ⟨hgid, hyinit, hpart, hmembers, hctr, hyacks⟩, hstate, -⟩ := enterState_spec _ .ready hslots
    have hgid' : y.gid = g.gid := hgid
    generalize (u.modGang g.gid fun x => { x with slots := (u.gangSlotsFor g.queue m).getD [] }).enterState g.gid .ready = v at hpcs hy ⊢
    have hpcs' : PcsStand s v := (hstand.pcs.trans (pcsStand_modGang u _ _)).trans hpcs
    obtain ⟨hack, hz⟩ := addAck_first v (g := y) (by rw [hgid', hy]) (hyinit.trans hinit) hstate (hyacks.trans hacks) (by rw [hmembers]; exact hmany)
    rw [hy]
    rw [hgid'] at hz
    exact ⟨hpcs'.trans hack, _, hz, rfl, hyinit, hpart, hmembers, hctr⟩
  · obtain ⟨hpcs, z, hz, ⟨hgid, hzinit, hpart, hmembers, hctr, -⟩, -, -⟩ := abortAll_spec u (BitVec.ofNat 8 r) hu
    exact ⟨hstand.pcs.trans hpcs, z, hz, hgid, hzinit, hpart, hmembers, hctr⟩

/-- The gang of an accepted launch is known under its identifier; where the tables have no route to a member it is aborted with reason 11. -/
theorem launchGang_spec (g : Gang) (hinit : g.initHere = true) (hacks : g.acks = []) (hmany : 2 ≤ g.members.length) :
    PcsStand s (s.launchGang g) ∧ ∃ y ∈ (s.launchGang g).gangs, ((∃ x ∈ g.members.drop 1, s.routeTo x.1 = none) → y.state = .aborted ∧ y.reason = 11) ∧
      y.gid = g.gid ∧ y.initHere = g.initHere ∧ y.part = g.part ∧ y.members = g.members ∧ y.ctr = g.ctr := by
  unfold State.launchGang
  extract_lets old s1 put s2 s3
  have hput (t : State) (off v : Nat) : Standing t (put t off v) := standing_storeOrPark t _ _ _ _ _
  have hpcs1 : PcsStand s s1 := ⟨rfl, fun _ => rfl⟩
  have hgang1 : s1.gang g.gid = some g := by
    have hold : old.find? (fun x => x.gid == g.gid) = none := by
      rw [List.find?_eq_none]
      intro x hx
      simpa using (List.mem_filter.mp hx).2
    have hfind : (old ++ [g]).find? (fun x => x.gid == g.gid) = some g := by
      rw [List.find?_append, hold]
      simp
    exact hfind
  have h2 : Standing s1 s2 := (hput s1 _ _).trans (hput _ _ _)
  have hpcs2 : PcsStand s s2 := hpcs1.trans h2.pcs
  have hgang2 : s2.gang g.gid = some g := (h2.gang _).trans hgang1
  have h3 : Standing s2 s3 := (onlyFabric_foldl _ _ s2 fun t m => by
    split
    · exact .refl t
    · exact onlyFabric_toFabric t _ _).standing
  have hpcs3 : PcsStand s s3 := hpcs2.trans h3.pcs
  have hgang3 : s3.gang g.gid = some g := (h3.gang _).trans hgang2
  clear_value s3 s2
  split
  next hroutes =>
    obtain ⟨hpcs, y, hy, hsame⟩ := takePrepare_spec s3 (s.prepareOf g 0) hgang3 hinit hacks hmany
    refine ⟨hpcs3.trans hpcs, y, List.mem_of_find?_eq_some hy, fun ⟨x, hx, hnone⟩ => ?_, hsame⟩
    have hsome := List.all_eq_true.mp hroutes x hx
    rw [hnone] at hsome
    exact nomatch hsome
  next =>
    obtain ⟨hpcs, z, hz, ⟨hgid, hzinit, hpart, hmembers, hctr, -⟩, hstate, hreason⟩ := abortAll_spec s2 11 hgang2
    exact ⟨hpcs2.trans hpcs, z, List.mem_of_find?_eq_some hz, fun _ => ⟨hstate, hreason⟩, hgid, hzinit, hpart, hmembers, hctr⟩

end

end Sys2Proof.Machine

end

section

/-! The gang instructions (O31). -/

namespace Sys2Proof.Machine

/-! ### glaunch asks firmware, and has its effect with the answer (R439) -/

section
variable {s : State} {a b : Reg} {ps qs ms : List PAddr} {r h m : List Byte} {n : Nat} {ctr : Option (Word × PAddr)}

theorem glaunch_exec (hr : r = ps.flatMap fun p => s.bytesAt p 16) (hh : h = qs.flatMap fun p => s.bytesAt p 16) (hm : m = ms.flatMap fun p => s.bytesAt p 16)
    (hn : fld h 0 4 = n) (hc : CanIssue s [a, b] false) (hps : s.record (s.reg a) 64 128 true = .ok ps) (hqs : s.record (s.reg b) 64 16 false = .ok qs)
    (hopen : ∀ p ∈ ps ++ qs ++ ms, s.parkedBlock p = false) (hdone : s.accessesDone s.cur = true) (hmany : 2 ≤ n) (hfew : n ≤ 4096)
    (hms : s.record (s.reg b) 64 ((8 + 8 * n + 15) / 16 * 16) false = .ok ms) (hok : s.gangRecordOk r = true) (hset : memberSetOk s.ep n m = true)
    (hpart : (s.wq ((memberEntries n m).headD default).2.toNat).part = s.myPart) (hctr : CounterIs s (fld64 r 0x58) ctr) :
    exec (.glaunch a b) s = .next (s.asks fun y => (y.launchGang (y.newGang (s.reg a) r ps (memberEntries n m) ctr)).advance) := by
  have hecc : s.ecc = [] := hc.2.2
  have hopenp : ∀ p ∈ ps, s.parkedBlock p = false := fun p hp => hopen p (by simp [hp])
  have hopenq : ∀ p ∈ qs, s.parkedBlock p = false := fun p hp => hopen p (by simp [hp])
  have hopenm : ∀ p ∈ ms, s.parkedBlock p = false := fun p hp => hopen p (by simp [hp])
  have hexec : exec (.glaunch a b) s = execGlaunch a b s := rfl
  rw [hexec, execGlaunch, issue_ok s [a, b] [] false _ hc]
  dsimp only
  rw [withRecord_ok _ hps, withRecord_ok _ hqs, if_neg (by simp [hdone]), readRecord_clean s _ _ hecc hopenp, ← hr, readRecord_clean s _ _ hecc hopenq, ← hh, hn,
    if_neg (by simp; omega), withRecord_ok _ hms, readRecord_clean s _ _ hecc hopenm, ← hm, if_neg (by simp [hok, hset]), if_neg (by rw [bne_iff_ne, not_not]; exact hpart), optCounter_is hctr]

/-- The CP is held until firmware has accepted. -/
theorem glaunch_asks {i : Instr} {k : State → State} (hexec : exec i s = .next (s.asks k)) (hask : (s.cp s.cur).asked = false) : AsksFirst i s := by
  refine ⟨s.asks k, hexec, ?_⟩
  have hk : s.asks k = s.modCp s.cur fun p => { p with asked := true, answerDue := true } := if_neg (by simp [hask])
  rw [hk]
  exact ⟨onlyCp_modCp s.cur s _, sameBytes_of rfl rfl, State.cp_modCp_same s s.cur _⟩

/-- With the answer the gang is known. -/
theorem glaunch_answered {i : Instr} {g : State → Gang} (hexec : exec i s = .next (s.asks fun y => (y.launchGang (g y)).advance)) (hask : (s.cp s.cur).asked = true)
    (hinit : (g s).initHere = true) (hacks : (g s).acks = []) (hmany : 2 ≤ (g s).members.length) :
    Completes i s fun t => t.pc = s.pc + 4 ∧ (t.cp s.cur).asked = false ∧
      ∃ y ∈ t.gangs, ((∃ x ∈ (g s).members.drop 1, s.routeTo x.1 = none) → y.state = .aborted ∧ y.reason = 11) ∧
        y.gid = (g s).gid ∧ y.initHere = (g s).initHere ∧ y.part = (g s).part ∧ y.members = (g s).members ∧ y.ctr = (g s).ctr := by
  refine ⟨s.asks fun y => (y.launchGang (g y)).advance, hexec, ?_⟩
  generalize ht : s.asks (fun y => (y.launchGang (g y)).advance) = t
  rw [State.asks, if_pos hask] at ht
  obtain ⟨⟨hcur, hpcs⟩, hgang⟩ := launchGang_spec s (g s) hinit hacks hmany
  generalize s.launchGang (g s) = u at hcur hpcs hgang ht
  subst ht
  let t := u.advance.modCp s.cur fun p => { p with asked := false }
  have hgangs : t.gangs = u.gangs := by
    have hadvance : u.advance.gangs = u.gangs := by rw [(onlyCp_advance u).1.1]
    exact hadvance
  have hcp : (t.cp s.cur) = { u.advance.cp s.cur with asked := false } := State.cp_modCp_same ..
  have hadv : u.advance.cp s.cur = { (u.cp s.cur).asIssued with pc := (u.cp s.cur).pc + 4 } := hcur ▸ advance_cp u
  have htcur : t.cur = s.cur := by
    have hadvance : u.advance.cur = u.cur := by rw [(onlyCp_advance u).1.1]
    exact hadvance.trans hcur
  refine ⟨?_, congrArg Cp.asked hcp, by rwa [hgangs]⟩
  have hpc : t.pc = (t.cp s.cur).pc := by rw [State.pc, htcur]
  rw [hpc, hcp, hadv]
  exact congrArg (· + 4) (hpcs s.cur)

/-- The gang that glaunch makes. -/
theorem glaunch_completes (hexec : exec (.glaunch a b) s = .next (s.asks fun y => (y.launchGang (y.newGang (s.reg a) r ps (memberEntries n m) ctr)).advance))
    (hask : (s.cp s.cur).asked = true) (hmany : 2 ≤ n) :
    Completes (.glaunch a b) s fun t => t.pc = s.pc + 4 ∧ (t.cp s.cur).asked = false ∧
      ∃ y ∈ t.gangs, ((∃ x ∈ (memberEntries n m).drop 1, s.routeTo x.1 = none) → y.state = .aborted ∧ y.reason = 11) ∧
        y.gid = BitVec.ofNat 64 (s.ep.toNat * 2 ^ 44 + fld r 0x40 8) ∧ y.initHere = true ∧ y.part = s.myPart ∧ y.members = memberEntries n m ∧ y.ctr = ctr := by
  have hlen : (memberEntries n m).length = n := by rw [memberEntries, List.length_map, List.length_range]
  exact glaunch_answered (g := fun y => y.newGang (s.reg a) r ps (memberEntries n m) ctr) hexec hask rfl rfl (hlen.symm ▸ hmany)

end

/-! ### What a collective's end records (R300) -/

section
variable {s t : State} {c : CpId} {j : CollJob}

/-- The record of a collective's fault, in the words of O31. -/
theorem CollEnds.reported {e : BitVec 8 × Word × Word × Word} (h : CollEnds s t c j e) :
    ∃ f : FaultRec, (t.core c.core).recq = (s.core c.core).recq ++ [f] ∧ f.extractLsb' 0 8 = e.1 ∧ f.extractLsb' 192 64 = j.pc ∧ f.extractLsb' 384 64 = e.2.2.2 := by
  obtain ⟨f, hq, hcause, hpc, hdetail⟩ := h.record
  exact ⟨f.bits, hq, f.bits_cause.trans hcause, f.bits_pc.trans hpc, f.bits_detail.trans hdetail⟩

/-- FORMAT names no member. -/
theorem CollEnds.format {rec : Word} (h : CollEnds s t c j (cFORMAT, rec, 0, 0)) :
    ∃ f : FaultRec, (t.core c.core).recq = (s.core c.core).recq ++ [f] ∧ f.extractLsb' 0 8 = BitVec.ofNat 8 9 ∧
      f.extractLsb' 192 64 = j.pc ∧ (9 = 7 → f.extractLsb' 384 12 = 0 ∧ f.getLsbD 447 = true) := by
  obtain ⟨f, hq, hcause, hpc, -⟩ := h.reported
  exact ⟨f, hq, hcause, hpc, nofun⟩

/-- UNCORR names the member at which the error arose. -/
theorem CollEnds.uncorr {k : Nat} (hk : k < 4096) (h : CollEnds s t c j (failedAt k)) :
    ∃ f : FaultRec, (t.core c.core).recq = (s.core c.core).recq ++ [f] ∧ f.extractLsb' 0 8 = BitVec.ofNat 8 7 ∧
      f.extractLsb' 192 64 = j.pc ∧ (7 = 7 → f.extractLsb' 384 12 = 0 ∧ f.getLsbD 447 = true) ∧ f.extractLsb' 416 12 = BitVec.ofNat 12 k := by
  obtain ⟨f, hq, hcause, hpc, hdetail⟩ := h.reported
  obtain ⟨hlow, hmark, hmember⟩ := detail_of_member f k hk hdetail
  exact ⟨f, hq, hcause, hpc, fun _ => ⟨hlow, hmark⟩, hmember⟩

end

/-- Settles O31: glaunch goes through the protocol's first moves at the initiator, coll through its resolved buffers, and a collective's end through its record and RESULT. -/
theorem gangInstructions : Obligations.GangInstructions := by
  intro s d a b ps qs ms r h m g c j shards ctr hr hh hm n opened counter
  refine ⟨?_, ?_, ?_, ?_⟩
  · intro hc hps hqs hopen hdone hmany hfew hms hok hset hpart hctr
    have hexec := glaunch_exec (n := n) hr hh hm rfl hc hps hqs hopen hdone hmany hfew hms hok hset hpart hctr
    exact ⟨glaunch_asks hexec, fun hask => glaunch_completes hexec hask hmany⟩
  · intro hc
    obtain ⟨t, hexec, honly, hpc, hreg, e, hq, he, hkind, hrem, -, hask⟩ := asks_of_putPending (asks_of_value (q := Ask.gang) (gstat_exec d a s) hc) hc
    exact ⟨t, hexec, honly, hpc, hreg, e, hq, he, hkind, hrem, hask⟩
  · intro src dst own hc hps hopen hdone hfew hg hgid hok hctr hsrc hdst hown
    exact coll_joins hr hc hps hopen hdone hfew hg hgid hok hctr hsrc hdst hown
  · intro hfind hgang hfault hmem hsurf
    refine ⟨?_, ?_, ?_, ?_, ?_, ?_⟩
    · intro l hno hlen hall
      exact collComplete_agrees shards hfind hgang hfault l hno hlen hall
    · intro l hno hlen hany hroom
      obtain ⟨t, hexec, hends⟩ := collComplete_differs shards hfind hgang hfault hmem hsurf l hno hlen hany hroom
      exact ⟨t, hexec, hends.left, hends.format, hends.outbox, hends.result, hends.bytes⟩
    · intro hno
      exact ⟨s, collComplete_data_early shards hfind hgang hfault hno, rfl⟩
    · intro k hk hroom hno
      obtain ⟨t, hexec, hends⟩ := collComplete_fails shards hfind hgang hfault hmem hsurf k hno hroom
      obtain ⟨f, hq, hcause, hpc, hdetail, -⟩ := hends.uncorr hk
      exact ⟨t, hexec, hends.left, ⟨f, hq, hcause, hpc, hdetail⟩, hends.result, hends.bytes⟩
    · intro k old s4 hk hroom hyes hecc hold hw hecc4 hmem4
      obtain ⟨t, hexec, hleft, hrecq, hends⟩ := collComplete_fails_moving shards hfind hgang hfault hsurf k hroom hyes hecc hold hw hmem4
      obtain ⟨f, hq, hcause, hpc, hdetail, hmember⟩ := hends.uncorr hk
      have hq' : (t.core c.core).recq = (s.core c.core).recq ++ [f] := by rw [hq, hrecq]
      refine ⟨t, hexec, hleft, ⟨f, hq', hcause, hpc, hdetail⟩, hends.result, hends.bytes, ?_⟩
      rw [hq', List.drop_left]
      intro x hx
      rwa [List.mem_singleton.mp hx]
    · intro s4 hw hyes hctr hecc4 hmem4
      refine ⟨fun hd => collComplete_done shards hfind hgang hfault hsurf hw hyes hctr hmem4 hd, fun pa hd hpa hapart hsel => ?_⟩
      exact collComplete_publishes shards hfind hgang hfault hsurf hw hyes hctr hmem4 hecc4 hd hpa hapart hsel

end Sys2Proof.Machine

end

section
/-! Every word that decodes is the word of its instruction (O59): a group's decoder accepts only what its format packs. -/
namespace Sys2Proof

/-! ### Words and their bits [14:0] as packed fields (R199) -/

theorem packWord_fields (w : W32) : packWord (opOf w) (rdOf w) (raOf w) (loOf w) = w := by
  ext j hj; grind [packWord, opOf, rdOf, raOf, loOf]

theorem exists_loR (lo : BitVec 15) : ∃ b c f, lo = loR b c f :=
  ⟨lo.extractLsb' 10 5, lo.extractLsb' 5 5, lo.extractLsb' 0 5, by ext j hj; grind [loR]⟩
theorem exists_loK (lo : BitVec 15) : ∃ p w f, lo = loK p w f :=
  ⟨lo.extractLsb' 9 6, lo.extractLsb' 3 6, lo.extractLsb' 0 3, by ext j hj; grind [loK]⟩
theorem exists_loM (lo : BitVec 15) : ∃ z i, lo = loM z i :=
  ⟨lo.extractLsb' 12 3, lo.extractLsb' 0 12, by ext j hj; grind [loM]⟩
theorem exists_loE (lo : BitVec 15) : ∃ b i, lo = loE b i :=
  ⟨lo.extractLsb' 10 5, lo.extractLsb' 0 10, by ext j hj; grind [loE]⟩
theorem exists_loN (lo : BitVec 15) (h : lo.extractLsb' 8 7 = 0) : ∃ f s, lo = loN f s :=
  ⟨lo.extractLsb' 6 2, lo.extractLsb' 0 6, by ext j hj; have := congrArg (·.getLsbD (j - 8)) h; grind [loN]⟩

/-! ### Immediates that their parts make up -/

section
variable {i : BitVec 10}
theorem immRegion_eq (h : i.extractLsb' 2 8 = 0#8) : (0#8 ++ i.extractLsb' 0 2 : BitVec 10) = i := by rw [← h]; ext t ht; grind
theorem immSlot_eq (h : i.extractLsb' 4 6 = 0#6) : (0#6 ++ i.extractLsb' 0 4 : BitVec 10) = i := by rw [← h]; ext t ht; grind
theorem immPort_eq (h : i.extractLsb' 9 1 = 0#1) : (0#1 ++ i.extractLsb' 4 5 ++ i.extractLsb' 0 4 : BitVec 10) = i := by
  rw [← h]; ext t ht; grind
theorem immScope_eq (n : BitVec 7) (h : i.extractLsb' 3 7 = n) : (n ++ i.extractLsb' 0 3 : BitVec 10) = i := by rw [← h]; ext t ht; grind
end

section
variable (d a : Reg) (lo : BitVec 15) (b : BitVec 1)
theorem extract20_ra : (a ++ lo : BitVec 20).extractLsb' 15 5 = a := by ext t ht; grind
theorem extract20_lo : (a ++ lo : BitVec 20).extractLsb' 0 15 = lo := by ext t ht; grind
theorem extract25_rd : (d ++ a ++ lo : BitVec 25).extractLsb' 20 5 = d := by ext t ht; grind
theorem extract25_ra : (d ++ a ++ lo : BitVec 25).extractLsb' 15 5 = a := by ext t ht; grind
theorem extract25_lo : (d ++ a ++ lo : BitVec 25).extractLsb' 0 15 = lo := by ext t ht; grind
theorem extract16_top : (b ++ lo : BitVec 16).extractLsb' 15 1 = b := by ext t ht; grind
theorem extract16_lo : (b ++ lo : BitVec 16).extractLsb' 0 15 = lo := by ext t ht; grind
theorem movhRa_eq {a : Reg} (h : a.extractLsb' 1 2 = 0#2) : (a.extractLsb' 3 2 ++ (0 : BitVec 2) ++ a.extractLsb' 0 1 : BitVec 5) = a := by
  rw [show (0 : BitVec 2) = 0#2 from rfl, ← h]; ext t ht; grind
theorem immWait_eq {lo : BitVec 15} (h : lo.extractLsb' 5 10 = 0#10) : ((0 : BitVec 10) ++ lo.extractLsb' 0 5 : BitVec 15) = lo := by
  rw [show (0 : BitVec 10) = 0#10 from rfl, ← h]; ext t ht; grind
end

/-! ### A group's decoder -/

/-- An instruction is well-formed and its word is that of these fields. -/
def IsWord (i : Instr) (op : Nat) (d a : Reg) (lo : BitVec 15) : Prop := encode i = some (packWord (BitVec.ofNat 7 op) d a lo) ∧ i.wf = true

theorem given_eq_ok {ok : Bool} {e : DecodeError} {i j : Instr} : given ok e i = .ok j ↔ ok = true ∧ i = j := by
  cases ok <;> simp [given]

theorem ite_given_eq_ok {c ok : Bool} {e f : DecodeError} {i j : Instr} :
    (if c then given ok e i else .error f) = .ok j ↔ c = true ∧ ok = true ∧ i = j := by
  cases c <;> simp [given_eq_ok]

theorem ofNat_eq_of_toNat {n : Nat} {f : BitVec n} {k : Nat} (h : f.toNat = k) : f = BitVec.ofNat n k := by simp [← h]

variable {d a : Reg} {lo : BitVec 15} {i : Instr}

theorem isWord_of_decodeAlu (h : decodeAlu d a lo = .ok i) : IsWord i 0x00 d a lo := by
  obtain ⟨b, c, f, rfl⟩ := exists_loR lo
  simp only [decodeAlu, loR_rb, loR_rc, loR_fn] at h
  split at h
  case h_17 => cases h
  case h_14 hf | h_15 hf | h_16 hf =>
    cases ofNat_eq_of_toNat hf
    obtain ⟨hok, rfl⟩ := given_eq_ok.mp h
    obtain ⟨hc, hb⟩ := Bool.and_eq_true_iff.mp hok
    cases eq_of_beq hc
    cases eq_of_beq hb
    exact ⟨rfl, rfl⟩
  all_goals
    rename_i hf
    cases ofNat_eq_of_toNat hf
    obtain ⟨hc, rfl⟩ := given_eq_ok.mp h
    cases eq_of_beq hc
    exact ⟨rfl, rfl⟩

theorem isWord_of_decodeMuldiv (h : decodeMuldiv d a lo = .ok i) : IsWord i 0x01 d a lo := by
  obtain ⟨b, c, f, rfl⟩ := exists_loR lo
  simp only [decodeMuldiv, loR_rb, loR_rc, loR_fn] at h
  split at h
  case h_8 => cases h
  all_goals
    rename_i hf
    cases ofNat_eq_of_toNat hf
    obtain ⟨hc, rfl⟩ := given_eq_ok.mp h
    cases eq_of_beq hc
    exact ⟨rfl, rfl⟩

theorem isWord_of_decodeBitfield (h : decodeBitfield d a lo = .ok i) : IsWord i 0x02 d a lo := by
  obtain ⟨p, w, f, rfl⟩ := exists_loK lo
  simp only [decodeBitfield, loK_pos, loK_wm, loK_fn] at h
  split at h
  case h_4 => cases h
  all_goals
    rename_i hf
    cases ofNat_eq_of_toNat hf
    obtain ⟨hok, rfl⟩ := given_eq_ok.mp h
    exact ⟨rfl, hok⟩

theorem isWord_of_decodeShift (h : decodeShift d a lo = .ok i) : IsWord i 0x0C d a lo := by
  unfold decodeShift at h
  split at h
  case h_4 => cases h
  all_goals
    rename_i hf
    obtain ⟨hok, rfl⟩ := given_eq_ok.mp h
    obtain ⟨f, s, rfl⟩ := exists_loN lo (eq_of_beq hok)
    rw [loN_fn] at hf
    cases ofNat_eq_of_toNat hf
    exact ⟨congrArg (fun s => some (packWord 0x0C d a (loN _ s))) (loN_sh _ s), rfl⟩

theorem isWord_of_decodeJump (h : decodeJump d a lo = .ok i) : IsWord i 0x28 d a lo := by
  obtain ⟨b, c, f, rfl⟩ := exists_loR lo
  simp only [decodeJump, loR_rb, loR_rc, loR_fn] at h
  have zero (hok : (d == 0 && b == 0 && c == 0) = true) : (d = 0 ∧ b = 0) ∧ c = 0 := by simpa using hok
  split at h
  case h_3 hf =>
    cases ofNat_eq_of_toNat hf
    obtain ⟨hok, ha, rfl⟩ := ite_given_eq_ok.mp h
    obtain ⟨⟨rfl, rfl⟩, rfl⟩ := zero hok
    cases eq_of_beq ha
    exact ⟨rfl, rfl⟩
  case h_4 => cases h
  all_goals
    rename_i hf
    cases ofNat_eq_of_toNat hf
    obtain ⟨hok, rfl⟩ := given_eq_ok.mp h
    obtain ⟨⟨rfl, rfl⟩, rfl⟩ := zero hok
    exact ⟨rfl, rfl⟩

theorem isWord_of_decodeFence (h : decodeFence d a lo = .ok i) : IsWord i 0x34 d a lo := by
  obtain ⟨b, c, f, rfl⟩ := exists_loR lo
  simp only [decodeFence, loR_rb, loR_rc, loR_fn] at h
  split at h
  case h_5 => cases h
  all_goals
    rename_i hf
    cases ofNat_eq_of_toNat hf
    obtain ⟨hok, rfl⟩ := given_eq_ok.mp h
    obtain ⟨⟨⟨rfl, rfl⟩, rfl⟩, rfl⟩ : ((d = 0 ∧ a = 0) ∧ b = 0) ∧ c = 0 := by simpa using hok
    exact ⟨rfl, rfl⟩

theorem isWord_of_decodeAmo (h : decodeAmo d a lo = .ok i) : IsWord i 0x38 d a lo := by
  obtain ⟨b, c, f, rfl⟩ := exists_loR lo
  simp only [decodeAmo, loR_rb, loR_rc, loR_fn] at h
  split at h
  case h_3 hf =>
    cases ofNat_eq_of_toNat hf
    cases h
    exact ⟨rfl, rfl⟩
  case h_8 => cases h
  all_goals
    rename_i hf
    cases ofNat_eq_of_toNat hf
    obtain ⟨hc, rfl⟩ := given_eq_ok.mp h
    cases eq_of_beq hc
    exact ⟨rfl, rfl⟩

theorem isWord_of_decodeCsr (h : decodeCsr d a lo = .ok i) : IsWord i 0x48 d a lo := by
  obtain ⟨f, c, rfl⟩ := exists_loM lo
  simp only [decodeCsr, loM_size, loM_imm] at h
  split at h
  case h_1 hf | h_2 hf =>
    cases ofNat_eq_of_toNat hf
    obtain ⟨h0, hok, rfl⟩ := ite_given_eq_ok.mp h
    cases eq_of_beq h0
    exact ⟨rfl, hok⟩
  case h_3 hf | h_4 hf =>
    cases ofNat_eq_of_toNat hf
    obtain ⟨hok, rfl⟩ := given_eq_ok.mp h
    exact ⟨rfl, hok⟩
  case h_5 => cases h

theorem isWord_of_decodeSysc (h : decodeSysc d a lo = .ok i) : IsWord i 0x44 d a lo := by
  unfold decodeSysc at h
  split at h
  case h_4 => cases h
  all_goals
    rename_i hf
    cases ofNat_eq_of_toNat hf
    cases h
    exact ⟨rfl, rfl⟩

/-! ### The opcodes of the scalar and branch groups, and of the memory and system groups (R201) -/

theorem isWord_of_decodeScalar {op : Nat} (h : decodeScalar op d a lo = .ok i) : IsWord i op d a lo := by
  unfold decodeScalar at h
  split at h
  case h_1 => exact isWord_of_decodeAlu h
  case h_2 => exact isWord_of_decodeMuldiv h
  case h_3 => exact isWord_of_decodeBitfield h
  case h_12 => exact isWord_of_decodeShift h
  case h_13 => -- movi
    cases h
    exact ⟨congrArg₂ (fun r l => some (packWord 0x10 d r l)) (extract20_ra a lo) (extract20_lo a lo), rfl⟩
  case h_14 => -- movh
    obtain ⟨hok, rfl⟩ := given_eq_ok.mp h
    refine ⟨?_, rfl⟩
    change some (packWord _ d (_ ++ _ ++ _) _) = _
    rw [extract16_top, extract16_lo, movhRa_eq (eq_of_beq hok)]
    rfl
  case h_21 | h_22 => -- jmp, call
    cases h
    refine ⟨?_, rfl⟩
    change some (packWord _ _ _ _) = _
    rw [extract25_rd, extract25_ra, extract25_lo]
    rfl
  case h_23 => exact isWord_of_decodeJump h
  case h_24 => cases h
  all_goals
    cases h
    exact ⟨rfl, rfl⟩

theorem isWord_of_decodeMemSys {op : Nat} (h : decodeMemSys op d a lo = .ok i) : IsWord i op d a lo := by
  obtain ⟨z, k, rfl⟩ := exists_loM lo
  simp only [decodeMemSys, loM_size, loM_imm] at h
  split at h
  case h_1 | h_2 | h_3 | h_4 => -- ld, st, ldf, stf
    obtain ⟨hok, rfl⟩ := given_eq_ok.mp h
    exact ⟨rfl, hok⟩
  case h_5 => exact isWord_of_decodeFence h
  case h_6 => -- pref
    obtain ⟨hok, rfl⟩ := given_eq_ok.mp h
    obtain ⟨hz, hd⟩ := Bool.and_eq_true_iff.mp hok
    cases eq_of_beq hz
    cases eq_of_beq hd
    exact ⟨rfl, rfl⟩
  case h_7 => exact isWord_of_decodeAmo h
  case h_8 | h_11 => -- trap, bkpt
    obtain ⟨hok, rfl⟩ := given_eq_ok.mp h
    obtain ⟨hd, ha⟩ := Bool.and_eq_true_iff.mp hok
    cases eq_of_beq hd
    cases eq_of_beq ha
    exact ⟨rfl, rfl⟩
  case h_9 => -- tret
    obtain ⟨hok, rfl⟩ := given_eq_ok.mp h
    obtain ⟨⟨rfl, rfl⟩, hlo⟩ : (d = 0 ∧ a = 0) ∧ loM z k = 0 := by simpa using hok
    exact ⟨congrArg (fun x => some (packWord 0x41 0 0 x)) hlo.symm, rfl⟩
  case h_10 => -- wait
    obtain ⟨hok, rfl⟩ := given_eq_ok.mp h
    obtain ⟨hd, hm⟩ := Bool.and_eq_true_iff.mp hok
    cases eq_of_beq hd
    exact ⟨congrArg (fun l => some (packWord 0x42 0 a l)) (immWait_eq (eq_of_beq hm)), rfl⟩
  case h_12 => exact isWord_of_decodeSysc h
  case h_13 => exact isWord_of_decodeCsr h
  case h_14 => cases h

/-! ### The commands (R206) -/

/-- The word of a command whose parts make up the immediate. -/
theorem isWord_of_encE {op : Nat} {b : Reg} {j k : BitVec 10} (h : encode i = encE (BitVec.ofNat 7 op) d a b j) (hj : j = k) (hw : i.wf = true) :
    IsWord i op d a (loE b k) := by
  subst hj
  exact ⟨h, hw⟩

section
variable {k : BitVec 10}
theorem immRstat_eq {f : BitVec 5} (ht : k.extractLsb' 7 3 = 0#3) (hf : k.extractLsb' 2 5 = f) :
    (0#3 ++ f ++ k.extractLsb' 0 2 : BitVec 10) = k := by rw [← ht, ← hf]; ext t ht; grind
theorem immSstop_eq (hp : k.extractLsb' 9 1 = 0#1) (h0 : k.extractLsb' 0 4 = 0#4) : (0#1 ++ k.extractLsb' 4 5 ++ 0#4 : BitVec 10) = k := by
  rw [← h0]; exact immPort_eq hp
theorem immRing_eq (hp : k.extractLsb' 9 1 = 0#1) (hl : k.extractLsb' 8 1 = 0#1) : (0#2 ++ k.extractLsb' 0 8 : BitVec 10) = k := by
  rw [show 0#2 = k.extractLsb' 9 1 ++ k.extractLsb' 8 1 by rw [hp, hl]; rfl]; ext t ht; grind
theorem immKvpool_eq (hp : k.extractLsb' 9 1 ≠ 0#1) (hl : k.extractLsb' 0 9 = 0#9) : 0x200#10 = k := by
  have h1 : k.extractLsb' 9 1 = 1#1 := by revert hp; generalize k.extractLsb' 9 1 = y; decide +revert
  have hk : k = k.extractLsb' 9 1 ++ k.extractLsb' 0 9 := by ext t ht; grind
  rw [hk, h1, hl]
  rfl
end

/-- One case for each way in which the rows of R206 use their registers and the immediate. -/
theorem isWord_of_decodeE {op : Nat} (h : decodeE op d a lo = .ok i) : IsWord i op d a lo := by
  obtain ⟨b, k, rfl⟩ := exists_loE lo
  simp only [decodeE, loE_rb, loE_imm] at h
  split at h
  case h_5 => -- rstat
    split at h
    case isFalse => cases h
    case isTrue hok =>
      obtain ⟨⟨rfl, rfl⟩, ht⟩ : (a = 0 ∧ b = 0) ∧ k.extractLsb' 7 3 = 0#3 := by simpa using hok
      split at h
      case h_10 => cases h
      all_goals
        rename_i hf
        cases h
        exact isWord_of_encE rfl (immRstat_eq ht (ofNat_eq_of_toNat hf)) rfl
  case h_9 => -- sbind
    obtain ⟨hok, hport, rfl⟩ := ite_given_eq_ok.mp h
    obtain ⟨⟨⟨rfl, rfl⟩, rfl⟩, hp⟩ : ((d = 0 ∧ a = 0) ∧ b = 0) ∧ k.extractLsb' 9 1 = 0#1 := by simpa using hok
    exact isWord_of_encE rfl (immPort_eq hp) hport
  case h_10 => -- sbindt
    obtain ⟨hok, hport, rfl⟩ := ite_given_eq_ok.mp h
    obtain ⟨⟨rfl, rfl⟩, hp⟩ : (d = 0 ∧ b = 0) ∧ k.extractLsb' 9 1 = 0#1 := by simpa using hok
    exact isWord_of_encE rfl (immPort_eq hp) hport
  case h_11 => -- sstop
    obtain ⟨hok, hport, rfl⟩ := ite_given_eq_ok.mp h
    obtain ⟨⟨⟨⟨rfl, rfl⟩, rfl⟩, hp⟩, h0⟩ : (((d = 0 ∧ a = 0) ∧ b = 0) ∧ k.extractLsb' 9 1 = 0#1) ∧ k.extractLsb' 0 4 = 0#4 := by
      simpa using hok
    exact isWord_of_encE rfl (immSstop_eq hp h0) hport
  case h_16 | h_17 => -- sig, waitge
    obtain ⟨hok, hscope, rfl⟩ := ite_given_eq_ok.mp h
    obtain ⟨rfl, hs⟩ : d = 0 ∧ k.extractLsb' 3 7 = 0#7 := by simpa using hok
    exact isWord_of_encE rfl (immScope_eq _ hs) hscope
  case h_18 => -- pub
    obtain ⟨hok, hscope, rfl⟩ := ite_given_eq_ok.mp h
    cases eq_of_beq hok
    exact isWord_of_encE rfl (immScope_eq _ rfl) hscope
  case h_33 => -- mstat
    split at h
    case isFalse => cases h
    case isTrue hok =>
      obtain ⟨rfl, hr⟩ : b = 0 ∧ k.extractLsb' 2 8 = 0#8 := by simpa using hok
      have hk := immRegion_eq hr
      generalize k.extractLsb' 0 2 = r at h hk
      split at h
      case h_4 hn0 hn1 hn2 =>
        cases h
        have hlt : r.toNat < 4 := r.isLt
        have hr3 : r.toNat = 3 := by
          have h0 : r.toNat ≠ 0 := hn0
          have h1 : r.toNat ≠ 1 := hn1
          have h2 : r.toNat ≠ 2 := hn2
          omega
        exact isWord_of_encE rfl (by rw [← hk, ofNat_eq_of_toNat hr3]; rfl) rfl
      all_goals
        rename_i hf
        cases h
        exact isWord_of_encE rfl (by rw [← hk, ofNat_eq_of_toNat hf]; rfl) rfl
  case h_34 => -- ringset, kvpool
    split at h
    case isFalse => cases h
    case isTrue hok =>
      obtain ⟨rfl, rfl⟩ : d = 0 ∧ b = 0 := by simpa using hok
      split at h
      case isTrue hp =>
        obtain ⟨hl, rfl⟩ := given_eq_ok.mp h
        exact isWord_of_encE rfl (immRing_eq (eq_of_beq hp) (eq_of_beq hl)) rfl
      case isFalse hp =>
        obtain ⟨hl, rfl⟩ := given_eq_ok.mp h
        exact isWord_of_encE rfl (immKvpool_eq (by simpa using hp) (eq_of_beq hl)) rfl
  case h_38 => cases h
  all_goals
    obtain ⟨hok, rfl⟩ := given_eq_ok.mp h
  case h_1 => -- rload
    obtain ⟨rfl, hr⟩ : d = 0 ∧ k.extractLsb' 2 8 = 0#8 := by simpa using hok
    exact isWord_of_encE rfl (immRegion_eq hr) rfl
  case h_2 | h_6 | h_7 => -- rarm, rsave, rrest
    obtain ⟨⟨rfl, rfl⟩, hr⟩ : (d = 0 ∧ b = 0) ∧ k.extractLsb' 2 8 = 0#8 := by simpa using hok
    exact isWord_of_encE rfl (immRegion_eq hr) rfl
  case h_3 | h_4 => -- rgo, rstop
    obtain ⟨⟨⟨rfl, rfl⟩, rfl⟩, hr⟩ : ((d = 0 ∧ a = 0) ∧ b = 0) ∧ k.extractLsb' 2 8 = 0#8 := by simpa using hok
    exact isWord_of_encE rfl (immRegion_eq hr) rfl
  case h_8 | h_14 | h_15 | h_32 => -- spat, stgdef, stgrel, mload
    obtain ⟨⟨rfl, rfl⟩, hk⟩ : (d = 0 ∧ b = 0) ∧ k.extractLsb' 4 6 = 0#6 := by simpa using hok
    exact isWord_of_encE rfl (immSlot_eq hk) rfl
  case h_24 | h_25 => -- cbar
    obtain ⟨⟨⟨rfl, rfl⟩, rfl⟩, hk⟩ : ((d = 0 ∧ a = 0) ∧ b = 0) ∧ k.extractLsb' 4 6 = 0#6 := by simpa using hok
    exact isWord_of_encE rfl (immSlot_eq hk) rfl
  case h_26 => -- cpeer
    obtain ⟨⟨rfl, rfl⟩, hs⟩ : (d = 0 ∧ b = 0) ∧ k.extractLsb' 3 7 = 0#7 := by simpa using hok
    exact isWord_of_encE rfl (immScope_eq _ hs) rfl
  case h_12 | h_13 | h_20 | h_27 | h_31 | h_36 => -- cpy, cpyg, unbind, attn, kvrel, coll
    obtain ⟨⟨rfl, rfl⟩, rfl⟩ : (d = 0 ∧ b = 0) ∧ k = 0 := by simpa using hok
    exact isWord_of_encE rfl rfl rfl
  case h_19 | h_28 | h_29 | h_30 => -- bind, kvapp, kvlook, kvfork
    cases eq_of_beq hok
    exact isWord_of_encE rfl rfl rfl
  case h_21 => -- trig
    obtain ⟨⟨⟨rfl, rfl⟩, rfl⟩, rfl⟩ : ((d = 0 ∧ a = 0) ∧ b = 0) ∧ k = 0 := by simpa using hok
    exact isWord_of_encE rfl rfl rfl
  case h_22 | h_23 | h_35 => -- launch, tinv, glaunch
    obtain ⟨rfl, rfl⟩ : d = 0 ∧ k = 0 := by simpa using hok
    exact isWord_of_encE rfl rfl rfl
  case h_37 => -- gstat
    obtain ⟨rfl, rfl⟩ : b = 0 ∧ k = 0 := by simpa using hok
    exact isWord_of_encE rfl rfl rfl

/-! ### The statement -/

theorem isWord_of_decodeFields {op : BitVec 7} (h : decodeFields op d a lo = .ok i) : IsWord i op.toNat d a lo := by
  unfold decodeFields at h
  split at h
  · exact isWord_of_decodeScalar h
  · split at h
    · exact isWord_of_decodeMemSys h
    · exact isWord_of_decodeE h

/-- Settles O59: a word is its fields packed, and each group's decoder accepts only the fields that its instruction's word packs. -/
theorem decodeEncode : Obligations.DecodeEncode := by
  unfold Obligations.DecodeEncode
  intro w i h
  obtain ⟨he, hw⟩ := isWord_of_decodeFields h
  rw [BitVec.ofNat_toNat, BitVec.setWidth_eq, packWord_fields] at he
  exact ⟨he, hw⟩

end Sys2Proof
end

section
/-! Arithmetic, logic, bit fields and constants (O1): the values of the alu group. -/
namespace Sys2Proof.Machine

/-! ### Shifts by the whole count (R212) -/

theorem shlVal_eq (x : Word) (n : Nat) : shlVal x n = BitVec.ofNat 64 (x.toNat * 2 ^ n) := by
  apply BitVec.eq_of_toNat_eq
  unfold shlVal
  split
  case isTrue h =>
    have hd : 2 ^ 64 ∣ x.toNat * 2 ^ n := Dvd.dvd.mul_left (Nat.pow_dvd_pow 2 h) _
    rw [BitVec.toNat_ofNat, Nat.mod_eq_zero_of_dvd hd]
    rfl
  case isFalse => rw [BitVec.toNat_shiftLeft, BitVec.toNat_ofNat, Nat.shiftLeft_eq]

theorem shrVal_eq (x : Word) (n : Nat) : shrVal x n = BitVec.ofNat 64 (x.toNat / 2 ^ n) := by
  apply BitVec.eq_of_toNat_eq
  have hlt : x.toNat / 2 ^ n < 2 ^ 64 := lt_of_le_of_lt (Nat.div_le_self _ _) x.isLt
  rw [BitVec.toNat_ofNat, Nat.mod_eq_of_lt hlt]
  unfold shrVal
  split
  case isTrue h => exact (Nat.div_eq_of_lt (lt_of_lt_of_le x.isLt (Nat.pow_le_pow_right (by omega) h))).symm
  case isFalse => rw [BitVec.toNat_ushiftRight, Nat.shiftRight_eq_div_pow]

/-- A count past the width leaves the sign alone. -/
theorem sarVal_eq (x : Word) (n : Nat) : sarVal x n = BitVec.ofInt 64 (x.toInt / 2 ^ n) := by
  have h : x.toInt / 2 ^ Nat.min n 63 = x.toInt / 2 ^ n := by
    rcases Nat.le_total n 63 with hn | hn
    · rw [show Nat.min n 63 = n from Nat.min_eq_left hn]
    · rw [show Nat.min n 63 = 63 from Nat.min_eq_right hn]
      have hp : (2 : Int) ^ 63 ≤ 2 ^ n := by exact_mod_cast Nat.pow_le_pow_right (by omega) hn
      have hlo := BitVec.le_toInt x
      have hhi := BitVec.toInt_lt (x := x)
      rcases lt_or_ge x.toInt 0 with hx | hx
      · rw [Int.ediv_eq_neg_one_of_neg_of_le hx (by omega), Int.ediv_eq_neg_one_of_neg_of_le hx (by omega)]
      · rw [Int.ediv_eq_zero_of_lt hx (by omega), Int.ediv_eq_zero_of_lt hx (by omega)]
  rw [← h]
  exact congrArg (BitVec.ofInt 64) (Int.shiftRight_eq_div_pow ..)

theorem add_eq_ofNat (x y : Word) : x + y = BitVec.ofNat 64 (x.toNat + y.toNat) := by
  rw [BitVec.ofNat_add, BitVec.ofNat_toNat, BitVec.ofNat_toNat, BitVec.setWidth_eq, BitVec.setWidth_eq]

theorem ofInt_toNat (x : Word) : BitVec.ofInt 64 (x.toNat : Int) = x := by
  rw [BitVec.ofInt_natCast, BitVec.ofNat_toNat, BitVec.setWidth_eq]

theorem sub_eq_ofInt (x y : Word) : x - y = BitVec.ofInt 64 ((x.toNat : Int) - (y.toNat : Int)) := by
  refine sub_eq_of_eq_add ?_
  calc x = BitVec.ofInt 64 ((x.toNat : Int) - y.toNat + y.toNat) := by rw [sub_add_cancel, ofInt_toNat]
    _ = _ := by rw [BitVec.ofInt_add, ofInt_toNat y]

theorem add_sx_eq {n : Nat} (x : Word) (i : BitVec n) : x + sx i = BitVec.ofInt 64 ((x.toNat : Int) + i.toInt) := by
  rw [BitVec.ofInt_add, ofInt_toNat]
  rfl

theorem minVal_eq (x y : Word) : minVal x y = BitVec.ofInt 64 (Min.min x.toInt y.toInt) := by
  unfold minVal
  split
  · rw [min_eq_left (by assumption), BitVec.ofInt_toInt]
  · rw [min_eq_right (by omega), BitVec.ofInt_toInt]

theorem maxVal_eq (x y : Word) : maxVal x y = BitVec.ofInt 64 (Max.max x.toInt y.toInt) := by
  unfold maxVal
  split
  · rw [max_eq_right (by assumption), BitVec.ofInt_toInt]
  · rw [max_eq_left (by omega), BitVec.ofInt_toInt]

theorem toInt_sx (i : BitVec 15) : (sx i).toInt = i.toInt := BitVec.toInt_signExtend_of_le (by omega)

/-! ### Counts of bits (R212) -/

theorem clzFrom_eq (x : Word) (n : Nat) : clzFrom x n = (List.range n).findIdx fun i => x.getLsbD (n - 1 - i) := by
  induction n with
  | zero => rfl
  | succ n ih =>
    have hp : ((fun i => x.getLsbD (n + 1 - 1 - i)) ∘ Nat.succ) = fun i => x.getLsbD (n - 1 - i) :=
      funext fun i => congrArg x.getLsbD (by simp only [Nat.succ_eq_add_one]; omega)
    rw [clzFrom, ih, List.range_succ_eq_map, List.findIdx_cons, List.findIdx_map, hp, Nat.add_sub_cancel, Nat.sub_zero]
    cases x.getLsbD n
    · exact Nat.add_comm ..
    · rfl

/-- The bits not yet seen are those from 64 − n on. -/
theorem ctzFrom_eq (x : Word) (n : Nat) (hn : n ≤ 64) : ctzFrom x n = (List.range n).findIdx fun i => x.getLsbD (64 - n + i) := by
  induction n with
  | zero => rfl
  | succ n ih =>
    have hp : ((fun i => x.getLsbD (64 - (n + 1) + i)) ∘ Nat.succ) = fun i => x.getLsbD (64 - n + i) :=
      funext fun i => congrArg x.getLsbD (by simp only [Nat.succ_eq_add_one]; omega)
    rw [ctzFrom, ih (by omega), List.range_succ_eq_map, List.findIdx_cons, List.findIdx_map, hp, show 63 - n = 64 - (n + 1) + 0 by omega]
    cases x.getLsbD (64 - (n + 1) + 0)
    · exact Nat.add_comm ..
    · rfl

theorem popFrom_eq (x : Word) (n : Nat) : popFrom x n = ((List.range n).filter fun i => x.getLsbD i).length := by
  induction n with
  | zero => rfl
  | succ n ih =>
    rw [popFrom, ih, List.range_succ, List.filter_append, List.length_append, Nat.add_comm]
    congr 1
    cases h : x.getLsbD n <;> simp [h]

theorem clzVal_eq (x : Word) : clzVal x = BitVec.ofNat 64 ((List.range 64).findIdx fun i => x.getLsbD (63 - i)) := by
  rw [clzVal, clzFrom_eq]

theorem ctzVal_eq (x : Word) : ctzVal x = BitVec.ofNat 64 ((List.range 64).findIdx fun i => x.getLsbD i) := by
  simp only [ctzVal, ctzFrom_eq x 64 (le_refl _), Nat.sub_self, Nat.zero_add]

theorem popVal_eq (x : Word) : popVal x = BitVec.ofNat 64 ((List.range 64).filter fun i => x.getLsbD i).length := by
  rw [popVal, popFrom_eq]

/-! ### Bit fields (R214, R215) -/

theorem bfxuVal_eq (x : Word) (p w : BitVec 6) : bfxuVal x p w = BitVec.ofNat 64 (x.toNat / 2 ^ p.toNat % 2 ^ (w.toNat + 1)) := by
  rw [bfxuVal, bits, show p.toNat + w.toNat + 1 - p.toNat = w.toNat + 1 by omega]

/-- The field below half of its range is positive, above it negative. -/
theorem bfxVal_eq (x : Word) (p w : BitVec 6) :
    bfxVal x p w = BitVec.ofInt 64 (Int.bmod (x.toNat / 2 ^ p.toNat % 2 ^ (w.toNat + 1) : Nat) (2 ^ (w.toNat + 1))) := by
  rw [bfxVal, bits, show p.toNat + w.toNat + 1 - p.toNat = w.toNat + 1 by omega]
  have hlt : x.toNat / 2 ^ p.toNat % 2 ^ (w.toNat + 1) < 2 ^ (w.toNat + 1) := Nat.mod_lt _ (Nat.two_pow_pos _)
  generalize x.toNat / 2 ^ p.toNat % 2 ^ (w.toNat + 1) = f at hlt
  have hhalf : ((2 ^ (w.toNat + 1) : Nat) + 1 : Int) / 2 = (2 ^ w.toNat : Nat) := by rw [Nat.pow_succ]; omega
  simp only [Int.bmod, hhalf, Int.emod_eq_of_lt (Int.natCast_nonneg f) (Int.ofNat_lt.mpr hlt), Nat.add_sub_cancel, Nat.cast_lt]
  split <;> simp

/-- A number with a field of it replaced, as what is above the field, the field, and what is below it. -/
theorem replaced_eq (z lo w g : Nat) :
    z - z / 2 ^ lo % 2 ^ w * 2 ^ lo + g * 2 ^ lo = 2 ^ lo * (2 ^ w * (z / 2 ^ lo / 2 ^ w) + g) + z % 2 ^ lo := by
  have hz : z = 2 ^ lo * (2 ^ w * (z / 2 ^ lo / 2 ^ w) + z / 2 ^ lo % 2 ^ w) + z % 2 ^ lo := by
    rw [Nat.div_add_mod, Nat.div_add_mod]
  have hf : z - z / 2 ^ lo % 2 ^ w * 2 ^ lo = 2 ^ lo * (2 ^ w * (z / 2 ^ lo / 2 ^ w)) + z % 2 ^ lo := by
    refine Nat.sub_eq_of_eq_add ?_
    conv_lhs => rw [hz]
    ring
  rw [hf]
  ring

theorem insertBits_eq (z : Word) (lo w v : Nat) : insertBits z lo w v =
    BitVec.ofNat 64 (z.toNat - z.toNat / 2 ^ lo % 2 ^ w * 2 ^ lo + v % 2 ^ w * 2 ^ lo) := by
  rw [replaced_eq]
  apply BitVec.eq_of_getLsbD_eq
  intro j hj
  have hv : v % 2 ^ w < 2 ^ w := Nat.mod_lt _ (Nat.two_pow_pos _)
  have hlow : z.toNat % 2 ^ lo < 2 ^ lo := Nat.mod_lt _ (Nat.two_pow_pos _)
  simp only [insertBits, BitVec.getLsbD_or, BitVec.getLsbD_and, BitVec.getLsbD_not, BitVec.getLsbD_ofNat, Nat.testBit_mul_two_pow,
    Nat.testBit_two_pow_sub_one, Nat.testBit_two_pow_mul_add _ hv, Nat.testBit_two_pow_mul_add _ hlow, hj, decide_true, Bool.true_and]
  simp only [Nat.testBit_mod_two_pow, Nat.testBit_div_two_pow]
  by_cases h1 : j < lo
  · simp [h1, BitVec.getLsbD, Nat.not_le_of_lt h1]
  · by_cases h2 : j - lo < w
    · simp [h1, h2, Nat.le_of_not_lt h1]
    · simp [h1, h2, Nat.le_of_not_lt h1, BitVec.getLsbD, show j - lo - w + w + lo = j by omega]

/-! ### Each instruction as a latency-1 result -/

section
variable (s : State) (d a b : Reg) (i : BitVec 15) (n p w : BitVec 6) (k : BitVec 20) (q : BitVec 2) (h : BitVec 16)
theorem sub_exec : exec (.sub d a b) s = s.result1 [a, b] d fun t => t.reg a - t.reg b := rfl
theorem and_exec : exec (.and d a b) s = s.result1 [a, b] d fun t => t.reg a &&& t.reg b := rfl
theorem or_exec : exec (.or d a b) s = s.result1 [a, b] d fun t => t.reg a ||| t.reg b := rfl
theorem xor_exec : exec (.xor d a b) s = s.result1 [a, b] d fun t => t.reg a ^^^ t.reg b := rfl
theorem andn_exec : exec (.andn d a b) s = s.result1 [a, b] d fun t => t.reg a &&& ~~~(t.reg b) := rfl
theorem shl_exec : exec (.shl d a b) s = s.result1 [a, b] d fun t => shlVal (t.reg a) (t.reg b).toNat := rfl
theorem shr_exec : exec (.shr d a b) s = s.result1 [a, b] d fun t => shrVal (t.reg a) (t.reg b).toNat := rfl
theorem sar_exec : exec (.sar d a b) s = s.result1 [a, b] d fun t => sarVal (t.reg a) (t.reg b).toNat := rfl
theorem slt_exec : exec (.slt d a b) s = s.result1 [a, b] d fun t => sltVal (t.reg a) (t.reg b) := rfl
theorem sltu_exec : exec (.sltu d a b) s = s.result1 [a, b] d fun t => sltuVal (t.reg a) (t.reg b) := rfl
theorem min_exec : exec (.min d a b) s = s.result1 [a, b] d fun t => minVal (t.reg a) (t.reg b) := rfl
theorem max_exec : exec (.max d a b) s = s.result1 [a, b] d fun t => maxVal (t.reg a) (t.reg b) := rfl
theorem clz_exec : exec (.clz d a) s = s.result1 [a] d fun t => clzVal (t.reg a) := rfl
theorem ctz_exec : exec (.ctz d a) s = s.result1 [a] d fun t => ctzVal (t.reg a) := rfl
theorem popc_exec : exec (.popc d a) s = s.result1 [a] d fun t => popVal (t.reg a) := rfl
theorem addImm_exec : exec (.addImm d a i) s = s.result1 [a] d fun t => t.reg a + sx i := rfl
theorem andImm_exec : exec (.andImm d a i) s = s.result1 [a] d fun t => t.reg a &&& sx i := rfl
theorem orImm_exec : exec (.orImm d a i) s = s.result1 [a] d fun t => t.reg a ||| sx i := rfl
theorem xorImm_exec : exec (.xorImm d a i) s = s.result1 [a] d fun t => t.reg a ^^^ sx i := rfl
theorem sltImm_exec : exec (.sltImm d a i) s = s.result1 [a] d fun t => sltVal (t.reg a) (sx i) := rfl
theorem sltuImm_exec : exec (.sltuImm d a i) s = s.result1 [a] d fun t => sltuVal (t.reg a) (sx i) := rfl
theorem minImm_exec : exec (.minImm d a i) s = s.result1 [a] d fun t => minVal (t.reg a) (sx i) := rfl
theorem maxImm_exec : exec (.maxImm d a i) s = s.result1 [a] d fun t => maxVal (t.reg a) (sx i) := rfl
theorem shlImm_exec : exec (.shlImm d a n) s = s.result1 [a] d fun t => shlVal (t.reg a) n.toNat := rfl
theorem shrImm_exec : exec (.shrImm d a n) s = s.result1 [a] d fun t => shrVal (t.reg a) n.toNat := rfl
theorem sarImm_exec : exec (.sarImm d a n) s = s.result1 [a] d fun t => sarVal (t.reg a) n.toNat := rfl
theorem bfx_exec : exec (.bfx d a p w) s = s.result1 [a] d fun t => bfxVal (t.reg a) p w := rfl
theorem bfxu_exec : exec (.bfxu d a p w) s = s.result1 [a] d fun t => bfxuVal (t.reg a) p w := rfl
theorem bfi_exec : exec (.bfi d a p w) s = s.result1 [a, d] d fun t => bfiVal (t.reg d) (t.reg a) p w := rfl
theorem movi_exec : exec (.movi d k) s = s.result1 [] d fun _ => sx k := rfl
theorem movh_exec : exec (.movh d q h) s = s.result1 [d] d fun t => insertBits (t.reg d) (16 * q.toNat) 16 h.toNat := rfl
end

/-! ### The statement -/

/-- A latency-1 result with its value in the statement's words. -/
theorem writes_value {i : Instr} {s : State} {reads : List Reg} {d : Reg} {v : Word} (f : State → Word) (h : exec i s = s.result1 reads d f)
    (hv : f s = v) : Writes i s reads d v := hv ▸ result1_writes i s reads d f h

/-- Settles O1: every instruction of the group is a latency-1 result, whose value is the exact one narrowed. -/
theorem aluOperations : Obligations.AluOperations := by
  unfold Obligations.AluOperations
  refine ⟨fun s d a b => ?_, fun s d a i n => ?_, fun s d a p w i q h => ⟨fun _ => ?_, ?_, ?_⟩⟩
  · exact ⟨writes_value _ (add_exec ..) (add_eq_ofNat _ _), writes_value _ (sub_exec ..) (sub_eq_ofInt _ _), writes_value _ (and_exec ..) rfl,
      writes_value _ (or_exec ..) rfl, writes_value _ (xor_exec ..) rfl, writes_value _ (andn_exec ..) rfl,
      writes_value _ (shl_exec ..) (shlVal_eq _ _), writes_value _ (shr_exec ..) (shrVal_eq _ _), writes_value _ (sar_exec ..) (sarVal_eq _ _),
      writes_value _ (slt_exec ..) rfl, writes_value _ (sltu_exec ..) rfl, writes_value _ (min_exec ..) (minVal_eq _ _),
      writes_value _ (max_exec ..) (maxVal_eq _ _), writes_value _ (clz_exec ..) (clzVal_eq _), writes_value _ (ctz_exec ..) (ctzVal_eq _),
      writes_value _ (popc_exec ..) (popVal_eq _)⟩
  · exact ⟨writes_value _ (addImm_exec ..) (add_sx_eq _ i), writes_value _ (andImm_exec ..) rfl, writes_value _ (orImm_exec ..) rfl,
      writes_value _ (xorImm_exec ..) rfl, writes_value _ (sltImm_exec ..) (by rw [sltVal, toInt_sx]), writes_value _ (sltuImm_exec ..) rfl,
      writes_value _ (minImm_exec ..) (by rw [minVal_eq, toInt_sx]), writes_value _ (maxImm_exec ..) (by rw [maxVal_eq, toInt_sx]),
      writes_value _ (shlImm_exec ..) (shlVal_eq _ _), writes_value _ (shrImm_exec ..) (shrVal_eq _ _),
      writes_value _ (sarImm_exec ..) (sarVal_eq _ _)⟩
  · exact ⟨writes_value _ (bfx_exec ..) (bfxVal_eq _ p w), writes_value _ (bfxu_exec ..) (bfxuVal_eq _ p w),
      writes_value _ (bfi_exec ..) (insertBits_eq _ _ _ _)⟩
  · exact writes_value _ (movi_exec ..) rfl
  · exact writes_value _ (movh_exec ..) (by rw [insertBits_eq, Nat.mod_eq_of_lt h.isLt])

end Sys2Proof.Machine
end

section
/-! Branches and jumps (O3). -/
namespace Sys2Proof.Machine

/-! ### Traps at the instruction itself -/

/-- A trap at the instruction with its value, whose cause writes no record, in thread mode. -/
theorem traps_of_trapAt {i : Instr} {s : State} {cause : BitVec 8} {val : Word} (hh : (s.cp s.cur).handler = false)
    (hc : recorded cause = false) (h : exec i s = .next (s.trapAt s.cur cause val)) : Traps i s cause val s.pc :=
  traps_of_entry (.inl rfl) (h.trans (congrArg _ (syncTrap_thread val 0 s.pc hh hc)))

/-! ### Jumps (R218) -/

theorem jumpTo_cur (s : State) (x : Word) : (s.jumpTo x).cur = s.cur := issued_cur s

theorem sameBytes_jumpTo (s : State) (x : Word) : SameBytes s (s.jumpTo x) := sameBytes_of (issued_mem s) (issued_dies s)

/-- A jump after a change of registers: the target, an empty cycle, and nothing else. -/
theorem jumpTo_registers {s u : State} (x : Word) (hcur : u.cur = s.cur) (h : OnlyRegisters s u) :
    OnlyRegisters s (u.jumpTo x) ∧ (u.jumpTo x).pc = x ∧ ((u.jumpTo x).cp s.cur).gap = true ∧ (∀ r, (u.jumpTo x).reg r = u.reg r) ∧
      ((u.jumpTo x).cp s.cur).queue = (u.cp s.cur).queue := by
  obtain ⟨honly, hbytes, hregs⟩ := h
  have hcp : (u.jumpTo x).cp s.cur = { (u.cp s.cur).asIssued with pc := x, gap := true } := hcur ▸ jumpTo_cp u x
  refine ⟨⟨onlyCp_trans honly (hcur ▸ onlyCp_jumpTo u x), sameBytes_trans hbytes (sameBytes_jumpTo u x), ?_⟩, ?_, ?_, fun r => ?_, ?_⟩
  · rw [hcp]; exact onlyRegs_next _ _ hregs
  · rw [State.pc, jumpTo_cur, hcur, hcp]
  · rw [hcp]
  · rw [State.reg, jumpTo_cur, hcur, hcp, State.reg, hcur]; rfl
  · rw [hcp]; rfl

theorem onlyRegisters_refl (s : State) : OnlyRegisters s s := ⟨onlyCp_refl _ _, fun _ => rfl, onlyRegs_refl _⟩

theorem onlyRegisters_putReg (s : State) (r : Reg) (v : Word) : OnlyRegisters s (s.putReg r v) := by
  refine ⟨onlyCp_putReg s r v, sameBytes_of (putReg_mem s r v) (putReg_dies s r v), ?_⟩
  rw [putReg_cp]; exact onlyRegs_putReg _ _ _

theorem reg_putReg (s : State) (r q : Reg) (v : Word) : (s.putReg r v).reg q = if q = r ∧ r ≠ 0 then v else s.reg q := by
  rw [State.reg, putReg_cur, putReg_cp, Machine.putReg_reg]; rfl

/-- A jump that leaves its link in g30 (R217). -/
theorem linkedJump_registers (s : State) (v x : Word) : let t := (s.putReg 30 v).jumpTo x
    (OnlyRegisters s t ∧ t.pc = x ∧ (t.cp s.cur).gap = true) ∧ t.reg 30 = v ∧ ∀ r, r ≠ 30 → t.reg r = s.reg r := by
  obtain ⟨hregs, hpc, hgap, hreg, -⟩ := jumpTo_registers x (putReg_cur s 30 v) (onlyRegisters_putReg s 30 v)
  refine ⟨⟨hregs, hpc, hgap⟩, ?_, fun r hr => ?_⟩
  · rw [hreg, reg_putReg, if_pos ⟨rfl, by decide⟩]
  · rw [hreg, reg_putReg, if_neg fun h => hr h.1]

/-- A PC-relative target as an exact sum, narrowed (R198). -/
theorem target_eq {n : Nat} (s : State) (o : BitVec n) : s.target o = BitVec.ofInt 64 ((s.pc.toNat : Int) + 4 * o.toInt) := by
  rw [BitVec.ofInt_add, BitVec.ofInt_mul, ofInt_toNat]
  rfl

/-! ### Conditional branches (R216) -/

/-- A branch goes to its target or on, as its condition on the registers' values says. -/
theorem branch_branches {i : Instr} {s : State} {a b : Reg} {o : BitVec 15} (cond : Word → Word → Bool) (taken : Bool)
    (h : exec i s = s.branch a b o cond) (ht : cond (s.reg a) (s.reg b) = taken) :
    Branches i s a b (BitVec.ofInt 64 ((s.pc.toNat : Int) + 4 * o.toInt)) taken := by
  intro hc
  have hx := h.trans (issue_ok s [a, b] [] false _ hc)
  subst ht
  cases hcond : cond (s.reg a) (s.reg b)
  · obtain ⟨hregs, hpc, hreg⟩ := advance_registers s
    refine ⟨s.advance, hx.trans (by simp [hcond]), hregs, hpc, ?_, hreg, ?_⟩
    · rw [advance_cp]; rfl
    · rw [advance_cp]; rfl
  · obtain ⟨hregs, hpc, hgap, hreg, hqueue⟩ := jumpTo_registers (s.target o) rfl (onlyRegisters_refl s)
    exact ⟨s.jumpTo (s.target o), hx.trans (by simp [hcond]), hregs, hpc.trans (target_eq s o), hgap, hreg, hqueue⟩

section
variable (s : State) (a b : Reg) (o : BitVec 15) (j : BitVec 25)
theorem bEq_exec : exec (.bEq a b o) s = s.branch a b o fun x y => x == y := rfl
theorem bNe_exec : exec (.bNe a b o) s = s.branch a b o fun x y => x != y := rfl
theorem bLt_exec : exec (.bLt a b o) s = s.branch a b o fun x y => decide (x.toInt < y.toInt) := rfl
theorem bGe_exec : exec (.bGe a b o) s = s.branch a b o fun x y => decide (y.toInt ≤ x.toInt) := rfl
theorem bLtu_exec : exec (.bLtu a b o) s = s.branch a b o fun x y => decide (x.toNat < y.toNat) := rfl
theorem bGeu_exec : exec (.bGeu a b o) s = s.branch a b o fun x y => decide (y.toNat ≤ x.toNat) := rfl
theorem jmp_exec : exec (.jmp j) s = s.issue [] [] false fun t => t.jumpTo (t.target j) := rfl
theorem call_exec : exec (.call j) s = s.issue [] [30] false fun t => (t.putReg 30 (t.pc + 4)).jumpTo (t.target j) := rfl
theorem jmpReg_exec : exec (.jmpReg a) s = s.jumpReg a false := rfl
theorem callReg_exec : exec (.callReg a) s = s.jumpReg a true := rfl
theorem ret_exec : exec .ret s = s.jumpReg 30 false := rfl
end

theorem beq_eq_decide_toNat (x y : Word) : (x == y) = decide (x.toNat = y.toNat) := by
  rw [Bool.eq_iff_iff, beq_iff_eq, decide_eq_true_iff, BitVec.toNat_inj]

theorem bne_eq_decide_toNat (x y : Word) : (x != y) = decide (x.toNat ≠ y.toNat) := by
  rw [bne, beq_eq_decide_toNat, decide_not]

/-! ### Jumps through a register (R198, R217) -/

/-- The registers that a jump through a register writes. -/
def linkRegs (link : Bool) : List Reg := if link then [30] else []

theorem jumpReg_aligned {s : State} {a : Reg} {link : Bool} (h : (s.reg a).toNat % 4 = 0) (hc : CanIssue s ([a] ++ linkRegs link) false) :
    s.jumpReg a link = .next (if link then (s.putReg 30 (s.pc + 4)).jumpTo (s.reg a) else s.jumpTo (s.reg a)) :=
  (issue_ok s [a] (linkRegs link) false _ hc).trans (by simp [h])

theorem jumpReg_misaligned {s : State} {a : Reg} {link : Bool} (h : (s.reg a).toNat % 4 ≠ 0) (hc : CanIssue s ([a] ++ linkRegs link) false) :
    s.jumpReg a link = .next (s.trapAt s.cur cMISALIGNED (s.reg a)) :=
  (issue_ok s [a] (linkRegs link) false _ hc).trans (by simp [h])

/-- A jump without a link leaves every register. -/
theorem completes_jump {i : Instr} {s : State} {x : Word} (h : exec i s = .next (s.jumpTo x)) : Completes i s fun t =>
    (OnlyRegisters s t ∧ t.pc = x ∧ (t.cp s.cur).gap = true) ∧ ∀ r, t.reg r = s.reg r := by
  obtain ⟨hregs, hpc, hgap, hreg, -⟩ := jumpTo_registers x rfl (onlyRegisters_refl s)
  exact ⟨_, h, ⟨hregs, hpc, hgap⟩, hreg⟩

/-! ### The statement -/

/-- Settles O3: a branch and each kind of jump, aligned or not. -/
theorem branchJump : Obligations.BranchJump := by
  unfold Obligations.BranchJump
  refine ⟨fun s a b o => ?_, fun s a o => ?_, fun s a hh => ?_⟩
  · exact ⟨branch_branches _ _ (bEq_exec ..) (beq_eq_decide_toNat _ _), branch_branches _ _ (bNe_exec ..) (bne_eq_decide_toNat _ _),
      branch_branches _ _ (bLt_exec ..) rfl, branch_branches _ _ (bGe_exec ..) rfl, branch_branches _ _ (bLtu_exec ..) rfl,
      branch_branches _ _ (bGeu_exec ..) rfl⟩
  · intro target goes plain linked
    have htarget : s.target o = target := target_eq s o
    refine ⟨fun hc => completes_jump ?_, fun hc => ⟨_, ?_, linkedJump_registers s (s.pc + 4) target⟩, fun ha hc => completes_jump ?_,
      fun ha hc => ⟨_, ?_, linkedJump_registers s (s.pc + 4) (s.reg a)⟩, fun ha hc => completes_jump ?_⟩
    · rw [jmp_exec, issue_ok s [] [] false _ hc, htarget]
    · rw [call_exec, issue_ok s [] [30] false _ hc, htarget]
    · exact (jmpReg_exec s a).trans (jumpReg_aligned (link := false) ha hc)
    · exact (callReg_exec s a).trans (jumpReg_aligned (link := true) ha hc)
    · exact (ret_exec s).trans (jumpReg_aligned (link := false) ha hc)
  · refine ⟨fun ha hc => traps_of_trapAt hh rfl ?_, fun ha hc => traps_of_trapAt hh rfl ?_, fun ha hc => traps_of_trapAt hh rfl ?_⟩
    · exact (jmpReg_exec s a).trans (jumpReg_misaligned (link := false) ha hc)
    · exact (callReg_exec s a).trans (jumpReg_misaligned (link := true) ha hc)
    · exact (ret_exec s).trans (jumpReg_misaligned (link := false) ha hc)

end Sys2Proof.Machine
end

section
/-! Double faults, privileged instructions, and words that are none (O7). -/
namespace Sys2Proof.Machine

/-! ### Double faults (R297) -/

/-- With room, and nobody waiting, the record of an agent that pushes it enters the queue at once. -/
theorem recq_pushRec (s : State) (k : Fin 256) (key : RecKey) (f : RecFields) (h : RecRoom s k) :
    ((s.pushRec k key f).core k).recq = (s.core k).recq ++ [f.bits] := by
  obtain ⟨-, hwait⟩ := h
  rw [State.pushRec, State.core_modCore_same, hwait]
  rfl

/-- The slot's CP has stopped in its handler, and its DOUBLE record, with the handler instruction's address and the cause, is in the queue. -/
def DoubleFaulted (s : State) (cause : BitVec 8) (t : State) : Prop :=
  t.cp s.cur = { s.cp s.cur with run := .stopped, untimed := 1, pmc := (t.cp s.cur).pmc, stepOne := (t.cp s.cur).stepOne } ∧
  SameBytes s t ∧ (t.slot s.cur).status = 0x04 ∧
  ∃ r : FaultRec, (t.core s.cur.core).recq = (s.core s.cur.core).recq ++ [r] ∧ r.extractLsb' 0 8 = 0x11 ∧
    r.extractLsb' 192 64 = s.pc ∧ r.extractLsb' 384 8 = cause

/-- The record that a double fault writes (R297, R300). -/
def State.doubleRec (s : State) (c : CpId) (cause : BitVec 8) : RecFields :=
  { s.slotRec c cDOUBLE 0x08 none with pc := (s.cp c).pc, detail := cause.setWidth 64 }

/-- With room for its record a double fault stops the CP. -/
theorem doubleFault_eq {s : State} {c : CpId} (cause : BitVec 8) (hroom : RecRoom s c.core) : s.doubleFault c cause =
    (s.pushRec c.core (.cp c) (s.doubleRec c cause)).modSlot c fun t => { t with status := 0x04, cp := { t.cp with run := .stopped, untimed := 1 } } :=
  if_pos (recRoom_of_recRoom _ hroom)

theorem extractLsb'_setWidth_low (x : BitVec 8) : (x.setWidth 64).extractLsb' 0 8 = x := by ext i hi; grind

/-- The CP's profile apart, a double fault is one of the state before the instruction was counted. -/
theorem doubleFaulted_doubleFault {s u : State} (cause : BitVec 8) (honly : OnlyCp s.cur s u) (hbytes : SameBytes s u)
    (hcp : u.cp s.cur = { s.cp s.cur with pmc := (u.cp s.cur).pmc, stepOne := (u.cp s.cur).stepOne }) (hroom : RecRoom s s.cur.core) :
    DoubleFaulted s cause (u.doubleFault s.cur cause) := by
  obtain ⟨-, hcore, -, -⟩ := honly
  have hrecq : (u.core s.cur.core).recq = (s.core s.cur.core).recq := by rw [hcore]
  have hwait : (u.core s.cur.core).recWait = (s.core s.cur.core).recWait := by rw [hcore]
  have hu : RecRoom u s.cur.core := by
    rw [RecRoom, hrecq, hwait]
    exact hroom
  rw [doubleFault_eq cause hu]
  have hslot : ((u.pushRec s.cur.core (.cp s.cur) (u.doubleRec s.cur cause)).modSlot s.cur fun t =>
      { t with status := 0x04, cp := { t.cp with run := .stopped, untimed := 1 } }).slot s.cur =
      { u.slot s.cur with status := 0x04, cp := { u.cp s.cur with run := .stopped, untimed := 1 } } := by
    rw [State.slot_modSlot_same, State.slot_pushRec]
    rfl
  refine ⟨?_, sameBytes_trans hbytes (sameBytes_of rfl rfl), ?_, (u.doubleRec s.cur cause).bits, ?_, ?_, ?_, ?_⟩
  · rw [State.cp, hslot]
    show ({ u.cp s.cur with run := .stopped, untimed := 1 } : Cp) = _
    rw [hcp]
  · rw [hslot]
  · rw [State.core_modSlot_same, ← hrecq]
    exact recq_pushRec u _ _ _ hu
  · rw [RecFields.bits_cause]; rfl
  · rw [RecFields.bits_pc]
    show (u.cp s.cur).pc = _
    rw [hcp]; rfl
  · rw [extractLsb'_of_field _ 384 64 0 8 (by decide), RecFields.bits_detail]
    exact extractLsb'_setWidth_low cause

/-- In handler mode a synchronous trap is a double fault (R297). -/
theorem syncTrap_handler {s : State} {c : CpId} {cause : BitVec 8} (val detail resume : Word) (hh : (s.cp c).handler = true) :
    s.syncTrap c cause val detail resume = s.doubleFault c cause := by
  rw [State.syncTrap, State.syncTrapWith, if_pos hh]

theorem trap_exec (c : BitVec 15) (s : State) : exec (.trap c) s = s.issue [] [] false fun t =>
    t.issued.syncTrap t.cur cSOFT (c.setWidth 64) 0 (t.pc + 4) := rfl

/-- A word whose OP is not that of sysc is no instruction at all (R207, R232). -/
theorem illegalWord_traps (w : W32) (s : State) (h : w.extractLsb' 25 7 ≠ 0x44) : exec (.illegalWord w) s = .next (s.trapFree s.cur cILLEGAL) := by
  have hop : opOf w ≠ 0x44#7 := h
  change execIllegalWord w s = _
  simp [execIllegalWord, hop]

section
variable {s : State} (hh : (s.cp s.cur).handler = true) (hroom : RecRoom s s.cur.core)
include hh hroom

theorem trap_doubleFaults (c : BitVec 15) (hc : CanIssue s [] false) : Completes (.trap c) s (DoubleFaulted s 0x0F) := by
  have hcp : s.issued.cp s.cur = (s.cp s.cur).asIssued := issued_cp s
  refine ⟨_, (trap_exec c s).trans (issue_ok s [] [] false _ hc), ?_⟩
  rw [syncTrap_handler _ _ _ (by rw [hcp]; exact hh)]
  exact doubleFaulted_doubleFault _ (onlyCp_issued s) (sameBytes_of (issued_mem s) (issued_dies s)) (by rw [hcp]; rfl) hroom

theorem jmpReg_doubleFaults (a : Reg) (hc : CanIssue s [a] false) (ha : (s.reg a).toNat % 4 ≠ 0) :
    Completes (.jmpReg a) s (DoubleFaulted s 0x02) := by
  refine ⟨_, (jmpReg_exec s a).trans (jumpReg_misaligned (link := false) ha hc), ?_⟩
  rw [State.trapAt, syncTrap_handler _ _ _ hh]
  exact doubleFaulted_doubleFault _ (onlyCp_refl _ s) (fun _ => rfl) rfl hroom

theorem illegalWord_doubleFaults (w : W32) (hw : w.extractLsb' 25 7 ≠ 0x44) : Completes (.illegalWord w) s (DoubleFaulted s 0x01) := by
  refine ⟨_, illegalWord_traps w s hw, ?_⟩
  rw [State.trapFree, State.trapAt, syncTrap_handler (s := s.took) _ _ _ hh]
  exact doubleFaulted_doubleFault (u := s.took) _ ⟨⟨rfl, fun _ _ => rfl⟩, rfl, rfl, rfl⟩ (sameBytes_of rfl rfl) rfl hroom

end

/-! ### Privileged instructions (R208, R233, R235) -/

section
variable {s : State} (hh : (s.cp s.cur).handler = false)
include hh

theorem tret_denied : Traps .tret s cPROTECT s.freeWord s.pc := by
  refine traps_of_trapFree hh rfl ?_
  change execTret s = _
  rw [execTret, State.privileged, hh]
  rfl

/-- A csr instruction that is denied traps PROTECT. -/
theorem csrOp_denied {i : Instr} {n : Nat} {reads : List Reg} {d : Option Reg} {write : Bool} {new : State → Word → Word}
    (h : exec i s = s.csrOp n reads d write new) (hd : s.csrDenied n write = true) : Traps i s cPROTECT s.freeWord s.pc :=
  traps_of_trapFree hh rfl (h.trans (if_pos hd))

theorem csrDenied_handlerOnly (n : BitVec 12) (hn : n.toNat ∈ [1, 32, 33, 37]) : s.csrDenied n.toNat true = true := by
  have h : csrHandlerOnly n.toNat = true := by
    generalize n.toNat = m at hn
    revert m
    decide
  simp [State.csrDenied, hh, h]

theorem csrDenied_threadReg (n : BitVec 12) (hlo : 64 ≤ n.toNat) (hhi : n.toNat ≤ 95) (write : Bool) : s.csrDenied n.toNat write = true := by
  have h : csrThreadReg n.toNat = true := by simp [csrThreadReg, hlo, hhi]
  simp [State.csrDenied, hh, h]

end

theorem csrr_exec (s : State) (d : Reg) (n : BitVec 12) : exec (.csrr d n) s = s.csrOp n.toNat [] (some d) false fun _ v => v := rfl
theorem csrw_exec (s : State) (a : Reg) (n : BitVec 12) : exec (.csrw a n) s = s.csrOp n.toNat [a] none true fun t _ => t.reg a := rfl

/-! ### The statement -/

/-- Settles O7: a trap in handler mode is a double fault; in thread mode the denied instructions, and words that are none, trap with a free value. -/
theorem faultsAndPrivilege : Obligations.FaultsAndPrivilege := by
  unfold Obligations.FaultsAndPrivilege
  refine ⟨fun s c a w hh hroom => ?_, fun s d a n m hh hn hlo hhi => ?_, fun s w hh hw => ⟨_, traps_of_trapFree hh rfl (illegalWord_traps w s hw)⟩⟩
  · exact ⟨trap_doubleFaults hh hroom c, jmpReg_doubleFaults hh hroom a, illegalWord_doubleFaults hh hroom w⟩
  · have hread (write : Bool) := csrDenied_threadReg hh m hlo hhi write
    have hwrite := csrDenied_handlerOnly hh n hn
    refine ⟨⟨_, tret_denied hh⟩, ⟨_, csrOp_denied hh (csrw_exec ..) hwrite⟩, fun ha => ⟨⟨_, csrOp_denied hh (csrs_exec ..) ?_⟩,
      ⟨_, csrOp_denied hh (csrc_exec ..) ?_⟩⟩, ⟨_, csrOp_denied hh (csrr_exec ..) (hread _)⟩, ⟨_, csrOp_denied hh (csrw_exec ..) (hread _)⟩,
      ⟨_, csrOp_denied hh (csrs_exec ..) (hread _)⟩, ⟨_, csrOp_denied hh (csrc_exec ..) (hread _)⟩⟩
    · rwa [bne_iff_ne.mpr ha]
    · rwa [bne_iff_ne.mpr ha]

end Sys2Proof.Machine
end

section
/-! Near loads and stores (O13). -/
namespace Sys2Proof.Machine

/-! ### Places of near addresses (R161, R171) -/

/-- A near place lies in the local store or the scene memory of the slot's core. -/
theorem space_of_nearPlace {s : State} {c : CpId} {a : Word} {n : Nat} {pa : PAddr} (h : s.nearPlace c a n = .ok pa) :
    classOf a ≠ .far ∧ (pa.space = .loc c.core ∨ pa.space = .scene c.core) := by
  unfold State.nearPlace at h
  split at h
  case h_1 hc =>
    dsimp only at h
    split at h
    · cases h; exact ⟨by rw [hc]; decide, .inl rfl⟩
    · cases h
  case h_2 hc =>
    dsimp only at h
    split at h
    · cases h; exact ⟨by rw [hc]; decide, .inr rfl⟩
    · cases h
  case h_3 => cases h

/-- A checked near address is aligned, has its near place, and is no declared place that is written. -/
theorem nearPlace_of_dataPlace {s : State} {a : Word} {n : Nat} {w : Bool} {pa : PAddr} (h : s.dataPlace a n true w = .ok pa) :
    s.nearPlace s.cur a n = .ok pa := by
  by_cases ha : a.toNat % n = 0
  · rw [dataPlace_aligned s w ha] at h
    split at h
    · cases h
    · split at h <;> cases h
      assumption
  · rw [dataPlace_misaligned s w ha] at h
    cases h

/-- The checks of a near address are the same for an access that may be far. -/
theorem dataPlace_anywhere (s : State) {a : Word} (n : Nat) (w : Bool) (h : classOf a ≠ .far) : s.dataPlace a n false w = s.dataPlace a n true w := by
  simp [State.dataPlace, State.dataPlaceIn, State.placeIn, h]

/-! ### What a near store leaves alone -/

theorem onlyCp_setBytes (c : CpId) (s : State) (a : PAddr) (l : List Byte) : OnlyCp c s (s.setBytes a l) := by
  induction l generalizing s a with
  | nil => exact onlyCp_refl c s
  | cons x l ih => exact onlyCp_trans (t := s.setByte a x) ⟨⟨rfl, fun _ _ => rfl⟩, rfl, rfl, rfl⟩ (ih (s.setByte a x) (a.plus 1))

theorem onlyCp_einj (c : CpId) (s : State) (v : Word) : OnlyCp c s (s.modCore c.core fun k => { k with einj := v }) := by
  refine ⟨⟨rfl, fun k hk => State.core_modCore_ne _ _ _ _ hk⟩, ?_, State.slot_modCore_keeps s _ _ _ rfl, ?_⟩
  · rw [State.core_modCore_same]
  · rw [State.cp, State.slot_modCore_keeps s c.core _ c rfl]

theorem onlyCp_setInjOf {c : CpId} {a : PAddr} (s : State) (v : Word) (h : a.space = .loc c.core ∨ a.space = .scene c.core) :
    OnlyCp c s (s.setInjOf a v) := by
  unfold State.setInjOf
  rcases h with h | h <;> rw [h] <;> exact onlyCp_einj c s v

/-- A write into the core's own memories changes no other core, and of this one the injection register at most (R309). -/
theorem onlyCp_store {c : CpId} {a : PAddr} (s : State) (part : BitVec 5) (l : List Byte) (h : a.space = .loc c.core ∨ a.space = .scene c.core) :
    OnlyCp c s (s.store part a l) := by
  unfold State.store
  extract_lets s1 whole s2
  have h2 : OnlyCp c s s2 := by
    have h1 : OnlyCp c s s1 := onlyCp_setBytes c s a l
    unfold s2
    split
    · exact h1
    · exact onlyCp_trans h1 ⟨⟨rfl, fun _ _ => rfl⟩, rfl, rfl, rfl⟩
  split
  · exact h2
  · extract_lets s3
    have h3 : OnlyCp c s s3 := onlyCp_trans h2 (onlyCp_setInjOf s2 _ h)
    split
    · exact h3
    · exact onlyCp_trans h3 ⟨⟨rfl, fun _ _ => rfl⟩, rfl, rfl, rfl⟩

/-! ### Sizes and values (R204) -/

theorem sizeOf_eq_accessBytes : ∀ z : BitVec 3, z.toNat ≤ 6 → sizeOf z = accessBytes z := by decide

/-- A near load extends as a far one does. -/
theorem extendSize_eq_farValue (z : BitVec 3) (l : List Byte) (hl : l.length = accessBytes z) :
    extendSize z (leNat l) = farValue (decide (z.toNat < 3)) l := by
  obtain h | h | h | h : z = 0 ∨ z = 1 ∨ z = 2 ∨ 3 ≤ z.toNat := by bv_omega
  · subst h
    have hlen : l.length = 1 := hl
    simp [extendSize, farValue, hlen]
  · subst h
    have hlen : l.length = 2 := hl
    simp [extendSize, farValue, hlen]
  · subst h
    have hlen : l.length = 4 := hl
    simp [extendSize, farValue, hlen]
  · have hn : ¬ z.toNat < 3 := by omega
    unfold extendSize
    split
    case h_4 => simp [farValue, hn]
    all_goals exact absurd h (by decide)

theorem extendSize_eq_loadedWord {z : BitVec 3} (hz : z.toNat ≤ 6) (s : State) (pa : PAddr) :
    extendSize z (leNat (s.bytesAt pa (accessBytes z))) = loadedWord z (s.leAt pa (accessBytes z)) := by
  have hl := s.bytesAt_length pa (accessBytes z)
  rw [extendSize_eq_farValue z _ hl, farValue_eq_loadedWord z hz _ hl, State.leAt]

/-- The low bytes of a number are the number modulo what they can hold. -/
theorem leNat_leBytes_mod (n v : Nat) : leNat (leBytes n v) = v % 2 ^ (8 * n) := by
  induction n generalizing v with
  | zero => simp [leBytes, leNat, Nat.mod_one]
  | succ n ih => rw [leBytes, leNat, ih, BitVec.toNat_ofNat, show 8 * (n + 1) = 8 + 8 * n by omega, Nat.pow_add, Nat.mod_mul]

/-! ### A landing entry, and the next instruction -/

/-- An entry as it stands in the queue of the present mode. -/
def State.entered (s : State) (e : LandEntry) : LandEntry := { e with id := s.ids, place := freePlace (s.cp s.cur).queue }

theorem queueEntry_cp (s : State) (e : LandEntry) : (s.queueEntry e).cp s.cur = (s.cp s.cur).setQueue ((s.cp s.cur).queue ++ [s.entered e]) :=
  (writeArr_cp _ _ _ _ _ _ _ _).trans (State.cp_modCp_same _ _ _)

theorem queueEntry_cur (s : State) (e : LandEntry) : (s.queueEntry e).cur = s.cur := writeArr_cur _ _ _ _ _ _ _

theorem onlyRegisters_queueEntry (s : State) (e : LandEntry) : OnlyRegisters s (s.queueEntry e) := by
  refine ⟨onlyCp_trans (onlyCp_trans (onlyCp_newId s.cur s) (onlyCp_modCp _ _ _)) (onlyCp_writeArr _ _ _ _ _ _ _),
    sameBytes_of (State.queueEntry_mem s e) (writeArr_dies _ _ _ _ _ _ _), ?_⟩
  rw [queueEntry_cp]
  exact onlyRegs_setQueue _ _

/-- An entry joins the queue and the next instruction follows: no register changes yet. -/
theorem queueEntry_advance (s : State) (e : LandEntry) : let t := (s.queueEntry e).advance
    OnlyRegisters s t ∧ t.pc = s.pc + 4 ∧ (∀ r, t.reg r = s.reg r) ∧ (t.cp s.cur).queue = (s.cp s.cur).queue ++ [s.entered e] := by
  intro t
  let u := s.queueEntry e
  have hcur : u.cur = s.cur := queueEntry_cur s e
  have hu : u.cp s.cur = (s.cp s.cur).setQueue ((s.cp s.cur).queue ++ [s.entered e]) := queueEntry_cp s e
  have hcp : t.cp s.cur = { (u.cp s.cur).asIssued with pc := (u.cp s.cur).pc + 4 } := hcur ▸ advance_cp u
  have htcur : t.cur = s.cur := (advance_cur u).trans hcur
  obtain ⟨honly, hbytes, hregs⟩ := onlyRegisters_queueEntry s e
  refine ⟨⟨onlyCp_trans honly (hcur ▸ onlyCp_advance u), sameBytes_trans hbytes (sameBytes_advance u), ?_⟩, ?_, fun r => ?_, ?_⟩
  · rw [hcp]; exact onlyRegs_next _ _ hregs
  · rw [State.pc, htcur, hcp, hu, setQueue_pc]; rfl
  · rw [State.reg, htcur, hcp, reg_next, hu, setQueue_reg]; rfl
  · rw [hcp, queue_next, hu, setQueue_queue]

/-! ### Near loads (R219, R220) -/

/-- The effective address as an exact sum, narrowed (R219). -/
theorem ea_eq (s : State) (a : Reg) (i : BitVec 12) : s.ea a i = BitVec.ofInt 64 ((s.reg a).toNat + i.toInt) := add_sx_eq _ i

/-- A near load of a clean place completes with an entry of distance 6, of fixed latency or interlocked. -/
theorem nearLoad_gives {j : Instr} {s : State} {d : Reg} {z : BitVec 3} {a : Word} {pa : PAddr} (inter : Bool) (hz : z.toNat ≤ 6) (hecc : s.ecc = [])
    (h : exec j s = .next (s.nearLoad pa a d z inter)) : Completes j s fun t => OnlyRegisters s t ∧ t.pc = s.pc + 4 ∧ (∀ r, t.reg r = s.reg r) ∧
      Queued d (if inter then .interlocked else .fixed) (some 6) (loadedWord z (s.leAt pa (accessBytes z))) s t := by
  rw [State.nearLoad, State.load_clean _ _ _ _ _ hecc, sizeOf_eq_accessBytes z hz] at h
  simp only [extendSize_eq_loadedWord hz] at h
  cases inter
  · obtain ⟨hregs, hpc, hreg, hq⟩ := queueEntry_advance s _
    exact ⟨_, h, hregs, hpc, hreg, _, hq, rfl, rfl, rfl, rfl⟩
  · obtain ⟨hregs, hpc, hreg, hq⟩ := queueEntry_advance s _
    exact ⟨_, h, hregs, hpc, hreg, _, hq, rfl, rfl, rfl, rfl⟩

/-! ### Near stores (R219, R220) -/

/-- A store to a place of the core's own memories changes the bytes there and no register. -/
theorem store_stores {j : Instr} {s : State} {d : Reg} {z : BitVec 3} {pa : PAddr} (hmem : MemoryCanonical s) (hz : z.toNat ≤ 3)
    (hpa : pa.space = .loc s.cur.core ∨ pa.space = .scene s.cur.core)
    (h : exec j s = .next (s.store s.myPart pa (s.storeBytes d z)).advance) : Completes j s fun t =>
      OnlyCp s.cur s t ∧ OnlyRegs (s.cp s.cur) (t.cp s.cur) ∧ t.pc = s.pc + 4 ∧ (∀ r, t.reg r = s.reg r) ∧
      (t.cp s.cur).queue = (s.cp s.cur).queue ∧ OnlyBytes pa (accessBytes z) s t ∧
      t.leAt pa (accessBytes z) = (s.reg d).toNat % 2 ^ (8 * accessBytes z) := by
  have hlen : (s.storeBytes d z).length = accessBytes z := by rw [State.storeBytes, leBytes_length, sizeOf_eq_accessBytes z (by omega)]
  let u := s.store s.myPart pa (s.storeBytes d z)
  have hcur : u.cur = s.cur := store_cur ..
  have hu : u.cp s.cur = s.cp s.cur := cp_store ..
  obtain ⟨hpc, hregs⟩ := advance_of_same hcur hu
  have hcp : u.advance.cp s.cur = { (s.cp s.cur).asIssued with pc := (s.cp s.cur).pc + 4 } := by
    rw [← hu, ← hcur]
    exact advance_cp u
  refine ⟨u.advance, h, onlyCp_trans (onlyCp_store s _ _ hpa) (hcur ▸ onlyCp_advance u), hregs, hpc, fun r => ?_, ?_, ?_, ?_⟩
  · rw [State.reg, advance_cur, hcur, hcp, reg_next]; rfl
  · rw [hcp, queue_next]
  · exact hlen ▸ onlyBytes_trans_same (State.onlyBytes_store s _ pa _) (sameBytes_advance u)
  · rw [State.leAt, bytesAt_of_sameBytes (sameBytes_advance u), State.bytesAt_store_eq, ← hlen, State.bytesAt_setBytes s pa _ hmem, hlen,
      State.storeBytes, leNat_leBytes_mod, sizeOf_eq_accessBytes z (by omega)]

/-! ### The statement -/

section
variable {s : State} {d a : Reg} {z : BitVec 3} {i : BitVec 12} {pa : PAddr}

theorem ld_near (hc : CanIssue s [a, d] true) (h : s.dataPlace (s.ea a i) (sizeOf z) true false = .ok pa) :
    exec (.ld d a z i) s = .next (s.nearLoad pa (s.ea a i) d z false) := by
  change execLd d a z i s = _
  rw [execLd, issue_ok s [a] [d] true _ hc]
  simp only [h]

theorem ldf_near (hc : CanIssue s [a, d] true) (h : s.dataPlace (s.ea a i) (sizeOf z) true false = .ok pa) :
    exec (.ldf d a z i) s = .next (s.nearLoad pa (s.ea a i) d z true) := by
  obtain ⟨hfar, -⟩ := space_of_nearPlace (nearPlace_of_dataPlace h)
  rw [← dataPlace_anywhere s _ _ hfar] at h
  change execLdf d a z i s = _
  rw [execLdf, issue_ok s [a] [d] true _ hc]
  simp only [h, if_neg hfar]

theorem st_near (hc : CanIssue s [a, d] false) (h : s.dataPlace (s.ea a i) (sizeOf z) true true = .ok pa) :
    exec (.st d a z i) s = .next (s.store s.myPart pa (s.storeBytes d z)).advance := by
  change execSt d a z i s = _
  rw [execSt, issue_ok s [a, d] [] false _ hc]
  simp only [h]

theorem stf_near (hc : CanIssue s [a, d] false) (h : s.dataPlace (s.ea a i) (sizeOf z) true true = .ok pa) :
    exec (.stf d a z i) s = .next (s.store s.myPart pa (s.storeBytes d z)).advance := by
  obtain ⟨hfar, -⟩ := space_of_nearPlace (nearPlace_of_dataPlace h)
  rw [← dataPlace_anywhere s _ _ hfar] at h
  change execStf d a z i s = _
  rw [execStf, issue_ok s [a, d] [] false _ hc]
  simp only [h, if_neg hfar]

end

/-- Settles O13: near loads put their value into the landing queue at distance 6, near stores write their bytes at once. -/
theorem nearAccess : Obligations.NearAccess := by
  unfold Obligations.NearAccess
  refine ⟨fun s d a z i pa => ?_, fun s d a z i pa => ?_⟩
  · intro ea n gives hz hc hp
    have hplace : s.dataPlace (s.ea a i) (sizeOf z) true false = .ok pa := by rwa [sizeOf_eq_accessBytes z hz, ea_eq]
    have ⟨_, _, hecc⟩ := hc
    exact ⟨nearLoad_gives false hz hecc (ld_near hc hplace), nearLoad_gives true hz hecc (ldf_near hc hplace)⟩
  · intro ea n stores hmem hz hc hp
    have hplace : s.dataPlace (s.ea a i) (sizeOf z) true true = .ok pa := by rwa [sizeOf_eq_accessBytes z (by omega), ea_eq]
    obtain ⟨-, hpa⟩ := space_of_nearPlace (nearPlace_of_dataPlace hplace)
    exact ⟨store_stores hmem hz hpa (st_near hc hplace), store_stores hmem hz hpa (stf_near hc hplace)⟩

end Sys2Proof.Machine
end

section
/-! A step runs the decoded instruction (O56). -/
namespace Sys2Proof.Machine

/-! ### The word at the PC (R13, R198) -/

/-- A read of words without error marks is plain. -/
theorem load_unmarked {s : State} {a : PAddr} {n : Nat} (who : CpId) (part : BitVec 5) (h : s.marksAt a n = []) :
    s.load who part a n = (s, some (s.bytesAt a n)) := by
  simp [State.load, h, State.logMarks]

theorem toNat_append_byte {n : Nat} (x : BitVec n) (b : Byte) : (x ++ b).toNat = x.toNat * 256 + b.toNat := by
  rw [BitVec.toNat_append, ← Nat.shiftLeft_add_eq_or_of_lt b.isLt, Nat.shiftLeft_eq]

/-- Four bytes, lowest address first, are the word of their number. -/
theorem wordOfBytes_eq (b0 b1 b2 b3 : Byte) : wordOfBytes b0 b1 b2 b3 = BitVec.ofNat 32 (leNat [b0, b1, b2, b3]) := by
  apply BitVec.eq_of_toNat_eq
  have h0 := b0.isLt
  have h1 := b1.isLt
  have h2 := b2.isLt
  have h3 := b3.isLt
  simp only [wordOfBytes, leNat, toNat_append_byte, BitVec.toNat_ofNat]
  omega

theorem decodeWord_of_decode {s : State} {pa : PAddr} {i : Instr} (h : decode (s.bytesAt pa 4) = .ok (i, [])) :
    decodeWord (BitVec.ofNat 32 (leNat (s.bytesAt pa 4))) = .ok i := by
  simp only [State.bytesAt, decode, wordOfBytes_eq] at h ⊢
  split at h
  · cases h
    assumption
  · cases h

theorem wordInstr_of_decodeWord {w : W32} {i : Instr} (h : decodeWord w = .ok i) : wordInstr w = i := by rw [wordInstr, h]

/-! ### A fetch that finds its word (R198, R446) -/

theorem fetch_near {s : State} {c : CpId} {pa : PAddr} (hret : (s.cp c).pc ≠ 0x3FFFFC) (hclass : classOf (s.cp c).pc = .near)
    (hplace : s.nearPlace c (s.cp c).pc 4 = .ok pa) (hmarks : s.marksAt pa 4 = []) :
    s.fetch c = (s, .word (BitVec.ofNat 32 (leNat (s.bytesAt pa 4)))) := by
  simp only [State.fetch, hret, hclass, hplace, load_unmarked c _ hmarks, decide_false, Bool.false_and, Bool.false_eq_true, if_false]

theorem fetch_far {s : State} {c : CpId} {l : ICacheLine} (hclass : classOf (s.cp c).pc = .far)
    (hline : ((s.cp c).icache.find? fun x => x.part == (s.slot c).part && x.line == (s.cp c).pc.toNat / 64) = some l) :
    s.fetch c = (s, .word (lineWord l.data (s.cp c).pc.toNat)) := by
  have hret : (s.cp c).pc ≠ 0x3FFFFC := fun e => absurd (e ▸ hclass) (by decide)
  simp only [State.fetch, hret, hclass, hline, decide_false, Bool.false_and, Bool.false_eq_true, if_false]

/-! ### The turn of a bound slot's CP -/

/-- What a step answers whose instruction has run in its CP's cycle: the cycle ends. -/
def endsCycle (c : CpId) : Out State → Out State
  | .next t => .next (t.finishCp c)
  | .fault r => .fault r
  | .refused r => .refused r

/-- The state in which the head of the agenda happens, when it is a CP's cycle. -/
def State.turnOf (s : State) (c : CpId) (rest : List Task) : State := { s with agenda := rest, cur := c }

/-- How a step goes on from what its CP's turn is. -/
theorem step_cp {s : State} {c : CpId} {rest : List Task} (h : s.agenda = .cp c :: rest) :
    (∀ t, (s.turnOf c rest).cpTurn c = .idle t → step s = .next t) ∧
    (∀ t i, (s.cp c).run = .running → (s.turnOf c rest).cpTurn c = .issue t i → step s = endsCycle c (exec i t)) := by
  refine ⟨fun t ht => ?_, fun t i hrun ht => ?_⟩
  · rw [State.turnOf] at ht
    simp only [step, h, ht]
  · rw [State.turnOf] at ht
    simp only [step, h, ht]
    cases exec i t with
    | next v => simp only [endsCycle, State.endTurn, hrun]
    | fault r => rfl
    | refused r => rfl

section
variable {s : State} {c : CpId} (hbound : (s.slot c).status = 1) (hrun : (s.cp c).run = .running) (huntimed : (s.cp c).untimed = 0)
include hbound hrun huntimed

/-- A bound slot's CP that runs, in a cycle of its own. -/
theorem cpTurn_runs : s.cpTurn c = s.cpRuns c := by
  have hb : (s.slot c).bound = true := beq_iff_eq.mpr hbound
  simp [State.cpTurn, hb, hrun, huntimed]

theorem cpTurn_answer (h : (s.cp c).answerDue = true) :
    s.cpTurn c = .idle ((if Config.freeBool s.fresh then s.took else ({ s.took with cur := c } : State).takeAnswer).finishCp c) := by
  rw [cpTurn_runs hbound hrun huntimed, State.cpRuns, if_pos h]

theorem cpTurn_asked (h : (s.cp c).answerDue = false) (hasked : (s.cp c).asked = true) :
    s.cpTurn c = .issue s (wordInstr (s.cp c).iword) := by
  rw [cpTurn_runs hbound hrun huntimed, State.cpRuns, if_neg (by rw [h]; decide), if_pos hasked]

/-- With nothing else due to it, the CP issues the word that it fetches. -/
theorem cpTurn_fetched {w : W32} (hgap : (s.cp c).gap = false) (h : (s.cp c).answerDue = false) (hasked : (s.cp c).asked = false)
    (htraps : (s.cp c).handler = true ∨ (s.cp c).dtraps = []) (hfetch : s.fetch c = (s, .word w)) : s.cpTurn c = s.issueWord c w := by
  have hdue : (!(s.cp c).handler && !(s.cp c).dtraps.isEmpty) = false := by rcases htraps with h | h <;> simp [h]
  rw [cpTurn_runs hbound hrun huntimed]
  simp only [State.cpRuns, h, hasked, hdue, hgap, hfetch, Bool.false_eq_true, if_false]

end

/-- A fetched word's instruction issues at once, waits for its walks, or issues with their translations cached (R220, R221). -/
theorem issueWord_cases {s : State} {c : CpId} {w : W32} {i : Instr} (h : decodeWord w = .ok i) :
    let issued := s.modCp c fun p => { p with iword := w }
    (issued.walks i = [] → s.issueWord c w = .issue issued i) ∧
    (issued.walks i ≠ [] → Config.freeBool s.fresh = true → s.issueWord c w = .idle (issued.took.finishCp c)) ∧
    (issued.walks i ≠ [] → Config.freeBool s.fresh = false → s.issueWord c w = .issue ((issued.walks i).foldl State.cacheTranslation issued.took) i) := by
  intro issued
  have hfresh : issued.fresh = s.fresh := rfl
  have hword : s.issueWord c w = if (issued.walks i).isEmpty then .issue issued i
      else if Config.freeBool issued.fresh then .idle (issued.took.finishCp c)
      else .issue ((issued.walks i).foldl State.cacheTranslation issued.took) i := by
    rw [State.issueWord, wordInstr_of_decodeWord h]
  rw [hword, hfresh]
  refine ⟨fun hl => if_pos (List.isEmpty_iff.mpr hl), fun hl hb => ?_, fun hl hb => ?_⟩
  · rw [if_neg (by simpa using hl), if_pos hb]
  · rw [if_neg (by simpa using hl), if_neg (by simp [hb])]

/-! ### The statement -/

/-- The step of a bound slot's CP that fetches a word which decodes. -/
theorem step_fetched {s : State} {c : CpId} {rest : List Task} {i : Instr} {w : W32} (hagenda : s.agenda = .cp c :: rest)
    (hrun : (s.cp c).run = .running) (hturn : (s.turnOf c rest).cpTurn c = (s.turnOf c rest).issueWord c w) (hword : decodeWord w = .ok i) :
    let issued := (s.turnOf c rest).modCp c fun p => { p with iword := w }
    (issued.walks i = [] → step s = endsCycle c (exec i issued)) ∧
    (issued.walks i ≠ [] → Config.freeBool s.fresh = true → step s = .next (issued.took.finishCp c)) ∧
    (issued.walks i ≠ [] → Config.freeBool s.fresh = false →
      step s = endsCycle c (exec i ((issued.walks i).foldl State.cacheTranslation issued.took))) := by
  intro issued
  obtain ⟨hidle, hissue⟩ := step_cp hagenda
  obtain ⟨hplain, hwalks, hwalked⟩ := issueWord_cases (s := s.turnOf c rest) (c := c) hword
  exact ⟨fun hl => hissue _ _ hrun (hturn.trans (hplain hl)), fun hl hb => hidle _ (hturn.trans (hwalks hl hb)),
    fun hl hb => hissue _ _ hrun (hturn.trans (hwalked hl hb))⟩

/-- Settles O56: what the turn of the CP is, and what the step makes of it. -/
theorem stepRunsDecoded : Obligations.StepRunsDecoded := by
  unfold Obligations.StepRunsDecoded
  intro s c rest i w pa l u p issued runsAt runs
  refine ⟨fun hagenda hbound hrun huntimed hgap hanswer hasked htraps => ⟨fun hret hmarks hclass hplace hdec hw => ?_, fun hclass hline hw hdec => ?_⟩,
    fun hagenda hbound hrun huntimed => ⟨fun hanswer => ?_, fun hanswer hasked hdec => ?_⟩, fun hagenda => ?_⟩
  · have hfetch : u.fetch c = (u, .word w) := hw ▸ fetch_near hret hclass hplace hmarks
    have hturn := cpTurn_fetched (s := u) hbound hrun huntimed hgap hanswer hasked htraps hfetch
    exact step_fetched hagenda hrun hturn (hw ▸ decodeWord_of_decode hdec)
  · have hfetch : u.fetch c = (u, .word w) := hw ▸ fetch_far hclass hline
    have hturn := cpTurn_fetched (s := u) hbound hrun huntimed hgap hanswer hasked htraps hfetch
    exact step_fetched hagenda hrun hturn hdec
  · exact (step_cp hagenda).1 _ (cpTurn_answer (s := u) hbound hrun huntimed hanswer)
  · have hturn := cpTurn_asked (s := u) hbound hrun huntimed hanswer hasked
    exact (step_cp hagenda).2 _ _ hrun (hturn.trans (congrArg _ (wordInstr_of_decodeWord hdec)))
  · simp only [step, hagenda]

end Sys2Proof.Machine
end
